-- ==== Sys2Proof/Word.lean ====
section
/-! DEFINITION. The word types of the DV4800 model: bytes, words and the identifiers of R8. -/

namespace Sys2Proof

/-- One byte of any memory. -/
abbrev Byte := BitVec 8
/-- One 32-bit deck or accumulator word (R114, R137). -/
abbrev Word32 := BitVec 32
/-- One 64-bit register, instruction or table entry (R12, R153). -/
abbrev Word64 := BitVec 64

/-- A tile, T000 to T255 (R8, R9). -/
abbrev TileId := BitVec 8
/-- A reach, 0 to 3 (R8). -/
abbrev ReachId := BitVec 2
/-- A partition, 0 to 15 (R8). -/
abbrev PartId := BitVec 4
/-- A resident context slot, the context number of R440. -/
abbrev CtxNo := BitVec 7
/-- A virtual context number VCTX of a function (R442). -/
abbrev VCtx := BitVec 7
/-- A context record, one of 4,096 (R442). -/
abbrev RecNo := BitVec 12
/-- A PCIe function: 0 is the PF, 1 to 63 are the VFs (R8). -/
abbrev Func := BitVec 6
/-- A device slot of the active-sequence table (R273). -/
abbrev SlotNo := BitVec 16
/-- A pier stack (R316). -/
abbrev StackId := BitVec 2

/-- A table with natural keys, one entry a key; a key with no entry reads as the table's default. -/
abbrev Tbl (α : Type) := List (Nat × α)

end Sys2Proof
end

