-- ==== Sys2Proof/Syntax.lean ====
section
/-! DEFINITION. The commands of the DV4800 block: one constructor of `Instr` per row of spec/opcode_table.json,
with the operands of the row. A row of the span instruction set (R153 to R199) names the tile whose sequencer issues
its next instruction; the instruction word itself is fetched from the tile's deck (R126, R153). -/

namespace Sys2Proof

/-- What the ECC check of a command's memory reads reports (R140 to R142, R320): nothing, a single-bit error that
was corrected on the named word, or an uncorrectable error in the named word. -/
inductive Ecc where
  | ok
  | corrected (word : Nat)
  | uncorrectable (word : Nat)
deriving DecidableEq, Repr

/-- One issue of a tile's sequencer: the tile, and what the deck's ECC reports of the words that the issue reads. -/
structure Fetch where
  tile : TileId
  ecc  : Ecc
deriving DecidableEq, Repr

/-- The width of a host access to a register, 4 B or 8 B (R13, R14). -/
inductive AccWidth where
  | w32
  | w64
deriving DecidableEq, Repr

/-- A ring: ring `r` of a function's context page (R479), or the device event ring (R484). -/
inductive RingId where
  | ctx (fn : Func) (vctx : VCtx) (r : BitVec 2)
  | device
deriving DecidableEq, Repr

/-- Who made a non-posted host request that came back with an error or not at all (R414, R470, R500). -/
inductive HostReq where
  | context (rec : RecNo)
  | bootRead
  | truMailbox
  | tollMailbox (fn : Func)
  | partitionImage
deriving DecidableEq, Repr

/-- The IEEE 802.1AE SecTAG of a frame, and what follows it: association number, packet number, the TCI bits, the explicit SCI, and the
encrypted text with its ICV (R399, R401). -/
structure SecTag where
  an    : BitVec 2
  pn    : BitVec 64
  es    : Bool
  sc    : Bool
  scb   : Bool
  e     : Bool
  c     : Bool
  sci   : BitVec 64
  secured : List Byte
deriving DecidableEq, Repr

/-- A frame on a regatta port: the outer headers that the device checks or writes (R346, R395, R396) and the causeway
header and payload (R350). `body` is header bytes 32 to 59, `udpPort` the UDP destination port, `ttl` the IPv4 time to live or the IPv6
hop limit. The fields of a MACsec frame are those of its text before encryption, which `sec` carries encrypted. -/
structure Frame where
  dstMac    : BitVec 48
  srcMac    : BitVec 48
  vlan      : Option (BitVec 12)
  encap     : BitVec 2
  etherType : BitVec 16
  udpPort   : BitVec 16
  udpSrc    : BitVec 16
  udpSum    : BitVec 16
  srcIp     : BitVec 128
  dstIp     : BitVec 128
  dscp      : BitVec 6
  ecn       : BitVec 2
  ttl       : BitVec 8
  ipId      : BitVec 16
  ipDf      : Bool
  flowLabel : BitVec 20
  size      : Nat
  fcsOk     : Bool
  sec       : Option SecTag
  ver       : BitVec 4
  type      : BitVec 4
  flags     : BitVec 8
  payLen    : BitVec 16
  flow      : BitVec 32
  seq       : BitVec 32
  handle    : BitVec 32
  offset    : BitVec 64
  total     : BitVec 64
  body      : List Byte
  payload   : List Byte
  crc       : BitVec 32
deriving DecidableEq, Repr

/-- A field of PCIe configuration space that changes the device's behaviour (R473, R485, R498, R470). -/
inductive CfgField where
  | busMaster (on : Bool)
  | memorySpace (on : Bool)
  | msixEnable (on : Bool)
  | msixMask (on : Bool)
  | vfEnable (on : Bool)
  | numVFs (n : BitVec 16)
  | ariHierarchy (on : Bool)
  | completionTimeout (code : BitVec 4)
  | powerState (d3hot : Bool)
deriving DecidableEq, Repr

/-- What makes a PCIe conventional reset (R562). -/
inductive ConvReset where
  | perstLow
  | hotReset
  | linkLost
  | pcieRefLost
deriving DecidableEq, Repr

/-- What makes the module power down (R559). -/
inductive PowerLoss where
  | pwrEnFalls
  | inputBelow38
deriving DecidableEq, Repr

/-- One attempt of the ROM to read the FRU EEPROM: the bus busy or arbitration lost, or the 256 bytes read (R581). -/
inductive FruRead where
  | busy
  | data (bytes : List Byte)
deriving DecidableEq, Repr

/-- The commands of the block, in the order of spec/opcode_table.json. -/
inductive Instr where
  | registerWrite (fn : Func) (off : BitVec 26) (width : AccWidth) (value : Word64) (be : BitVec 8)
  | nop (f : Fetch)
  | jmp (f : Fetch)
  | br (f : Fetch)
  | loop (f : Fetch)
  | wait (f : Fetch)
  | endTask (f : Fetch)
  | taskEnd (t : TileId)
  | li (f : Fetch)
  | lih (f : Fetch)
  | add (f : Fetch)
  | sub (f : Fetch)
  | and (f : Fetch)
  | or (f : Fetch)
  | xor (f : Fetch)
  | shl (f : Fetch)
  | shr (f : Fetch)
  | mul (f : Fetch)
  | ldw (f : Fetch)
  | ldd (f : Fetch)
  | stw (f : Fetch)
  | std (f : Fetch)
  | movda (f : Fetch)
  | movad (f : Fetch)
  | aclr (f : Fetch)
  | mmcfg (f : Fetch)
  | matmul (f : Fetch)
  | scull (f : Fetch)
  | scorr (f : Fetch)
  | stageOperands (t : TileId) (ecc : Ecc)
  | stagingDone (t : TileId) (range : BitVec 2)
  | passIssue (t : TileId)
  | passDrain (t : TileId)
  | scullResultsWritten (t : TileId)
  | vadd (f : Fetch)
  | vsub (f : Fetch)
  | vmul (f : Fetch)
  | vfma (f : Fetch)
  | vmax (f : Fetch)
  | vmin (f : Fetch)
  | vcmp (f : Fetch)
  | vcvt (f : Fetch)
  | vfunc (f : Fetch)
  | vred (f : Fetch)
  | vld (f : Fetch)
  | vst (f : Fetch)
  | vlda (f : Fetch)
  | vsta (f : Fetch)
  | ocfg (f : Fetch)
  | cvt (f : Fetch)
  | cvts (f : Fetch)
  | conversionDone (t : TileId)
  | hstend (f : Fetch)
  | flagrd (f : Fetch)
  | flagclr (f : Fetch)
  | dma (f : Fetch)
  | pgather (f : Fetch)
  | pscatter (f : Fetch)
  | slidePageRunahead (x : Nat) (ecc : Ecc)
  | slidePageDemand (x : Nat) (ecc : Ecc)
  | dmaTransferDone (x : Nat)
  | fetch (f : Fetch)
  | put (f : Fetch)
  | trestleSub (f : Fetch)
  | mcast (f : Fetch)
  | trestleTransferDone (x : Nat)
  | bufferFillDone (p : PartId) (buf : BitVec 16) (ecc : Ecc)
  | multicastDeliveryDone (p : PartId) (buf : BitVec 16) (t : TileId)
  | holderRelease (p : PartId) (buf : BitVec 16) (t : TileId)
  | remoteRead (x : Nat) (ecc : Ecc)
  | remoteWrite (x : Nat)
  | sbwait (f : Fetch)
  | sbdrain (f : Fetch)
  | sbcount (f : Fetch)
  | report (f : Fetch)
  | savePoint (f : Fetch)
  | holdWindowEnd (p : PartId)
  | eccWriteBack (t : TileId) (word : BitVec 18)
  | unitOff (t : TileId) (u : BitVec 4)
  | unitWakeDone (t : TileId) (u : BitVec 4)
  | taskIntake (p : PartId)
  | intakeResume (p : PartId)
  | taskPop (t : TileId)
  | taskSteal (t : TileId)
  | taskStart (t : TileId)
  | completionRecordWritten (t : TileId)
  | taskWatchdogExpiry (t : TileId)
  | modelRegister (fn : Func) (vctx : VCtx)
  | modelUnregister (fn : Func) (vctx : VCtx)
  | seqAdd (fn : Func) (vctx : VCtx)
  | seqAppend (fn : Func) (vctx : VCtx)
  | seqPark (fn : Func) (vctx : VCtx)
  | seqResume (fn : Func) (vctx : VCtx)
  | seqCancel (fn : Func) (vctx : VCtx)
  | seqRetire (fn : Func) (vctx : VCtx)
  | stepPolicy (fn : Func) (vctx : VCtx)
  | prefixLookup (fn : Func) (vctx : VCtx)
  | fence (fn : Func) (vctx : VCtx)
  | stepBuild (p : PartId)
  | stepDeliveryStart (p : PartId)
  | resultBatchWritten (p : PartId)
  | deadlinePass (slot : SlotNo)
  | coxVfwinWrite (n : Func) (value : Word64)
  | coxSlotSelWrite (value : Word64)
  | keystoneLookup (slot : SlotNo)
  | keystoneInsert (slot : SlotNo)
  | keyFlush (value : Word32)
  | keystoneFlush (p : PartId)
  | ttlSweep (stack : StackId)
  | expiryReport (slot : SlotNo)
  | frameZero (frame : BitVec 20)
  | pierCrcRetry (stack : StackId)
  | pierLinkRetrain (stack : StackId)
  | pierRefresh (stack : StackId) (die : BitVec 4) (above85 : Bool)
  | flowCreate (x : Nat) (stripe : Nat)
  | chunkSend (flow : BitVec 15) (ecc : Ecc)
  | ackFrameArrival (lport : Nat) (frame : Frame)
  | dataFrameArrival (lport : Nat) (frame : Frame)
  | abortFrameArrival (lport : Nat) (frame : Frame)
  | requestFrameArrival (lport : Nat) (frame : Frame)
  | frameDiscard (lport : Nat) (frame : Frame)
  | ackTimerExpiry (flow : BitVec 15)
  | rtoExpiry (flow : BitVec 15)
  | requestRetransmit (flow : BitVec 15)
  | flowTimeout (flow : BitVec 15)
  | rateIncrease (flow : BitVec 15)
  | map (fn : Func) (value : Word64)
  | unmap (fn : Func) (value : Word64)
  | commitEnd (fn : Func)
  | xltCtxTblWrite (c : CtxNo) (value : Word64)
  | pcieErrorCompletion (req : HostReq)
  | pcieCompletionTimeout (req : HostReq)
  | teardownStart (rec : RecNo)
  | teardownDone (rec : RecNo)
  | sliceEnd (p : PartId)
  | graceExpiry (p : PartId)
  | preemptSaveDone (p : PartId)
  | contextSwitch (p : PartId)
  | nonpreemptOverrun (rec : RecNo)
  | swapOutDone (rec : RecNo)
  | swapInDone (rec : RecNo)
  | create (fn : Func)
  | destroy (fn : Func)
  | arm (fn : Func)
  | setClass (fn : Func)
  | pmgCtxSelWrite (fn : Func) (value : Word64)
  | partitionReset (value : Word32)
  | regulatorPeriod
  | commandDoorbell (fn : Func) (vctx : VCtx) (value : Word64)
  | ringConsWrite (r : RingId) (value : Word64)
  | ringEnable (r : RingId) (value : Word64)
  | msixModerationExpiry (r : RingId)
  | vfFlr (fn : Func)
  | pfFlr
  | pcieConventionalReset (cause : ConvReset)
  | romInit (selfTest : Bool) (fru : FruRead)
  | fruEepromRetry (fru : FruRead)
  | load
  | firmwareImageLoaded (readBack : Bool)
  | pierBringupDone (codes : BitVec 16)
  | structureImageApply
  | loadSi
  | bootReady
  | quiesceSet
  | quiesceClear
  | partitionReload (value : Word32)
  | partitionReloadApply
  | getIdentity
  | attest
  | challenge
  | challengeLapse
  | debugUnlock (inPlace rollover : Bool)
  | otpOwner (readBack : Bool)
  | otpSvn (readBack : Bool)
  | otpLifecycle (readBack : Bool)
  | tollPowerOn (selfTest : Bool)
  | tapStep (p : PartId)
  | tapEgress
  | tapIngress
  | tapRegister (model : BitVec 14)
  | tapOtpState
  | tapAccumulatorSend (acc : BitVec 6) (crcOk : Bool)
  | getKey (fn : Func)
  | tollReport (fn : Func)
  | tollChallenge (fn : Func)
  | tollChallengeLapse
  | timeToken (fn : Func)
  | refurbReset (fn : Func)
  | ledgerWrite
  | poweredSecond
  | msecCtrlWrite (lport : Nat) (value : Word64)
  | saSlotWrite (lport : Nat) (sa : BitVec 2) (reg : BitVec 3) (value : Word64)
  | portAnDone (lport : Nat) (ok : Bool)
  | portTrainingDone (lport : Nat)
  | portAligned (lport : Nat)
  | portStateTimeout (lport : Nat)
  | portFailedHoldEnd (lport : Nat)
  | portLinkDown (lport : Nat)
  | portReferenceLoss
  | portReferenceReturn
  | systemReferenceLoss
  | powerSample (watts : Nat)
  | powerControlLoop
  | supplyRampDone (reach : ReachId)
  | pwrCapChange (level : BitVec 3)
  | pwrCapInForce
  | inrushDone
  | pwrEnRise
  | pwrGoodRise
  | powerDown (cause : PowerLoss)
  | resetNAssert (longEnough : Bool)
  | resetNRise
  | perstNRise
  | thermalTrip
  | stackLinkRetrainDone (stack : StackId) (ok : Bool)
  | configSpaceWrite (fn : Func) (field : CfgField)
deriving DecidableEq, Repr

end Sys2Proof
end

