-- ==== Sys2Proof/Machine/State.lean ====
section
/-! DEFINITION. The state of the DV4800 block: every register, memory, queue, table and pin that the spec gives it,
as plain data, the reasons a step can stop, and the state after reset. INVENTORY.md lists each field with its rule and
its reset value. -/

namespace Sys2Proof.Machine

/-- A memory: address and byte pairs, addresses strictly rising, no byte equal to zero, which is what an unlisted
address reads as (log 4). -/
abbrev Memory := List Host.Cell

/-! ## Tiles -/

/-- The kind and owner of a scoreboard entry (R128): a transfer, a conversion or a staging range of a queued
instruction. -/
inductive SbOwner where
  | xfer (x : Nat)
  | conv (id : Nat)
  | stage (id range : Nat)
deriving DecidableEq, Repr

/-- A scoreboard entry: a range of 64 B deck rows, WRITE or STAGE, and the unit that registered it (R128). -/
structure SbEntry where
  first : Nat
  last  : Nat
  write : Bool
  owner : SbOwner
deriving DecidableEq, Repr

/-- The states of a gateable unit (R147, R152). -/
inductive GateState where
  | on
  | draining
  | off
  | waking
deriving DecidableEq, Repr

/-- A bank group (units 0 to 5) or accumulator slot (units 6 to 9) of a tile: its state, whether the image in force
gates it, and its outstanding-DMA count (R147 to R149). -/
structure GateUnit where
  st    : GateState
  gated : Bool
  dma   : Nat
deriving DecidableEq, Repr

/-- A task descriptor, eight quadwords (R200). -/
structure TaskDesc where
  q0 : Word64
  q1 : Word64
  q2 : Word64
  q3 : Word64
  q4 : Word64
  q5 : Word64
  q6 : Word64
  q7 : Word64
deriving DecidableEq, Repr, Inhabited

/-- The completion records that a held task waits for (R242, R266, R585). -/
inductive WaitFor where
  | nothing
  | tasks (l : List Nat)
  | allOthers
deriving DecidableEq, Repr

/-- A task as Cox delivers it: the descriptor, the context number and record, the step, the grid's first index for
placement (R212), the sequence table entry that it alone serves (R287) and its split index (R266), what it waits for, and
its K-part chain predecessor (R242, R243). -/
structure Work where
  desc     : TaskDesc
  ctx      : CtxNo
  cr       : RecNo
  step     : Nat
  place    : Bool
  taskBase : Nat
  gridWord : Word64
  excl     : Option Nat
  split    : Option Nat
  waits    : WaitFor
  chain    : Option Nat
  sampling : Bool
  stolen   : Bool
  withdrawn : Bool
deriving DecidableEq, Repr

/-- The truss configuration of MMCFG (R167). -/
structure MmCfg where
  aStride  : BitVec 14
  asStride : BitVec 14
  wStride  : BitVec 14
  wsStride : BitVec 14
deriving DecidableEq, Repr

/-- The output configuration of OCFG (R180). -/
structure OutCfg where
  eStride : BitVec 14
  sStride : BitVec 14
  xStride : BitVec 14
deriving DecidableEq, Repr

/-- A feed buffer with its companion scale buffer: rows of operand bytes and their scale rows (R85, R91). In an activation
buffer a SCORR's rows are escape rows and their scales s_o; in a weight-front buffer `table` is a W2 value table (R35). -/
structure FeedBuf where
  rows   : List (List Byte)
  scales : List (List Byte)
  table  : List Byte
deriving DecidableEq, Repr

/-- Where the operands of a staged instruction are: the activation buffer, if it uses one, and the weight-front buffer of
its tile (R91). -/
structure Staged where
  act : Option Nat
  wt  : Nat
deriving DecidableEq, Repr

/-- Which instruction a staging queue entry holds (R92). -/
inductive QKind where
  | matmul
  | scull
  | scorr
deriving DecidableEq, Repr

/-- An entry of the staging queue: the instruction word and its prefix, the captured address registers and truss
configuration (R202), the numbers of the ranges still being staged, and what is staged. -/
structure QEntry where
  id      : Nat
  kind    : QKind
  word    : Word64
  pre     : Word64
  aAddr   : Word64
  asAddr  : Word64
  wAddr   : Word64
  wsAddr  : Word64
  mm      : MmCfg
  pc      : BitVec 32
  ranges  : List Nat
  data    : Option Staged
deriving DecidableEq, Repr

/-- A pass or scull operation that has issued and whose results are not yet written (R93, R94), with the vector rows
that a SCULL read at its issue (R202). -/
structure Pass where
  q    : QEntry
  data : Staged
  vec  : List (List Byte)
deriving DecidableEq, Repr

/-- An output-stage conversion in progress: the deck bytes it will write (by byte offset in the tile window), the
flag bits it sets, the logical slots it reads and its count of scoreboard entries (R63, R129). -/
structure Conv where
  id     : Nat
  writes : List Host.Cell
  flags  : BitVec 8
  slots  : List Nat
deriving DecidableEq, Repr

/-- A running task of a tile: its registers (R111), configurations, tag counts, relocation (R124), staging queue and
passes. `held` is the activation buffer of the last MATMUL to issue, kept for REUSE (R95); `away` is the time that the task
spent saved out (R534). -/
structure Task where
  work    : Work
  r       : Tbl Word64
  v       : Tbl Word32
  pc      : BitVec 32
  flags   : BitVec 8
  mm      : MmCfg
  oc      : OutCfg
  dmaTag  : Tbl Nat
  trTag   : Tbl Nat
  base    : Tbl Nat
  bound   : Tbl Nat
  slotMap : List Nat
  lrt     : Nat
  queue   : List QEntry
  held    : Option Nat
  passes  : List Pass
  shape   : Option (BitVec 64)
  convs   : List Conv
  nextId  : Nat
  ending  : Bool
  start   : BitVec 64
  away    : Nat
  resumes : BitVec 8
deriving DecidableEq, Repr

/-- A task whose END is complete and whose completion record is not yet written (R239, R240). -/
structure Ended where
  work   : Work
  flags  : BitVec 8
  satSet : Bool
  start  : BitVec 64
  finish : BitVec 64
  away   : Nat
  resumes : BitVec 8
deriving DecidableEq, Repr

/-- What the last task of a tile left in place for the next (R234): logical slots with their physical slots, and
floating regions with base and bound. -/
structure Kept where
  cr      : RecNo
  slots   : List (Nat × Nat)
  regions : List (Nat × Nat × Nat)
deriving DecidableEq, Repr

/-- A remap register: a failing row of a bank and the spare row that replaces it (R143). -/
structure Remap where
  bank  : BitVec 6
  row   : BitVec 8
  spare : Bool
deriving DecidableEq, Repr

/-- One span tile. `actBuf` and `wtBuf` are its two activation and two weight-front feed buffers, each with its companion scale
buffer (R85). -/
structure Tile where
  mem        : Memory
  sat        : BitVec 4
  actBuf     : Tbl FeedBuf
  wtBuf      : Tbl FeedBuf
  owner      : CtxNo
  ownerValid : Bool
  gates      : Tbl GateUnit
  bad        : List Nat
  fixups     : List (Nat × Word32)
  remap      : List Remap
  sb         : List SbEntry
  hist       : Tbl Word32
  histSat    : Bool
  kept       : Option Kept
  inbox      : Option (Work × List Nat × Tbl Nat)
  run        : Option Task
  ended      : Option Ended
  preReq     : Bool
  windowOver : Bool
  stopped    : Bool
  zeroing    : List (RecNo × Nat × Nat)
deriving DecidableEq, Repr

/-! ## Transfers and multicast buffers -/

/-- The kinds of transfer that a tile has in flight (R187, R188, R191, R216). -/
inductive XKind where
  | dmaIn
  | dmaOut
  | gather
  | scatter
  | fetch
  | put
  | lateSub
  | sub
  | mcast
deriving DecidableEq, Repr

/-- The progress of a remote transfer: not yet served, read or written at the target (R135, R136, R229). -/
inductive Remote where
  | waiting
  | served (data : List Byte)
deriving DecidableEq, Repr

/-- A transfer in flight. `word` is the instruction, `a0` to `a4` the captured address operands, `pages` its page
count and `next` the demanded page (R425); `ahead` lists the pages beyond it that were run ahead and whether each passed its
checks; `counted` the gate units of its own tile whose outstanding-DMA count it holds, `outCount` those of other tiles' windows,
by tile and unit (R149). `seq` is its place among its task's queued instructions (R96). -/
structure Xfer where
  id      : Nat
  kind    : XKind
  tile    : TileId
  ctx     : CtxNo
  cr      : RecNo
  tag     : Nat
  word    : Word64
  pc      : BitVec 32
  a0      : Word64
  a1      : Word64
  a2      : Word64
  a3      : Word64
  a4      : Word64
  unscb   : Bool
  pages   : Nat
  next    : Nat
  ahead   : List (Nat × Bool)
  peer    : TileId
  buf     : BitVec 16
  remote  : Remote
  counted : List Nat
  outCount : List (Nat × Nat)
  seq     : Nat
  done    : Bool
deriving DecidableEq, Repr

/-- The states of a Slide engine (R428). -/
inductive EngState where
  | idle
  | active
  | squashing
  | draining
deriving DecidableEq, Repr

/-- What SLD_ENGINE shows of one Slide engine (R428). -/
structure Engine where
  st    : EngState
  ctx   : CtxNo
  tile  : TileId
  ahead : BitVec 5
deriving DecidableEq, Repr

/-- The state of a PIER-BACKED buffer table entry (R214). -/
inductive BufState where
  | idle
  | filling
  | held
deriving DecidableEq, Repr

/-- A subscriber or holder of a buffer: its tile, the physical deck word of its range, its transfer (R214), and whether
its release is due (R217). -/
structure BufRange where
  tile : TileId
  word : Nat
  xfer : Nat
  rel  : Bool
deriving DecidableEq, Repr

/-- An entry of a partition's buffer table (R213): PIER-BACKED or PRODUCED, size in words, the pieces (virtual address and
length, or zeros) that a fill reads, its state, source range, subscribers not yet delivered, members of a
multicast in progress and holders; `produced` is set once a PRODUCED entry's MCAST has issued (R218), and `sentAt` is the
place of its multicast among the transfers of its source (R226). -/
structure Buf where
  pier     : Bool
  words    : Nat
  cr       : RecNo
  pieces   : List (Option Word64 × Nat)
  st       : BufState
  src      : Option BufRange
  subs     : List BufRange
  sending  : List BufRange
  data     : List Byte
  holders  : List BufRange
  produced : Bool
  sentAt   : Nat
deriving DecidableEq, Repr

/-! ## Pier and Keystone -/

/-- A stack link: CRC failures in a row and whether its traffic is held for retraining (R319). -/
structure Link where
  fails : Nat
  held  : Bool
deriving DecidableEq, Repr

/-- Pier memory (R316 to R325): `used` the frames of each pool allocated one at a time, `limbo` those among them that their
owner has released and that a KV_PUSH carries, by the handle of the push, with their partition (R279), `zeroed` the free frames
already zeroed (R256). -/
structure Pier where
  mem       : Memory
  poison    : List Nat
  withdrawn : List Nat
  links     : Tbl Link
  hot       : List Nat
  refreshes : Nat
  used      : Tbl (List Nat)
  limbo     : Tbl (Nat × List Nat)
  zeroed    : List Nat
deriving DecidableEq, Repr

/-- The KIND of a Keystone node (R327). -/
inductive NodeKind where
  | free
  | block
  | directory
  | root
deriving DecidableEq, Repr

/-- A child entry of a Keystone node (R327). -/
structure Child where
  hash : Word32
  node : Nat
  dir  : Bool
deriving DecidableEq, Repr

/-- A Keystone node (R327). -/
structure Node where
  tokens   : List Word32
  model    : BitVec 14
  part     : PartId
  kind     : NodeKind
  cold     : Bool
  poisoned : Bool
  depth    : BitVec 16
  parent   : Nat
  inLru    : Bool
  hash     : Word32
  refs     : BitVec 32
  segPa    : BitVec 36
  segN     : BitVec 12
  lastUse  : Word64
  child    : Tbl Child
deriving DecidableEq, Repr

/-- A queued Keystone operation of a partition (R331, R345): a slot's lookup, the insert of a block with its tokens, the
walk of a PREFIX_LOOKUP command (its context record, CMD_ID, serial and NOCPL), the evictions that frame pressure asks for (R337),
or a flush. -/
inductive KeyOp where
  | lookup (slot : SlotNo) (gen : BitVec 16)
  | insert (slot : SlotNo) (gen : BitVec 16) (block : Nat) (tokens : List Word32)
  | walk (cr : RecNo) (cmdId : Word32) (serial : Nat) (nocpl : Bool) (model : Nat) (tokVa : Word64) (count : Nat)
  | relief (frames : Nat)
  | flush
deriving DecidableEq, Repr

/-- The Keystone: nodes, eviction lists, queued operations, roots of the models, the sweepers' bitmap of parked slots and their
reports that Cox has yet to take (R327 to R339, R345), the frames of each partition that hold segments (R330), and the partition that
each die's walker served last (R331). A node's LRU_PREV and LRU_NEXT are its neighbours in its partition's list. -/
structure Key where
  nodes     : Tbl Node
  lru       : Tbl (List Nat)
  ops       : Tbl (List KeyOp)
  roots     : Tbl Nat
  flushBusy : BitVec 16
  parked    : List Nat
  reports   : List Nat
  segFrames : Tbl (List Nat)
  turn      : Tbl Nat
deriving DecidableEq, Repr

/-! ## Catch dispatcher -/

/-- A completion record written in a step in progress (R239, R240, R243). -/
structure DoneRec where
  cr    : RecNo
  step  : Nat
  index : Nat
  flags : BitVec 8
  withdrawn : Bool
  ticks : Nat
deriving DecidableEq, Repr

/-- What a pre-emption saves of a running task: its block of the context slot's save area, at byte `place`, which holds its tile memory
items and registers, its sequencer state and transfers, the activation buffer that it holds for REUSE (R95) and the histogram that it
accumulates (R81) (R197, R247, R427, R440, R449; logs 85, 92). -/
structure SavedTask where
  tile  : TileId
  task  : Task
  sat   : BitVec 4
  place : Nat
  slots : List Nat
  whole : Bool
  ranges : List (Nat × Nat × Nat)
  xfers : List Xfer
  heldBuf : Option FeedBuf
  hist  : Tbl Word32
  histSat : Bool
  savedAt : Word64
deriving DecidableEq, Repr

/-- The saved state of a pre-empted context: deques, hold list, running tasks, and kept items with the place of their tile memory in the
save area and the SAT bits of their slots (R246, R247, R449, R450). -/
structure Saved where
  deques : Tbl (List Work)
  hold   : List Work
  tasks  : List SavedTask
  kept   : Tbl Kept
  keptAt : Tbl Nat
  keptSat : Tbl (BitVec 4)
deriving DecidableEq, Repr

/-- The Catch dispatcher (R230 to R249): deques head first, hold list, stalled intake, kept loader results, completion
records of steps in progress, the partitions in which no pop or steal is served, the saved tasks that wait on a deque, and the
withdrawn tasks whose record waits for a WAKING unit (R151, R248). -/
structure Catch where
  deques    : Tbl (List Work)
  hold      : List Work
  stalled   : Tbl Work
  checked   : List (RecNo × Word64 × BitVec 2)
  done      : List DoneRec
  stopServe : List Nat
  resume    : Tbl (List SavedTask)
  owed      : List Work
deriving DecidableEq, Repr

/-! ## Cox -/

/-- The states of a slot (R275). -/
inductive SlotState where
  | free
  | idle
  | ready
  | active
  | cancelling
  | parked
  | recalling
  | quarantined
deriving DecidableEq, Repr

/-- A run of pending prompt tokens in the context's memory (R491). -/
structure TokSeg where
  va    : Word64
  count : Nat
deriving DecidableEq, Repr

/-- A pending token tree (R308, R490): node count, the address of its nodes and of its overflow output. -/
structure Tree where
  nodes : Nat
  va    : Word64
  outVa : Word64
deriving DecidableEq, Repr

/-- A parking request that takes effect after the slot's last built step (R277, R310). -/
structure ParkReq where
  group  : BitVec 8
  expiry : Word64
deriving DecidableEq, Repr

/-- A page list of a slot in the context's scratch area (R256): base, bytes of its run, pages listed, and the private
frame of each entry by its index `b * LAYERS + L`. -/
structure PageList where
  va     : Word64
  bytes  : Nat
  pages  : Nat
  frames : Tbl Nat
deriving DecidableEq, Repr

/-- A SEQ_RESUME whose recall runs (R313): CMD_ID, serial, NOCPL and the handle of its completion. -/
structure RecallCmd where
  cmdId  : Word32
  serial : Nat
  nocpl  : Bool
  handle : Word32
deriving DecidableEq, Repr

/-- A slot of the active-sequence table (R273 to R279, R310). `owner` is the context that owns it or last owned it (R365); `leaving`
says that it is freed once its queued Keystone inserts are done (R277, R334). -/
structure Slot where
  gen       : BitVec 16
  st        : SlotState
  owner     : Option RecNo
  cr        : RecNo
  fn        : Func
  part      : PartId
  model     : Nat
  be        : Bool
  hot       : Bool
  pos       : Nat
  segs      : List TokSeg
  pendTok   : Option Word32
  deadline  : Word64
  dropLate  : Bool
  depth     : Nat
  depthMax  : Nat
  sample    : Bool
  key       : Word64
  destGroup : BitVec 8
  tierGroup : BitVec 8
  readyAt   : Word64
  readySeq  : Nat
  starved   : Bool
  park      : Option ParkReq
  parkPend  : Option ParkReq
  parkedAt  : Word64
  retirePend : Bool
  remote    : Bool
  demote    : Option Nat
  demoteLen : Nat
  list      : PageList
  draft     : PageList
  refs      : List Nat
  chainNode : Option Nat
  chainLen  : Nat
  usePrefix : Bool
  lookup    : Bool
  hit       : Nat
  pullObj   : Option (Word64 × Nat)
  rejects   : Nat
  goods     : Nat
  tree      : Option Tree
  recallBy  : Option RecallCmd
  leaving   : Bool
deriving DecidableEq, Repr

/-- An entry of a deck map (R376). -/
structure DeckEnt where
  imgOff : Nat
  len    : Nat
  tile   : TileId
  word   : BitVec 18
deriving DecidableEq, Repr

/-- What Cox builds a model's attention tasks from (R264, R266, R287), which the registration does not give (log 20): its
query heads, the template descriptors of its prefill, split, merge and tree compaction tasks, and where merged output
goes (R286). -/
structure AttnSrc where
  qHeads  : Nat
  prefill : TaskDesc
  split   : TaskDesc
  merge   : TaskDesc
  compact : TaskDesc
  mbuf    : BitVec 16
  mfmt    : BitVec 4
deriving DecidableEq, Repr, Inhabited

/-- A registered model (R280, R488) and its residency (R284, R373, R376). -/
structure Model where
  fn      : Func
  vid     : BitVec 14
  part    : PartId
  layers  : Nat
  heads   : Nat
  dimCode : BitVec 2
  kvFmt   : BitVec 4
  ksm     : BitVec 8
  vsm     : BitVec 8
  runLog2 : Nat
  kpp     : Nat
  splitLen : Nat
  chunk   : Nat
  quantum : Nat
  costStep : Word32
  costTok  : Word32
  costCtx  : Word32
  draft   : Option Nat
  vocab   : Nat
  maxM    : Nat
  grids   : List TaskDesc
  deck    : List DeckEnt
  wgroup  : BitVec 8
  object  : Word64
  imageLen : Nat
  sampleVa : Word64
  attn    : Option AttnSrc
  resident : Bool
  frames  : List Nat
  pull    : Option Nat
  lastStep : Word64
deriving DecidableEq, Repr

/-- The step parameters of a context (R293). -/
structure Policy where
  lcBudget : Nat
  beBudget : Nat
  ageLimit : Nat
  maxSeqs  : Nat
  maxRows  : Nat
  tableVa  : Word64
  scratchVa : Word64
  scratchSize : Nat
  allRej   : Nat
deriving DecidableEq, Repr

/-- What a taken outcome report gave for an admitted slot (R193, R194). -/
structure Outcome where
  tokens  : List Word32
  accept  : Nat
  badDist : Bool
deriving DecidableEq, Repr

/-- A slot admitted to a step (R286): its entry index is its place in the step's list. `c0` is C as projected at the build and
`splits0` its S, `entry` its sequence table entry, `deadline` and `dropLate` what the slot had when it was built; `taken`,
`pendBefore`, `pages` and `dpages` are what a dropped step gives back (R298); `inputs` are the tokens of its PREFILL rows. -/
structure Admitted where
  slot    : SlotNo
  handle  : Word32
  kind    : BitVec 4
  c       : Nat
  c0      : Nat
  t       : Nat
  depth   : Nat
  nodes   : Nat
  splits0 : Nat
  entry   : List Word64
  inputs  : List Word32
  taken   : List TokSeg
  pendBefore : Option Word32
  pages   : Nat
  dpages  : Nat
  tree    : Option Tree
  deadline : Word64
  dropLate : Bool
  cancelled : Bool
  dropped : Bool
  late    : Bool
  reported : Bool
  outcome : Option Outcome
  chunkShort : Bool
  lastChunk : Bool
deriving DecidableEq, Repr

/-- A slot that a build deferred (R290, R292): reason 1 TIME, 2 FRAMES, 3 REGULATOR, and DROPPED (R298). -/
structure Deferred where
  slot    : SlotNo
  handle  : Word32
  pos     : Nat
  reason  : BitVec 8
  dropped : Bool
deriving DecidableEq, Repr

/-- The progress of a step (R272, R285, R294, R276): built, delivering tasks, every completion record written, result
batch written. -/
inductive StepPhase where
  | built
  | delivering
  | recorded
  | written
deriving DecidableEq, Repr

/-- A batch step (R282, R294): `table` is its STEP_TABLE_VA, `order` says of each examined slot in turn whether it was
admitted, and `scratch` are the runs of its partial records and masks (R267, R308). -/
structure Step where
  num      : Nat
  model    : Nat
  phase    : StepPhase
  table    : Nat
  order    : List Bool
  admitted : List Admitted
  deferred : List Deferred
  todo     : List Work
  rows     : Nat
  proj     : Word32
  modelChange : Bool
  clockStepped : Bool
  scratch  : List (Nat × Nat)
  startTs  : Word64
  endTs    : Word64
deriving DecidableEq, Repr

/-- Cox's state of one context: policy, next step number, the running and the built step, model choice pointer and
deficits, scratch runs in use, KEY_FULL seen, result batches written, completions that wait for a free entry, and whether building
waits for the end of the running step (R272, R283, R284, R293, R335, R483, R493). -/
structure CtxSteps where
  policy  : Policy
  nextNum : Nat
  cur     : Option Step
  nxt     : Option Step
  ptr     : Nat
  deficit : Tbl Int
  scratch : List (Nat × Nat)
  keyFull : Bool
  batches : Nat
  owed    : List (List Byte)
  holdBuild : Bool
deriving DecidableEq, Repr

/-- A FENCE that waits, with its serial among the commands that wait, STEP, and the result batches written at its take
(R493). -/
structure FenceWait where
  cmdId  : Word32
  serial : Nat
  step   : Bool
  seen   : Nat
  nocpl  : Bool
deriving DecidableEq, Repr

/-- The step builder: slots, models, virtual model IDs by function, steps, fences, the order in which slots became READY,
the serial of commands that wait, and COX_SLOT_INFO. -/
structure Cox where
  slots    : Tbl Slot
  models   : Tbl Model
  vmods    : Tbl Nat
  steps    : Tbl CtxSteps
  fences   : Tbl (List FenceWait)
  readyCtr : Nat
  serial   : Nat
  slotInfo : Word64
deriving DecidableEq, Repr

/-! ## Causeway -/

/-- The TYPE of a causeway transfer (R351). -/
inductive XferType where
  | kvPush
  | weightPull
  | prefixPull
  | tierDemote
  | tierRecall
deriving DecidableEq, Repr

/-- A flow that a transfer is still to make (R357, R374): its index, the OFFSET and STRIPE of its chunks, its destination
and logical port. -/
structure FlowSpec where
  stripe : Nat
  off    : Nat
  start  : Nat
  dest   : Nat
  lport  : Nat
deriving DecidableEq, Repr

/-- A causeway transfer (R357, R366, R373, R379, R381, R383), with the group and destinations that it began with (R388).
`gnum` is the number of that group, `pieces` are the pier address and length of each payload area in order, `ents` the page-list entry of
each piece of a KV_PUSH, `entries` the page-list entries of the transfer, `got` the chunks received. -/
structure Transfer where
  type    : XferType
  slot    : Option SlotNo
  handle  : Word32
  cr      : RecNo
  fn      : Func
  part    : PartId
  model   : Nat
  grp     : Word64
  dests   : List (List Word64)
  dest    : Nat
  total   : Nat
  offset  : Nat
  pieces  : List (Nat × Nat)
  entries : List Nat
  nFlows  : Nat
  toMake  : List FlowSpec
  live    : List Nat
  got     : List Nat
  retries : Nat
  gnum    : Nat
  ents    : List Nat
  posFirst : Nat
  posCount : Nat
  geom    : Word64
  object  : Word64
  ttlMs   : Nat
  be      : Bool
deriving DecidableEq, Repr

/-- A flow record (R356 to R362). SEQ numbers count from 0; chunk SEQ of the flow is chunk `first + nFlows * SEQ` of its
transfer. For egress `cum` and `above` are what the peer acknowledged, for ingress what arrived; `resend` are chunks queued
with RETX; `gapAt` the times at which chunks were resent on the gap ground; `rate` the pacing rate in Gb/s, which holds the next frame
until tick `paceAt` (R362); `progressAt` the time of its creation or of its last progress (R361), `maxRetry` the PULL_RETRY that it was
created with (R386). -/
structure Flow where
  live    : Bool
  use     : BitVec 17
  xfer    : Nat
  stripe  : Nat
  lport   : Nat
  dest    : Nat
  handle  : Word32
  cr      : RecNo
  part    : PartId
  be      : Bool
  first   : Nat
  chunks  : Nat
  reqOff  : Nat
  reqStripe : Nat
  reqSent : Bool
  credit  : Nat
  cum     : Nat
  above   : List Nat
  next    : Nat
  resend  : List Nat
  gapAt   : Tbl Nat
  rtoUs   : Nat
  rto0    : Nat
  timeoutUs : Nat
  window  : Nat
  rate    : Rat
  cutAt   : Option Word64
  unacked : Nat
  paceAt  : Rat
  progressAt : Word64
  maxRetry : Nat
deriving DecidableEq, Repr

/-- A tap accumulator: EGRESS or INGRESS bytes of one partition, function and model (R535). -/
structure TapAcc where
  egress : Bool
  part   : PartId
  fn     : Func
  model  : BitVec 14
  vid    : BitVec 14
  bytes  : Nat
deriving DecidableEq, Repr

/-- The causeway engine. `served` is the flow whose data or request frame a logical port sent last, by `2 * LPORT`, one more for the BE
class (R362). -/
structure Cwy where
  flows   : Tbl Flow
  xfers   : Tbl Transfer
  nextId  : Nat
  lastStale : Option Word32
  acc     : Tbl TapAcc
  served  : Tbl Nat
deriving DecidableEq, Repr

/-! ## Ports -/

/-- A MACsec SA slot (R410): slots 0 and 1 transmit, 2 and 3 receive. -/
structure SaSlot where
  key0   : Word64
  key1   : Word64
  key2   : Word64
  key3   : Word64
  saltLo : Word64
  saltHi : Word32
  ssci   : Word32
  nextPn : Word64
  an     : BitVec 2
  valid  : Bool
deriving DecidableEq, Repr

/-- The state of a logical port (R405). -/
inductive PortState where
  | disabled
  | an
  | training
  | aligning
  | up
  | failed
deriving DecidableEq, Repr

/-- A logical port (R405, R409, R410). -/
structure LPort where
  st    : PortState
  lost  : Bool
  tried : Bool
  ctrl  : Word64
  sa    : Tbl SaSlot
deriving DecidableEq, Repr

/-! ## Translation -/

/-- A leaf of a context's page tables (R415, R416): first virtual byte address, 32 MiB or 64 KiB, target, rights. -/
structure Leaf where
  va     : Nat
  large  : Bool
  target : Nat
  read   : Bool
  write  : Bool
deriving DecidableEq, Repr

/-- A table of a context (R415, R421): its level, the index of the addresses that it covers, the 4 KiB space of the context's table
frames that it lies in, and its place in that space, which only a level-2 table shares. -/
structure TabSpot where
  level : Nat
  idx   : Nat
  space : Nat
  place : Nat
deriving DecidableEq, Repr

/-- The page tables of a context: its leaves, and where its tables lie (R415, R421). -/
structure Maps where
  leaves : List Leaf
  tables : List TabSpot
deriving DecidableEq, Repr

/-- The windows that translation caches tag (R411, R422): deck windows are translated directly. -/
inductive XWin where
  | pier
  | model
  | draft
  | host
deriving DecidableEq, Repr

/-- A leaf entry of a translation cache (R422, R423): context, window, the model of a model window's page, and the page. -/
structure TlbEnt where
  cr    : RecNo
  win   : XWin
  model : Option Nat
  leaf  : Leaf
deriving DecidableEq, Repr

/-- An upper-level entry of a translation cache: the entry of a table of `level` that covers `idx`, and the lower table that it
names (R415, R422). -/
structure UpEnt where
  cr    : RecNo
  level : Nat
  idx   : Nat
  table : Nat
deriving DecidableEq, Repr

/-- A translation cache, most recently used entry first (R422). -/
structure Tlb where
  leaf  : List TlbEnt
  upper : List UpEnt
deriving DecidableEq, Repr

/-- The commit registers' running commit of a function (R417 to R419). -/
structure Commit where
  busy   : Bool
  result : BitVec 8
  done   : BitVec 9
  cr     : RecNo
deriving DecidableEq, Repr

/-- The translation unit: page tables by context record, commit registers by function, the caches of the Slide engines 0 to 31 and of
the causeway engine, number 32 (R422), and the leaves that a FAULTED context had when it was first committed to, which hold for it
until it is re-armed (R419). -/
structure Xlt where
  maps    : Tbl Maps
  commits : Tbl Commit
  tlbs    : Tbl Tlb
  frozen  : Tbl (List Leaf)
deriving DecidableEq, Repr

/-! ## Faults and teardown -/

/-- GLB_FATAL (R437), the contexts in a teardown engine and those that wait for one, in order of detection (R435). -/
structure Flt where
  fatal   : Bool
  cause   : BitVec 8
  stack   : BitVec 4
  engines : List RecNo
  waiting : List RecNo
deriving DecidableEq, Repr

/-! ## Partition manager -/

/-- The states of a context record (R443). -/
inductive CtxState where
  | free
  | waiting
  | running
  | saving
  | swappingOut
  | swappedOut
  | swappingIn
  | faulted
deriving DecidableEq, Repr

/-- A context record (R442 to R445, R452, R454). -/
structure Ctx where
  st       : CtxState
  fn       : Func
  vctx     : VCtx
  part     : PartId
  be       : Bool
  runnable : Bool
  dropSlot : Bool
  cslot    : Option CtxNo
  debt     : Nat
  swapBa   : Word64
  blockedAt : Word64
  runnableAt : Word64
  tornDown : Bool
  tearing  : Bool
  saved    : Option Saved
  tblValue : Word64
deriving DecidableEq, Repr

/-- The PHASE of a partition (R464). -/
inductive Phase where
  | idle
  | running
  | switching
  | resetting
deriving DecidableEq, Repr

/-- The run-time state of a partition (R445 to R456, R464): the RUNNING context, the start and end of its slice, when the slice
ended while the switch is still to come, whether the end waits for the running step without limit (R510), the context being
saved, the context whose debt runs, one whose teardown the partition waits for, the last LC and BE context number to run, the class (BE is true) of a slice not
yet counted, LC slices
through which a BE context stayed RUNNABLE, a partition reset that waits for a reload, and a checked reload that waits for the
switch point. -/
structure Part where
  running   : Option RecNo
  phase     : Phase
  sliceStart : Word64
  sliceEnd  : Word64
  sliceOver : Option Word64
  noGrace   : Bool
  saving    : Option RecNo
  leaving   : Option RecNo
  outgoing  : Option RecNo
  lastLc    : Nat
  lastBe    : Nat
  ran       : Option Bool
  lcSlices  : Tbl Nat
  resetWait : Bool
  reload    : Bool
deriving DecidableEq, Repr

/-- PMG_CTX_STATUS of a function (R466, R467). -/
structure CtxStatus where
  result : BitVec 8
  record : RecNo
deriving DecidableEq, Repr

/-- The partition manager. -/
structure Pmg where
  ctxs    : Tbl Ctx
  parts   : Tbl Part
  cslots  : Tbl RecNo
  status  : Tbl CtxStatus
  info    : Tbl Word64
  buckets : Tbl Int
deriving DecidableEq, Repr

/-! ## Host interface -/

/-- The configuration-space settings of a function that the spec uses (R470, R485, R498). -/
structure Fn where
  bme      : Bool
  mse      : Bool
  msixEn   : Bool
  msixMask : Bool
  ctoCode  : BitVec 4
  d3hot    : Bool
deriving DecidableEq, Repr

/-- A ring (R479): the registers, its records written since reset (R430), a message held back by moderation (R485),
and whether an index write broke it (R481). -/
structure Ring where
  ba      : BitVec 48
  cfg     : Word64
  prod    : BitVec 32
  cons    : BitVec 32
  wb      : BitVec 48
  badIndex : Bool
  fault   : Bool
  lost    : Bool
  broken  : Bool
  count   : BitVec 32
  owed    : Bool
  sentAt  : Option Word64
deriving DecidableEq, Repr

/-- What the block has sent outward, newest last: MSI-X messages by function and vector (R485), and frames by logical port
with the protected bytes of a MACsec frame (R362, R399). -/
structure Out where
  msix   : List (Nat × Nat)
  frames : List (Nat × Frame × List Byte)
deriving DecidableEq, Repr

/-- The host interface: SR-IOV control (R473), functions, rings, MSI-X pending bits and what was sent. -/
structure HostIf where
  fns      : Tbl Fn
  vfEnable : Bool
  numVFs   : BitVec 16
  ari      : Bool
  subVid   : BitVec 16
  subId    : BitVec 16
  rings    : Tbl Ring
  pend     : List (Nat × Nat)
  out      : Out
deriving DecidableEq, Repr

/-! ## Structure, boot, trust -/

/-- The partition of a VF (R474, R506). -/
structure Bind where
  part  : PartId
  bound : Bool
deriving DecidableEq, Repr

/-- Boot and structure (R499, R508, R510, R516, R526, R564). -/
structure Boot where
  stage    : BitVec 4
  error    : BitVec 8
  lock     : Bool
  quiesce  : Bool
  fwStarted : Bool
  siRefused : Bool
  piBusy   : Bool
  piPart   : PartId
  piResult : BitVec 8
  piCount  : BitVec 16
  piImage  : List Byte
  mapOut   : BitVec 256
  ceilings : Tbl Nat
  binds    : Tbl Bind
  cause    : BitVec 3
  fruTries : Nat
  fruDone  : Bool
deriving DecidableEq, Repr

/-- A generation of an OTP record (R514): the header bits, the data, and whether the stored CRC matches it. -/
structure Gen where
  written : Bool
  retired : Bool
  data    : List Byte
  crcOk   : Bool
deriving DecidableEq, Repr

/-- The root of trust: OTP, measurements, DEVICE_ID and the private keys derived at this boot (R517), its mailbox and results
(R527, R529). While the keys are erased the read path to IDENTITY_SEED is closed too (R525). -/
structure Tru where
  otp        : Tbl (List Gen)
  m          : Tbl (BitVec 512)
  deviceId   : BitVec 512
  dik        : BitVec 256
  ak         : BitVec 256
  challenge  : Option (BitVec 512)
  keysErased : Bool
  jtagOpen   : Bool
  dbgOpen    : Bool
  result     : BitVec 8
  respLen    : BitVec 16
  trng       : Nat
deriving DecidableEq, Repr

/-! ## Tollhouse -/

/-- A counter set: six 96-bit counters in the order of R536, and their SATURATED bits (R538). -/
structure CSet where
  prompt    : BitVec 96
  verify    : BitVec 96
  generated : BitVec 96
  kvBytes   : BitVec 96
  wBytes    : BitVec 96
  tileTime  : BitVec 96
  sat       : BitVec 6
deriving DecidableEq, Repr

/-- A model entry, live or closed (R537). -/
structure MEntry where
  model  : BitVec 14
  fn     : Func
  part   : PartId
  vid    : BitVec 14
  regSeq : Word32
  set    : CSet
deriving DecidableEq, Repr

/-- What the ledger holds in non-volatile memory (R545, R546). -/
structure Ledger where
  poweredS    : Word64
  bootCount   : Word32
  otpGens     : Tbl Word32
  trustedTime : Word64
  trustedAt   : Word64
  sealBroken  : Bool
  refurbs     : BitVec 8
  timeSet     : Bool
  checkpoint  : Tbl CSet
deriving DecidableEq, Repr

/-- A tap event on its way to the tollhouse; `bad` is one that fails its CRC32C (R533, R535). -/
inductive TapEvent where
  | bad
  | step (part : PartId) (fn : Func) (model vid : BitVec 14) (prompt verify generated tileTime : Nat)
  | egress (part : PartId) (fn : Func) (model vid : BitVec 14) (bytes : Nat)
  | ingress (part : PartId) (fn : Func) (model vid : BitVec 14) (bytes : Nat)
  | register (part : PartId) (fn : Func) (model : BitVec 14) (vid : BitVec 14)
  | otpState (gens : Tbl Word32)
deriving DecidableEq, Repr

/-- A function's view of the tollhouse mailbox (R548). -/
structure TollMbx where
  busy    : Bool
  result  : BitVec 8
  respLen : BitVec 16
deriving DecidableEq, Repr

/-- The tollhouse (R530 to R548). `nvm` holds the records of non-volatile memory, newest first, in at most 128 places (R546);
`ledger` the running values. -/
structure Toll where
  ready     : Bool
  epoch     : Word32
  reportSeq : Word32
  ledger    : Ledger
  nvm       : List Ledger
  carry     : Tbl CSet
  carryS    : Word64
  timeState : BitVec 8
  sets      : Tbl CSet
  models    : Tbl MEntry
  closed    : List MEntry
  closedLost : Word32
  tapErrors : Word32
  regSeq    : Word32
  taps      : List TapEvent
  tapSeqOut : BitVec 16
  tapSeqIn  : BitVec 16
  challenge : Option (BitVec 256)
  event     : Bool
  mbx       : Tbl TollMbx
  queue     : List (Func × BitVec 8)
deriving DecidableEq, Repr

/-! ## Clocks, power, reset -/

/-- Clocks, the power cap, the supplies and the sideband pins (R549 to R564, R570, R577). -/
structure Clk where
  steps     : Tbl (BitVec 5)
  raising   : Tbl (BitVec 5)
  capPins   : BitVec 3
  capForce  : BitVec 3
  delay     : Bool
  samples   : List Nat
  belowFor  : Nat
  aboveFor  : Nat
  charged   : Bool
  pwrEn     : Bool
  railsUp   : Bool
  pwrGood   : Bool
  resetN    : Bool
  perstN    : Bool
  sysRef    : Bool
  portRef   : Bool
  stopped   : Bool
  tripped   : Bool
deriving DecidableEq, Repr

/-! ## The whole block -/

/-- The device: everything but the queue of waiting commands. `fresh` is the model's counter of free values (log 6),
`host` the memory behind the PCIe link (log 5), `regs` and `vfRegs` the stored registers of PF BAR0 and of the VFs'
BAR0 (R475, R476). -/
structure Dev where
  now     : Word64
  fresh   : Nat
  regs    : Tbl Word64
  vfRegs  : Tbl Word64
  host    : Memory
  hif     : HostIf
  tiles   : Tbl Tile
  xfers   : Tbl Xfer
  nextX   : Nat
  engines : Tbl Engine
  bufs    : Tbl Buf
  pier    : Pier
  key     : Key
  cat     : Catch
  cox     : Cox
  cwy     : Cwy
  ports   : Tbl LPort
  xlt     : Xlt
  flt     : Flt
  pmg     : Pmg
  boot    : Boot
  tru     : Tru
  toll    : Toll
  clk     : Clk
deriving DecidableEq, Repr

/-- The state of the block: the queue of commands that wait, first in first out (the model's own), and the device. -/
structure State where
  pending : List Instr
  dev     : Dev
deriving DecidableEq, Repr

/-- Why a step stops. -/
inductive Fault where
  /-- The command names an object that does not exist under R8 or R391 (a logical port above 159). Raised by the port
  and frame commands; safe: the device takes no such command. -/
  | noSuchObject
deriving DecidableEq, Repr

/-- Why a command has no meaning. -/
inductive Refusal where
  /-- The row has no meaning in this model yet; `mnemonic` is the row's. Raised by exec's arms only; safe. -/
  | notModelled (mnemonic : String)
deriving DecidableEq, Repr

/-! ## Defaults of the tables and the state after reset -/

/-- A tile with nothing in it (R114, R152): memories read zero (log 4), every unit ON until an image gates it. -/
def Tile.init : Tile where
  mem := []
  sat := 0
  actBuf := []
  wtBuf := []
  owner := 0
  ownerValid := false
  gates := []
  bad := []
  fixups := []
  remap := []
  sb := []
  hist := []
  histSat := false
  kept := none
  inbox := none
  run := none
  ended := none
  preReq := false
  windowOver := false
  stopped := false
  zeroing := []

/-- A gateable unit as the structure loader leaves it when no image gates it (R147). -/
def GateUnit.init : GateUnit := { st := .on, gated := false, dma := 0 }

/-- A feed buffer before anything is staged (R85). -/
def FeedBuf.init : FeedBuf := { rows := [], scales := [], table := [] }

/-- A ring page's registers at reset (R479). -/
def Ring.init : Ring where
  ba := 0
  cfg := 0
  prod := 0
  cons := 0
  wb := 0
  badIndex := false
  fault := false
  lost := false
  broken := false
  count := 0
  owed := false
  sentAt := none

/-- A page list with no run (R256). -/
def PageList.init : PageList := { va := 0, bytes := 0, pages := 0, frames := [] }

/-- A FREE slot: generation 1 (R274, R315). -/
def Slot.init : Slot where
  gen := 1
  st := .free
  owner := none
  cr  := 0
  fn := 0
  part := 0
  model := 0
  be := false
  hot := false
  pos := 0
  segs := []
  pendTok := none
  deadline := 0
  dropLate := false
  depth := 0
  depthMax := 0
  sample := false
  key := 0
  destGroup := 0
  tierGroup := 0
  readyAt := 0
  readySeq := 0
  starved := false
  park := none
  parkPend := none
  parkedAt := 0
  retirePend := false
  remote := false
  demote := none
  demoteLen := 0
  list := PageList.init
  draft := PageList.init
  refs := []
  chainNode := none
  chainLen := 0
  usePrefix := false
  lookup := false
  hit := 0
  pullObj := none
  rejects := 0
  goods := 0
  tree := none
  recallBy := none
  leaving := false

/-- The defaults of STEP_POLICY (R293). -/
def Policy.init : Policy where
  lcBudget := 10000
  beBudget := 50000
  ageLimit := 100000
  maxSeqs := 8192
  maxRows := 262144
  tableVa := 0
  scratchVa := 0
  scratchSize := 0
  allRej := 3

/-- Cox's state of a context that has built no step (R293, R294). -/
def CtxSteps.init : CtxSteps where
  policy := Policy.init
  nextNum := 0
  cur := none
  nxt := none
  ptr := 0
  deficit := []
  scratch := []
  keyFull := false
  batches := 0
  owed := []
  holdBuild := false

/-- A FREE context record (R443). -/
def Ctx.init : Ctx where
  st := .free
  fn := 0
  vctx := 0
  part := 0
  be := false
  runnable := false
  dropSlot := false
  cslot := none
  debt := 0
  swapBa := 0
  blockedAt := 0
  runnableAt := 0
  tornDown := false
  tearing := false
  saved := none
  tblValue := 0

/-- A partition with no RUNNING context (R464); its first turn starts at its lowest context number (R447). -/
def Part.init : Part where
  running := none
  phase := .idle
  sliceStart := 0
  sliceEnd := 0
  sliceOver := none
  noGrace := false
  saving := none
  leaving := none
  outgoing := none
  lastLc := 127
  lastBe := 127
  ran := none
  lcSlices := []
  resetWait := false
  reload := false

/-- A FREE Keystone node (R327, R340). -/
def Node.init : Node where
  tokens := []
  model := 0
  part := 0
  kind := .free
  cold := false
  poisoned := false
  depth := 0
  parent := 0
  inLru := false
  hash := 0
  refs := 0
  segPa := 0
  segN := 0
  lastUse := 0
  child := []

/-- An unused flow record: USE is 0 on its first use (R356). -/
def Flow.init : Flow where
  live := false
  use := 0
  xfer := 0
  stripe := 0
  lport := 0
  dest := 0
  handle := 0
  cr  := 0
  part := 0
  be := false
  first := 0
  chunks := 0
  reqOff := 0
  reqStripe := 0
  reqSent := false
  credit := 0
  cum := 0
  above := []
  next := 0
  resend := []
  gapAt := []
  rtoUs := 64
  rto0 := 64
  timeoutUs := 2000
  window := 256
  rate := 0
  cutAt := none
  unacked := 0
  paceAt := 0
  progressAt := 0
  maxRetry := 3

/-- An SA slot at reset (R410). -/
def SaSlot.init : SaSlot where
  key0 := 0
  key1 := 0
  key2 := 0
  key3 := 0
  saltLo := 0
  saltHi := 0
  ssci := 0
  nextPn := 1
  an := 0
  valid := false

/-- A logical port at reset (R409, R410): DISABLED, MSEC_CTRL with PORT_ID 1 and REPLAY_PROTECT set. -/
def LPort.init : LPort where
  st := .disabled
  lost := false
  tried := false
  ctrl := 0x0004_0001
  sa := []

/-- A buffer table entry that no grid defines: PRODUCED (R213). -/
def Buf.init : Buf where
  pier := false
  words := 0
  cr := 0
  pieces := []
  st := .idle
  src := none
  subs := []
  sending := []
  data := []
  holders := []
  produced := false
  sentAt := 0

/-- A counter set at the start of an epoch (R532). -/
def CSet.init : CSet where
  prompt := 0
  verify := 0
  generated := 0
  kvBytes := 0
  wBytes := 0
  tileTime := 0
  sat := 0

/-- A ledger with no record taken yet (R545); the module's first values (log 1). -/
def Ledger.init : Ledger where
  poweredS := 0
  bootCount := 0
  otpGens := []
  trustedTime := 0
  trustedAt := 0
  sealBroken := false
  refurbs := 0
  timeSet := false
  checkpoint := []

/-- A function's configuration space at reset (log 12). -/
def Fn.init : Fn where
  bme := false
  mse := false
  msixEn := false
  msixMask := false
  ctoCode := 0
  d3hot := false

/-- A Slide engine at reset (R428). -/
def Engine.init : Engine where
  st := .idle
  ctx := 0
  tile := 0
  ahead := 0

/-- The host interface at reset. -/
def HostIf.init : HostIf where
  fns := []
  vfEnable := false
  numVFs := 0
  ari := false
  subVid := 0
  subId := 0
  rings := []
  pend := []
  out := { msix := [], frames := [] }

/-- Boot state before ROM_INIT (R499, R526). -/
def Boot.init : Boot where
  stage := 0
  error := 0
  lock := false
  quiesce := false
  fwStarted := false
  siRefused := false
  piBusy := false
  piPart := 0
  piResult := 0
  piCount := 0
  piImage := []
  mapOut := 0
  ceilings := []
  binds := []
  cause := 0
  fruTries := 0
  fruDone := false

/-- Generation 0 of an OTP record written once with `n` bytes of zeros. -/
def Gen.blank (n : Nat) : Gen := { written := true, retired := false, data := List.replicate n 0, crcOk := true }

/-- The root of trust at reset: measurements zero (R518). OTP persists; before the first command it holds generation 0 of
VENDOR_KEY_HASH, IDENTITY_SEED, LIFECYCLE and SECURITY_VERSION with data of zeros, records numbered in R513's order (log 1). -/
def Tru.init : Tru where
  otp := [(0, [Gen.blank 64]), (2, [Gen.blank 64]), (5, [Gen.blank 16]), (6, [Gen.blank 16])]
  m := []
  deviceId := 0
  dik := 0
  ak := 0
  challenge := none
  keysErased := false
  jtagOpen := false
  dbgOpen := false
  result := 0
  respLen := 0
  trng := 0

/-- The tollhouse with its supply off: only the non-volatile record persists (R546, R558). -/
def Toll.init : Toll where
  ready := false
  epoch := 0
  reportSeq := 0
  ledger := Ledger.init
  nvm := [Ledger.init]
  carry := []
  carryS := 0
  timeState := 0
  sets := []
  models := []
  closed := []
  closedLost := 0
  tapErrors := 0
  regSeq := 0
  taps := []
  tapSeqOut := 0
  tapSeqIn := 0
  challenge := none
  event := false
  mbx := []
  queue := []

/-- Clocks and power before 48 V is applied: every reach at step 16 (R558, R563), references present (log 1), open
PWR_CAP pins read 1 (R555). -/
def Clk.init : Clk where
  steps := []
  raising := []
  capPins := 7
  capForce := 0
  delay := false
  samples := []
  belowFor := 0
  aboveFor := 0
  charged := false
  pwrEn := false
  railsUp := false
  pwrGood := false
  resetN := false
  perstN := false
  sysRef := true
  portRef := true
  stopped := false
  tripped := false

/-- The block with its power off, before the first command: every register at its Reset value, every table at its
default, memories with nothing listed (R558, R562; log 1, log 4, log 8). -/
def Dev.init : Dev where
  now := 0
  fresh := 0
  regs := []
  vfRegs := []
  host := []
  hif := HostIf.init
  tiles := []
  xfers := []
  nextX := 0
  engines := []
  bufs := []
  pier := { mem := [], poison := [], withdrawn := [], links := [], hot := [], refreshes := 0, used := [], limbo := [], zeroed := [] }
  key := { nodes := [], lru := [], ops := [], roots := [], flushBusy := 0, parked := [], reports := [], segFrames := [], turn := [] }
  cat := { deques := [], hold := [], stalled := [], checked := [], done := [], stopServe := [], resume := [], owed := [] }
  cox := { slots := [], models := [], vmods := [], steps := [], fences := [], readyCtr := 0, serial := 0, slotInfo := 0x1 }
  cwy := { flows := [], xfers := [], nextId := 0, lastStale := none, acc := [], served := [] }
  ports := []
  xlt := { maps := [], commits := [], tlbs := [], frozen := [] }
  flt := { fatal := false, cause := 0, stack := 0, engines := [], waiting := [] }
  pmg := { ctxs := [], parts := [], cslots := [], status := [], info := [], buckets := [] }
  boot := Boot.init
  tru := Tru.init
  toll := Toll.init
  clk := Clk.init

/-- The state after reset: the device with its power off and no command waiting. -/
def State.reset : State := { pending := [], dev := Dev.init }

end Sys2Proof.Machine
end

