-- ==== Sys2Proof/Config.lean ====
section
/-! DEFINITION. What the spec leaves open or takes from outside the device: the values that have no body in this model,
so that no proof can lean on one (log 6, log 7, log 20). -/

namespace Sys2Proof.Config

/-- A value that the spec calls undefined (R197): the `n`-th such value (log 6). -/
opaque freeWord : Nat → Word32
/-- The reach cycle count of a completion record, COUNT field CYCLES (R239), which this untimed model leaves free
(log 6). -/
opaque freeCycles : Nat → Word64
/-- What Cox builds the attention tasks of a registered model from: the `n`-th such value (log 20). -/
opaque attn : Nat → Machine.AttnSrc
/-- SHA3-512 of a byte string (R7; FIPS 202) (log 7). -/
opaque sha3 : List Byte → BitVec 512
/-- ML-DSA-87 signing by a private key of a message (R7; FIPS 204) (log 7). -/
opaque mldsaSign : (key : BitVec 256) → (msg : List Byte) → List Byte
/-- ML-DSA-87 verification of a message by a public key (R7) (log 7). -/
opaque mldsaVerify : (pub : List Byte) → (msg : List Byte) → (sig : List Byte) → Bool
/-- The public key of an ML-DSA-87 key pair with this seed (R517, R539) (log 7). -/
opaque mldsaPublic : (seed : BitVec 256) → List Byte
/-- SHA3-512 of the boot ROM's contents, M0 (R518) (log 7). -/
opaque romDigest : BitVec 512
/-- The tollhouse's key seed (R539) (log 7). -/
opaque tollSeed : BitVec 256
/-- The Wehorn time-authority hash and the Wehorn vendor hash in the tollhouse's mask ROM (R543, R547) (log 7). -/
opaque timeHash : BitVec 512
opaque vendorHash : BitVec 512
/-- The `n`-th draw of the true random number generator (R521, R539) (log 7). -/
opaque trng : Nat → BitVec 512
/-- The AES-256-GCM-XPN ciphertext and ICV of a MACsec frame: key, salt, SSCI, packet number, the bytes protected only, and the text
encrypted (R399) (log 7). -/
opaque macsecSeal : BitVec 256 → BitVec 96 → Word32 → Word64 → (aad text : List Byte) → List Byte
/-- The IPv4 identification of a sent frame, by its FLOW and SEQ, which the spec does not state (R346) (log 6). -/
opaque ipIdent : (flow seq : Word32) → BitVec 16
/-- The negotiated rate and width of the PCIe link as the Link Status register shows them (R469) (log 12). -/
opaque linkStatus : BitVec 16

end Sys2Proof.Config
end

