-- ==== Sys2Proof/Machine/Mem.lean ====
section
/-! DEFINITION. Tables, memories and bit fields: the plain data operations that every meaning is written over. -/

namespace Sys2Proof.Machine

open Sys2Proof

/-! ## Tables -/

/-- The entry of key `k`, or the default `d`. -/
def tget {α : Type} (t : Tbl α) (k : Nat) (d : α) : α :=
  match t with
  | [] => d
  | (k', v) :: r => if k' = k then v else tget r k d

/-- The entry of key `k`, if the table has one. -/
def tfind {α : Type} (t : Tbl α) (k : Nat) : Option α :=
  match t with
  | [] => none
  | (k', v) :: r => if k' = k then some v else tfind r k

/-- The table with `v` at key `k`. -/
def tset {α : Type} (t : Tbl α) (k : Nat) (v : α) : Tbl α :=
  match t with
  | [] => [(k, v)]
  | (k', v') :: r => if k' = k then (k, v) :: r else (k', v') :: tset r k v

/-- The table without key `k`. -/
def tdel {α : Type} (t : Tbl α) (k : Nat) : Tbl α :=
  t.filter (fun p => p.1 ≠ k)

/-- The table with `f` applied to every entry. -/
def tmap {α : Type} (t : Tbl α) (f : Nat → α → α) : Tbl α :=
  t.map (fun p => (p.1, f p.1 p.2))

/-- The keys of a table. -/
def tkeys {α : Type} (t : Tbl α) : List Nat := t.map (fun p => p.1)

/-! ## Bit fields -/

/-- The field of `len` bits from bit `lo` up, as a number. -/
def fld {n : Nat} (w : BitVec n) (lo len : Nat) : Nat := (w.toNat >>> lo) % 2 ^ len

/-- Bit `i`. -/
def bitOf {n : Nat} (w : BitVec n) (i : Nat) : Bool := w.getLsbD i

/-- `w` with the field of `len` bits from bit `lo` replaced by `v`. -/
def setFld {n : Nat} (w : BitVec n) (lo len v : Nat) : BitVec n :=
  let mask : BitVec n := BitVec.ofNat n ((2 ^ len - 1) <<< lo)
  (w &&& ~~~ mask) ||| (BitVec.ofNat n ((v % 2 ^ len) <<< lo))

/-- The signed value of the field of `len` bits from bit `lo`. -/
def sfld {n : Nat} (w : BitVec n) (lo len : Nat) : Int :=
  let v := fld w lo len
  if v < 2 ^ (len - 1) then (v : Int) else (v : Int) - 2 ^ len

/-- 1 for true. -/
def b2n (b : Bool) : Nat := if b then 1 else 0

/-! ## Memories -/

/-- The byte at an address; an unlisted address reads zero (log 4). -/
def memGet (m : Memory) (a : Nat) : Byte :=
  match m with
  | [] => 0
  | (a', b) :: r => if a' = a then b else memGet r a

/-- Write one byte, keeping the canonical form: addresses rise, and no zero byte is listed. -/
def memPut (m : Memory) (a : Nat) (b : Byte) : Memory :=
  match m with
  | [] => if b = 0 then [] else [(a, b)]
  | (a', b') :: r =>
    if a < a' then (if b = 0 then (a', b') :: r else (a, b) :: (a', b') :: r)
    else if a = a' then (if b = 0 then r else (a, b) :: r)
    else (a', b') :: memPut r a b

/-- The canonical form: every address after `lo` and rising, no byte zero. -/
def memWfFrom (lo : Nat) (m : Memory) : Bool :=
  match m with
  | [] => true
  | (a, b) :: r => lo ≤ a && b != 0 && memWfFrom (a + 1) r

/-- A memory is in canonical form. -/
def Memory.wf (m : Memory) : Bool := memWfFrom 0 m

/-- Write a run of bytes from address `a` up. -/
def memPuts (m : Memory) (a : Nat) (bs : List Byte) : Memory :=
  match bs with
  | [] => m
  | b :: r => memPuts (memPut m a b) (a + 1) r

/-- Write a list of cells, in order. -/
def memCells (m : Memory) (cs : List Host.Cell) : Memory :=
  match cs with
  | [] => m
  | c :: r => memCells (memPut m c.1 c.2) r

/-- The `n` bytes from address `a` up. -/
def memGets (m : Memory) (a n : Nat) : List Byte :=
  (List.range n).map (fun i => memGet m (a + i))

/-- Set the bytes of `[a, a + n)` to zero. -/
def memZero (m : Memory) (a n : Nat) : Memory :=
  m.filter (fun c => c.1 < a || a + n ≤ c.1)

/-- The listed cells of `[a, a + n)`. -/
def memSlice (m : Memory) (a n : Nat) : List Host.Cell :=
  m.filter (fun c => a ≤ c.1 && c.1 < a + n)

/-- The little-endian value of a list of bytes. -/
def leNat (bs : List Byte) : Nat :=
  match bs with
  | [] => 0
  | b :: r => b.toNat + 256 * leNat r

/-- The big-endian value of a list of bytes. -/
def beNat (bs : List Byte) : Nat := bs.foldl (fun acc b => acc * 256 + b.toNat) 0

/-- `n` little-endian bytes of a number. -/
def toLe (n v : Nat) : List Byte :=
  match n with
  | 0 => []
  | k + 1 => BitVec.ofNat 8 v :: toLe k (v / 256)

/-- `n` big-endian bytes of a number. -/
def toBe (n v : Nat) : List Byte := (toLe n v).reverse

/-- The 32-bit little-endian word at a byte address. -/
def mem32 (m : Memory) (a : Nat) : Word32 :=
  BitVec.ofNat 32 (leNat (memGets m a 4))

/-- The 64-bit little-endian word at a byte address. -/
def mem64 (m : Memory) (a : Nat) : Word64 :=
  BitVec.ofNat 64 (leNat (memGets m a 8))

/-- Write a 32-bit word. -/
def memSet32 (m : Memory) (a : Nat) (w : Word32) : Memory := memPuts m a (toLe 4 w.toNat)

/-- Write a 64-bit word. -/
def memSet64 (m : Memory) (a : Nat) (w : Word64) : Memory := memPuts m a (toLe 8 w.toNat)

/-! ## Lists -/

/-- Bytes `[off, off + n)` of a byte string, zero past its end. -/
def sub (bs : List Byte) (off n : Nat) : List Byte :=
  let l := (bs.drop off).take n
  l ++ List.replicate (n - l.length) 0

/-- The little-endian field of `n` bytes at offset `off`. -/
def leAt (bs : List Byte) (off n : Nat) : Nat := leNat (sub bs off n)

/-- The big-endian field of `n` bytes at offset `off`. -/
def beAt (bs : List Byte) (off n : Nat) : Nat := beNat (sub bs off n)

/-- The least `k` in `[lo, lo + n)` that satisfies `p`. -/
def findFrom (p : Nat → Bool) (lo n : Nat) : Option Nat :=
  match n with
  | 0 => none
  | k + 1 => if p lo then some lo else findFrom p (lo + 1) k

/-- Round a number up to a multiple of `n`. -/
def alignUp (v n : Nat) : Nat := (v + n - 1) / n * n

/-- Ceiling division. -/
def cdiv (v n : Nat) : Nat := (v + n - 1) / n

/-- Whether every byte is zero. -/
def allZero (bs : List Byte) : Bool := bs.all (fun b => b == 0)

end Sys2Proof.Machine
end

