-- ==== Sys2Proof/Machine/Num.lean ====
section
/-! DEFINITION. The numbers of the device: format codes and layouts (R20 to R27), exact values, rounding (R45 to R47),
FP32 arithmetic (R60 to R62, R107, R108), and the two accumulation paths (R50 to R58). -/

namespace Sys2Proof.Machine

open Sys2Proof

/-! ## Exact values -/

/-- An exact value: NaN, an infinity, or plus or minus `n / d` with `d` positive. -/
inductive Num where
  | nan
  | inf (neg : Bool)
  | fin (neg : Bool) (n d : Nat)
deriving DecidableEq, Repr

/-- The magnitude `m * 2^q` with a sign. -/
def numScale (neg : Bool) (m : Nat) (q : Int) : Num :=
  if 0 ≤ q then .fin neg (m * 2 ^ q.toNat) 1 else .fin neg m (2 ^ (-q).toNat)

/-- Plus zero. -/
def numZero : Num := .fin false 0 1
/-- One. -/
def numOne : Num := .fin false 1 1

/-- An integer. -/
def numInt (i : Int) : Num := .fin (decide (i < 0)) i.natAbs 1

/-- Whether a value is zero of either sign. -/
def numIsZero (x : Num) : Bool :=
  match x with
  | .fin _ n _ => n == 0
  | _ => false

/-- Whether a value is NaN. -/
def numIsNan (x : Num) : Bool :=
  match x with
  | .nan => true
  | _ => false

/-- Whether a value is finite. -/
def numIsFin (x : Num) : Bool :=
  match x with
  | .fin _ _ _ => true
  | _ => false

/-- The sign of a value. -/
def numNeg (x : Num) : Bool :=
  match x with
  | .fin s _ _ => s
  | .inf s => s
  | .nan => false

/-- The value with its sign changed. -/
def numMinus (x : Num) : Num :=
  match x with
  | .fin s n d => .fin (!s) n d
  | .inf s => .inf (!s)
  | .nan => .nan

/-- The exact product (R39, R57). The sign of a zero product is the product of the signs (log 11). -/
def numMul (x y : Num) : Num :=
  match x, y with
  | .nan, _ => .nan
  | _, .nan => .nan
  | .inf s, .inf t => .inf (s != t)
  | .inf s, .fin t n _ => if n = 0 then .nan else .inf (s != t)
  | .fin s n _, .inf t => if n = 0 then .nan else .inf (s != t)
  | .fin s n d, .fin t m e => .fin (s != t) (n * m) (d * e)

/-- The exact quotient; a zero divisor gives an infinity, and zero by zero NaN. -/
def numDiv (x y : Num) : Num :=
  match x, y with
  | .nan, _ => .nan
  | _, .nan => .nan
  | .inf _, .inf _ => .nan
  | .inf s, .fin t _ _ => .inf (s != t)
  | .fin s _ _, .inf t => .fin (s != t) 0 1
  | .fin s n d, .fin t m e =>
    if m = 0 then (if n = 0 then .nan else .inf (s != t)) else .fin (s != t) (n * e) (d * m)

/-- The exact sum. A sum of two zeros keeps a common sign; any other zero sum is +0 (R60). -/
def numAdd (x y : Num) : Num :=
  match x, y with
  | .nan, _ => .nan
  | _, .nan => .nan
  | .inf s, .inf t => if s = t then .inf s else .nan
  | .inf s, .fin _ _ _ => .inf s
  | .fin _ _ _, .inf t => .inf t
  | .fin s n d, .fin t m e =>
    let a := n * e
    let b := m * d
    if s = t then .fin s (a + b) (d * e)
    else if a = b then .fin false 0 1
    else if b < a then .fin s (a - b) (d * e)
    else .fin t (b - a) (d * e)

/-- Less than, for values that are not NaN; zeros of both signs are equal. -/
def numLt (x y : Num) : Bool :=
  match x, y with
  | .nan, _ => false
  | _, .nan => false
  | .inf s, .inf t => s && !t
  | .inf s, .fin _ _ _ => s
  | .fin _ _ _, .inf t => !t
  | .fin s n d, .fin t m e =>
    let a : Int := if s then -(n * e : Nat) else (n * e : Nat)
    let b : Int := if t then -(m * d : Nat) else (m * d : Nat)
    decide (a < b)

/-- Whether the magnitude of finite `x` is less than that of finite `y`. -/
def magLt (x y : Num) : Bool :=
  match x, y with
  | .fin _ n d, .fin _ m e => decide (n * e < m * d)
  | _, _ => false

/-- Floor of the base-2 logarithm of `n / d`, for positive `n`. -/
def ilog2 (n d : Nat) : Int :=
  let k : Int := (Nat.log2 n : Int) - (Nat.log2 d : Int)
  let ge : Bool := if 0 ≤ k then decide (d * 2 ^ k.toNat ≤ n) else decide (d ≤ n * 2 ^ (-k).toNat)
  if ge then k else k - 1

/-- The quotient of `n / d` by `2^q`, as numerator and denominator. -/
def scaleFrac (n d : Nat) (q : Int) : Nat × Nat :=
  if 0 ≤ q then (n, d * 2 ^ q.toNat) else (n * 2 ^ (-q).toNat, d)

/-- `n / d` in units of `2^q`, rounded to nearest, ties to even (R45). -/
def rne (n d : Nat) (q : Int) : Nat :=
  let p := scaleFrac n d q
  let k := p.1 / p.2
  let r := p.1 % p.2
  if 2 * r < p.2 then k else if p.2 < 2 * r then k + 1 else if k % 2 = 0 then k else k + 1

/-- `n / d` in units of `2^q`, truncated (R50). -/
def truncQ (n d : Nat) (q : Int) : Nat :=
  let p := scaleFrac n d q
  p.1 / p.2

/-! ## Formats -/

/-- The layout of a floating-point format (R22): exponent and mantissa bits, bias, the code of its largest finite
magnitude, whether an all-ones exponent is special, and its canonical NaN. -/
structure FFmt where
  expBits : Nat
  man     : Nat
  bias    : Nat
  maxFin  : Nat
  special : Bool
  canon   : Nat
deriving DecidableEq, Repr

/-- FP32 (R22). -/
def fFP32 : FFmt := { expBits := 8, man := 23, bias := 127, maxFin := 0x7F7FFFFF, special := true, canon := 0x7FC00000 }
/-- BF16 (R22). -/
def fBF16 : FFmt := { expBits := 8, man := 7, bias := 127, maxFin := 0x7F7F, special := true, canon := 0x7FC0 }
/-- FP16 (R22). -/
def fFP16 : FFmt := { expBits := 5, man := 10, bias := 15, maxFin := 0x7BFF, special := true, canon := 0x7E00 }
/-- E4M3 (R22, R23). -/
def fE4M3 : FFmt := { expBits := 4, man := 3, bias := 7, maxFin := 0x7E, special := false, canon := 0x7F }
/-- E5M2 (R22). -/
def fE5M2 : FFmt := { expBits := 5, man := 2, bias := 15, maxFin := 0x7B, special := true, canon := 0x7E }
/-- E2M1 (R22, R23); it has no NaN, and R25 writes 0 for one. -/
def fE2M1 : FFmt := { expBits := 2, man := 1, bias := 1, maxFin := 0x7, special := false, canon := 0x0 }

/-- The magnitude code of a format's infinity. -/
def infCode (f : FFmt) : Nat := f.maxFin + 1

/-- The format's sign bit. -/
def signCode (f : FFmt) (neg : Bool) : Nat := if neg then 2 ^ (f.expBits + f.man) else 0

/-- The value of a code of a floating-point format (R22 to R24). -/
def fDecode (f : FFmt) (code : Nat) : Num :=
  let neg := decide (code / 2 ^ (f.expBits + f.man) % 2 = 1)
  let e := code / 2 ^ f.man % 2 ^ f.expBits
  let m := code % 2 ^ f.man
  if f.special && e = 2 ^ f.expBits - 1 then (if m = 0 then .inf neg else .nan)
  else if f.maxFin = 0x7E && code % 128 = 0x7F then .nan
  else if e = 0 then numScale neg m (1 - (f.bias : Int) - f.man)
  else numScale neg (2 ^ f.man + m) ((e : Int) - f.bias - f.man)

/-- The rounded magnitude code of `n / d` (R45, R46): codes go on past the largest finite one, so that a code above
`maxFin` is a value beyond range. -/
def fRoundMag (f : FFmt) (n d : Nat) : Nat :=
  if n = 0 then 0 else
  let e := ilog2 n d
  let emin : Int := 1 - (f.bias : Int)
  if e < emin then rne n d (emin - f.man)
  else
    let m := rne n d (e - f.man)
    ((e + f.bias).toNat) * 2 ^ f.man + (m - 2 ^ f.man)

/-- Round a value to a format with an infinity, overflow giving infinity: the rule of FP32 arithmetic (R51, R60). -/
def fRound (f : FFmt) (x : Num) : Nat :=
  match x with
  | .nan => f.canon
  | .inf s => signCode f s + infCode f
  | .fin s n d =>
    let c := fRoundMag f n d
    signCode f s + (if f.maxFin < c then infCode f else c)

/-- The value of an FP32 word. -/
def dec32 (w : Word32) : Num := fDecode fFP32 w.toNat

/-- Round a value to FP32. -/
def enc32 (x : Num) : Word32 := BitVec.ofNat 32 (fRound fFP32 x)

/-- The floating-point format of a code of R20, if it is one. -/
def fmtOf (c : Nat) : Option FFmt :=
  if c = 0 then some fFP32 else if c = 1 then some fBF16 else if c = 2 then some fFP16
  else if c = 3 then some fE4M3 else if c = 4 then some fE5M2 else if c = 6 then some fE2M1 else none

/-- The width in bits of a format code (R20). -/
def fmtWidth (c : Nat) : Nat :=
  if c = 0 ∨ c = 0xB then 32 else if c = 1 ∨ c = 2 then 16
  else if c = 3 ∨ c = 4 ∨ c = 5 ∨ c = 0xA then 8 else if c = 6 ∨ c = 7 then 4
  else if c = 8 then 2 else 1

/-- Two's complement of `w` bits (R26). -/
def signedOf (w v : Nat) : Int := if v < 2 ^ (w - 1) then (v : Int) else (v : Int) - 2 ^ w

/-- The low `w` bits of an integer. -/
def unsignedOf (w : Nat) (i : Int) : Nat := (i % (2 ^ w : Nat)).toNat

/-- The value of an element code of a format, other than W2 (R22 to R26, R41). -/
def fmtDecode (c v : Nat) : Num :=
  match fmtOf c with
  | some f => fDecode f v
  | none =>
    if c = 5 then numInt (signedOf 8 v)
    else if c = 7 then numInt (signedOf 4 v)
    else if c = 9 then numInt (if v = 0 then 1 else -1)
    else if c = 0xA then (if v = 0xFF then .nan else numScale false 1 ((v : Int) - 127))
    else numInt (signedOf 32 v)

/-- Element `j` of a packed row of `w`-bit elements (R27). -/
def packGet (row : List Byte) (w j : Nat) : Nat :=
  if w < 8 then ((row.getD (j * w / 8) 0).toNat / 2 ^ (j * w % 8)) % 2 ^ w
  else leAt row (j * (w / 8)) (w / 8)

/-- Bytes of a packed row of `w`-bit elements, padded with zeros to a 4-byte boundary (R27, R117). -/
def packRow (w : Nat) (vs : List Nat) : List Byte :=
  let total := (vs.zipIdx.map (fun p => (p.1 % 2 ^ w) * 2 ^ (p.2 * w))).foldl (· + ·) 0
  toLe (alignUp (cdiv (vs.length * w) 8) 4) total

/-- The bytes of `n` elements of a format, each row padded to 4 bytes (R28). -/
def rowBytes (c n : Nat) : Nat := alignUp (cdiv (n * fmtWidth c) 8) 4

/-! ## FP32 arithmetic of the rigger unit (R60 to R62, R107, R108) -/

/-- FP32 addition. -/
def add32 (a b : Word32) : Word32 := enc32 (numAdd (dec32 a) (dec32 b))
/-- FP32 subtraction. -/
def sub32 (a b : Word32) : Word32 := enc32 (numAdd (dec32 a) (numMinus (dec32 b)))
/-- FP32 multiplication. -/
def mul32 (a b : Word32) : Word32 := enc32 (numMul (dec32 a) (dec32 b))
/-- FP32 fused multiply-add, rounded once. -/
def fma32 (a b c : Word32) : Word32 := enc32 (numAdd (numMul (dec32 a) (dec32 b)) (dec32 c))

/-- The FP32 canonical NaN. -/
def nan32 : Word32 := 0x7FC00000

/-- MAX under R62. -/
def max32 (a b : Word32) : Word32 :=
  let x := dec32 a
  let y := dec32 b
  if numIsNan x || numIsNan y then nan32
  else if numIsZero x && numIsZero y then (if numNeg x && numNeg y then 0x80000000 else 0)
  else if numLt x y then b else a

/-- MIN under R62. -/
def min32 (a b : Word32) : Word32 :=
  let x := dec32 a
  let y := dec32 b
  if numIsNan x || numIsNan y then nan32
  else if numIsZero x && numIsZero y then (if numNeg x || numNeg y then 0x80000000 else 0)
  else if numLt y x then b else a

/-- 1.0 in FP32. -/
def one32 : Word32 := 0x3F800000

/-- VCMP (R177): 0 EQ, 1 LT, 2 LE; +0 if either input is NaN. -/
def cmp32 (op : Nat) (a b : Word32) : Word32 :=
  let x := dec32 a
  let y := dec32 b
  if numIsNan x || numIsNan y then 0
  else
    let lt := numLt x y
    let eq := !lt && !numLt y x
    if (if op = 0 then eq else if op = 1 then lt else lt || eq) then one32 else 0

/-- FP32 to INT32 (R177): rounded to nearest even, NaN gives 0, out of range the nearer bound. -/
def f2i32 (a : Word32) : Word32 :=
  match dec32 a with
  | .nan => 0
  | .inf s => if s then 0x80000000 else 0x7FFFFFFF
  | .fin s n d =>
    let k := rne n d 0
    if s then (if 2 ^ 31 < k then 0x80000000 else BitVec.ofInt 32 (-(k : Int)))
    else (if 2 ^ 31 - 1 < k then 0x7FFFFFFF else BitVec.ofNat 32 k)

/-- INT32 to FP32 (R177). -/
def i2f32 (a : Word32) : Word32 := enc32 (numInt a.toInt)

/-- Integer square root by bits, from bit `k` down: the largest `r` with `r * r ≤ v` whose bits above `k` are `r0`. -/
def isqrtFrom (v r0 k : Nat) : Nat :=
  match k with
  | 0 => r0
  | j + 1 =>
    let r1 := r0 + 2 ^ j
    if r1 * r1 ≤ v then isqrtFrom v r1 j else isqrtFrom v r0 j

/-- Integer square root. -/
def isqrt (v : Nat) : Nat := isqrtFrom v 0 (Nat.log2 v / 2 + 1)

/-- A value known to lie strictly between `k` and `k + 1` units of `2^-p`, or equal to `k` units when `exact`: rounding
either gives the same result whenever the interval holds no rounding boundary. -/
def sticky (neg exact : Bool) (k p : Nat) : Num :=
  if exact then .fin neg k (2 ^ p) else .fin neg (2 * k + 1) (2 ^ (p + 1))

/-- RSQRT of a positive finite value (R108), with 200 fraction bits and the sticky bit. -/
def rsqrtNum (n d : Nat) : Num :=
  let v := d * 2 ^ 400 / n
  let r := isqrt v
  sticky false (decide (r * r * n = d * 2 ^ 400)) r 200

/-- The fraction bits of the logarithm of `y` (in units of `2^-256`, in `[1, 2)`), by repeated squaring: `k` bits. -/
def log2Bits (y k : Nat) : Nat :=
  match k with
  | 0 => 0
  | j + 1 =>
    let z := y * y / 2 ^ 256
    if 2 ^ 257 ≤ z then 2 ^ j + log2Bits (z / 2) j else log2Bits z j

/-- LOG2 of a positive finite value (R108), with 100 fraction bits and the sticky bit. A power of two is exact. -/
def log2Num (n d : Nat) : Num :=
  let e := ilog2 n d
  let p := scaleFrac n d e
  let y := p.1 * 2 ^ 256 / p.2
  if p.1 = p.2 then numInt e
  else
    let k : Int := e * 2 ^ 100 + (log2Bits y 100 : Nat)
    if 0 ≤ k then sticky false false k.toNat 100 else sticky true false (-k - 1).toNat 100

/-- The product of the roots `2^(2^-i)` over the set bits of a fraction of `k` bits, in units of `2^-256`: `c` is the
root of the current bit, `acc` the product so far. -/
def exp2Bits (fr k c acc : Nat) : Nat :=
  match k with
  | 0 => acc
  | j + 1 =>
    let c' := isqrt (c * 2 ^ 256)
    let acc' := if fr / 2 ^ j % 2 = 1 then acc * c' / 2 ^ 256 else acc
    exp2Bits fr j c' acc'

/-- EXP2 of a finite value of magnitude below 256 whose fraction has at most 64 bits (R108). An integer argument is
exact. -/
def exp2Num (neg : Bool) (n d : Nat) : Num :=
  let t : Int := if neg then -((n * 2 ^ 64 / d : Nat) : Int) else ((n * 2 ^ 64 / d : Nat) : Int)
  let ip : Int := t / (2 ^ 64 : Nat)
  let fr : Nat := (t % (2 ^ 64 : Nat)).toNat
  if fr = 0 then numScale false 1 ip
  else
    let m := exp2Bits fr 64 (2 * 2 ^ 256) (2 ^ 256)
    numScale false (2 * (m / 2 ^ 100) + 1) (ip - 157)

/-- EXP2 (R108). Arguments of magnitude below 2^-26 give 1.0, to which their results round. -/
def vexp2 (a : Word32) : Word32 :=
  match dec32 a with
  | .nan => nan32
  | .inf s => if s then 0 else 0x7F800000
  | .fin s n d =>
    if n = 0 then one32
    else if !s && 128 * d ≤ n then 0x7F800000
    else if s && 150 * d < n then 0
    else if n * 2 ^ 26 < d then one32
    else enc32 (exp2Num s n d)

/-- LOG2 (R108). -/
def vlog2 (a : Word32) : Word32 :=
  match dec32 a with
  | .nan => nan32
  | .inf s => if s then nan32 else 0x7F800000
  | .fin s n d =>
    if n = 0 then 0xFF800000
    else if s then nan32
    else enc32 (log2Num n d)

/-- RECIP (R108). -/
def vrecip (a : Word32) : Word32 :=
  match dec32 a with
  | .nan => nan32
  | .inf s => if s then 0x80000000 else 0
  | .fin s n d => if n = 0 then (if s then 0xFF800000 else 0x7F800000) else enc32 (.fin s d n)

/-- RSQRT (R108). -/
def vrsqrt (a : Word32) : Word32 :=
  match dec32 a with
  | .nan => nan32
  | .inf s => if s then nan32 else 0
  | .fin s n d =>
    if n = 0 then (if s then 0xFF800000 else 0x7F800000)
    else if s then nan32
    else enc32 (rsqrtNum n d)

/-- The four functions of VFUNC by SUB (R177). -/
def vfunc (op : Nat) (a : Word32) : Word32 :=
  if op = 0 then vexp2 a else if op = 1 then vlog2 a else if op = 2 then vrecip a else vrsqrt a

/-! ## Sums -/

/-- The pairwise sum of adjacent words by `f`: element `2i` with element `2i + 1`. -/
def pairUp (f : Word32 → Word32 → Word32) (l : List Word32) : List Word32 :=
  match l with
  | a :: b :: r => f a b :: pairUp f r
  | l => l

/-- A fixed pairwise tree of `k` levels (R54, R178). -/
def treeOf (f : Word32 → Word32 → Word32) (k : Nat) (l : List Word32) : Word32 :=
  match k with
  | 0 => l.headD 0
  | j + 1 => treeOf f j (pairUp f l)

/-- What R57 gives a list that holds a NaN or an infinity; `none` when every value is finite. -/
def specialSum (ps : List Num) : Option Num :=
  if ps.any numIsNan then some .nan
  else
    let pos := ps.any (fun p => p = .inf false)
    let neg := ps.any (fun p => p = .inf true)
    if pos && neg then some .nan
    else if pos then some (.inf false)
    else if neg then some (.inf true)
    else none

/-- The largest exponent of the non-zero finite values, if there is one (R50). -/
def maxExp (ps : List Num) : Option Int :=
  ps.foldl (fun acc p =>
    match p with
    | .fin _ n d =>
      if n = 0 then acc
      else
        let e := ilog2 n d
        match acc with
        | none => some e
        | some a => some (if a < e then e else a)
    | _ => acc) none

/-- A group of exact products on the ordinary path (R50, R51, R57). -/
def groupSum (ps : List Num) : Word32 :=
  match specialSum ps with
  | some x => enc32 x
  | none =>
    match maxExp ps with
    | none => 0
    | some e =>
      let q : Int := e - 26
      let total : Int := (ps.map (fun p =>
        match p with
        | .fin s n d => if s then -((truncQ n d q : Nat) : Int) else ((truncQ n d q : Nat) : Int)
        | _ => 0)).foldl (· + ·) 0
      if total = 0 then 0 else enc32 (numScale (decide (total < 0)) total.natAbs q)

/-- Take a list in groups of `k`, `n` of them, padding with `d`. -/
def chunks {α : Type} (d : α) (k n : Nat) (l : List α) : List (List α) :=
  (List.range n).map (fun i => (List.range k).map (fun j => l.getD (i * k + j) d))

/-- The result of a pass on the ordinary path (R50 to R52). -/
def passOrdinary (ps : List Num) : Word32 :=
  treeOf add32 3 ((chunks numZero 16 8 ps).map groupSum)

/-- The result of a pass on the stroke path (R54). -/
def passStroke (ps : List Num) : Word32 :=
  treeOf add32 7 ((chunks numZero 128 1 ps).flatten.map enc32)

/-- The result of a pass in FP32, by the task's EXACT bit (R55). -/
def passF32 (exact : Bool) (ps : List Num) : Word32 := if exact then passStroke ps else passOrdinary ps

/-- The integer that an exact integer value stands for. -/
def numToInt (x : Num) : Int :=
  match x with
  | .fin s n d => if s then -((n / d : Nat) : Int) else ((n / d : Nat) : Int)
  | _ => 0

/-- The exact sum of a pass of integer products (R58). -/
def passInt (ps : List Num) : Int := (ps.map numToInt).foldl (· + ·) 0

/-- Clamp to INT32, and whether the clamp took effect (R58). -/
def clamp32 (i : Int) : Word32 × Bool :=
  if 2147483647 < i then (0x7FFFFFFF, true)
  else if i < -2147483648 then (0x80000000, true)
  else (BitVec.ofInt 32 i, false)

/-- The slot element after a pass (R53, R58): the old element, whether the pass initialises, and the products.
The second component is a clamp. -/
def accumulate (int exact init : Bool) (shift : Nat) (old : Word32) (ps : List Num) : Word32 × Bool :=
  if int then
    clamp32 ((if init then 0 else old.toInt) + passInt ps * (2 ^ (8 * shift) : Nat))
  else
    let r := passF32 exact ps
    (if init then r else add32 old r, false)

/-! ## Scale modes (R37, R41, R42) -/

/-- SFMT of a scale mode. -/
def smFmt (sm : Nat) : Nat := sm % 4
/-- BLOCK of a scale mode, in elements. -/
def smBlock (sm : Nat) : Nat := 8 * 2 ^ (sm / 4 % 8)
/-- DIR of a scale mode: whether blocks run along the output dimension. -/
def smDir (sm : Nat) : Bool := decide (sm / 32 % 2 = 1)
/-- Bytes of a scale of a scale format. -/
def scaleBytes (sf : Nat) : Nat := if sf = 3 then 2 else 1
/-- The value of a scale code (R41, R42); SFMT 0 is an unscaled operand (R39). -/
def scaleVal (sf v : Nat) : Num :=
  if sf = 1 then fmtDecode 0xA v else if sf = 2 then fmtDecode 3 v else if sf = 3 then fmtDecode 1 v else numOne

/-- Scale `j` of a scale row. -/
def scaleAt (sf : Nat) (row : List Byte) (j : Nat) : Num :=
  scaleVal sf (leAt row (j * scaleBytes sf) (scaleBytes sf))

/-- Number of scale rows and scales a row of an operand of `r` rows and `k` columns (R43). -/
def scaleShape (sm r k : Nat) : Nat × Nat :=
  if smFmt sm = 0 then (0, 0)
  else if smDir sm then (cdiv r (smBlock sm), k)
  else (r, cdiv k (smBlock sm))

/-- The scale of element `(r, k)` of an operand from its scale rows (R39, R43). -/
def scaleOf (sm : Nat) (rows : List (List Byte)) (r k : Nat) : Num :=
  if smFmt sm = 0 then numOne
  else if smDir sm then scaleAt (smFmt sm) (rows.getD (r / smBlock sm) []) k
  else scaleAt (smFmt sm) (rows.getD r []) (k / smBlock sm)

/-- Whether a pair accumulates in INT32: the activation is INT8 or INT4 (R32). -/
def intPair (afmt : Nat) : Bool := afmt = 5 || afmt = 7

/-- The pass width of a weight format (R88). -/
def passWidth (wfmt : Nat) : Nat :=
  if fmtWidth wfmt ≤ 2 then 512 else if fmtWidth wfmt = 4 then 256 else 128

/-- Whether a W2 table entry is exact in the activation format (R36). -/
def w2Ok (afmt : Nat) (v : Num) : Bool :=
  match v with
  | .fin s n d =>
    if afmt = 5 then decide (n % d = 0) && decide (if s then n / d ≤ 128 else n / d ≤ 127)
    else
      match fmtOf afmt with
      | some f =>
        let c := fRoundMag f n d
        decide (c ≤ f.maxFin) &&
          (match fDecode f c with
           | .fin _ m e => decide (n * e = m * d)
           | _ => false)
      | none => false
  | _ => false

/-- The weight element at a code: a W2 code reads the value table, and a negative-zero entry decodes as zero
(R26, R36). -/
def weightVal (wfmt : Nat) (table : List Byte) (v : Nat) : Num :=
  if wfmt = 8 then
    match fDecode fBF16 (leAt table (2 * v) 2) with
    | .fin s n d => if n = 0 then numZero else .fin s n d
    | x => x
  else fmtDecode wfmt v

end Sys2Proof.Machine
end

