-- ==== Sys2Proof/Machine/Flags.lean ====
section
/-! DEFINITION. The numeric flag word of a task (R68) and the conversions that set it: rounding into a target with clip,
overflow and subnormal mode (R25, R45 to R47, R63, R65 to R67), block scales (R69 to R71), escapes (R72 to R75), the
split conversions (R77, R78) and the exponent histogram (R79, R83). -/

namespace Sys2Proof.Machine

open Sys2Proof

/-- OVERFLOW (R68). -/
def flOverflow : BitVec 8 := 0x01
/-- INVALID (R68). -/
def flInvalid : BitVec 8 := 0x02
/-- FLUSHED (R68). -/
def flFlushed : BitVec 8 := 0x04
/-- ACC_SAT (R68). -/
def flAccSat : BitVec 8 := 0x08
/-- SCALE_RANGE (R68). -/
def flScaleRange : BitVec 8 := 0x10
/-- ESC_RANGE (R68). -/
def flEscRange : BitVec 8 := 0x20
/-- HIST_SAT (R68). -/
def flHistSat : BitVec 8 := 0x40

/-- `f` when `c` holds. -/
def flIf (c : Bool) (f : BitVec 8) : BitVec 8 := if c then f else 0

/-- How an element is converted: target format code, clip, and flush mode (R46, R66). -/
structure CvtMode where
  tfmt  : Nat
  clip  : Bool
  flush : Bool
deriving DecidableEq, Repr

/-- Width of an integer target. -/
def intWidth (tfmt : Nat) : Nat := if tfmt = 5 then 8 else if tfmt = 7 then 4 else 32

/-- The largest magnitude of an integer target by sign (R47). -/
def intBound (tfmt : Nat) (neg : Bool) : Nat := if neg then 2 ^ (intWidth tfmt - 1) else 2 ^ (intWidth tfmt - 1) - 1

/-- The code of an integer of a sign and magnitude. -/
def intCode (tfmt : Nat) (neg : Bool) (m : Nat) : Nat :=
  unsignedOf (intWidth tfmt) (if neg then -(m : Int) else (m : Int))

/-- The code and flags of NaN in a target (R25, R22); INVALID is set by R65. -/
def cvtNan (tfmt : Nat) : Nat :=
  match fmtOf tfmt with
  | some f => f.canon
  | none => 0

/-- Steps 6 to 10 of R63 for one value: the code and the flags OVERFLOW and FLUSHED. -/
def cvtElem (c : CvtMode) (x : Num) : Nat × BitVec 8 :=
  match fmtOf c.tfmt with
  | some f =>
    match x with
    | .nan => (f.canon, 0)
    | .inf s =>
      if c.tfmt = 3 then (f.canon, flOverflow)
      else if c.tfmt = 6 then (signCode f s + f.maxFin, flOverflow)
      else (signCode f s + infCode f, 0)
    | .fin s n d =>
      let m := fRoundMag f n d
      if f.maxFin < m then
        if c.clip then (signCode f s + f.maxFin, 0)
        else if f.special then (signCode f s + infCode f, flOverflow)
        else (signCode f s + f.maxFin, flOverflow)
      else if m = 0 then (0, 0)
      else if c.flush && decide (m < 2 ^ f.man) then (0, flFlushed)
      else (signCode f s + m, 0)
  | none =>
    match x with
    | .nan => (0, 0)
    | .inf s => (intCode c.tfmt s (intBound c.tfmt s), flOverflow)
    | .fin s n d =>
      let m := rne n d 0
      if intBound c.tfmt s < m then (intCode c.tfmt s (intBound c.tfmt s), flIf (!c.clip) flOverflow)
      else (intCode c.tfmt s m, 0)

/-- The histogram bin of a value, from FP32(z) (R79). -/
def histBin (z : Num) : Nat :=
  match dec32 (enc32 z) with
  | .nan => 63
  | .inf _ => 63
  | .fin _ n d =>
    if n = 0 then 0
    else
      let e := ilog2 n d
      if e < -30 then 1 else if 30 ≤ e then 62 else (e + 32).toNat

/-- Count one value: a counter that would pass its largest value stays there and sets SATURATED and HIST_SAT (R83). -/
def histCount (h : Tbl Word32 × Bool) (z : Num) : Tbl Word32 × Bool :=
  let b := histBin z
  let v := tget h.1 b 0
  if v = 0xFFFFFFFF then (h.1, true) else (tset h.1 b (v + 1), h.2)

/-! ## Block scales (R69 to R71) -/

/-- The largest finite magnitude of a target that may carry block scales, and `e_T` (R70). -/
def tMax (tfmt : Nat) : Nat × Int :=
  if tfmt = 3 then (448, 8) else if tfmt = 4 then (57344, 15) else if tfmt = 5 then (127, 6)
  else if tfmt = 6 then (6, 2) else (7, 2)

/-- The larger magnitude of two finite values; the first at a tie. -/
def magMax (x y : Num) : Num := if magLt x y then y else x

/-- A value's magnitude. -/
def numAbs (x : Num) : Num :=
  match x with
  | .fin _ n d => .fin false n d
  | .inf _ => .inf false
  | .nan => .nan

/-- The scale code of a block from its largest magnitude `a`, and whether R71 clamped it. -/
def blockScale (sf tfmt : Nat) (a : Num) : Nat × Bool :=
  match a with
  | .fin _ n d =>
    if n = 0 then (if sf = 1 then 0x7F else if sf = 2 then 0x38 else 0x3F80, false)
    else if sf = 1 then
      let e := ilog2 n d - (tMax tfmt).2
      if e < -127 then (0x00, true) else if 127 < e then (0xFE, true) else ((e + 127).toNat, false)
    else
      let f := if sf = 2 then fE4M3 else fBF16
      let m := fRoundMag f n (d * (tMax tfmt).1)
      if f.maxFin < m then (f.maxFin, true) else if m = 0 then (1, true) else (m, false)
  | _ => (if sf = 1 then 0x7F else if sf = 2 then 0x38 else 0x3F80, false)

/-- The canonical NaN of a scale format (R70). -/
def scaleNan (sf : Nat) : Nat := if sf = 1 then 0xFF else if sf = 2 then 0x7F else 0x7FC0

/-- The `k` escaped indexes of a block of values, largest magnitude first, ties to the lower index (R73); none when the
block holds a NaN. `used` are the indexes already taken. -/
def escapes (k : Nat) (zs : List Num) (used : List Nat) : List Nat :=
  match k with
  | 0 => []
  | j + 1 =>
    let best := (zs.zipIdx).foldl (fun (acc : Option (Nat × Num)) p =>
      if !numIsFin p.1 || used.contains p.2 then acc
      else
        match acc with
        | none => some (p.2, p.1)
        | some (i, z) => if magLt z p.1 then some (p.2, p.1) else some (i, z)) none
    match best with
    | none => []
    | some (i, _) => i :: escapes j zs (i :: used)

/-- What converting one block gives: element codes, the scale code, the escape slots, and flags. -/
structure BlockOut where
  codes : List Nat
  scale : Nat
  slots : List Nat
  flags : BitVec 8
deriving DecidableEq, Repr

/-- The residual of an escaped element: E4M3, clamped with ESC_RANGE, under the subnormal mode (R74). -/
def residual (flush : Bool) (zs : Num) (c : Num) : Nat × BitVec 8 :=
  match numAdd zs (numMinus c) with
  | .fin s n d =>
    let m := fRoundMag fE4M3 n d
    if fE4M3.maxFin < m then (signCode fE4M3 s + fE4M3.maxFin, flEscRange)
    else if m = 0 then (0, 0)
    else if flush && decide (m < 8) then (0, flFlushed)
    else (signCode fE4M3 s + m, 0)
  | _ => (0, 0)

/-- Step 5 and steps 6 to 11 of R63 for one block of a target with block scales of format `sf` and `esc` escapes
(R69 to R75). -/
def cvtBlock (c : CvtMode) (sf esc : Nat) (zs : List Num) : BlockOut :=
  let hasNan := zs.any numIsNan
  let ex := if hasNan then [] else escapes esc zs []
  let a := (zs.zipIdx).foldl (fun acc p =>
    if numIsFin p.1 && !ex.contains p.2 then magMax acc (numAbs p.1) else acc) numZero
  let bs := blockScale sf c.tfmt a
  let so := scaleVal sf bs.1
  let elems := (zs.zipIdx).map (fun p =>
    let zq := numDiv p.1 so
    if ex.contains p.2 then
      cvtElem { c with clip := true } zq
    else cvtElem c zq)
  let res := ex.map (fun i =>
    let zq := numDiv (zs.getD i numZero) so
    let cv := fDecode fE2M1 ((elems.getD i (0, 0)).1)
    let r := residual c.flush zq cv
    (i + r.1 * 256, r.2))
  let nanScale := hasNan && (c.tfmt = 5 || c.tfmt = 6 || c.tfmt = 7)
  { codes := elems.map (fun p => p.1)
    scale := if nanScale then scaleNan sf else bs.1
    slots := (res.map (fun p => p.1)) ++ List.replicate (2 - ex.length) 0
    flags := (elems.map (fun p => p.2)).foldl (· ||| ·) 0 ||| (res.map (fun p => p.2)).foldl (· ||| ·) 0
      ||| flIf bs.2 flScaleRange }

/-! ## Split conversions (R77, R78) -/

/-- BF16 of a value limited to the largest finite BF16 magnitude. -/
def bf16Lim (x : Num) : Nat :=
  match x with
  | .fin s n d =>
    let m := fRoundMag fBF16 n d
    signCode fBF16 s + (if fBF16.maxFin < m then fBF16.maxFin else m)
  | y => fRound fBF16 y

/-- A zero of either sign is written +0 (R67). -/
def dropNegZero (f : FFmt) (c : Nat) : Nat := if c = signCode f true then 0 else c

/-- The three BF16 planes of FP32(z) (R77). -/
def split3 (z : Num) : List Nat :=
  match dec32 (enc32 z) with
  | .nan => [fBF16.canon, fBF16.canon, fBF16.canon]
  | .inf s => [signCode fBF16 s + infCode fBF16, 0, 0]
  | x =>
    let h := bf16Lim x
    let r := numAdd x (numMinus (fDecode fBF16 h))
    let m := fRound fBF16 r
    let r2 := numAdd r (numMinus (fDecode fBF16 m))
    let l := fRound fBF16 r2
    [dropNegZero fBF16 h, dropNegZero fBF16 m, dropNegZero fBF16 l]

/-- The two INT8 planes of the exact z, and OVERFLOW (R78). -/
def split2 (clip : Bool) (z : Num) : List Nat × BitVec 8 :=
  let planes : Int → List Nat := fun x =>
    let hi := (x + 128) / 256
    [unsignedOf 8 hi, unsignedOf 8 (x - 256 * hi)]
  match z with
  | .nan => ([0, 0], 0)
  | .inf s => (planes (if s then -32896 else 32639), flOverflow)
  | .fin s n d =>
    let m := rne n d 0
    let x : Int := if s then -(m : Int) else (m : Int)
    if 32639 < x then (planes 32639, flIf (!clip) flOverflow)
    else if x < -32896 then (planes (-32896), flIf (!clip) flOverflow)
    else (planes x, 0)

end Sys2Proof.Machine
end

