-- ==== Sys2Proof/Machine/Ops.lean ====
section
/-! DEFINITION. The named operations over the device's state: access to its tables and registers, contexts, address
translation and memory access (R411 to R416, R498), rings, records and messages (R430, R479 to R485), and a context's
fault as one shared operation (R432, R435, R436). -/

namespace Sys2Proof.Machine

open Sys2Proof

/-- What a command answers. -/
abbrev Answer := Host.Outcome State Fault Refusal

/-- The command changes the device by `f`. -/
def onDev (s : State) (f : Dev → Dev) : Answer := .next { s with dev := f s.dev }

/-- The command changes nothing. -/
def nothing (s : State) : Answer := .next s

/-- A command that names an object beyond `limit` of them stops; otherwise `f` is its effect (R8, R391). -/
def onObj (i limit : Nat) (s : State) (f : Dev → Dev) : Answer :=
  if i < limit then onDev s f else .fault .noSuchObject

/-! ## Tables -/

/-- Tile `t`. -/
def getTile (d : Dev) (t : Nat) : Tile := tget d.tiles t Tile.init
/-- Replace tile `t`. -/
def setTile (d : Dev) (t : Nat) (x : Tile) : Dev := { d with tiles := tset d.tiles t x }
/-- Context record `cr`. -/
def getCtx (d : Dev) (cr : Nat) : Ctx := tget d.pmg.ctxs cr Ctx.init
/-- Replace context record `cr`. -/
def setCtx (d : Dev) (cr : Nat) (x : Ctx) : Dev := { d with pmg := { d.pmg with ctxs := tset d.pmg.ctxs cr x } }
/-- Partition `p`'s run-time state. -/
def getPart (d : Dev) (p : Nat) : Part := tget d.pmg.parts p Part.init
/-- Replace partition `p`'s run-time state. -/
def setPart (d : Dev) (p : Nat) (x : Part) : Dev := { d with pmg := { d.pmg with parts := tset d.pmg.parts p x } }
/-- Slot `i` of the active-sequence table. -/
def getSlot (d : Dev) (i : Nat) : Slot := tget d.cox.slots i Slot.init
/-- Replace slot `i`. -/
def setSlot (d : Dev) (i : Nat) (x : Slot) : Dev := { d with cox := { d.cox with slots := tset d.cox.slots i x } }
/-- Cox's state of context record `cr`. -/
def getSteps (d : Dev) (cr : Nat) : CtxSteps := tget d.cox.steps cr CtxSteps.init
/-- Replace Cox's state of context record `cr`. -/
def setSteps (d : Dev) (cr : Nat) (x : CtxSteps) : Dev := { d with cox := { d.cox with steps := tset d.cox.steps cr x } }
/-- Registered model `m`. -/
def getModel (d : Dev) (m : Nat) : Option Model := tfind d.cox.models m
/-- Replace model `m`. -/
def setModel (d : Dev) (m : Nat) (x : Model) : Dev := { d with cox := { d.cox with models := tset d.cox.models m x } }
/-- Keystone node `n`. -/
def getNode (d : Dev) (n : Nat) : Node := tget d.key.nodes n Node.init
/-- Replace Keystone node `n`. -/
def setNode (d : Dev) (n : Nat) (x : Node) : Dev := { d with key := { d.key with nodes := tset d.key.nodes n x } }
/-- Flow record `f`. -/
def getFlow (d : Dev) (f : Nat) : Flow := tget d.cwy.flows f Flow.init
/-- Replace flow record `f`. -/
def setFlow (d : Dev) (f : Nat) (x : Flow) : Dev := { d with cwy := { d.cwy with flows := tset d.cwy.flows f x } }
/-- Logical port `l`. -/
def getPort (d : Dev) (l : Nat) : LPort := tget d.ports l LPort.init
/-- Replace logical port `l`. -/
def setPort (d : Dev) (l : Nat) (x : LPort) : Dev := { d with ports := tset d.ports l x }
/-- The PCIe settings of function `f`. -/
def getFn (d : Dev) (f : Nat) : Fn := tget d.hif.fns f Fn.init
/-- Replace the PCIe settings of function `f`. -/
def setFn (d : Dev) (f : Nat) (x : Fn) : Dev := { d with hif := { d.hif with fns := tset d.hif.fns f x } }
/-- The number of the buffer table that a step of partition `p` uses: the two steps of a partition that may deliver at
once (R272, R285) name entries of their own (log 16). -/
def bufTable (p step : Nat) : Nat := p + 16 * (step % 2)
/-- Entry `b` of buffer table `p` (R213). -/
def getBuf (d : Dev) (p b : Nat) : Buf := tget d.bufs (p * 65536 + b) Buf.init
/-- Replace a buffer table entry. -/
def setBuf (d : Dev) (p b : Nat) (x : Buf) : Dev := { d with bufs := tset d.bufs (p * 65536 + b) x }
/-- Slide engine `e`. -/
def getEngine (d : Dev) (e : Nat) : Engine := tget d.engines e Engine.init

/-! ## Stored registers of PF BAR0 -/

/-- The reset value of a stored register, zero unless its table says otherwise: CWY_TIMERS (R386), CWY_ECN (R387), quadword 1
of each destination (R390) and COX_VFWIN0 (R314). The image's values are loaded by the structure loader. -/
def regReset (off : Nat) : Nat :=
  if off = 0x0800008 then 2000 + 64 * 2 ^ 17 + 3 * 2 ^ 28 + 256 * 2 ^ 32
  else if off = 0x0800010 then 10 + 1 * 2 ^ 8 + 0x1A * 2 ^ 16 + 0x0A * 2 ^ 22 + 2 ^ 28
  else if 0x0810000 ≤ off ∧ off < 0x0810000 + 32 * 4096 ∧ off % 32 = 8 then 64 * 2 ^ 28
  else if off = 0x0400800 then 65536 * 2 ^ 16
  else 0

/-- The stored value of the register at an offset of PF BAR0. -/
def reg (d : Dev) (off : Nat) : Word64 := tget d.regs off (BitVec.ofNat 64 (regReset off))

/-- Store a register. -/
def setReg (d : Dev) (off : Nat) (v : Word64) : Dev := { d with regs := tset d.regs off v }

/-- PMG_PART_CFGp (R461). -/
def partCfg (d : Dev) (p : Nat) : Word64 := reg d (0x0200000 + 8 * p)
/-- ENABLE of a partition. -/
def partEnabled (d : Dev) (p : Nat) : Bool := bitOf (partCfg d p) 0
/-- PREEMPT of a partition: true is PRE_TILE. -/
def partPreTile (d : Dev) (p : Nat) : Bool := bitOf (partCfg d p) 1
/-- SLICE of a partition in µs. -/
def partSlice (d : Dev) (p : Nat) : Nat := fld (partCfg d p) 2 17
/-- GRACE of a partition in µs. -/
def partGrace (d : Dev) (p : Nat) : Nat := fld (partCfg d p) 24 17
/-- RES_BASE of a partition. -/
def partResBase (d : Dev) (p : Nat) : Nat := fld (partCfg d p) 41 7
/-- RES_COUNT of a partition. -/
def partResCount (d : Dev) (p : Nat) : Nat := fld (partCfg d p) 48 8
/-- Whether tile `t` is in partition `p` (R462). -/
def tileIn (d : Dev) (p t : Nat) : Bool := bitOf (reg d (0x0200100 + 32 * p + 8 * (t / 64))) (t % 64)
/-- Whether tile `t` is mapped out (R506). -/
def mappedOut (d : Dev) (t : Nat) : Bool := bitOf d.boot.mapOut t
/-- The partition of a tile, if an enabled one has it. -/
def partOfTile (d : Dev) (t : Nat) : Option Nat :=
  findFrom (fun p => partEnabled d p && tileIn d p t) 0 16
/-- The mapped-in tiles of a partition in ascending order (R212). -/
def partTiles (d : Dev) (p : Nat) : List Nat :=
  (List.range 256).filter (fun t => tileIn d p t && !mappedOut d t)
/-- PMG_REG of a partition and resource: LC_RATE, BURST, BE_WEIGHT (R463). -/
def partReg (d : Dev) (p r : Nat) : Word64 := reg d (0x0200400 + 32 * p + 8 * r)
/-- PIE_PART_FRAMESp (R325). -/
def partFrames (d : Dev) (p : Nat) : Word64 := reg d (0x1000000 + 8 * p)
/-- Whether a partition's frame range is in force: ENABLE of PIE_PART_FRAMES (R325). -/
def rangeOn (d : Dev) (p : Nat) : Bool := bitOf (partFrames d p) 63
/-- FRAME_BASE, or past the last frame when the range is not in force: the partition then has no frame (R325). -/
def frameBase (d : Dev) (p : Nat) : Nat := if rangeOn d p then fld (partFrames d p) 0 20 else 0x100000
/-- POOL_BASE. -/
def poolBase (d : Dev) (p : Nat) : Nat := if rangeOn d p then fld (partFrames d p) 20 20 else 0x100000
/-- FRAME_LIMIT. -/
def frameLimit (d : Dev) (p : Nat) : Nat := if rangeOn d p then fld (partFrames d p) 40 20 else 0
/-- The slot window of a function: BASE and SIZE of COX_VFWIN (R314). -/
def vfWin (d : Dev) (fn : Nat) : Nat × Nat :=
  let w := reg d (0x0400800 + 8 * fn)
  (fld w 0 16, fld w 16 17)

/-! ## Contexts -/

/-- The record of function `fn`'s context VCTX, if it has one (R442). -/
def ctxOf (d : Dev) (fn vctx : Nat) : Option Nat :=
  (d.pmg.ctxs.find? (fun p => p.2.st ≠ .free && p.2.fn.toNat = fn && p.2.vctx.toNat = vctx)).map (fun p => p.1)

/-- The record in context slot `c`, if it is occupied (R465). -/
def recInSlot (d : Dev) (c : Nat) : Option Nat := (tfind d.pmg.cslots c).map (fun r => r.toNat)

/-- The context number of a record while resident; 0 if it has none. -/
def ctxNo (d : Dev) (cr : Nat) : Nat :=
  match (getCtx d cr).cslot with
  | some c => c.toNat
  | none => 0

/-- Whether a context is FAULTED or its record is free: it translates nothing (R432). -/
def ctxDead (d : Dev) (cr : Nat) : Bool :=
  match (getCtx d cr).st with
  | .free => true
  | .faulted => true
  | _ => false

/-- The step of a context that its running tasks belong to. -/
def curStep (d : Dev) (cr : Nat) : Option Step := (getSteps d cr).cur

/-- The running or the built step of a context by its number (R272). -/
def stepOf (d : Dev) (cr num : Nat) : Option Step :=
  ([(getSteps d cr).cur, (getSteps d cr).nxt].filterMap id).find? (fun st => st.num = num)

/-- The main model of a step of a context (R413). -/
def stepModel (d : Dev) (cr num : Nat) : Option Nat := (stepOf d cr num).map (fun st => st.model)

/-- A device slot in its function's view (R478): slot number within the window. -/
def viewSlot (d : Dev) (fn slot : Nat) : Nat := slot - (vfWin d fn).1

/-- A device handle in its function's view. -/
def viewHandle (d : Dev) (fn : Nat) (h : Nat) : Nat := h / 65536 * 65536 + (viewSlot d fn (h % 65536)) % 65536

/-- The device handle of a slot: generation and slot (R8, R274). -/
def slotHandle (d : Dev) (i : Nat) : Nat := (getSlot d i).gen.toNat * 65536 + i

/-! ## Fault codes (R429) -/

def fXlateInvalid : Nat := 0x0001
def fXlatePerm : Nat := 0x0002
def fDeckBound : Nat := 0x0003
def fAccCapacity : Nat := 0x0004
def fIllegalInstr : Nat := 0x0005
def fFormatPair : Nat := 0x0006
def fEccDeck : Nat := 0x0007
def fEccPier : Nat := 0x0008
def fDmaTargetOff : Nat := 0x0009
def fStaleHandle : Nat := 0x000A
def fPageList : Nat := 0x000B
def fCausewayTimeout : Nat := 0x000C
def fNonpreemptOverrun : Nat := 0x000D
def fTaskTimeout : Nat := 0x000E
def fRegulatorConfig : Nat := 0x000F
def fDeviceFatal : Nat := 0x0100

/-! ## Regulated traffic (R456 to R458) -/

/-- Debit `n` bytes from bucket `i` of a partition: 0 pier, 1 and 2 the bridge from die 0 and from die 1, 3 causeway egress, 4 and
5 PCIe from and to the device. -/
def debit (d : Dev) (p i n : Nat) : Dev :=
  { d with pmg := { d.pmg with buckets := tset d.pmg.buckets (8 * p + i) (tget d.pmg.buckets (8 * p + i) 0 - (n : Int)) } }

/-- Regulated traffic: LC bytes are debited while the bucket holds more than zero; other bytes go as BE traffic (R456). -/
def charge (d : Dev) (p i n : Nat) (be : Bool) : Dev :=
  if !be && decide (0 < tget d.pmg.buckets (8 * p + i) 0) then debit d p i n else d

/-- Traffic of a context, of its class and partition (R444). -/
def chargeCtx (d : Dev) (cr i n : Nat) : Dev := charge d (getCtx d cr).part.toNat i n (getCtx d cr).be

/-- A read at a virtual address: of pier, or of host memory (R411). -/
def chargeRead (d : Dev) (cr va n : Nat) : Dev :=
  if va < 0x4000000000 then chargeCtx d cr 0 n else if 0x8000000000 ≤ va then chargeCtx d cr 5 n else d

/-- Data from tile `a` to tile `b` when the route crosses the bridge; die 0 holds tiles 0 to 127 (R9, R222). -/
def chargeBridge (d : Dev) (cr a b n : Nat) : Dev :=
  if a < 128 && decide (128 ≤ b) then chargeCtx d cr 1 n else if 128 ≤ a && decide (b < 128) then chargeCtx d cr 2 n else d

/-! ## Host memory and pier -/

/-- Whether a function may send memory requests: Bus Master Enable is set and it is in D0 (R469, R498; D3hot PRESUMED, log 12). -/
def Fn.master (x : Fn) : Bool := x.bme && !x.d3hot

/-- Write host memory as function `fn`; false when Bus Master Enable is clear (R498). -/
def hostPut (d : Dev) (fn a : Nat) (bs : List Byte) : Option Dev :=
  if (getFn d fn).master then some { d with host := memPuts d.host a bs } else none

/-- Read host memory as function `fn`; none when Bus Master Enable is clear (R498). -/
def hostGet (d : Dev) (fn a n : Nat) : Option (List Byte) :=
  if (getFn d fn).master then some (memGets d.host a n) else none

/-- The 128-bit words that a byte range touches. -/
def words16 (a n : Nat) : List Nat := (List.range (if n = 0 then 0 else (a + n - 1) / 16 - a / 16 + 1)).map (fun i => a / 16 + i)

/-- The first poisoned word of a pier range (R320). -/
def pierPoison (d : Dev) (a n : Nat) : Option Nat := (words16 a n).find? (fun w => d.pier.poison.contains w)

/-- Write pier bytes; a poisoned word wholly covered is no longer poisoned (R321). -/
def pierPut (d : Dev) (a : Nat) (bs : List Byte) : Dev :=
  { d with pier := { d.pier with
      mem := memPuts d.pier.mem a bs
      poison := d.pier.poison.filter (fun w => !(a ≤ 16 * w && 16 * w + 16 ≤ a + bs.length)) } }

/-- Read pier bytes. -/
def pierGet (d : Dev) (a n : Nat) : List Byte := memGets d.pier.mem a n

/-- The stack of a pier address (R316). -/
def stackOf (a : Nat) : Nat := a / 512 % 4

/-- The link of a stack. -/
def getLink (d : Dev) (k : Nat) : Link := tget d.pier.links k { fails := 0, held := false }
/-- Replace the link of a stack. -/
def setLink (d : Dev) (k : Nat) (x : Link) : Dev := { d with pier := { d.pier with links := tset d.pier.links k x } }

/-- The stacks that a pier range touches (R316). -/
def stacksOf (a n : Nat) : List Nat := (List.range (min 4 ((a + n + 511) / 512 - a / 512))).map (fun i => stackOf (a + 512 * i))

/-- Whether some stack link of a pier range holds its traffic while it retrains (R319). -/
def linkHeld (d : Dev) (a n : Nat) : Bool := (stacksOf a n).any (fun k => (getLink d k).held)

/-- A transfer of a pier range has passed its links: failures on them are no longer consecutive (R319). -/
def linkPass (d : Dev) (a n : Nat) : Dev := (stacksOf a n).foldl (fun d k => setLink d k { getLink d k with fails := 0 }) d

/-- Withdraw the frame of a poisoned word: record it in the first free PIE_POISON entry, or set OVERFLOW (R321, R343). -/
def withdrawFrame (d : Dev) (word : Nat) : Dev :=
  let a := 16 * word
  let frame := a / 65536
  if d.pier.withdrawn.contains frame then d
  else
    let d := { d with pier := { d.pier with withdrawn := frame :: d.pier.withdrawn } }
    match findFrom (fun i => !bitOf (reg d (0x1000200 + 8 * i)) 63) 0 64 with
    | some i =>
      setReg d (0x1000200 + 8 * i)
        (BitVec.ofNat 64 (frame + stackOf a * 2 ^ 20 + (a / 2048 % 32) * 2 ^ 22 + 2 ^ 63))
    | none => setReg d 0x1000400 1

/-! ## Address translation (R411 to R416) -/

/-- Where a device virtual address leads. -/
inductive Loc where
  | pier (a : Nat)
  | host (a : Nat)
  | tile (t off : Nat)
deriving DecidableEq, Repr

/-- How an access is translated: by a unit without a translation cache, through the cache of a Slide engine (0 to 31) or of the
causeway engine (32) (R422), or for a record of a context in its event ring, which is written though the context is FAULTED
(log 13). -/
inductive Via where
  | plain
  | cache (e : Nat)
  | record
deriving DecidableEq, Repr

/-- The contexts of a partition. -/
def ctxsIn (d : Dev) (p : Nat) : List (Nat × Ctx) := d.pmg.ctxs.filter (fun q => q.2.st ≠ .free && q.2.part.toNat = p)

/-- XLT_CTX_TBL of a context: its slot's register, or what its record keeps while it is swapped out (R420, R452). -/
def tblOf (d : Dev) (cr : Nat) : Word64 :=
  match (getCtx d cr).cslot with
  | some c => reg d (0x0B01000 + 8 * c.toNat)
  | none => (getCtx d cr).tblValue

/-- TBL_BASE of XLT_CTX_TBL. -/
def tblBase (w : Word64) : Nat := fld w 0 20
/-- TBL_FRAMES. -/
def tblFrames (w : Word64) : Nat := fld w 20 12
/-- ENABLE. -/
def tblOn (w : Word64) : Bool := bitOf w 32

/-- Whether a frame is a table frame of some context of a partition (R411, R418). -/
def isTableFrame (d : Dev) (p f : Nat) : Bool :=
  ((ctxsIn d p).map (fun q => tblOf d q.1)).any (fun w => tblOn w && decide (tblBase w ≤ f) && decide (f < tblBase w + tblFrames w))

/-- The page tables of a context. -/
def getMaps (d : Dev) (cr : Nat) : Maps := tget d.xlt.maps cr { leaves := [], tables := [] }
/-- Replace the page tables of a context. -/
def setMaps (d : Dev) (cr : Nat) (m : Maps) : Dev := { d with xlt := { d.xlt with maps := tset d.xlt.maps cr m } }
/-- Translation cache `e`. -/
def getTlb (d : Dev) (e : Nat) : Tlb := tget d.xlt.tlbs e { leaf := [], upper := [] }
/-- Replace translation cache `e`. -/
def setTlb (d : Dev) (e : Nat) (t : Tlb) : Dev := { d with xlt := { d.xlt with tlbs := tset d.xlt.tlbs e t } }

/-- Bytes of a page. -/
def pageSize (large : Bool) : Nat := if large then 0x2000000 else 0x10000

/-- Whether a leaf covers a virtual address. -/
def leafCovers (l : Leaf) (va : Nat) : Bool := l.va ≤ va && va < l.va + pageSize l.large

/-- The leaf of a context that covers a virtual address (R415, R416). -/
def leafOf (d : Dev) (cr va : Nat) : Option Leaf := (getMaps d cr).leaves.find? (leafCovers · va)

/-- The window of a virtual address that a cache tags (R411, R422). -/
def winTag (va : Nat) : XWin :=
  if va < 0x2000000000 then .pier else if va < 0x3000000000 then .model else if va < 0x4000000000 then .draft else .host

/-- The model that a model window's address belongs to, with main model `mdl` (R411, R413). -/
def winModel (d : Dev) (mdl : Option Nat) (va : Nat) : Option Nat :=
  match winTag va with
  | .model => mdl
  | .draft => (mdl.bind (getModel d)).bind (fun m => m.draft)
  | _ => none

/-- Whether a cache entry covers an address of a context (R422). -/
def entCovers (cr : Nat) (m : Option Nat) (va : Nat) (e : TlbEnt) : Bool :=
  decide (e.cr.toNat = cr) && decide (e.win = winTag va) && decide (e.model = m) && leafCovers e.leaf va

/-- The page that an access finds for an address: from its cache when that holds it, otherwise by a walk, which gives `walk`. A
record of a FAULTED context finds the pages from before its commits (R419, R422). -/
def leafVia (d : Dev) (via : Via) (cr : Nat) (m : Option Nat) (va : Nat) (walk : Option Leaf) : Option Leaf :=
  match via with
  | .plain => walk
  | .cache e =>
    (match (getTlb d e).leaf.find? (entCovers cr m va) with
     | some x => some x.leaf
     | none => walk)
  | .record =>
    (match tfind d.xlt.frozen cr with
     | some ls => ls.find? (leafCovers · va)
     | none => walk)

/-- Translate a byte of an address window through the context's leaves. -/
def xlateLeaf (d : Dev) (cr va : Nat) (write : Bool) (via : Via := .plain) : Except Nat Nat :=
  match leafVia d via cr none va (leafOf d cr va) with
  | none => .error fXlateInvalid
  | some l => if (if write then l.write else l.read) then .ok (l.target + (va - l.va)) else .error fXlatePerm

/-- The 32 MiB page of a model's image that a model window's address lies in, as Cox maps it (R413). -/
def modelLeaf (x : Model) (base va : Nat) : Leaf :=
  let i := (va - base) / 0x2000000
  { va := base + i * 0x2000000, large := true, target := x.frames.getD i 0 * 65536, read := true, write := false }

/-- Translate a byte of a model window, whose first byte is `base`, of model `m` (R413). A write is refused whatever the window
holds. -/
def xlateModel (d : Dev) (cr : Nat) (m : Option Nat) (base va : Nat) (write : Bool) (via : Via := .plain) : Except Nat Loc :=
  if write then .error fXlatePerm
  else
    match m.bind (getModel d) with
    | none => .error fXlateInvalid
    | some x =>
      if x.deck ≠ [] || x.imageLen ≤ va - base || !x.resident then .error fXlateInvalid
      else
        let l := (leafVia d via cr m va (some (modelLeaf x base va))).getD (modelLeaf x base va)
        .ok (.pier (l.target + (va - l.va)))

/-- Translate the byte at a virtual address for a context, with the main model of the accessing task's step (R411 to
R414). A FAULTED context translates nothing: its access does not take place, as one that waits (R432). A page whose frame has
become a table frame is not reached (R411, R416; log 90). The partition's tiles and mapped-out tiles are checked here; gating is
checked at the access. -/
def xlate (d : Dev) (cr : Nat) (mdl : Option Nat) (va : Nat) (write : Bool) (via : Via := .plain) : Except Nat Loc :=
  if (getCtx d cr).st = .faulted && via ≠ .record then .error 0
  else if va < 0x2000000000 then
    match xlateLeaf d cr va write via with
    | .error e => .error e
    | .ok a => if isTableFrame d (getCtx d cr).part.toNat (a / 65536) then .error fXlateInvalid else .ok (.pier a)
  else if va < 0x3000000000 then xlateModel d cr mdl 0x2000000000 va write via
  else if va < 0x4000000000 then xlateModel d cr (winModel d mdl va) 0x3000000000 va write via
  else if va < 0x4010000000 then
    let t := (va - 0x4000000000) / 0x100000
    if mappedOut d t then .error fXlateInvalid
    else if !tileIn d (getCtx d cr).part.toNat t then .error fXlatePerm
    else .ok (.tile t ((va - 0x4000000000) % 0x100000))
  else if va < 0x8000000000 then .error fXlateInvalid
  else if va < 0x1000000000000 then
    match xlateLeaf d cr va write via with
    | .error e => .error e
    | .ok a => if (getFn d (getCtx d cr).fn.toNat).master then .ok (.host a) else .error fXlatePerm
  else .error fXlateInvalid

/-- The first virtual address of a model window past the image that it reaches (R413). -/
def imageEnd (d : Dev) (mdl : Option Nat) (va : Nat) : Nat :=
  let base := if va < 0x3000000000 then 0x2000000000 else 0x3000000000
  base + (match (winModel d mdl va).bind (getModel d) with
    | some m => m.imageLen
    | none => 0)

/-- Whether `n` bytes of a model window run past the image (R413). -/
def pastImage (d : Dev) (mdl : Option Nat) (va n : Nat) : Bool :=
  decide (0x2000000000 ≤ va) && decide (va < 0x4000000000) && decide (imageEnd d mdl va < va + n)

/-- An access of `n` bytes of one page has passed the links of the stacks that it reached (R319). -/
def passVa (d : Dev) (cr : Nat) (mdl : Option Nat) (va n : Nat) (write : Bool) : Dev :=
  match xlate d cr mdl va write with
  | .ok (.pier a) => linkPass d a n
  | _ => d

/-! ## Translation caches (R422, R423) -/

/-- The shift of the addresses that a table of a level covers (R415). -/
def tabShift (level : Nat) : Nat := if level = 0 then 48 else if level = 1 then 39 else if level = 2 then 30 else 25

/-- The shift of the addresses that one entry of a table of a level covers (R415). -/
def entShift (level : Nat) : Nat := if level = 3 then 16 else tabShift (level + 1)

/-- The entries of a table of a level (R415). -/
def tabEntries (level : Nat) : Nat := if level = 2 then 32 else 512

/-- The pier address of a table (R421). -/
def tabAddr (w : Word64) (t : TabSpot) : Nat := tblBase w * 65536 + t.space * 4096 + t.place * 256

/-- The table of a level that covers an address. -/
def tabOf (m : Maps) (level va : Nat) : Option TabSpot :=
  m.tables.find? (fun t => t.level = level && t.idx = va / 2 ^ tabShift level)

/-- Leaf and upper-level entries that cache `e` holds at most (R422). -/
def tlbSize (e : Nat) : Nat × Nat := if e < 32 then (64, 32) else (512, 0)

/-- The level of the table that holds a leaf (R415). -/
def leafLevel (l : Leaf) : Nat := if l.large then 2 else 3

/-- The upper-level entries that a walk to a leaf reads, deepest first (R415). -/
def upperOf (d : Dev) (cr : Nat) (l : Leaf) : List UpEnt :=
  ((List.range (leafLevel l)).reverse).filterMap (fun v =>
    (tabOf (getMaps d cr) (v + 1) l.va).map (fun t =>
      { cr := BitVec.ofNat 12 cr, level := v, idx := l.va / 2 ^ entShift v, table := tabAddr (tblOf d cr) t }))

/-- The page that a walk finds for an address of a context that its access may use (R413, R415). -/
def walkLeaf (d : Dev) (cr : Nat) (mdl : Option Nat) (va : Nat) : Option Leaf :=
  match winTag va with
  | .pier => leafOf d cr va
  | .host => leafOf d cr va
  | _ =>
    ((winModel d mdl va).bind (getModel d)).map (fun x =>
      modelLeaf x (if va < 0x3000000000 then 0x2000000000 else 0x3000000000) va)

/-- Cache `e` after a walk of page tables to a leaf: the upper-level entries of the walk are used, the least recent ones leave, and the
entries below the deepest one held are read in pier (R422, R456). -/
def walkTlb (d : Dev) (e cr : Nat) (l : Leaf) : Dev :=
  let us := upperOf d cr l
  let t := getTlb d e
  let reads := 1 + (us.takeWhile (fun u => !t.upper.contains u)).length
  setTlb (chargeCtx d cr 0 (8 * reads)) e { t with upper := (us ++ t.upper.filter (fun u => !us.contains u)).take (tlbSize e).2 }

/-- Cache `e` after an access at a virtual address: its entry is used, or taken by a walk in place of the least recent one. Nothing
is kept of an access that its checks refuse, nor of a deck window, which is translated directly (R411, R422). -/
def touchTlb (d : Dev) (e cr : Nat) (mdl : Option Nat) (va : Nat) (write : Bool) : Dev :=
  match xlate d cr mdl va write (.cache e) with
  | .error _ => d
  | .ok (.tile _ _) => d
  | .ok _ =>
    let m := winModel d mdl va
    match (getTlb d e).leaf.find? (entCovers cr m va) with
    | some x => setTlb d e { getTlb d e with leaf := x :: (getTlb d e).leaf.erase x }
    | none =>
      match walkLeaf d cr mdl va with
      | none => d
      | some l =>
        let d1 := if m.isNone then walkTlb d e cr l else d
        let x : TlbEnt := { cr := BitVec.ofNat 12 cr, win := winTag va, model := m, leaf := l }
        setTlb d1 e { getTlb d1 e with leaf := (x :: (getTlb d1 e).leaf).take (tlbSize e).1 }

/-- Invalidate the cache entries that meet a condition (R419, R423). -/
def dropEnts (d : Dev) (leaf : TlbEnt → Bool) (upper : UpEnt → Bool) : Dev :=
  { d with xlt := { d.xlt with tlbs := tmap d.xlt.tlbs (fun _ t =>
      { leaf := t.leaf.filter (fun x => !leaf x), upper := t.upper.filter (fun x => !upper x) }) } }

/-- Every entry of a context (R423). -/
def dropCtxEnts (d : Dev) (cr : Nat) : Dev := dropEnts d (fun x => x.cr.toNat = cr) (fun x => x.cr.toNat = cr)

/-- A model's model-window entries in every context (R423). -/
def dropModelEnts (d : Dev) (m : Nat) : Dev := dropEnts d (fun x => x.model = some m) (fun _ => false)

/-- The entries of a context that cover `n` bytes at an address (R419). -/
def dropPageEnts (d : Dev) (cr va n : Nat) : Dev :=
  dropEnts d (fun x => x.cr.toNat = cr && x.model.isNone && decide (x.leaf.va < va + n) && decide (va < x.leaf.va + pageSize x.leaf.large))
    (fun x => x.cr.toNat = cr && decide (x.idx * 2 ^ entShift x.level < va + n) && decide (va < (x.idx + 1) * 2 ^ entShift x.level))

/-! ## Tile memory -/

/-- The gateable units of a byte range of a tile's window: bank groups 0 to 5, slots 6 to 9 (R114, R116, R147). -/
def tileUnits (off n : Nat) : List Nat :=
  (List.range 10).filter (fun u =>
    let lo := if u < 6 then u * 0x20000 else 0xC0000 + (u - 6) * 0x10000
    let hi := if u < 6 then lo + 0x20000 else lo + 0x10000
    decide (lo < off + n) && decide (off < hi) && decide (0 < n))

/-- The gate state of a unit (R147). -/
def gateOf (x : Tile) (u : Nat) : GateUnit := tget x.gates u GateUnit.init

/-- Whether some unit of a byte range is in a gate state. -/
def anyGate (x : Tile) (off n : Nat) (st : GateState) : Bool :=
  (tileUnits off n).any (fun u => (gateOf x u).st = st)

/-- Write bytes into a tile's window: an uncorrectable word that is rewritten is good again, and a pending write-back of
a written word is cancelled (R140, R141). -/
def tilePut (x : Tile) (off : Nat) (bs : List Byte) : Tile :=
  let covered := fun w => decide (off ≤ 4 * w) && decide (4 * w + 4 ≤ off + bs.length)
  { x with
    mem := memPuts x.mem off bs
    bad := x.bad.filter (fun w => !covered w)
    fixups := x.fixups.filter (fun p => !covered p.1) }

/-- The first uncorrectable word of a byte range of a tile's window (R142). -/
def tileBad (x : Tile) (off n : Nat) : Option Nat :=
  x.bad.find? (fun w => decide (off < 4 * w + 4) && decide (4 * w < off + n))

/-- DETAIL of F_ECC_DECK for a word of a tile's window (R430): memory, bank or slot, row. -/
def eccDetail (w : Nat) : Nat :=
  if w < 196608 then (8 * (w / 32768) + w / 16 % 8) * 2 + (w / 128 % 256) * 128
  else 1 + (w - 196608) / 16384 * 2 + ((w - 196608) / 128 % 128) * 128

/-! ## Reading and writing through translation -/

/-- Why an access failed: a fault code, the virtual address, and the DETAIL of the record. Code 0 is an access that
waits for a WAKING unit (R151). -/
structure Bad where
  code   : Nat
  va     : Nat
  detail : Nat
deriving DecidableEq, Repr

/-- Whether an engine's access to a pier range waits for a link that retrains (R319). -/
def holdsLink (d : Dev) (via : Via) (a n : Nat) : Bool :=
  match via with
  | .cache _ => linkHeld d a n
  | _ => false

/-- Read `n` bytes that lie within one 64 KiB page. -/
def readPage (d : Dev) (cr : Nat) (mdl : Option Nat) (va n : Nat) (via : Via := .plain) : Except Bad (List Byte) :=
  match xlate d cr mdl va false via with
  | .error e => .error ⟨e, va, 0⟩
  | .ok (.pier a) =>
    if pastImage d mdl va n then .error ⟨fXlateInvalid, imageEnd d mdl va, 0⟩
    else if holdsLink d via a n then .error ⟨0, va, 0⟩
    else
    match pierPoison d a n with
    | some w => .error ⟨fEccPier, va, w / 4096⟩
    | none => .ok (pierGet d a n)
  | .ok (.host a) => .ok (memGets d.host a n)
  | .ok (.tile t off) =>
    let x := getTile d t
    if anyGate x off n .waking then .error ⟨0, va, 0⟩
    else if anyGate x off n .off then .error ⟨fDmaTargetOff, va, 0⟩
    else
      match tileBad x off n with
      | some w => .error ⟨fEccDeck, va, eccDetail w⟩
      | none => .ok (memGets x.mem off n)

/-- Read `n` bytes from a virtual address, page by page, with `k` pages left. -/
def readPages (d : Dev) (cr : Nat) (mdl : Option Nat) (va n k : Nat) (via : Via := .plain) : Except Bad (List Byte) :=
  match k with
  | 0 => .ok []
  | j + 1 =>
    if n = 0 then .ok []
    else
      let m := min n (0x10000 - va % 0x10000)
      match readPage d cr mdl va m via with
      | .error e => .error e
      | .ok bs =>
        match readPages d cr mdl (va + m) (n - m) j via with
        | .error e => .error e
        | .ok r => .ok (bs ++ r)

/-- Read `n` bytes from a virtual address. -/
def readVa (d : Dev) (cr : Nat) (mdl : Option Nat) (va n : Nat) (via : Via := .plain) : Except Bad (List Byte) :=
  readPages d cr mdl va n (n / 0x10000 + 2) via

/-- Read `n` bytes from a virtual address as regulated traffic of the context (R456). -/
def readVaC (d : Dev) (cr : Nat) (mdl : Option Nat) (va n : Nat) : Except Bad (Dev × List Byte) :=
  (readVa d cr mdl va n).map (fun bs => (chargeRead d cr va n, bs))

/-- Write bytes that lie within one 64 KiB page. A write to a DRAINING or OFF unit that is not counted is refused
(R150); `counted` lists the tiles and units whose count the transfer holds. -/
def writePage (d : Dev) (cr : Nat) (mdl : Option Nat) (va : Nat) (bs : List Byte) (counted : List (Nat × Nat))
    (via : Via := .plain) : Except Bad Dev :=
  match xlate d cr mdl va true via with
  | .error e => .error ⟨e, va, 0⟩
  | .ok (.pier a) => if holdsLink d via a bs.length then .error ⟨0, va, 0⟩ else .ok (chargeCtx (pierPut d a bs) cr 0 bs.length)
  | .ok (.host a) => .ok (chargeCtx { d with host := memPuts d.host a bs } cr 4 bs.length)
  | .ok (.tile t off) =>
    let x := getTile d t
    if via ≠ .record && anyGate x off bs.length .waking then .error ⟨0, va, 0⟩
    else if (tileUnits off bs.length).any (fun u =>
        ((gateOf x u).st = .off || (gateOf x u).st = .draining) && !counted.contains (t, u)) then .error ⟨fDmaTargetOff, va, 0⟩
    else .ok (setTile d t (tilePut x off bs))

/-- Write bytes to a virtual address, page by page, with `k` pages left. -/
def writePages (d : Dev) (cr : Nat) (mdl : Option Nat) (va : Nat) (bs : List Byte) (counted : List (Nat × Nat)) (k : Nat)
    (via : Via := .plain) : Except Bad Dev :=
  match k with
  | 0 => .ok d
  | j + 1 =>
    if bs = [] then .ok d
    else
      let m := 0x10000 - va % 0x10000
      match writePage d cr mdl va (bs.take m) counted via with
      | .error e => .error e
      | .ok d' => writePages d' cr mdl (va + m) (bs.drop m) counted j via

/-- Write bytes to a virtual address. -/
def writeVa (d : Dev) (cr : Nat) (mdl : Option Nat) (va : Nat) (bs : List Byte) (via : Via := .plain) : Except Bad Dev :=
  writePages d cr mdl va bs [] (bs.length / 0x10000 + 2) via

/-! ## Rings (R479 to R485) -/

/-- The key of ring `r` of a context page. -/
def ringKey (fn vctx r : Nat) : Nat := (fn * 128 + vctx) * 4 + r
/-- The key of the device event ring (R484). -/
def devRing : Nat := 32768
/-- A ring. -/
def getRing (d : Dev) (k : Nat) : Ring := tget d.hif.rings k Ring.init
/-- Replace a ring. -/
def setRing (d : Dev) (k : Nat) (x : Ring) : Dev := { d with hif := { d.hif with rings := tset d.hif.rings k x } }
/-- ENABLE of a ring. -/
def ringEnabled (x : Ring) : Bool := bitOf x.cfg 5
/-- Whether the device reads or writes the ring: enabled, and not stopped by a bad index (R481). -/
def ringUsable (x : Ring) : Bool := ringEnabled x && !x.broken
/-- Entries of a ring (R479). -/
def ringSize (x : Ring) : Nat := let l := fld x.cfg 0 5; 2 ^ (if 4 ≤ l ∧ l ≤ 16 then l else 4)
/-- Entries in use. -/
def ringUsed (x : Ring) : Nat := (x.prod - x.cons).toNat
/-- Free entries of a device-written ring. -/
def ringFree (x : Ring) : Nat := ringSize x - ringUsed x

/-- The function of a ring. -/
def ringFn (k : Nat) : Nat := if k = devRing then 0 else k / 512

/-- Number of MSI-X vectors of a function (R475, R476). -/
def msixCount (fn : Nat) : Nat := if fn = 0 then 2048 else 32

/-- The vector control word of an MSI-X table entry. Table entries are stored as two 64-bit words: the PF's at
PF BAR0 0x000_8000, a VF's at its BAR0 0x0_4000 (R475, R476). -/
def msixCtl (d : Dev) (fn v : Nat) : Word64 :=
  if fn = 0 then tget d.regs (0x8000 + 16 * v + 8) 0x100000000 else tget d.vfRegs (fn * 0x100000 + 0x4000 + 16 * v + 8) 0x100000000

/-- Send an MSI-X message, or set its pending bit when the vector or the function is masked (R485). A vector beyond the
function's table, or a function with MSI-X or Bus Master Enable clear, sends nothing (R479, R498). -/
def sendMsix (d : Dev) (fn v : Nat) : Dev :=
  let f := getFn d fn
  if msixCount fn ≤ v || !f.msixEn || !f.master then d
  else if f.msixMask || bitOf (msixCtl d fn v) 32 then
    { d with hif := { d.hif with pend := if d.hif.pend.contains (fn, v) then d.hif.pend else (fn, v) :: d.hif.pend } }
  else { d with hif := { d.hif with out := { d.hif.out with msix := d.hif.out.msix ++ [(fn, v)] } } }

/-- Whether MOD_US has elapsed since the last message of a ring (R485). -/
def modDue (d : Dev) (x : Ring) : Bool :=
  match x.sentAt with
  | none => true
  | some t => decide (t.toNat + fld x.cfg 19 8 * 100 ≤ d.now.toNat)

/-- After a ring's PROD advanced: a message now when MOD_US has elapsed since the last, or later (R485). -/
def ringNotify (d : Dev) (k : Nat) : Dev :=
  let x := getRing d k
  if !bitOf x.cfg 27 || x.owed then d
  else if modDue d x then sendMsix (setRing d k { x with sentAt := some d.now }) (ringFn k) (fld x.cfg 8 11)
  else setRing d k { x with owed := true }

/-- Write bytes at an address of a ring: a bus address for the device event ring, an address of the context's host
window otherwise (R479, R484). An event ring, ring 3 of its page, is written for a FAULTED context too, so that its records arrive
(log 13). -/
def ringPut (d : Dev) (k cr a : Nat) (bs : List Byte) : Except Bad Dev :=
  if k = devRing then
    match hostPut d 0 a bs with
    | some d' => .ok d'
    | none => .error ⟨fXlatePerm, a, 0⟩
  else writeVa d cr none a bs (if k % 4 = 3 then .record else .plain)

/-- Write entries of `size` bytes at PROD of a device-written ring, advance PROD once, write it back, and notify
(R480, R484, R485): the device after it, and the access that failed, if one did. PROD stays where an entry could not be written, and has
advanced where its write-back failed (log 94). The caller has checked that the ring is usable and has room. -/
def ringPush (d : Dev) (k cr size : Nat) (entries : List (List Byte)) : Dev × Option Bad :=
  let x := getRing d k
  let put := (entries.zipIdx).foldl (fun (acc : Except Bad Dev) p =>
    match acc with
    | .error e => .error e
    | .ok d' => ringPut d' k cr (x.ba.toNat + size * ((x.prod.toNat + p.2) % ringSize x)) p.1) (.ok d)
  match put with
  | .error e => (d, some e)
  | .ok d1 =>
    let prod' := x.prod + BitVec.ofNat 32 entries.length
    let d2 := setRing d1 k { getRing d1 k with prod := prod' }
    if x.wb = 0 then (ringNotify d2 k, none)
    else
      match ringPut d2 k cr x.wb.toNat (toLe 8 prod'.toNat) with
      | .error e => if e.code = 0 then (d, some e) else (ringNotify d2 k, some e)
      | .ok d3 => (ringNotify d3 k, none)

/-! ## Records (R430) -/

/-- What a fault or event record says beside its code, kind, context and time. -/
structure Info where
  unit   : Nat := 0
  va     : Nat := 0
  handle : Nat := 0
  task   : Nat := 0
  step   : Nat := 0
  tile   : Nat := 0
  engine : Nat := 0
  detail : Nat := 0
  pc     : Nat := 0
deriving DecidableEq, Repr

/-- The 64 bytes of a record (R430). COUNT counts this record (log 14). -/
def recordBytes (code kind vctx fn part now : Nat) (i : Info) (count : Nat) : List Byte :=
  toLe 2 code ++ toLe 1 kind ++ toLe 1 i.unit ++ toLe 1 vctx ++ toLe 1 fn ++ toLe 1 part ++ toLe 1 0
    ++ toLe 8 now ++ toLe 8 i.va ++ toLe 4 i.handle ++ toLe 4 i.task ++ toLe 8 i.step
    ++ toLe 1 i.tile ++ toLe 1 i.engine ++ toLe 2 0 ++ toLe 4 i.detail ++ toLe 4 i.pc ++ toLe 4 count ++ toLe 8 0

/-- Write a record to an event ring: dropped with LOST when the ring is full, COUNT advancing; FAULT is set when the
write faults (R482, R483). Nothing is written to a ring that is not in use. -/
def putRecord (d : Dev) (k cr : Nat) (mk : Nat → List Byte) : Dev × Option Bad :=
  let x := getRing d k
  if !ringEnabled x then (d, none)
  else
    let d1 := setRing d k { x with count := x.count + 1 }
    if x.broken then (d1, none)
    else if ringFree x = 0 then (setRing d1 k { getRing d1 k with lost := true }, none)
    else
      match ringPush d1 k cr 64 [mk (x.count + 1).toNat] with
      | (d2, none) => (d2, none)
      | (d2, some e) => (setRing d2 k { getRing d2 k with fault := true }, some e)

/-- A record of a context: to its own event ring, and, when `copy` is set, to the device event ring (R430). The second
component is a fault of the write to its own ring. -/
def ctxRecord (d : Dev) (cr code kind : Nat) (own copy : Bool) (i : Info) : Dev × Option Bad :=
  let c := getCtx d cr
  let mk := recordBytes code kind c.vctx.toNat c.fn.toNat c.part.toNat d.now.toNat i
  let d1 := if copy then (putRecord d devRing cr mk).1 else d
  if own then putRecord d1 (ringKey c.fn.toNat c.vctx.toNat 3) cr mk else (d1, none)

/-- The fault of a record's write to the context's own ring faults the context too: a secondary fault, whose record reaches the device
event ring alone (R482; log 94). -/
def ownFault (r : Dev × Option Bad) (cr : Nat) : Dev :=
  match r.2 with
  | none => r.1
  | some b => (ctxRecord r.1 cr b.code 2 false true { unit := 8, va := b.va, detail := b.detail }).1

/-- A record of the device itself, to the device event ring only (R406, R430). -/
def devRecord (d : Dev) (code kind part : Nat) (i : Info) : Dev :=
  (putRecord d devRing 0 (recordBytes code kind 0 0 part d.now.toNat i)).1

/-! ## Stopping a context (R249, R432) -/

/-- A unit whose outstanding-DMA count has fallen: one that drains though the image ungates it wakes at a count of 0
(R148). -/
def unitDrained (g : GateUnit) : GateUnit :=
  if g.st = .draining && !g.gated && g.dma = 0 then { g with st := .waking } else g

/-- Lower the outstanding-DMA counts that a transfer holds (R149). -/
def uncount (x : Tile) (us : List Nat) : Tile :=
  us.foldl (fun (x : Tile) u =>
    let g := gateOf x u
    { x with gates := tset x.gates u (unitDrained { g with dma := g.dma - 1 }) }) x

/-- Lower the counts that a transfer holds in other tiles' windows (R149). -/
def uncountOut (d : Dev) (us : List (Nat × Nat)) : Dev :=
  us.foldl (fun d p => setTile d p.1 (uncount (getTile d p.1) [p.2])) d

/-- End a transfer: its counts fall and it is no longer in flight. -/
def dropXfer (d : Dev) (i : Nat) : Dev :=
  match tfind d.xfers i with
  | none => d
  | some x =>
    let d1 := setTile d x.tile.toNat (uncount (getTile d x.tile.toNat) x.counted)
    let d2 := uncountOut d1 x.outCount
    { d2 with xfers := tdel d2.xfers i }

/-- The byte ranges of a tile's window that a task uses: its regions and its slots (R124, R139). -/
def taskRanges (slots : List Nat) (base bound : Tbl Nat) : List (Nat × Nat) :=
  ((List.range 4).map (fun r => (4 * tget base r 0, 4 * tget bound r 0)))
    ++ slots.map (fun j => (0xC0000 + j * 0x10000, 0x10000))

/-- The dispatcher's actions on one tile when a context is torn down (R249): its tasks stop, its kept items and holds
are released, and its ranges wait to be zeroed before another task is placed. -/
def tileDrop (cr : Nat) (x : Tile) : Tile :=
  let rc : RecNo := BitVec.ofNat 12 cr
  let runR := match x.run with
    | some k => if k.work.cr = rc then taskRanges k.slotMap k.base k.bound else []
    | none => []
  let keptR := match x.kept with
    | some k => if k.cr = rc then
        (k.slots.map (fun p => (0xC0000 + p.2 * 0x10000, 0x10000))) ++ k.regions.map (fun p => (4 * p.2.1, 4 * p.2.2))
      else []
    | none => []
  let mine := (match x.run with | some k => k.work.cr = rc | none => false) ||
    (match x.kept with | some k => k.cr = rc | none => false)
  { x with
    run := match x.run with | some k => if k.work.cr = rc then none else some k | none => none
    kept := match x.kept with | some k => if k.cr = rc then none else some k | none => none
    inbox := match x.inbox with | some w => if w.1.cr = rc then none else some w | none => none
    ended := match x.ended with | some e => if e.work.cr = rc then none else some e | none => none
    sb := if mine then [] else x.sb
    stopped := if mine then false else x.stopped
    preReq := if mine then false else x.preReq
    zeroing := x.zeroing ++ (runR ++ keptR).map (fun p => (rc, p.1, p.2)) }

/-- R249 for the whole dispatcher, and the end of the context's transfers (R432). -/
def catchDrop (d : Dev) (cr : Nat) : Dev :=
  let rc : RecNo := BitVec.ofNat 12 cr
  let gone := (d.xfers.filter (fun p => p.2.cr = rc)).map (fun p => p.1)
  let d1 := gone.foldl dropXfer d
  { d1 with
    tiles := tmap d1.tiles (fun _ x => tileDrop cr x)
    engines := tmap d1.engines (fun _ e => if e.ctx.toNat = ctxNo d cr && e.st ≠ .idle then { e with st := .draining, ahead := 0 } else e)
    bufs := d1.bufs.filter (fun p => p.2.cr ≠ rc)
    cat := { d1.cat with
      deques := tmap d1.cat.deques (fun _ q => q.filter (fun w => w.cr ≠ rc))
      hold := d1.cat.hold.filter (fun w => w.cr ≠ rc)
      stalled := d1.cat.stalled.filter (fun p => p.2.cr ≠ rc)
      checked := d1.cat.checked.filter (fun c => c.1 ≠ rc)
      done := d1.cat.done.filter (fun r => r.cr ≠ rc)
      owed := d1.cat.owed.filter (fun w => w.cr ≠ rc)
      resume := d1.cat.resume.filter (fun p => p.1 ≠ cr) } }

/-- The pre-emption request of a partition ends: pops and steals are served again, and no sequencer is asked to stop. -/
def dropRequest (d : Dev) (p : Nat) : Dev :=
  { d with
    cat := { d.cat with stopServe := d.cat.stopServe.filter (· ≠ p) }
    tiles := tmap d.tiles (fun t x => if tileIn d p t then { x with preReq := false, windowOver := false, stopped := false } else x) }

/-- A context becomes FAULTED and its teardown is queued; the partition that it ran on waits for the zeroing (R432,
R433, R453). Its built steps are dropped. -/
def beginTeardown (d : Dev) (cr : Nat) : Dev :=
  let c := getCtx d cr
  let p := c.part.toNat
  let part := getPart d p
  let rc : RecNo := BitVec.ofNat 12 cr
  let d1 := catchDrop d cr
  let part' : Part :=
    if part.running = some rc then
      { part with running := none, phase := .switching, outgoing := some rc, sliceOver := none, leaving := none }
    else if part.saving = some rc then { part with saving := none, outgoing := some rc, sliceOver := none, leaving := none }
    else part
  let d2 := setPart (if part.saving = some rc then dropRequest d1 p else d1) p part'
  let d3 := setCtx d2 cr
    { c with st := .faulted, tearing := true, tornDown := false, saved := none, dropSlot := c.st = .swappingOut || c.st = .swappingIn }
  let st := getSteps d3 cr
  let d4 := setSteps d3 cr { st with cur := none, nxt := none }
  { d4 with flt := { d4.flt with waiting := d4.flt.waiting ++ [rc] } }

/-- A fault of a context (R432, R435): a primary record and the start of a teardown, or, when the context is already
FAULTED, a KIND 2 record and nothing more. A context record that is free takes no fault. -/
def ctxFault (d : Dev) (cr code : Nat) (i : Info) : Dev :=
  let c := getCtx d cr
  match c.st with
  | .free => d
  | .faulted => ownFault (ctxRecord d cr code 2 true true i) cr
  | _ => beginTeardown (ownFault (ctxRecord d cr code 1 true true i) cr) cr

/-- The tile that a failed access's record names: for F_ECC_DECK of a word read through a deck window, the tile that holds the
word (R142), otherwise `t`. -/
def eccTile (b : Bad) (t : Nat) : Nat :=
  if b.code = fEccDeck ∧ 0x4000000000 ≤ b.va ∧ b.va < 0x4010000000 then (b.va - 0x4000000000) / 0x100000 else t

/-- A fault from a failed access; F_ECC_PIER withdraws the poisoned word's frame (R321). An access that only waits
changes nothing. -/
def accessFault (d : Dev) (cr : Nat) (b : Bad) (i : Info) : Dev :=
  if b.code = 0 then d else
  let d1 := if b.code = fEccPier then
      (match d.pier.poison.find? (fun w => w / 4096 = b.detail) with
       | some w => withdrawFrame d w
       | none => d)
    else d
  ctxFault d1 cr b.code { i with va := b.va, tile := eccTile b i.tile, detail := b.detail }

/-- An event record of a context (R431); a fault of its write faults the context (R482). -/
def ctxEvent (d : Dev) (cr code : Nat) (i : Info) : Dev :=
  let r := ctxRecord d cr code 0 true false i
  match r.2 with
  | none => r.1
  | some b => accessFault r.1 cr b { unit := 8 }

/-- F_DEVICE_FATAL (R436, R437): the cause is recorded once, a record goes to every ring in use, and every context is
torn down. -/
def deviceFatal (d : Dev) (cause stack : Nat) (i : Info) : Dev :=
  if d.flt.fatal then d
  else
    let d1 := { d with flt := { d.flt with fatal := true, cause := BitVec.ofNat 8 cause, stack := BitVec.ofNat 4 stack } }
    let d2 := devRecord d1 fDeviceFatal 1 0 i
    let crs := (d2.pmg.ctxs.filter (fun p => p.2.st ≠ .free)).map (fun p => p.1)
    crs.foldl (fun d cr =>
      let d := (ctxRecord d cr fDeviceFatal 1 true false i).1
      if (getCtx d cr).st = .faulted then d else beginTeardown d cr) d2

/-! ## The firmware region (R320, R322, R323) -/

/-- Where the full record of slot `i` lies (R273, R323). -/
def slotRecordAt (i : Nat) : Nat := 0x2000000 + 256 * i
/-- Where entry `b` of partition `p`'s buffer table lies (R213, R323). -/
def bufEntryAt (p b : Nat) : Nat := 0x3000000 + 16 * (65536 * (p % 16) + b)
/-- Where model `m`'s entry of the model table lies (R323). -/
def modelEntryAt (m : Nat) : Nat := 0x4000000 + 1024 * m

/-- The regions of pier (R322, R323). -/
inductive PierRegion where
  | firmwareImage
  | slotRecords
  | bufferTables
  | modelTable
  | firmwareState
  | frames
  | keystone
deriving DecidableEq, Repr

/-- The region of a pier address (R322, R323). -/
def regionOfPier (a : Nat) : PierRegion :=
  if a < 0x2000000 then .firmwareImage else if a < 0x3000000 then .slotRecords else if a < 0x4000000 then .bufferTables
  else if a < 0x5000000 then .modelTable else if a < 0x8000000 then .firmwareState else if a < 0xFC0000000 then .frames else .keystone

/-- An engine reads `n` bytes of the firmware region and goes on as `f`; an uncorrectable word there is fatal (R320, R437). -/
def fwRead (d : Dev) (a n : Nat) (f : Dev → Dev) : Dev :=
  match pierPoison d a n with
  | none => f d
  | some w => deviceFatal d 2 (stackOf (16 * w)) { unit := 5 }

/-- Whether the device runs its units: booted to READY, and neither fatal nor stopped (R436, R499, R552, R561). -/
def alive (d : Dev) : Bool := !d.flt.fatal && !d.clk.stopped

end Sys2Proof.Machine
end

