-- ==== Sys2Proof/Machine/Access.lean ====
section
/-! DEFINITION. Which host accesses reach a register: decoding of the BARs (R473, R474, R498, R501, R552). -/

namespace Sys2Proof.Machine

open Sys2Proof

/-- STR_BOOT.STAGE READY (R499). -/
def isReady (d : Dev) : Bool := d.boot.stage = 8

/-- Whether a function is on the link: the PF always, VF n while VF Enable is set and NumVFs reaches it, above 7 only with ARI
(R473). -/
def fnPresent (d : Dev) (fn : Nat) : Bool :=
  fn = 0 || (d.hif.vfEnable && decide (fn ≤ d.hif.numVFs.toNat) && (decide (fn ≤ 7) || d.hif.ari))

/-- The partition of a VF and whether the structure image binds it (R506). -/
def bindOf (d : Dev) (fn : Nat) : Bind := tget d.boot.binds fn { part := 0, bound := false }

/-- Whether a VF is bound to an enabled partition (R474). -/
def vfBound (d : Dev) (fn : Nat) : Bool := (bindOf d fn).bound && partEnabled d (bindOf d fn).part.toNat

/-- Whether BAR0 of a function is decoded at all: clocks run, the function is there and in D0, and Memory Space Enable is set
(R469, R498, R552; D3hot PRESUMED, log 12). -/
def barOpen (d : Dev) (fn : Nat) : Bool := !d.clk.stopped && fnPresent d fn && (getFn d fn).mse && !(getFn d fn).d3hot

/-- Whether a write reaches an offset of PF BAR0: before READY only GLB, STR and TRU take writes (R501). -/
def pfOpen (d : Dev) (off : Nat) : Bool :=
  barOpen d 0 && (isReady d || decide (off < 0x0200000) || (decide (0x0F00000 ≤ off) && decide (off < 0x1000000)))

/-- Whether a write reaches BAR0 of a VF (R474, R501). -/
def vfOpen (d : Dev) (fn : Nat) : Bool := barOpen d fn && isReady d && vfBound d fn

/-- Whether a function's write of a register that lies at `off` of PF BAR0, or in the VF's own window, is taken. -/
def fnOpen (d : Dev) (fn off : Nat) : Bool := if fn = 0 then pfOpen d off else vfOpen d fn

/-- A register that the PF has at `off` and a VF at `voff` of its BAR0. -/
def fnReg (d : Dev) (fn off voff : Nat) : Word64 := if fn = 0 then reg d off else tget d.vfRegs (fn * 0x100000 + voff) 0

/-- Store a register that the PF has at `off` and a VF at `voff` of its BAR0. -/
def setFnReg (d : Dev) (fn off voff : Nat) (v : Word64) : Dev :=
  if fn = 0 then setReg d off v else { d with vfRegs := tset d.vfRegs (fn * 0x100000 + voff) v }

/-- Whether a context page is written to the device: a function's page, or the PF's (R475, R476). -/
def pageOpen (d : Dev) (fn : Nat) : Bool := fnOpen d fn 0x3000000

end Sys2Proof.Machine
end

