-- ==== Sys2Proof/Machine/Operands.lean ====
section
/-! DEFINITION. How a tile's sequencer fetches and runs one instruction (R126, R153, R202), and every operand form of
the span instruction set: scalar and vector registers (R155), deck operands and relocation (R124, R125, R156), deck and
slot access with ECC and gating (R142, R150, R151), and the scoreboard (R128 to R131). -/

namespace Sys2Proof.Machine

open Sys2Proof

/-- Why an instruction does not complete: it is held and tried again, or it faults its context. -/
inductive Stop where
  | wait
  | fault (code detail : Nat)
deriving DecidableEq, Repr

/-- The result of a part of an instruction. -/
abbrev Eff (α : Type) := Except Stop α

/-- A fault with no DETAIL. -/
def faultE {α : Type} (code : Nat) : Eff α := .error (.fault code 0)
/-- The instruction is held. -/
def waitE {α : Type} : Eff α := .error .wait
/-- Hold the instruction while `c`. -/
def holdIf (c : Bool) : Eff Unit := if c then waitE else .ok ()
/-- Fault when `c`. -/
def faultIf (c : Bool) (code : Nat) : Eff Unit := if c then faultE code else .ok ()

/-! ## Fetch -/

/-- The ECC report of a command on a tile's words (R140 to R142): an uncorrectable word stays bad until it is written; a
corrected word awaits its write-back. -/
def applyEcc (x : Tile) (e : Ecc) : Tile :=
  match e with
  | .ok => x
  | .corrected w => { x with fixups := x.fixups ++ [(w, mem32 x.mem (4 * w))] }
  | .uncorrectable w => { x with bad := if x.bad.contains w then x.bad else w :: x.bad }

/-- TASK_INDEX of a task (R200). -/
def taskIndex (w : Work) : Nat := fld w.desc.q0 0 24

/-- The fault of an instruction of tile `t`'s task: the record names the tile, task, step and instruction (R430). -/
def tileFault (d : Dev) (t : Nat) (k : Task) (pc : BitVec 32) (code detail : Nat) : Dev :=
  ctxFault d k.work.cr.toNat code
    { unit := 0, tile := t, task := taskIndex k.work, step := k.work.step, pc := pc.toNat, detail := detail }

/-- The instruction word at word offset `pc` of the task's CODE region, or the fault of reading it (R126, R142). -/
def codeWord (x : Tile) (k : Task) (pc : Nat) : Eff Word64 :=
  let a := 4 * (tget k.base 0 0 + pc)
  if tget k.bound 0 0 < pc + 2 then faultE fDeckBound
  else
    match tileBad x a 8 with
    | some w => .error (.fault fEccDeck (eccDetail w))
    | none => .ok (mem64 x.mem a)

/-- The opcode of an instruction word (R153). -/
def opcode (w : Word64) : Nat := fld w 56 8

/-- Whether tile `t` has a task whose sequencer issues: running, not at END and not stopped by a pre-emption request. -/
def issuing (x : Tile) : Option Task :=
  match x.run with
  | some k => if k.ending || x.stopped then none else some k
  | none => none

/-- The instruction at the PC when its opcode is `op`, after a prefix word of opcode `pre` if there is one: the word, its
prefix (zero if none) and the offset of the next instruction. `none` when another instruction is next. -/
def nextInstr (x : Tile) (k : Task) (op : Nat) (pre : Option Nat) : Eff (Option (Word64 × Word64 × Nat)) := do
  let w ← codeWord x k k.pc.toNat
  if some (opcode w) = pre then
    let w2 ← codeWord x k (k.pc.toNat + 2)
    if opcode w2 = op then .ok (some (w2, w, k.pc.toNat + 4)) else .ok none
  else if opcode w = op then .ok (some (w, 0, k.pc.toNat + 2))
  else .ok none

/-- One issue of a tile's sequencer: the instruction at the PC runs as `act` when it is of opcode `op`. The task that
`act` receives has its PC at the next instruction. A held instruction changes nothing; a fault tears the context down
(R202, R432). -/
def seqStep (f : Fetch) (op : Nat) (pre : Option Nat)
    (act : Dev → Nat → Tile → Task → Word64 → Word64 → Eff Dev) (d : Dev) : Dev :=
  let t := f.tile.toNat
  match issuing (getTile d t) with
  | none => d
  | some k =>
    let x := applyEcc (getTile d t) f.ecc
    let d1 := setTile d t x
    match nextInstr x k op pre with
    | .error .wait => d
    | .error (.fault c i) => tileFault d1 t k k.pc c i
    | .ok none => d
    | .ok (some (w, p, n)) =>
      match act d1 t x { k with pc := BitVec.ofNat 32 n } w p with
      | .ok d2 => d2
      | .error .wait => d
      | .error (.fault c i) => tileFault d1 t k k.pc c i

/-- An instruction that touches only its own tile and task. -/
def seqTile (f : Fetch) (op : Nat) (pre : Option Nat)
    (act : Tile → Task → Word64 → Word64 → Eff (Tile × Task)) (d : Dev) : Dev :=
  seqStep f op pre (fun d t x k w p =>
    match act x k w p with
    | .ok r => .ok (setTile d t { r.1 with run := some r.2 })
    | .error e => .error e) d

/-- An instruction that touches only its task's registers. -/
def seqTask (f : Fetch) (op : Nat) (act : Task → Word64 → Task) (d : Dev) : Dev :=
  seqTile f op none (fun x k w _ => .ok (x, act k w)) d

/-! ## Registers (R111, R155) -/

/-- The scalar register of a 6-bit specifier: A0 to A31, then S0 to S15. -/
def getR (k : Task) (n : Nat) : Word64 := tget k.r n 0
/-- Write a scalar register. -/
def setR (k : Task) (n : Nat) (v : Word64) : Task := { k with r := tset k.r n v }
/-- Register S`n`. -/
def getS (k : Task) (n : Nat) : Word64 := getR k (32 + n)
/-- Lane `i` of V`n`. -/
def getV (k : Task) (n i : Nat) : Word32 := tget k.v (n * 64 + i) 0
/-- Write lane `i` of V`n`. -/
def setV (k : Task) (n i : Nat) (v : Word32) : Task := { k with v := tset k.v (n * 64 + i) v }
/-- Write the lanes of V`n` from lane `i` on. -/
def setVs (k : Task) (n i : Nat) (vs : List Word32) : Task :=
  match vs with
  | [] => k
  | v :: r => setVs (setV k n i v) n (i + 1) r
/-- The 64 lanes of V`n`. -/
def lanes (k : Task) (n : Nat) : List Word32 := (List.range 64).map (fun i => getV k n i)
/-- The 256 bytes of V`n`, lane 0 first (R34). -/
def vBytes (k : Task) (n : Nat) : List Byte := ((lanes k n).map (fun v => toLe 4 v.toNat)).flatten

/-! ## Deck operands (R111, R125, R156) -/

/-- A deck operand: A[ra] plus a signed word offset. Bits [63:48] of the register must be zero (R111), and the sum must
be a 20-bit deck address (R156). -/
def deckAddr (k : Task) (ra : Nat) (off : Int) : Eff Nat :=
  let a := getR k ra
  if fld a 48 16 ≠ 0 then faultE fXlateInvalid
  else
    let s := a + BitVec.ofInt 64 off
    if s.toNat < 0x100000 then .ok s.toNat else faultE fDeckBound

/-- The physical word of `n` words at word `o` past a deck address, checked against the region's bound; a write to CODE
is refused (R125, R126). -/
def relocate (k : Task) (addr o n : Nat) (write : Bool) : Eff Nat :=
  let r := addr / 0x40000
  let off := addr % 0x40000 + o
  if (write && r = 0) || tget k.bound r 0 < off + n then faultE fDeckBound
  else .ok (tget k.base r 0 + off)

/-- The physical word of a deck operand of `n` words. -/
def deckOperand (k : Task) (ra : Nat) (off : Int) (n : Nat) (write : Bool) : Eff Nat := do
  let a ← deckAddr k ra off
  relocate k a 0 n write

/-! ## Deck and accumulator access (R116, R137, R142, R150, R151) -/

/-- Read bytes of the tile's window. -/
def winRead (x : Tile) (off n : Nat) : Eff (List Byte) :=
  if anyGate x off n .waking then waitE
  else if anyGate x off n .off then faultE fDmaTargetOff
  else
    match tileBad x off n with
    | some w => .error (.fault fEccDeck (eccDetail w))
    | none => .ok (memGets x.mem off n)

/-- Write bytes of the tile's window. -/
def winWrite (x : Tile) (off : Nat) (bs : List Byte) : Eff Tile :=
  if anyGate x off bs.length .waking then waitE
  else if anyGate x off bs.length .off || anyGate x off bs.length .draining then faultE fDmaTargetOff
  else .ok (tilePut x off bs)

/-- Read `n` words of deck from physical word `w`. -/
def deckRead (x : Tile) (w n : Nat) : Eff (List Byte) := winRead x (4 * w) (4 * n)
/-- Write bytes to deck from physical word `w`. -/
def deckWrite (x : Tile) (w : Nat) (bs : List Byte) : Eff Tile := winWrite x (4 * w) bs

/-- The physical slot of a logical slot (R139). -/
def physSlot (k : Task) (j : Nat) : Nat := k.slotMap.getD j 0

/-- The window offset of element `i` of a logical slot (R90, R116). -/
def elemOff (k : Task) (j i : Nat) : Nat := 0xC0000 + 65536 * physSlot k j + 4 * i

/-- Element `i` of a logical slot. -/
def getElem (x : Tile) (k : Task) (j i : Nat) : Word32 := mem32 x.mem (elemOff k j i)

/-- Write elements from element `i` of a logical slot on. -/
def putElems (x : Tile) (k : Task) (j i : Nat) (vs : List Word32) : Tile :=
  tilePut x (elemOff k j i) ((vs.map (fun v => toLe 4 v.toNat)).flatten)

/-- The slot and element index of output element `(m, n)` of a slot set of pass width `w` (R90). -/
def arrayIdx (s w m n : Nat) : Nat × Nat := (s + m / 128 * (w / 128) + n / 128, m % 128 * 128 + n % 128)

/-- The slot and element index of output element `(m, n)` by layout: THIN (R105) or ARRAY (R90). -/
def elemIdx (thin : Bool) (s w m n : Nat) : Nat × Nat := if thin then (s, n * 8 + m) else arrayIdx s w m n

/-- The logical slots that rows `m0` to `m0 + m - 1` of a slot set of pass width `w` occupy (R90, R105). -/
def slotSet (thin : Bool) (s w m0 m : Nat) : List Nat :=
  if thin then [s] else (List.range (cdiv (m0 + m) 128 * (w / 128))).map (fun i => s + i)

/-- The SAT bit of a logical slot. -/
def getSat (x : Tile) (k : Task) (j : Nat) : Bool := bitOf x.sat (physSlot k j)
/-- Set or clear the SAT bit of a logical slot. -/
def setSat (x : Tile) (k : Task) (j : Nat) (b : Bool) : Tile :=
  { x with sat := setFld x.sat (physSlot k j) 1 (b2n b) }

/-! ## Scoreboard and interlocks -/

/-- Whether an entry overlaps `n` words from physical word `w`, on rows of sixteen words (R128). -/
def sbOverlap (e : SbEntry) (w n : Nat) : Bool :=
  decide (0 < n) && decide (e.first ≤ (w + n - 1) / 16) && decide (w / 16 ≤ e.last)

/-- A read waits while a WRITE entry overlaps it (R130). -/
def readHeld (x : Tile) (w n : Nat) : Bool := x.sb.any (fun e => e.write && sbOverlap e w n)
/-- A write waits while any entry overlaps it (R130). -/
def writeHeld (x : Tile) (w n : Nat) : Bool := x.sb.any (fun e => sbOverlap e w n)

/-- Register an entry for `n` words from physical word `w` (R128). -/
def sbAdd (x : Tile) (w n : Nat) (write : Bool) (o : SbOwner) : Tile :=
  { x with sb := x.sb ++ [{ first := w / 16, last := (w + n - 1) / 16, write := write, owner := o }] }

/-- Remove the entries of an owner. -/
def sbDel (x : Tile) (o : SbOwner) : Tile := { x with sb := x.sb.filter (fun e => e.owner ≠ o) }

/-- Hold an instruction that must register `n` entries while the scoreboard has no room for them (R131). -/
def sbRoom (x : Tile) (n : Nat) : Eff Unit := holdIf (decide (16 < x.sb.length + n))

/-- The logical slots of ARRAY rows `m0` to `m0 + m - 1` and columns 0 to `n - 1` of a slot set of width `w` (R90). -/
def cellSlots (s w m0 m n : Nat) : List Nat :=
  (List.range ((m0 + m - 1) / 128 + 1 - m0 / 128)).flatMap (fun r =>
    (List.range (cdiv n 128)).map (fun c => s + (m0 / 128 + r) * (w / 128) + c))

/-- The slot set of a queued or running pass (R90, R105). -/
def entrySlots (q : QEntry) : List Nat :=
  match q.kind with
  | .matmul => slotSet false (fld q.word 14 2) (passWidth (fld q.word 32 4)) 0 (fld q.word 47 9 + 1)
  | .scull => slotSet (!bitOf q.word 23) (fld q.word 25 2) (passWidth (fld q.word 27 4)) (fld q.word 8 9) (fld q.word 53 3 + 1)
  | .scorr => slotSet false (fld q.word 29 2) (passWidth (fld q.word 31 4)) (fld q.word 17 9) (fld q.word 53 3 + 1)

/-- The logical slots into which a queued or running pass writes an element: of a slot set of R90 only the slots that its rows
`m0` on and its columns reach (R58, R90, R105). -/
def passSlots (q : QEntry) : List Nat :=
  match q.kind with
  | .matmul => entrySlots q
  | .scull =>
    let w := passWidth (fld q.word 27 4)
    if bitOf q.word 23 then cellSlots (fld q.word 25 2) w (fld q.word 8 9) (fld q.word 53 3 + 1) (fld q.word 35 11 + 1)
    else [fld q.word 25 2]
  | .scorr => cellSlots (fld q.word 29 2) (passWidth (fld q.word 31 4)) (fld q.word 17 9) (fld q.word 53 3 + 1) (fld q.word 35 11 + 1)

/-- A non-pass access to slots waits until every earlier pass into them has written its last row (R96). -/
def passHeld (k : Task) (js : List Nat) : Bool :=
  (k.queue ++ k.passes.map (fun p => p.q)).any (fun q => (entrySlots q).any (fun j => js.contains j))

/-! ## The virtual side of a DMA (R96, R187, R425) -/

/-- Cut a run of `n` bytes at virtual address `va` and deck byte `o` at the 64 KiB pages. -/
def cutPages (o va n k : Nat) : List (Nat × Nat × Nat) :=
  match k with
  | 0 => []
  | j + 1 =>
    if n = 0 then []
    else
      let m := min n (0x10000 - va % 0x10000)
      (o, va, m) :: cutPages (o + m) (va + m) (n - m) j

/-- The segments of a DMA in row order: deck byte offset, virtual address, bytes (R187). -/
def dmaSegs (w va stride : Word64) : List (Nat × Nat × Nat) :=
  let len := 4 * fld w 12 14
  (List.range (fld w 26 13 + 1)).flatMap (fun r =>
    cutPages (r * len) ((va + stride * BitVec.ofNat 64 r).toNat) len (len / 0x10000 + 2))

/-- Group consecutive segments of one 64 KiB page (R425). -/
def groupPages (l : List (Nat × Nat × Nat)) : List (List (Nat × Nat × Nat)) :=
  l.foldr (fun s acc =>
    match acc with
    | [] => [[s]]
    | [] :: r => [s] :: r
    | (q :: qs) :: r => if q.2.1 / 0x10000 = s.2.1 / 0x10000 then (s :: q :: qs) :: r else [s] :: (q :: qs) :: r) []

/-- The pages of a DMA, each with its segments. -/
def dmaPages (xf : Xfer) : List (List (Nat × Nat × Nat)) := groupPages (dmaSegs xf.word xf.a2 xf.a3)

/-- The tile and offset in its window of a virtual address in the deck windows (R411). -/
def winOf (va : Nat) : Option (Nat × Nat) :=
  if 0x4000000000 ≤ va ∧ va < 0x4010000000 then some ((va - 0x4000000000) / 0x100000, (va - 0x4000000000) % 0x100000) else none

/-- The units of tile windows that segments of a DMA's virtual side touch, by tile and unit. -/
def segUnits (segs : List (Nat × Nat × Nat)) : List (Nat × Nat) :=
  segs.flatMap (fun s => match winOf s.2.1 with
    | some w => (tileUnits w.2 s.2.2).map (fun u => (w.1, u))
    | none => [])

/-- Whether a transfer is a DMA. -/
def isDma (k : XKind) : Bool :=
  match k with
  | .dmaIn => true
  | .dmaOut => true
  | _ => false

/-- Whether segments of a DMA's virtual side touch a logical slot of the task on tile `t`. -/
def segsOnSlots (t : Nat) (k : Task) (segs : List (Nat × Nat × Nat)) (js : List Nat) : Bool :=
  js.any (fun j => (segUnits segs).contains (t, 6 + physSlot k j))

/-- A pass waits while an earlier DMA of its tile still has pages to move to or from its slots through the deck window (R96). -/
def dmaHolds (d : Dev) (t : Nat) (k : Task) (q : QEntry) : Bool :=
  d.xfers.any (fun p => p.2.tile.toNat = t && isDma p.2.kind && decide (p.2.seq ≤ q.id) &&
    segsOnSlots t k ((dmaPages p.2).drop p.2.next).flatten (entrySlots q))

/-- A page of a DMA waits while an earlier pass of its tile into a slot that the page touches has not written its last row (R96). -/
def pageHeld (k : Task) (xf : Xfer) : Bool :=
  isDma xf.kind && (k.queue ++ k.passes.map (fun p => p.q)).any (fun q =>
    decide (q.id < xf.seq) && segsOnSlots xf.tile.toNat k ((dmaPages xf).getD xf.next []) (entrySlots q))

/-- The vector registers that a queued SCULL still has to read (R104, R203). -/
def queuedV (k : Task) : List Nat :=
  (k.queue.filter (fun q => q.kind = .scull)).flatMap (fun q =>
    let rows := fld q.word 53 3 + 1
    let bytes := rows * rowBytes (fld q.word 31 4) (fld q.word 46 7 + 1)
    (List.range (cdiv bytes 256)).map (fun i => fld q.word 20 3 + i))

/-- A writer of V`n` waits for every earlier reader of it (R203). -/
def vHeld (k : Task) (n : Nat) : Bool := (queuedV k).contains n

end Sys2Proof.Machine
end

