-- ==== Sys2Proof/Machine/Scalar.lean ====
section
/-! DEFINITION. The control and scalar instructions of a tile's sequencer (R158 to R163) and the end of a task. -/

namespace Sys2Proof.Machine

open Sys2Proof

/-- IMM32, sign-extended to 64 bits (R158). -/
def imm64 (w : Word64) : Word64 := (w.extractLsb' 0 32).signExtend 64

/-- The second source: IMM32 or RS2 (R158). -/
def src2 (k : Task) (w : Word64) : Word64 := if bitOf w 37 then imm64 w else getR k (fld w 38 6)

/-- RD ← RS1 op second source (R159). -/
def aluD (f : Fetch) (op : Nat) (g : Word64 → Word64 → Word64) (d : Dev) : Dev :=
  seqTask f op (fun k w => setR k (fld w 50 6) (g (getR k (fld w 44 6)) (src2 k w))) d

/-- The branch target B + 2 × IMM32; the task's PC is already at the next instruction (R161). -/
def branch (k : Task) (w : Word64) : Task :=
  { k with pc := k.pc - 2 + 2 * w.extractLsb' 0 32 }

/-- The conditions of BR against zero, signed (R158). -/
def brCond (c : Nat) (v : Word64) : Bool :=
  let i := v.toInt
  if c = 0 then decide (i = 0) else if c = 1 then decide (i ≠ 0) else if c = 2 then decide (i < 0)
  else if c = 3 then decide (0 ≤ i) else if c = 4 then decide (0 < i) else decide (i ≤ 0)

/-- NOP (R159). -/
def execNop (f : Fetch) (s : State) : Answer := onDev s (seqTask f 0x00 (fun k _ => k))

/-- JMP (R159, R161). -/
def execJmp (f : Fetch) (s : State) : Answer := onDev s (seqTask f 0x01 branch)

/-- BR (R159, R161). -/
def execBr (f : Fetch) (s : State) : Answer :=
  onDev s (seqTask f 0x02 (fun k w => if brCond (fld w 32 3) (getR k (fld w 50 6)) then branch k w else k))

/-- LOOP (R159, R161). -/
def execLoop (f : Fetch) (s : State) : Answer :=
  onDev s (seqTask f 0x03 (fun k w =>
    let v := getR k (fld w 50 6) - 1
    let k1 := setR k (fld w 50 6) v
    if v = 0 then k1 else branch k1 w))

/-- Whether the truss array, the scull path and the staging queue are idle (R162). -/
def passIdle (k : Task) : Bool := k.queue.isEmpty && k.passes.isEmpty

/-- Whether every tag that a mask names is zero (R162). -/
def tagsZero (tags : Tbl Nat) (mask n : Nat) : Bool :=
  (List.range n).all (fun i => !(mask.testBit i) || tget tags i 0 == 0)

/-- WAIT (R162). Rigger instructions complete as they issue, so RIGGER never holds (log 2). -/
def execWait (f : Fetch) (s : State) : Answer :=
  onDev s (seqTile f 0x04 none (fun x k w _ =>
    let m := fld w 0 32
    if tagsZero k.dmaTag (m % 0x10000) 16 && tagsZero k.trTag (m / 0x10000 % 0x100) 8
      && (!m.testBit 24 || passIdle k) && (!m.testBit 26 || k.convs.isEmpty)
    then .ok (x, k) else waitE))

/-- END: the sequencer stops issuing (R163). -/
def execEnd (f : Fetch) (s : State) : Answer :=
  onDev s (seqTask f 0x05 (fun k _ => { k with ending := true }))

/-- The four conditions of END (R163). -/
def endDone (x : Tile) (k : Task) : Bool :=
  k.ending && passIdle k && k.convs.isEmpty && tagsZero k.dmaTag 0xFFFF 16 && tagsZero k.trTag 0xFF 8 && x.sb.isEmpty

/-- Mark the ranges of tile `t` that are no longer held by a task: each holder outside `keep` (word ranges) is due for
release (R217). -/
def markRelease (d : Dev) (t : Nat) (keep : List (Nat × Nat)) : Dev :=
  { d with bufs := tmap d.bufs (fun _ b =>
      { b with holders := b.holders.map (fun h =>
          if h.tile.toNat = t && !keep.any (fun r => decide (r.1 ≤ h.word) && decide (h.word < r.1 + r.2))
          then { h with rel := true } else h) }) }

/-- The regions and slots that a task carries across its end (R200, R234). -/
def keptOf (k : Task) : Kept :=
  { cr := k.work.cr
    slots := ((List.range k.slotMap.length).filter (fun j => bitOf k.work.desc.q0 (40 + j))).map (fun j => (j, physSlot k j))
    regions := ((List.range 4).filter (fun r => bitOf k.work.desc.q0 (44 + r))).map (fun r => (r, tget k.base r 0, tget k.bound r 0)) }

/-- The end of a task, once END's conditions hold: the flag word is handed over, kept items stay, and the other ranges
are due for release (R163, R217, R234, R239). -/
def taskEndD (t : Nat) (d : Dev) : Dev :=
  let x := getTile d t
  match x.run with
  | none => d
  | some k =>
    if !endDone x k then d
    else
      let kp := keptOf k
      let e : Ended :=
        { work := k.work, flags := k.flags
          satSet := (List.range k.slotMap.length).any (fun j => getSat x k j)
          start := k.start, finish := d.now, away := k.away, resumes := k.resumes }
      markRelease (setTile d t
        { x with run := none, ended := some e, kept := if kp.slots.isEmpty && kp.regions.isEmpty then none else some kp })
        t (kp.regions.map (fun r => r.2))

/-- TASK_END (R163). -/
def execTaskEnd (t : TileId) (s : State) : Answer := onDev s (taskEndD t.toNat)

/-- LI (R159). -/
def execLi (f : Fetch) (s : State) : Answer := onDev s (seqTask f 0x06 (fun k w => setR k (fld w 50 6) (imm64 w)))

/-- LIH (R159). -/
def execLih (f : Fetch) (s : State) : Answer :=
  onDev s (seqTask f 0x07 (fun k w =>
    setR k (fld w 50 6) (w.extractLsb' 0 32 ++ (getR k (fld w 50 6)).extractLsb' 0 32)))

/-- ADD (R160). -/
def execAdd (f : Fetch) (s : State) : Answer := onDev s (aluD f 0x08 (fun a b => a + b))
/-- SUB (R160). -/
def execSub (f : Fetch) (s : State) : Answer := onDev s (aluD f 0x09 (fun a b => a - b))
/-- AND (R159). -/
def execAnd (f : Fetch) (s : State) : Answer := onDev s (aluD f 0x0A (fun a b => a &&& b))
/-- OR (R159). -/
def execOr (f : Fetch) (s : State) : Answer := onDev s (aluD f 0x0B (fun a b => a ||| b))
/-- XOR (R159). -/
def execXor (f : Fetch) (s : State) : Answer := onDev s (aluD f 0x0C (fun a b => a ^^^ b))
/-- SHL: the amount is bits [5:0] (R160). -/
def execShl (f : Fetch) (s : State) : Answer := onDev s (aluD f 0x0D (fun a b => a <<< (b.toNat % 64)))
/-- SHR, logical: the amount is bits [5:0] (R160). -/
def execShr (f : Fetch) (s : State) : Answer := onDev s (aluD f 0x0E (fun a b => a >>> (b.toNat % 64)))
/-- MUL: the low 64 bits (R160). -/
def execMul (f : Fetch) (s : State) : Answer := onDev s (aluD f 0x0F (fun a b => a * b))

/-! ## Scalar loads and stores (R164) -/

/-- The signed word offset OFF of an instruction (R164). -/
def offOf (w : Word64) : Int := sfld w 0 24

/-- A scalar load of `n` words; LDD faults on an odd physical word (R164). -/
def loadD (f : Fetch) (op n : Nat) (d : Dev) : Dev :=
  seqTile f op none (fun x k w _ => do
    let a ← deckOperand k (fld w 45 5) (offOf w) n false
    faultIf (n = 2 && a % 2 = 1) fDeckBound
    holdIf (readHeld x a n)
    let bs ← deckRead x a n
    .ok (x, setR k (fld w 50 6) (BitVec.ofNat 64 (leNat bs)))) d

/-- A scalar store of `n` words; STD faults on an odd physical word (R164). -/
def storeD (f : Fetch) (op n : Nat) (d : Dev) : Dev :=
  seqTile f op none (fun x k w _ => do
    let a ← deckOperand k (fld w 45 5) (offOf w) n true
    faultIf (n = 2 && a % 2 = 1) fDeckBound
    holdIf (writeHeld x a n)
    let x1 ← deckWrite x a (toLe (4 * n) (getR k (fld w 50 6)).toNat)
    .ok (x1, k)) d

/-- LDW (R164). -/
def execLdw (f : Fetch) (s : State) : Answer := onDev s (loadD f 0x10 1)
/-- LDD (R164). -/
def execLdd (f : Fetch) (s : State) : Answer := onDev s (loadD f 0x11 2)
/-- STW (R164). -/
def execStw (f : Fetch) (s : State) : Answer := onDev s (storeD f 0x12 1)
/-- STD (R164). -/
def execStd (f : Fetch) (s : State) : Answer := onDev s (storeD f 0x13 2)

/-! ## Moves between deck and accumulator (R165) -/

/-- The words of a byte string. -/
def bytesWords (n : Nat) (bs : List Byte) : List Word32 := (List.range n).map (fun i => BitVec.ofNat 32 (leAt bs (4 * i) 4))

/-- MOVDA: deck runs of 128 words into slot rows, bit for bit (R165). -/
def movda (f : Fetch) (d : Dev) : Dev :=
  seqTile f 0x14 none (fun x k w _ => do
    let n := 128 * (fld w 39 7 + 1)
    let a ← deckOperand k (fld w 34 5) (offOf w) n true
    holdIf (readHeld x a n || passHeld k [fld w 54 2])
    let bs ← deckRead x a n
    let x1 ← winWrite x (elemOff k (fld w 54 2) (128 * fld w 46 7)) bs
    .ok (x1, k)) d

/-- The bytes that MOVAD copies: slot rows back to back (ARRAY), or element `(m, n)` of the THIN result at word
`m × (N + 1) + n` (R105, R165). -/
def movadBytes (x : Tile) (k : Task) (w : Word64) : Eff (List Byte) :=
  let j := fld w 54 2
  if bitOf w 53 then
    let m := fld w 50 3 + 1
    let n := fld w 39 11 + 1
    do
      let bs ← (List.range (m * n)).mapM (fun i => winRead x (elemOff k j (i % n * 8 + i / n)) 4)
      .ok bs.flatten
  else winRead x (elemOff k j (128 * fld w 46 7)) (512 * (fld w 39 7 + 1))

/-- MOVAD (R165). -/
def movad (f : Fetch) (d : Dev) : Dev :=
  seqTile f 0x15 none (fun x k w _ => do
    let n := if bitOf w 53 then (fld w 50 3 + 1) * (fld w 39 11 + 1) else 128 * (fld w 39 7 + 1)
    let a ← deckOperand k (fld w 34 5) (offOf w) n true
    holdIf (writeHeld x a n || passHeld k [fld w 54 2])
    let bs ← movadBytes x k w
    let x1 ← deckWrite x a bs
    .ok (x1, k)) d

/-- Clear logical slot `j`: every element +0 and the SAT bit clear (R165). -/
def clearSlot (x : Tile) (k : Task) (j : Nat) : Tile :=
  let off := 0xC0000 + 65536 * physSlot k j
  let lo := off / 4
  setSat { x with
    mem := memZero x.mem off 65536
    bad := x.bad.filter (fun w => !(decide (lo ≤ w) && decide (w < lo + 16384)))
    fixups := x.fixups.filter (fun p => !(decide (lo ≤ p.1) && decide (p.1 < lo + 16384))) } k j false

/-- ACLR (R150, R151, R165). -/
def aclr (f : Fetch) (d : Dev) : Dev :=
  seqTile f 0x16 none (fun x k w _ => do
    let js := (List.range 4).filter (fun j => bitOf w (52 + j))
    let offs := js.map (fun j => elemOff k j 0)
    holdIf (passHeld k js || offs.any (fun o => anyGate x o 65536 .waking))
    faultIf (offs.any (fun o => anyGate x o 65536 .off || anyGate x o 65536 .draining)) fDmaTargetOff
    .ok (js.foldl (fun x j => clearSlot x k j) x, k)) d

/-- MOVDA (R165). -/
def execMovda (f : Fetch) (s : State) : Answer := onDev s (movda f)
/-- MOVAD (R165). -/
def execMovad (f : Fetch) (s : State) : Answer := onDev s (movad f)
/-- ACLR (R165). -/
def execAclr (f : Fetch) (s : State) : Answer := onDev s (aclr f)

end Sys2Proof.Machine
end

