-- ==== Sys2Proof/Machine/Truss.lean ====
section
/-! DEFINITION. The truss array and the scull path: MMCFG, MATMUL, SCULL, SCORR, staging, issue, and the results of a
pass (R35, R36, R39, R43, R50 to R58, R76, R88 to R106, R129, R167 to R175). -/

namespace Sys2Proof.Machine

open Sys2Proof

/-- The truss configuration of an MMCFG word (R167). -/
def mmOf (w : Word64) : MmCfg :=
  { aStride := w.extractLsb' 42 14, asStride := w.extractLsb' 28 14, wStride := w.extractLsb' 14 14
    wsStride := w.extractLsb' 0 14 }

/-- MMCFG (R167). -/
def execMmcfg (f : Fetch) (s : State) : Answer := onDev s (seqTask f 0x21 (fun k w => { k with mm := mmOf w }))

/-! ## The shape of a queued instruction -/

/-- Rows of activations. -/
def qM (q : QEntry) : Nat :=
  match q.kind with
  | .matmul => fld q.word 47 9 + 1
  | _ => fld q.word 53 3 + 1
/-- Reduction positions. -/
def qK (q : QEntry) : Nat :=
  match q.kind with
  | .matmul => fld q.word 40 7 + 1
  | _ => fld q.word 46 7 + 1
/-- Activation format; a SCORR's residuals are E4M3 (R76). -/
def qAfmt (q : QEntry) : Nat :=
  match q.kind with
  | .matmul => fld q.word 36 4
  | .scull => fld q.word 31 4
  | .scorr => 3
/-- Weight format. -/
def qWfmt (q : QEntry) : Nat :=
  match q.kind with
  | .matmul => fld q.word 32 4
  | .scull => fld q.word 27 4
  | .scorr => fld q.word 31 4
/-- Activation scale mode; SCULL's comes from its SXT prefix (R172). -/
def qAsm (q : QEntry) : Nat :=
  match q.kind with
  | .matmul => fld q.word 24 8
  | .scull => fld q.pre 48 8
  | .scorr => 0
/-- Weight scale mode. -/
def qWsm (q : QEntry) : Nat :=
  match q.kind with
  | .matmul => fld q.word 16 8
  | .scull => fld q.pre 40 8
  | .scorr => fld q.word 7 8
/-- Output columns: a MATMUL covers the pass width (R89). -/
def qN (q : QEntry) : Nat :=
  match q.kind with
  | .matmul => passWidth (qWfmt q)
  | _ => fld q.word 35 11 + 1
/-- First logical slot. -/
def qSlot (q : QEntry) : Nat :=
  match q.kind with
  | .matmul => fld q.word 14 2
  | .scull => fld q.word 25 2
  | .scorr => fld q.word 29 2
/-- INIT; a SCORR always adds (R174). -/
def qInit (q : QEntry) : Bool :=
  match q.kind with
  | .matmul => bitOf q.word 13
  | .scull => bitOf q.word 24
  | .scorr => false
/-- SHIFT. -/
def qShift (q : QEntry) : Nat :=
  match q.kind with
  | .matmul => fld q.word 10 2
  | .scull => fld q.pre 38 2
  | .scorr => 0
/-- REUSE (R95). -/
def qReuse (q : QEntry) : Bool :=
  match q.kind with
  | .matmul => bitOf q.word 12
  | _ => false
/-- THIN layout (R105). -/
def qThin (q : QEntry) : Bool :=
  match q.kind with
  | .scull => !bitOf q.word 23
  | _ => false
/-- First slot row of ARRAY layout. -/
def qM0 (q : QEntry) : Nat :=
  match q.kind with
  | .matmul => 0
  | .scull => fld q.word 8 9
  | .scorr => fld q.word 17 9
/-- SFMT of a SCORR's output scales (R174). -/
def qSo (q : QEntry) : Nat := fld q.word 15 2
/-- The AB field: the address block of the operands. -/
def qAb (kind : QKind) (w : Word64) : Nat :=
  match kind with
  | .matmul => fld w 7 3
  | .scull => fld w 17 3
  | .scorr => fld w 26 3

/-! ## Operand ranges -/

/-- An operand range of deck: its number (0 activations or escapes, 1 their scales, 2 weights, 3 weight scales), the
physical word of its first row, its rows, row stride and words a row, and the words before the first row. -/
structure Rng where
  num    : Nat
  phys   : Nat
  extra  : Nat
  rows   : Nat
  stride : Nat
  words  : Nat
deriving DecidableEq, Repr

/-- The words from the start of a range to the end of its last row. -/
def rngSpan (r : Rng) : Nat := r.extra + (r.rows - 1) * r.stride + r.words

/-- A range at a captured address register, checked against its region's bound (R125, R156). -/
def mkRng (k : Task) (num : Nat) (a : Word64) (extra rows stride words : Nat) (write : Bool := false) : Eff Rng :=
  if fld a 48 16 ≠ 0 then faultE fXlateInvalid
  else if 0x100000 ≤ a.toNat then faultE fDeckBound
  else
    match relocate k a.toNat 0 (extra + (rows - 1) * stride + words) write with
    | .ok p => .ok { num := num, phys := p, extra := extra, rows := rows, stride := stride, words := words }
    | .error e => .error e

/-- The scale rows of an operand, if its mode has scales (R43). -/
def scaleRng (k : Task) (num : Nat) (a : Word64) (extra sm r kk stride : Nat) : Eff (List Rng) :=
  if smFmt sm = 0 then .ok []
  else
    let sh := scaleShape sm r kk
    (mkRng k num a extra sh.1 stride (cdiv (sh.2 * scaleBytes (smFmt sm)) 4)).map (fun x => [x])

/-- The ranges that staging reads (R91, R129, R169, R173, R174): a REUSE pass stages its weights only, a SCULL has no
activation rows in deck, and a W2 weight reads its value table at the start of the scale region (R35). -/
def opRanges (k : Task) (q : QEntry) : Eff (List Rng) := do
  let m := qM q
  let kk := qK q
  let act ← match q.kind with
    | .matmul =>
      if qReuse q then pure []
      else do
        let a ← mkRng k 0 q.aAddr 0 m q.mm.aStride.toNat (rowBytes (qAfmt q) kk / 4)
        let s ← scaleRng k 1 q.asAddr 0 (qAsm q) m kk q.mm.asStride.toNat
        pure (a :: s)
    | .scull => scaleRng k 1 q.asAddr 0 (qAsm q) m kk q.mm.asStride.toNat
    | .scorr => do
      let e ← mkRng k 0 q.aAddr 0 m q.mm.aStride.toNat (cdiv kk 32)
      let o ← mkRng k 1 q.asAddr 0 m q.mm.asStride.toNat (cdiv (cdiv kk 32 * scaleBytes (qSo q)) 4)
      pure [e, o]
  let wt ← mkRng k 2 q.wAddr 0 (qN q) q.mm.wStride.toNat (rowBytes (qWfmt q) kk / 4)
  let extra := if qWfmt q = 8 then 2 else 0
  let ws ← scaleRng k 3 q.wsAddr extra (qWsm q) (qN q) kk q.mm.wsStride.toNat
  let tb ← if qWfmt q = 8 && ws.isEmpty then (mkRng k 3 q.wsAddr 2 1 0 0).map (fun x => [x]) else pure []
  .ok (act ++ wt :: (ws ++ tb))

/-- The rows of a range as bytes. -/
def rngRows (x : Tile) (r : Rng) : Eff (List (List Byte)) :=
  (List.range r.rows).mapM (fun i => deckRead x (r.phys + r.extra + i * r.stride) r.words)

/-! ## Issue into the staging queue (R92, R168, R171, R174) -/

/-- Place an instruction in the staging queue: it waits while the queue is full, its operands are captured (R202), and
its ranges are checked against their bounds (R156). -/
def enqueue (kind : QKind) (x : Tile) (k : Task) (w p : Word64) : Eff (Tile × Task) := do
  holdIf (decide (2 ≤ k.queue.length))
  let b := 4 * qAb kind w
  let q : QEntry :=
    { id := k.nextId, kind := kind, word := w, pre := p
      aAddr := getR k b, asAddr := getR k (b + 1), wAddr := getR k (b + 2), wsAddr := getR k (b + 3)
      mm := k.mm, pc := k.pc - (if kind = .scull then 4 else 2), ranges := [], data := none }
  let _ ← opRanges k q
  .ok (x, { k with queue := k.queue ++ [q], nextId := k.nextId + 1 })

/-- The shape that REUSE compares: M, K, activation format and scale mode (R95); DIR and BLOCK of a mode without scales take no
effect (R38). -/
def shapeOf (w : Word64) : BitVec 64 :=
  let asm := fld w 24 8
  BitVec.ofNat 64 (fld w 47 9 + 2 ^ 9 * fld w 40 7 + 2 ^ 16 * fld w 36 4 + 2 ^ 20 * (if smFmt asm = 0 then 0 else asm))

/-- MATMUL: a REUSE pass after a pass of another shape faults at issue (R95, R168, R170). -/
def matmul (f : Fetch) (d : Dev) : Dev :=
  seqTile f 0x20 none (fun x k w p => do
    faultIf (bitOf w 12 && decide (k.shape ≠ some (shapeOf w))) fIllegalInstr
    let r ← enqueue .matmul x k w p
    .ok (r.1, { r.2 with shape := some (shapeOf w) })) d

/-- MATMUL (R168). -/
def execMatmul (f : Fetch) (s : State) : Answer := onDev s (matmul f)
/-- SCULL, with its SXT prefix (R171, R172). -/
def execScull (f : Fetch) (s : State) : Answer := onDev s (seqTile f 0x30 (some 0x31) (enqueue .scull))
/-- SCORR (R174). -/
def execScorr (f : Fetch) (s : State) : Answer := onDev s (seqTile f 0x32 none (enqueue .scorr))

/-! ## Staging (R91, R97, R129, R130) -/

/-- The first entry of the staging queue that is not staged, and its place. -/
def unstaged (k : Task) : Option (Nat × QEntry) :=
  (k.queue.zipIdx.find? (fun p => p.1.data = none)).map (fun p => (p.2, p.1))

/-- The W2 table check (R36). -/
def w2TableOk (q : QEntry) (table : List Byte) : Bool :=
  qWfmt q ≠ 8 || (List.range 4).all (fun c => w2Ok (qAfmt q) (fDecode fBF16 (leAt table (2 * c) 2)))

/-- Rows of the range of number `n`. -/
def rowsOf (rs : List (Rng × List (List Byte))) (n : Nat) : List (List Byte) :=
  match rs.find? (fun p => p.1.num = n) with
  | some p => p.2
  | none => []

/-- What the staged entries of the queue and the passes in flight hold. -/
def stagedNow (k : Task) : List Staged := k.queue.filterMap (fun q => q.data) ++ k.passes.map (fun p => p.data)

/-- The activation buffers in use: by staged entries, by passes that have not written their last row, and for REUSE (R91, R95;
log 84). -/
def actBusy (k : Task) : List Nat := (stagedNow k).filterMap (fun s => s.act) ++ k.held.toList

/-- The weight-front buffers in use. -/
def wtBusy (k : Task) : List Nat := (stagedNow k).map (fun s => s.wt)

/-- A free one of two feed buffers, or the staging waits (R85, R91). -/
def freeBuf (busy : List Nat) : Eff Nat :=
  match (List.range 2).find? (fun b => !busy.contains b) with
  | some b => .ok b
  | none => waitE

/-- The activation buffer of the pass before entry `i` of the queue: that of the nearest earlier MATMUL in the queue, or of the
last one to issue (R95). -/
def prevAct (k : Task) (i : Nat) : Option Nat :=
  match ((k.queue.take i).filter (fun q => q.kind = .matmul)).getLast? with
  | some q => q.data.bind (fun s => s.act)
  | none => k.held

/-- Stage one queue entry: its reads wait for overlapping WRITE entries, for room in the scoreboard and for free feed buffers,
and its bytes are captured in them; a REUSE pass takes the activation buffer of the pass before it; a W2 table that is not
exact faults (R36, R85, R91, R95, R97, R130, R131). -/
def stageEntry (x : Tile) (k : Task) (i : Nat) (q : QEntry) : Eff (Tile × Task) := do
  let rs ← opRanges k q
  holdIf (rs.any (fun r => readHeld x r.phys (rngSpan r)))
  sbRoom x rs.length
  let fills := rs.any (fun r => decide (r.num < 2))
  let a ← if qReuse q then pure (prevAct k i) else if fills then (freeBuf (actBusy k)).map some else pure none
  let w ← freeBuf (wtBusy k)
  let rows ← rs.mapM (fun r => (rngRows x r).map (fun bs => (r, bs)))
  let table ← match rs.find? (fun r => r.num = 3) with
    | some r => if qWfmt q = 8 then deckRead x r.phys 2 else pure []
    | none => pure []
  faultIf (!w2TableOk q table) fFormatPair
  let x1 := rs.foldl (fun x r => sbAdd x r.phys (rngSpan r) false (.stage q.id r.num)) x
  let x2 := { x1 with wtBuf := tset x1.wtBuf w { rows := rowsOf rows 2, scales := rowsOf rows 3, table := table } }
  let x3 := if fills then { x2 with actBuf := tset x2.actBuf (a.getD 0) { rows := rowsOf rows 0, scales := rowsOf rows 1, table := [] } } else x2
  .ok (x3, { k with queue := k.queue.set i { q with data := some { act := a, wt := w }, ranges := rs.map (fun r => r.num) } })

/-- Run a part of the tile's task that is not an instruction issue: held changes nothing, a fault names the queued
instruction. -/
def taskPart (t : Nat) (d : Dev) (pc : BitVec 32) (act : Tile → Task → Eff (Tile × Task)) : Dev :=
  let x := getTile d t
  match x.run with
  | none => d
  | some k =>
    match act x k with
    | .ok r => setTile d t { r.1 with run := some r.2 }
    | .error .wait => d
    | .error (.fault c i) => tileFault d t k pc c i

/-- Staging of the next queued instruction begins; nothing is staged for a sequencer stopped by a pre-emption (R91,
R103). -/
def stageD (t : Nat) (e : Ecc) (d : Dev) : Dev :=
  match (getTile d t).run with
  | none => d
  | some k =>
    match unstaged k with
    | none => d
    | some (i, q) =>
      if (getTile d t).stopped then d
      else taskPart t (setTile d t (applyEcc (getTile d t) e)) q.pc (fun x k => stageEntry x k i q)

/-- STAGE_OPERANDS (R91). -/
def execStageOperands (t : TileId) (e : Ecc) (s : State) : Answer := onDev s (stageD t.toNat e)

/-- The last byte of range `r` of the oldest entry that still stages it is staged: its STAGE entry is removed (R129). -/
def stagingDoneD (t r : Nat) (d : Dev) : Dev :=
  taskPart t d 0 (fun x k =>
    match k.queue.zipIdx.find? (fun p => p.1.ranges.contains r) with
    | none => waitE
    | some (q, i) => .ok (sbDel x (.stage q.id r), { k with queue := k.queue.set i { q with ranges := q.ranges.erase r } }))

/-- STAGING_DONE (R129). -/
def execStagingDone (t : TileId) (r : BitVec 2) (s : State) : Answer := onDev s (stagingDoneD t.toNat r.toNat)

/-! ## Pass issue (R93, R96) -/

/-- The vector rows of a SCULL, packed from V[VB] upward, each on a 4-byte boundary (R34, R104). -/
def vecRows (k : Task) (q : QEntry) : List (List Byte) :=
  let all := ((List.range 8).map (fun n => vBytes k n)).flatten
  let rb := rowBytes (qAfmt q) (qK q)
  (List.range (qM q)).map (fun m => sub all (256 * fld q.word 20 3 + m * rb) rb)

/-- The head of the staging queue issues: it is staged, its slot set is free of conversions, and the other path has
drained (R93, R96). A SCULL reads its vector now (R202). -/
def issueHead (x : Tile) (k : Task) : Eff (Tile × Task) :=
  match k.queue with
  | [] => waitE
  | q :: r =>
    match q.data with
    | none => waitE
    | some st =>
      let scullPath := q.kind ≠ .matmul
      let drained := k.passes.all (fun p => decide ((p.q.kind ≠ .matmul) = scullPath))
      let free := !k.convs.any (fun c => c.slots.any (fun j => (entrySlots q).contains j))
      if q.ranges ≠ [] || !drained || !free then waitE
      else
        let vec := if q.kind = .scull then vecRows k q else []
        .ok (x, { k with queue := r, passes := k.passes ++ [{ q := q, data := st, vec := vec }]
                         held := if q.kind = .matmul then st.act else k.held })

/-- The head issues once no earlier DMA moves to or from its slots (R96); nothing issues on a stopped sequencer (R103). -/
def passIssue (t : Nat) (d : Dev) : Dev :=
  if (getTile d t).stopped then d
  else taskPart t d 0 (fun x k => if (match k.queue.head? with | some q => dmaHolds d t k q | none => false) then waitE else issueHead x k)

/-- PASS_ISSUE (R93). -/
def execPassIssue (t : TileId) (s : State) : Answer := onDev s (passIssue t.toNat)

/-! ## Results (R50 to R58, R76, R90, R105) -/

/-- The activation buffer of a pass; one that uses none reads it as empty. -/
def passAct (x : Tile) (p : Pass) : FeedBuf :=
  match p.data.act with
  | some b => tget x.actBuf b FeedBuf.init
  | none => FeedBuf.init

/-- The weight-front buffer of a pass. -/
def passWt (x : Tile) (p : Pass) : FeedBuf := tget x.wtBuf p.data.wt FeedBuf.init

/-- The residual operand of a SCORR row at position `k` of the chunk: the sum of its block's escapes at that position,
each residual times s_o (R75, R76). A position that no escape names is zero. -/
def escVal (x : Tile) (p : Pass) (m k : Nat) : Num :=
  let row := (passAct x p).rows.getD m []
  let blk := k / 32
  let so := scaleAt (qSo p.q) ((passAct x p).scales.getD m []) blk
  (List.range 2).foldl (fun acc i =>
    let e := leAt row (4 * blk + 2 * i) 2
    if e ≠ 0 && e % 32 = k % 32 then numAdd acc (numMul (fmtDecode 3 (e / 256)) so) else acc) numZero

/-- Whether a SCORR's rows hold any escape in the chunk (R76, R175). -/
def hasEscape (x : Tile) (p : Pass) : Bool :=
  (List.range (qM p.q)).any (fun m =>
    (List.range (2 * cdiv (qK p.q) 32)).any (fun i => leAt ((passAct x p).rows.getD m []) (2 * i) 2 ≠ 0))

/-- The activation operand at row `m`, position `k`, with its scale; pairs that accumulate in INT32 apply no scale
here (R39, R40). -/
def actVal (x : Tile) (p : Pass) (m k : Nat) : Num :=
  match p.q.kind with
  | .scorr => escVal x p m k
  | kind =>
    let row := (if kind = .scull then p.vec else (passAct x p).rows).getD m []
    let v := fmtDecode (qAfmt p.q) (packGet row (fmtWidth (qAfmt p.q)) k)
    if intPair (qAfmt p.q) then v else numMul v (scaleOf (qAsm p.q) (passAct x p).scales m k)

/-- The weight operand at column `n`, position `k`, with its scale (R30, R36, R39). -/
def wtVal (x : Tile) (p : Pass) (n k : Nat) : Num :=
  let b := passWt x p
  let v := weightVal (qWfmt p.q) b.table (packGet (b.rows.getD n []) (fmtWidth (qWfmt p.q)) k)
  if intPair (qAfmt p.q) then v else numMul v (scaleOf (qWsm p.q) b.scales n k)

/-- The exact products of output element `(m, n)` (R39). -/
def products (x : Tile) (p : Pass) (m n : Nat) : List Num :=
  (List.range (qK p.q)).map (fun k => numMul (actVal x p m k) (wtVal x p n k))

/-- EXACT of a task (R55). -/
def taskExact (k : Task) : Bool := bitOf k.work.desc.q0 31

/-- Write one output element of a pass, taking a clamp into its slot's SAT bit (R53, R58, R90). -/
def passElem (k : Task) (p : Pass) (x : Tile) (mn : Nat × Nat) : Tile :=
  let w := passWidth (qWfmt p.q)
  let ix := elemIdx (qThin p.q) (qSlot p.q) w (qM0 p.q + mn.1) mn.2
  let r := accumulate (intPair (qAfmt p.q)) (taskExact k) (qInit p.q) (qShift p.q)
    (getElem x k ix.1 ix.2) (products x p mn.1 mn.2)
  let x1 := putElems x k ix.1 ix.2 [r.1]
  if r.2 then setSat x1 k ix.1 true else x1

/-- The output elements of a pass, row by row. -/
def passCells (q : QEntry) : List (Nat × Nat) :=
  (List.range (qM q)).flatMap (fun m => (List.range (qN q)).map (fun n => (m, n)))

/-- The results of a pass in the accumulator: an initialising pass clears the SAT bits of the slots that it writes (R58); a pass that
adds reads its old elements, and an uncorrectable one faults (R142); a SCORR with no escape leaves the slot unchanged
(R175). -/
def passResults (x : Tile) (k : Task) (p : Pass) : Eff Tile := do
  let js := passSlots p.q
  let offs := js.map (fun j => elemOff k j 0)
  holdIf (offs.any (fun o => anyGate x o 65536 .waking))
  faultIf (offs.any (fun o => anyGate x o 65536 .off || anyGate x o 65536 .draining)) fDmaTargetOff
  if p.q.kind = .scorr && !hasEscape x p then .ok x
  else
    let w := passWidth (qWfmt p.q)
    let touched := (passCells p.q).map (fun mn =>
      let ix := elemIdx (qThin p.q) (qSlot p.q) w (qM0 p.q + mn.1) mn.2
      elemOff k ix.1 ix.2 / 4)
    match if qInit p.q then none else x.bad.find? (fun b => touched.contains b) with
    | some b => .error (.fault fEccDeck (eccDetail b))
    | none =>
      let x1 := if qInit p.q then js.foldl (fun x j => setSat x k j false) x else x
      .ok ((passCells p.q).foldl (passElem k p) x1)

/-- The oldest pass in flight writes its results when it is of the named path (R98, R106). -/
def drainD (t : Nat) (scullPath : Bool) (d : Dev) : Dev :=
  match (getTile d t).run with
  | none => d
  | some k =>
    match k.passes with
    | [] => d
    | p :: r =>
      if (p.q.kind ≠ .matmul) ≠ scullPath then d
      else taskPart t d p.q.pc (fun x k => do
        let x1 ← passResults x k p
        .ok (x1, { k with passes := r }))

/-- PASS_DRAIN (R98). -/
def execPassDrain (t : TileId) (s : State) : Answer := onDev s (drainD t.toNat false)
/-- SCULL_RESULTS_WRITTEN (R106). -/
def execScullResultsWritten (t : TileId) (s : State) : Answer := onDev s (drainD t.toNat true)

end Sys2Proof.Machine
end

