-- ==== Sys2Proof/Machine/Rigger.lean ====
section
/-! DEFINITION. The rigger unit's instructions (R60 to R62, R107 to R110, R176 to R179). -/

namespace Sys2Proof.Machine

open Sys2Proof

/-- Operand b by BMODE: the lanes of V[VB], one lane broadcast, or S[RS][31:0] broadcast (R176). -/
def operandB (k : Task) (w : Word64) : List Word32 :=
  let vb := fld w 47 3
  let mode := fld w 42 2
  if mode = 0 then lanes k vb
  else if mode = 1 then List.replicate 64 (getV k vb (fld w 36 6))
  else List.replicate 64 (BitVec.ofNat 32 (fld (getS k (fld w 32 4)) 0 32))

/-- A lane-wise instruction on operands a, b and c: it waits while a queued SCULL still has to read VD (R203). -/
def laneOp (f : Fetch) (op : Nat) (g : Word64 → Word32 → Word32 → Word32 → Word32) (d : Dev) : Dev :=
  seqTile f op none (fun x k w _ => do
    holdIf (vHeld k (fld w 53 3))
    let a := lanes k (fld w 50 3)
    let b := operandB k w
    let c := lanes k (fld w 44 3)
    .ok (x, setVs k (fld w 53 3) 0
      ((List.range 64).map (fun i => g w (a.getD i 0) (b.getD i 0) (c.getD i 0))))) d

/-- VADD (R177). -/
def execVadd (f : Fetch) (s : State) : Answer := onDev s (laneOp f 0x40 (fun _ a b _ => add32 a b))
/-- VSUB (R177). -/
def execVsub (f : Fetch) (s : State) : Answer := onDev s (laneOp f 0x41 (fun _ a b _ => sub32 a b))
/-- VMUL (R177). -/
def execVmul (f : Fetch) (s : State) : Answer := onDev s (laneOp f 0x42 (fun _ a b _ => mul32 a b))
/-- VFMA, rounded once (R107, R177). -/
def execVfma (f : Fetch) (s : State) : Answer := onDev s (laneOp f 0x43 (fun _ a b c => fma32 a b c))
/-- VMAX (R62). -/
def execVmax (f : Fetch) (s : State) : Answer := onDev s (laneOp f 0x44 (fun _ a b _ => max32 a b))
/-- VMIN (R62). -/
def execVmin (f : Fetch) (s : State) : Answer := onDev s (laneOp f 0x45 (fun _ a b _ => min32 a b))
/-- VCMP (R177). -/
def execVcmp (f : Fetch) (s : State) : Answer := onDev s (laneOp f 0x46 (fun w a b _ => cmp32 (fld w 29 3) a b))
/-- VCVT (R177). -/
def execVcvt (f : Fetch) (s : State) : Answer :=
  onDev s (laneOp f 0x47 (fun w a _ _ => if fld w 29 3 = 0 then f2i32 a else i2f32 a))
/-- VFUNC (R108, R177). -/
def execVfunc (f : Fetch) (s : State) : Answer := onDev s (laneOp f 0x48 (fun w a _ _ => vfunc (fld w 29 3) a))

/-- The node of a VRED tree by SUB (R177). -/
def redOp (sub : Nat) : Word32 → Word32 → Word32 := if sub = 0 then add32 else if sub = 1 then max32 else min32

/-- VRED: a pairwise tree of six levels into one lane of VD (R178). -/
def execVred (f : Fetch) (s : State) : Answer :=
  onDev s (seqTile f 0x49 none (fun x k w _ => do
    holdIf (vHeld k (fld w 53 3))
    .ok (x, setV k (fld w 53 3) (fld w 36 6) (treeOf (redOp (fld w 29 3)) 6 (lanes k (fld w 50 3))))))

/-- VLD: 256 B of deck, after the scoreboard (R130, R179). -/
def execVld (f : Fetch) (s : State) : Answer :=
  onDev s (seqTile f 0x4C none (fun x k w _ => do
    let a ← deckOperand k (fld w 45 5) (offOf w) 64 false
    holdIf (readHeld x a 64 || vHeld k (fld w 53 3))
    let bs ← deckRead x a 64
    .ok (x, setVs k (fld w 53 3) 0 (bytesWords 64 bs))))

/-- VST: 256 B of deck, after the scoreboard (R130, R179). -/
def execVst (f : Fetch) (s : State) : Answer :=
  onDev s (seqTile f 0x4D none (fun x k w _ => do
    let a ← deckOperand k (fld w 45 5) (offOf w) 64 true
    holdIf (writeHeld x a 64)
    let x1 ← deckWrite x a (vBytes k (fld w 53 3))
    .ok (x1, k)))

/-- First element of the half row that a VLDA or VSTA names (R179). -/
def halfRow (w : Word64) : Nat := 128 * fld w 44 7 + 64 * fld w 43 1

/-- VLDA: 64 raw elements of an accumulator row, after every earlier pass into the slot (R96, R179). -/
def execVlda (f : Fetch) (s : State) : Answer :=
  onDev s (seqTile f 0x4E none (fun x k w _ => do
    holdIf (passHeld k [fld w 51 2] || vHeld k (fld w 53 3))
    let bs ← winRead x (elemOff k (fld w 51 2) (halfRow w)) 256
    .ok (x, setVs k (fld w 53 3) 0 (bytesWords 64 bs))))

/-- VSTA: 64 raw elements of an accumulator row, after every earlier pass into the slot (R96, R179). -/
def execVsta (f : Fetch) (s : State) : Answer :=
  onDev s (seqTile f 0x4F none (fun x k w _ => do
    holdIf (passHeld k [fld w 51 2])
    let x1 ← winWrite x (elemOff k (fld w 51 2) (halfRow w)) (vBytes k (fld w 53 3))
    .ok (x1, k)))

end Sys2Proof.Machine
end

