-- ==== Sys2Proof/Machine/Output.lean ====
section
/-! DEFINITION. The output stage: OCFG, CVT, CVTS, the end of a conversion, HSTEND, FLAGRD and FLAGCLR (R63 to R84,
R129, R180 to R186). -/

namespace Sys2Proof.Machine

open Sys2Proof

/-- OCFG (R180). -/
def execOcfg (f : Fetch) (s : State) : Answer :=
  onDev s (seqTask f 0x52 (fun k w =>
    { k with oc := { eStride := w.extractLsb' 42 14, sStride := w.extractLsb' 28 14, xStride := w.extractLsb' 14 14 } }))

/-! ## The value leaving step 3 of R63 -/

/-- The width of a CVT's slot set (R181). -/
def cvtWidth (w : Word64) : Nat := 128 * 2 ^ fld w 31 2

/-- The logical slots that a CVT or CVTS reads. -/
def cvtSlots (w : Word64) : List Nat :=
  if bitOf w 33 then [fld w 34 2]
  else (List.range (cdiv (fld w 47 9 + 1) 128 * cdiv (fld w 36 11 + 1) 128)).map (fun i =>
    let nb := cdiv (fld w 36 11 + 1) 128
    fld w 34 2 + i / nb * (cvtWidth w / 128) + i % nb)

/-- The output-direction scale of row or column `i` of an INT32 slot: scale 0 of scale row `floor(i / B)` at the captured
stride; SFMT 0 gives 1 and reads nothing (R184). -/
def outScales (x : Tile) (k : Task) (sm ra stride n : Nat) : Eff (List Num) :=
  if smFmt sm = 0 then .ok (List.replicate n numOne)
  else do
    let a ← deckAddr k ra 0
    let rows := cdiv n (smBlock sm)
    let vals ← (List.range rows).mapM (fun i => do
      let p ← relocate k a (i * stride) 1 false
      holdIf (readHeld x p 1)
      let bs ← deckRead x p 1
      pure (scaleAt (smFmt sm) bs 0))
    .ok ((List.range n).map (fun i => vals.getD (i / smBlock sm) numOne))

/-- The values z = a × s_a × s_w × t + b_n of a CVT or CVTS, row by row (R63 steps 1 to 3, R64, R184). `p` is the CXT
prefix. -/
def cvtValues (x : Tile) (k : Task) (w p : Word64) : Eff (List (List Num)) := do
  let m := fld w 47 9 + 1
  let n := fld w 36 11 + 1
  let int := bitOf w 5
  let sa ← if int then outScales x k (fld p 48 8) (fld p 35 5) k.mm.asStride.toNat m else pure (List.replicate m numOne)
  let sw ← if int then outScales x k (fld p 40 8) (fld p 30 5) k.mm.wsStride.toNat n else pure (List.replicate n numOne)
  let t := if bitOf w 14 then dec32 (BitVec.ofNat 32 (fld (getS k (fld w 9 4)) 0 32)) else numOne
  let bias ← if bitOf w 13 then (do
      let b ← deckOperand k (4 * fld w 6 3 + 3) 0 n false
      holdIf (readHeld x b n)
      let bs ← deckRead x b n
      pure ((bytesWords n bs).map dec32))
    else pure (List.replicate n numZero)
  let _ ← (cvtSlots w).mapM (fun j => do
    holdIf (anyGate x (elemOff k j 0) 65536 .waking)
    faultIf (anyGate x (elemOff k j 0) 65536 .off) fDmaTargetOff)
  let ix := fun i j => elemIdx (bitOf w 33) (fld w 34 2) (cvtWidth w) i j
  let cells := (List.range m).flatMap (fun i => (List.range n).map (fun j => elemOff k (ix i j).1 (ix i j).2 / 4))
  match x.bad.find? (fun b => cells.contains b) with
  | some b => .error (.fault fEccDeck (eccDetail b))
  | none =>
    .ok ((List.range m).map (fun i => (List.range n).map (fun j =>
      let e := getElem x k (ix i j).1 (ix i j).2
      let a := if int then numInt e.toInt else dec32 e
      let y := numMul (numMul (numMul a (sa.getD i numOne)) (sw.getD j numOne)) t
      if bitOf w 13 then numAdd y (bias.getD j numZero) else y)))

/-- Steps 1, 3 and 4 of R63 for the whole conversion: ACC_SAT, INVALID and the histogram (R65, R68, R80). -/
def cvtCount (x : Tile) (k : Task) (w : Word64) (zs : List (List Num)) : Tile × BitVec 8 :=
  let sat := (cvtSlots w).any (fun j => getSat x k j)
  let inval := zs.any (fun r => r.any numIsNan)
  let h := if bitOf w 15 then zs.foldl (fun h r => r.foldl histCount h) (x.hist, false) else (x.hist, false)
  ({ x with hist := h.1, histSat := x.histSat || h.2 },
    flIf sat flAccSat ||| flIf inval flInvalid ||| flIf h.2 flHistSat)

/-! ## CVT (R63, R69 to R75, R181, R182) -/

/-- A conversion's output: rows of element codes, scale rows, escape rows of 4 B entries, and flags. -/
structure CvtOut where
  rows   : List (List Nat)
  scales : List (List Nat)
  escs   : List (List Nat)
  flags  : BitVec 8
deriving DecidableEq, Repr

/-- The blocks of one row of `n` values along the row. -/
def rowBlocks {α : Type} (b : Nat) (row : List α) : List (List α) :=
  (List.range (cdiv row.length b)).map (fun i => (row.drop (i * b)).take b)

/-- Conversion without block scales. -/
def cvtPlain (c : CvtMode) (zs : List (List Num)) : CvtOut :=
  let es := zs.map (fun r => r.map (cvtElem c))
  { rows := es.map (fun r => r.map (fun p => p.1)), scales := [], escs := []
    flags := es.foldl (fun a r => r.foldl (fun a p => a ||| p.2) a) 0 }

/-- Conversion with blocks along the row (DIR 0). -/
def cvtDir0 (c : CvtMode) (sm esc : Nat) (zs : List (List Num)) : CvtOut :=
  let bs := zs.map (fun r => (rowBlocks (smBlock sm) r).map (cvtBlock c (smFmt sm) esc))
  { rows := bs.map (fun r => r.flatMap (fun b => b.codes))
    scales := bs.map (fun r => r.map (fun b => b.scale))
    escs := bs.map (fun r => r.map (fun b => b.slots.getD 0 0 + 0x10000 * b.slots.getD 1 0))
    flags := bs.foldl (fun a r => r.foldl (fun a b => a ||| b.flags) a) 0 }

/-- Conversion with blocks down the rows (DIR 1). -/
def cvtDir1 (c : CvtMode) (sm : Nat) (n : Nat) (zs : List (List Num)) : CvtOut :=
  let groups := rowBlocks (smBlock sm) zs
  let bs := groups.map (fun g => (List.range n).map (fun j =>
    cvtBlock c (smFmt sm) 0 (g.map (fun r => r.getD j numZero))))
  { rows := (groups.zip bs).flatMap (fun p => (List.range p.1.length).map (fun i =>
      (List.range n).map (fun j => ((p.2.getD j ⟨[], 0, [], 0⟩).codes).getD i 0)))
    scales := bs.map (fun r => r.map (fun b => b.scale)), escs := []
    flags := bs.foldl (fun a r => r.foldl (fun a b => a ||| b.flags) a) 0 }

/-- The cells of rows of packed elements at a destination range. -/
def rowCells (r : Rng) (width : Nat) (rows : List (List Nat)) : List Host.Cell :=
  (rows.zipIdx).flatMap (fun p =>
    ((packRow width p.1).zipIdx).map (fun b => (4 * (r.phys + p.2 * r.stride) + b.2, b.1)))

/-- The destination ranges of a conversion wait for the scoreboard and for room in it, and for ON units; its WRITE
entries are registered (R129 to R131, R150). -/
def claimRanges (x : Tile) (rs : List Rng) (id : Nat) : Eff Tile := do
  holdIf (rs.any (fun r => writeHeld x r.phys (rngSpan r)))
  sbRoom x rs.length
  holdIf (rs.any (fun r => anyGate x (4 * r.phys) (4 * rngSpan r) .waking))
  faultIf (rs.any (fun r => anyGate x (4 * r.phys) (4 * rngSpan r) .off || anyGate x (4 * r.phys) (4 * rngSpan r) .draining))
    fDmaTargetOff
  .ok (rs.foldl (fun x r => sbAdd x r.phys (rngSpan r) true (.conv id)) x)

/-- SUBN of a task (R66). -/
def taskFlush (k : Task) : Bool := bitOf k.work.desc.q0 32

/-- CVT: the conversion's values are formed at issue, after every earlier pass into its slots (R64, R96); its writes and
flags take effect when it is done. -/
def cvt (f : Fetch) (d : Dev) : Dev :=
  seqTile f 0x50 (some 0x56) (fun x k w p => do
    let m := fld w 47 9 + 1
    let n := fld w 36 11 + 1
    let tf := fld w 27 4
    let sm := fld w 19 8
    let ab := 4 * fld w 6 3
    holdIf (passHeld k (cvtSlots w))
    let e ← mkRng k 0 (getR k ab) 0 m k.oc.eStride.toNat (rowBytes tf n / 4) true
    let sh := scaleShape sm m n
    let sr ← if smFmt sm = 0 then pure [] else
      (mkRng k 1 (getR k (ab + 1)) 0 sh.1 k.oc.sStride.toNat (cdiv (sh.2 * scaleBytes (smFmt sm)) 4) true).map (fun r => [r])
    let xr ← if fld w 16 2 = 0 then pure [] else
      (mkRng k 2 (getR k (ab + 2)) 0 m k.oc.xStride.toNat (cdiv n 32) true).map (fun r => [r])
    let zs ← cvtValues x k w p
    let x1 ← claimRanges x (e :: (sr ++ xr)) k.nextId
    let cm : CvtMode := { tfmt := tf, clip := bitOf w 18, flush := taskFlush k }
    let o := if smFmt sm = 0 then cvtPlain cm zs
      else if smDir sm then cvtDir1 cm sm n zs else cvtDir0 cm sm (fld w 16 2) zs
    let x2 := cvtCount x1 k w zs
    let cells := rowCells e (fmtWidth tf) o.rows
      ++ (sr.flatMap (fun r => rowCells r (8 * scaleBytes (smFmt sm)) o.scales))
      ++ (xr.flatMap (fun r => rowCells r 32 o.escs))
    let c : Conv := { id := k.nextId, writes := cells, flags := x2.2 ||| o.flags, slots := cvtSlots w }
    .ok (x2.1, { k with convs := k.convs ++ [c], nextId := k.nextId + 1 })) d

/-- CVTS: split-3 or split-2 planes (R77, R78, R185). Steps 1 to 4 of R63 apply, so that a split-3 of a slot with SAT set sets ACC_SAT
and one that makes a counter stick sets HIST_SAT, although R77 names INVALID only (log 89). -/
def cvts (f : Fetch) (d : Dev) : Dev :=
  seqTile f 0x51 (some 0x56) (fun x k w p => do
    let m := fld w 47 9 + 1
    let n := fld w 36 11 + 1
    let two := bitOf w 4
    let ab := 4 * fld w 6 3
    let width := if two then 8 else 16
    holdIf (passHeld k (cvtSlots w))
    let rs ← (List.range (if two then 2 else 3)).mapM (fun i =>
      mkRng k i (getR k (ab + i)) 0 m k.oc.eStride.toNat (alignUp (cdiv (n * width) 8) 4 / 4) true)
    let zs ← cvtValues x k w p
    let x1 ← claimRanges x rs k.nextId
    let x2 := cvtCount x1 k w zs
    let pl := zs.map (fun r => r.map (fun z => if two then split2 (bitOf w 18) z else (split3 z, 0)))
    let cells := rs.flatMap (fun r => rowCells r width (pl.map (fun row => row.map (fun q => q.1.getD r.num 0))))
    let fl := pl.foldl (fun a r => r.foldl (fun a q => a ||| q.2) a) (0 : BitVec 8)
    let c : Conv := { id := k.nextId, writes := cells, flags := x2.2 ||| fl, slots := cvtSlots w }
    .ok (x2.1, { k with convs := k.convs ++ [c], nextId := k.nextId + 1 })) d

/-- CVT (R63). -/
def execCvt (f : Fetch) (s : State) : Answer := onDev s (cvt f)
/-- CVTS (R185). -/
def execCvts (f : Fetch) (s : State) : Answer := onDev s (cvts f)

/-- Write whole words of a conversion: each destination byte, with errors of rewritten words cleared (R140). -/
def putCells (x : Tile) (cs : List Host.Cell) : Tile :=
  let ws := cs.map (fun c => c.1 / 4)
  { x with
    mem := memCells x.mem cs
    bad := x.bad.filter (fun w => !ws.contains w)
    fixups := x.fixups.filter (fun p => !ws.contains p.1) }

/-- The oldest conversion writes its last word; its WRITE entries are removed and its flags are set (R68, R129). -/
def convDone (x : Tile) (k : Task) : Eff (Tile × Task) :=
  match k.convs with
  | [] => waitE
  | c :: r => .ok (sbDel (putCells x c.writes) (.conv c.id), { k with convs := r, flags := k.flags ||| c.flags })

/-- CONVERSION_DONE (R129). -/
def execConversionDone (t : TileId) (s : State) : Answer := onDev s (fun d => taskPart t.toNat d 0 convDone)

/-- The bytes of the histogram record (R82). -/
def histRecord (x : Tile) : List Byte :=
  ((List.range 64).map (fun i => toLe 4 (tget x.hist i 0).toNat)).flatten ++ toLe 4 (b2n x.histSat) ++ toLe 4 0

/-- HSTEND: after every earlier conversion, the record is written and the counters are cleared (R81 to R84). -/
def execHstend (f : Fetch) (s : State) : Answer :=
  onDev s (seqTile f 0x53 none (fun x k w _ => do
    let a ← deckOperand k (fld w 51 5) (offOf w) 66 true
    holdIf (!k.convs.isEmpty || writeHeld x a 66)
    let x1 ← deckWrite x a (histRecord x)
    .ok ({ x1 with hist := [], histSat := false }, k)))

/-- FLAGRD (R186). -/
def execFlagrd (f : Fetch) (s : State) : Answer :=
  onDev s (seqTile f 0x54 none (fun x k w _ => do
    holdIf (!k.convs.isEmpty)
    .ok (x, setR k (fld w 50 6) (k.flags.zeroExtend 64))))

/-- FLAGCLR (R186). -/
def execFlagclr (f : Fetch) (s : State) : Answer :=
  onDev s (seqTile f 0x55 none (fun x k w _ => do
    holdIf (!k.convs.isEmpty)
    .ok (x, { k with flags := k.flags &&& ~~~ w.extractLsb' 0 8 })))

end Sys2Proof.Machine
end

