-- ==== Sys2Proof/Machine/Dma.lean ====
section
/-! DEFINITION. DMA, PGATHER and PSCATTER, the Slide engines' pages, and the end of a transfer (R149, R187 to R190, R250
to R262, R424 to R427). -/

namespace Sys2Proof.Machine

open Sys2Proof

/-! ## Page geometry (R250 to R253, R255) -/

/-- The geometry of a page, from the geometry word. -/
structure Geo where
  runLog2 : Nat
  dim     : Nat
  heads   : Nat
  fmt     : Nat
  ksm     : Nat
  vsm     : Nat
  head    : Nat
  layers  : Nat
  rsv     : Nat
  gen     : Nat
deriving DecidableEq, Repr

/-- The fields of a page geometry word (R255). -/
def geoOf (g : Word64) : Geo :=
  { runLog2 := fld g 0 4, dim := fld g 4 2, heads := fld g 6 6 + 1, fmt := fld g 12 4, ksm := fld g 16 8, vsm := fld g 24 8
    head := fld g 32 6, layers := fld g 38 8, rsv := fld g 46 2, gen := fld g 48 16 }

/-- RUN. -/
def gRun (g : Geo) : Nat := 2 ^ g.runLog2
/-- The head dimension D. -/
def gDim (g : Geo) : Nat := 64 * 2 ^ g.dim

/-- One tensor of a page as positions lie in it: whole rows by position (`byRow`), or columns by position of `n` rows. A
unit is one position, or one block of `unit` positions. `ps` is the page's row stride in bytes, `w` the bits of a
column's element, `off` the byte offset in the page. -/
structure Tens where
  byRow : Bool
  unit  : Nat
  n     : Nat
  ps    : Nat
  w     : Nat
  off   : Nat
deriving DecidableEq, Repr

/-- Bytes of a scale row of `n` scales (R43). -/
def scaleRow (sm n : Nat) : Nat := alignUp (n * scaleBytes (smFmt sm)) 4

/-- The scale tensor of K or V of one head at offset 0, and its size SK or SV (R43, R251, R253). -/
def scaleTens (g : Geo) (v : Bool) : Tens × Nat :=
  let sm := if v then g.vsm else g.ksm
  let b := smBlock sm
  let sb := 8 * scaleBytes (smFmt sm)
  let r := gRun g
  let dd := gDim g
  if v then
    if smDir sm then ({ byRow := false, unit := b, n := dd, ps := scaleRow sm (cdiv r b), w := sb, off := 0 }, dd * scaleRow sm (cdiv r b))
    else ({ byRow := false, unit := 1, n := cdiv dd b, ps := scaleRow sm r, w := sb, off := 0 }, cdiv dd b * scaleRow sm r)
  else
    if smDir sm then ({ byRow := true, unit := b, n := 0, ps := scaleRow sm dd, w := sb, off := 0 }, cdiv r b * scaleRow sm dd)
    else ({ byRow := true, unit := 1, n := 0, ps := scaleRow sm (cdiv dd b), w := sb, off := 0 }, r * scaleRow sm (cdiv dd b))

/-- KROW (R253). -/
def kRow (g : Geo) : Nat := gDim g * fmtWidth g.fmt / 8
/-- VROW (R253). -/
def vRow (g : Geo) : Nat := gRun g * fmtWidth g.fmt / 8
/-- VBASE (R253). -/
def vBase (g : Geo) : Nat := g.heads * gRun g * kRow g
/-- SBASE (R253). -/
def sBase (g : Geo) : Nat := vBase g + g.heads * gDim g * vRow g
/-- Bytes of a page (R253, R254). -/
def pageBytes (g : Geo) : Nat := sBase g + g.heads * ((scaleTens g false).2 + (scaleTens g true).2)

/-- The element tensor of K or V of the geometry's head. -/
def elemTens (g : Geo) (v : Bool) : Tens :=
  if v then { byRow := false, unit := 1, n := gDim g, ps := vRow g, w := fmtWidth g.fmt, off := vBase g + g.head * gDim g * vRow g }
  else { byRow := true, unit := 1, n := 0, ps := kRow g, w := fmtWidth g.fmt, off := g.head * gRun g * kRow g }

/-- The tensors that a PGATHER or PSCATTER moves: elements, and with SCALES the block scales (R253, R260). -/
def moveTens (g : Geo) (v scales : Bool) : List Tens :=
  let s := (scaleTens g v).1
  let so := sBase g + g.head * ((scaleTens g false).2 + (scaleTens g true).2) + (if v then (scaleTens g false).2 else 0)
  elemTens g v :: (if scales then [{ s with off := so }] else [])

/-- A scale mode that R250 refuses, for a head dimension and a run. -/
def badKvMode (sm d run : Nat) : Bool :=
  decide (64 ≤ sm) || decide (5 ≤ sm / 4 % 8) || smFmt sm = 0 || (if smDir sm then decide (run < smBlock sm) else decide (d < smBlock sm))

/-- The fault of a PGATHER or PSCATTER at issue, in the order of R257, if there is one. -/
def geoFault (g : Geo) (layer : Nat) (base pos : Nat) (v : Bool) : Option Nat :=
  let sm := if v then g.vsm else g.ksm
  if g.rsv ≠ 0 || g.dim = 3 || g.runLog2 < 3 || 8 < g.runLog2 || g.heads ≤ g.head || g.layers < layer then some fIllegalInstr
  else if badKvMode g.ksm (gDim g) (gRun g) || badKvMode g.vsm (gDim g) (gRun g) then some fIllegalInstr
  else if !(g.fmt = 3 || g.fmt = 5 || g.fmt = 6 || g.fmt = 7) then some fFormatPair
  else if base % 8 ≠ 0 then some fPageList
  else if pos % 8 ≠ 0 || (smDir sm && pos % smBlock sm ≠ 0) then some fIllegalInstr
  else if 65536 < pageBytes g then some fPageList
  else none

/-! ## Deck layout of a page transfer (R260) -/

/-- Units of a tensor that `cnt` positions take. -/
def tUnits (t : Tens) (cnt : Nat) : Nat := cdiv cnt t.unit
/-- Deck row bytes of a tensor. -/
def tDeckRow (t : Tens) (cnt : Nat) : Nat := if t.byRow then t.ps else alignUp (cdiv (tUnits t cnt * t.w) 8) 4
/-- Deck bytes of a tensor. -/
def tDeckBytes (t : Tens) (cnt : Nat) : Nat := (if t.byRow then tUnits t cnt else t.n) * tDeckRow t cnt

/-- One run of bits that a page transfer copies: the deck byte offset in the tensor, the byte offset in the page, and
the bits. Runs start on bytes, since positions move in multiples of 8 (R257). -/
structure BitRun where
  deck : Nat
  page : Nat
  bits : Nat
deriving DecidableEq, Repr

/-- The runs that page `b` contributes to a tensor, for positions `[pos, pos + cnt)` (R253, R260). -/
def pageRuns (g : Geo) (t : Tens) (pos cnt b : Nat) : List BitRun :=
  let ppp := gRun g / t.unit
  let u0 := pos / t.unit
  let lo := max u0 (b * ppp)
  let hi := min (u0 + tUnits t cnt) ((b + 1) * ppp)
  if hi ≤ lo then []
  else if t.byRow then
    (List.range (hi - lo)).map (fun i =>
      { deck := (lo + i - u0) * t.ps, page := t.off + ((lo + i) % ppp) * t.ps, bits := 8 * t.ps })
  else
    (List.range t.n).map (fun r =>
      { deck := r * tDeckRow t cnt + (lo - u0) * t.w / 8, page := t.off + r * t.ps + (lo % ppp) * t.w / 8
        bits := (hi - lo) * t.w })

/-- The bytes of a run with the bits past its end taken from `old`. -/
def mergeBits (bits : Nat) (src old : List Byte) : List Byte :=
  (List.range (cdiv bits 8)).map (fun i =>
    let s := src.getD i 0
    let o := old.getD i 0
    if 8 * i + 8 ≤ bits then s else BitVec.ofNat 8 (s.toNat % 2 ^ (bits % 8) + o.toNat / 2 ^ (bits % 8) * 2 ^ (bits % 8)))

/-! ## Issue -/

/-- DMA-class transfers of a tile in flight (R190). -/
def dmaClass (k : XKind) : Bool :=
  match k with
  | .dmaIn => true
  | .dmaOut => true
  | .gather => true
  | .scatter => true
  | _ => false

/-- How many transfers of a class a tile has in flight. -/
def inFlight (d : Dev) (t : Nat) (c : XKind → Bool) : Nat :=
  (d.xfers.filter (fun p => p.2.tile.toNat = t && c p.2.kind)).length

/-- A new transfer. -/
def newXfer (d : Dev) (kind : XKind) (t : Nat) (k : Task) (w : Word64) (tag pages : Nat) (unscb : Bool) : Xfer :=
  { id := d.nextX, kind := kind, tile := BitVec.ofNat 8 t, ctx := k.work.ctx, cr := k.work.cr, tag := tag, word := w
    pc := k.pc - 2, a0 := 0, a1 := 0, a2 := 0, a3 := 0, a4 := 0, unscb := unscb, pages := pages, next := 0, ahead := []
    peer := 0, buf := 0, remote := .waiting, counted := [], outCount := []
    seq := k.nextId, done := false }

/-- The Slide engine of a tile (R424). -/
def engineOf (t : Nat) : Nat := t % 32

/-- Whether a transfer runs on its tile's Slide engine: DMA-class, or the fill of a PIER-BACKED buffer of which its tile is the
source (R424). -/
def onEngine (d : Dev) (xf : Xfer) : Bool :=
  dmaClass xf.kind || (xf.kind = .sub && d.bufs.any (fun q => q.2.pier && q.2.st = .filling &&
    (match q.2.src with | some r => r.xfer = xf.id && r.tile = xf.tile | none => false)))

/-- What engine `e` shows while it has transfers: its oldest one's context and tile, and the pages that it has run ahead (R428).
It shows `st` unless it has none, and stays DRAINING until its teardown is over. -/
def syncEngineAs (d : Dev) (e : Nat) (st : EngState) : Dev :=
  if (getEngine d e).st = .draining then d
  else
    let mine := (d.xfers.filter (fun p => engineOf p.2.tile.toNat = e && onEngine d p.2)).map (fun p => p.2)
    let first := mine.foldl (fun (acc : Option Xfer) x => match acc with
      | none => some x
      | some y => if x.id < y.id then some x else some y) none
    match first with
    | none => { d with engines := tset d.engines e Engine.init }
    | some x =>
      let g : Engine := { st := st, ctx := x.ctx, tile := x.tile, ahead := BitVec.ofNat 5 (x.ahead.filter (fun p => p.2)).length }
      { d with engines := tset d.engines e g }

/-- Show the engine of a tile as it works (R428). -/
def syncEngine (d : Dev) (t : Nat) : Dev := syncEngineAs d (engineOf t) .active

/-- Put a transfer in flight: it takes its number, its tile's WRITE entries and running task are stored, and its engine shows
it. -/
def launch (d : Dev) (t : Nat) (x : Tile) (k : Task) (xf : Xfer) : Dev :=
  let d1 := setTile d t { x with run := some k }
  syncEngine { d1 with xfers := tset d1.xfers xf.id xf, nextX := d1.nextX + 1 } t

/-- Raise a tag count. -/
def tagUp (tags : Tbl Nat) (n : Nat) : Tbl Nat := tset tags n (tget tags n 0 + 1)
/-- Lower a tag count. -/
def tagDown (tags : Tbl Nat) (n : Nat) : Tbl Nat := tset tags n (tget tags n 0 - 1)

/-- DMA (R187): address checks first, then the deck range (an order that the spec does not give: log 87), the limit of 16 in flight (R190), and the scoreboard (R129 to R131). -/
def dmaD (f : Fetch) (d : Dev) : Dev :=
  seqStep f 0x60 none (fun d t x k w _ => do
    let into := fld w 54 2 = 0
    let va := getR k (fld w 44 5)
    let stride := getR k (fld w 44 5 + 1)
    let n := (fld w 26 13 + 1) * fld w 12 14
    faultIf (fld va 48 16 ≠ 0 || va.toNat % 4 ≠ 0 || stride.toNat % 4 ≠ 0) fXlateInvalid
    let p ← deckOperand k (fld w 49 5) 0 n into
    holdIf (decide (16 ≤ inFlight d t dmaClass))
    let unscb := bitOf w 39
    holdIf (!unscb && (if into then writeHeld x p n else readHeld x p n))
    if into && !unscb then sbRoom x 1 else pure ()
    let xf := { newXfer d (if into then .dmaIn else .dmaOut) t k w (fld w 40 4)
        (groupPages (dmaSegs w va stride)).length unscb with
      a0 := getR k (fld w 49 5), a2 := va, a3 := stride }
    let x1 := if into && !unscb then sbAdd x p n true (.xfer xf.id) else x
    .ok (launch d t x1 { k with dmaTag := tagUp k.dmaTag (fld w 40 4) } xf)) d

/-- DMA (R187). -/
def execDma (f : Fetch) (s : State) : Answer := onDev s (dmaD f)

/-- PGATHER and PSCATTER (R188, R189, R257, R260): the checks of R257, the deck ranges of elements and scales, and the
scoreboard. -/
def pageMoveD (f : Fetch) (op : Nat) (gather : Bool) (d : Dev) : Dev :=
  seqStep f op none (fun d t x k w _ => do
    let base := getR k (fld w 46 5)
    let g := geoOf (getR k (fld w 46 5 + 1))
    let pos := (getS k (fld w 42 4)).toNat
    let cnt := fld w 32 10 + 1
    let v := bitOf w 18
    faultIf (fld base 48 16 ≠ 0) fXlateInvalid
    match geoFault g (fld w 24 8) base.toNat pos v with
    | some c => faultE c
    | none => pure ()
    let ts := moveTens g v (bitOf w 17)
    let rs ← (ts.zipIdx).mapM (fun p => do
      let n := tDeckBytes p.1 cnt / 4
      let a ← deckOperand k (fld w 51 5 + p.2) 0 n gather
      pure (a, n))
    holdIf (decide (16 ≤ inFlight d t dmaClass))
    let unscb := bitOf w 19
    holdIf (!unscb && rs.any (fun r => if gather then writeHeld x r.1 r.2 else readHeld x r.1 r.2))
    if gather && !unscb then sbRoom x rs.length else pure ()
    let xf := { newXfer d (if gather then .gather else .scatter) t k w (fld w 20 4)
        ((pos + cnt - 1) / gRun g + 1 - pos / gRun g) unscb with
      a0 := getR k (fld w 51 5), a1 := getR k (fld w 51 5 + 1), a2 := base, a3 := getR k (fld w 46 5 + 1)
      a4 := getS k (fld w 42 4) }
    let x1 := if gather && !unscb then rs.foldl (fun x r => sbAdd x r.1 r.2 true (.xfer xf.id)) x else x
    .ok (launch d t x1 { k with dmaTag := tagUp k.dmaTag (fld w 20 4) } xf)) d

/-- PGATHER (R188). -/
def execPgather (f : Fetch) (s : State) : Answer := onDev s (pageMoveD f 0x61 true)
/-- PSCATTER (R188). -/
def execPscatter (f : Fetch) (s : State) : Answer := onDev s (pageMoveD f 0x62 false)

/-! ## Pages (R424 to R427) -/

/-- The deck byte ranges, past the operand's start, that page `i` of a transfer into or out of deck touches: the number
of the deck operand, offset and bytes. -/
def deckPieces (xf : Xfer) (i : Nat) : List (Nat × Nat × Nat) :=
  match xf.kind with
  | .dmaIn => ((dmaPages xf).getD i []).map (fun s => (0, s.1, s.2.2))
  | .dmaOut => ((dmaPages xf).getD i []).map (fun s => (0, s.1, s.2.2))
  | _ =>
    let g := geoOf xf.a3
    let pos := xf.a4.toNat
    ((moveTens g (bitOf xf.word 18) (bitOf xf.word 17)).zipIdx).flatMap (fun p =>
      (pageRuns g p.1 pos (fld xf.word 32 10 + 1) (pos / gRun g + i)).map (fun r => (p.2, r.deck, cdiv r.bits 8)))

/-- The deck address register of operand `j` of a transfer. -/
def deckReg (xf : Xfer) (j : Nat) : Nat := if j = 0 then xf.a0.toNat else xf.a1.toNat

/-- The window byte offset of a deck byte of a transfer, by the relocation of the task as it is now (R427). -/
def deckByte (k : Task) (xf : Xfer) (j o : Nat) : Nat :=
  let a := deckReg xf j
  4 * (tget k.base (a / 0x40000) 0 + a % 0x40000) + o

/-- Count the destination units of page `i` when its destination is translated (R149); a unit DRAINING or OFF cannot be
counted anew. -/
def countPage (x : Tile) (k : Task) (xf : Xfer) (i : Nat) : Tile × Xfer :=
  let us := ((deckPieces xf i).flatMap (fun p => tileUnits (deckByte k xf p.1 p.2.1) p.2.2)).dedup
  us.foldl (fun (acc : Tile × Xfer) u =>
    let g := gateOf acc.1 u
    if acc.2.counted.contains u || g.st = .draining || g.st = .off then acc
    else ({ acc.1 with gates := tset acc.1.gates u { g with dma := g.dma + 1 } }, { acc.2 with counted := u :: acc.2.counted })) (x, xf)

/-- Count the units of other tiles' windows, or of its own, that page `i` of a DMA out of deck writes, when its destination is
translated (R149). -/
def countOut (d : Dev) (xf : Xfer) (i : Nat) : Dev × Xfer :=
  let us := if xf.kind = .dmaOut then (segUnits ((dmaPages xf).getD i [])).dedup else []
  us.foldl (fun (acc : Dev × Xfer) p =>
    let x := getTile acc.1 p.1
    let g := gateOf x p.2
    if acc.2.outCount.contains p || g.st = .draining || g.st = .off then acc
    else (setTile acc.1 p.1 { x with gates := tset x.gates p.2 { g with dma := g.dma + 1 } },
          { acc.2 with outCount := p :: acc.2.outCount })) (d, xf)

/-- The units of tile windows that the pages of a DMA out of deck from `i` on still write. -/
def outLeft (xf : Xfer) (i : Nat) : List (Nat × Nat) :=
  if xf.kind = .dmaOut then segUnits (((dmaPages xf).drop i).flatten) else []

/-- The units that the pages of a transfer from `i` on still write. -/
def unitsLeft (k : Task) (xf : Xfer) (i : Nat) : List Nat :=
  (List.range (xf.pages - i)).flatMap (fun j =>
    (deckPieces xf (i + j)).flatMap (fun p => tileUnits (deckByte k xf p.1 p.2.1) p.2.2))

/-- Whether a page's deck side meets a gate: WAKING waits, a counted unit is written, any other DRAINING or OFF unit
faults (R149 to R151). -/
def gateCheck (x : Tile) (xf : Xfer) (off n : Nat) (write : Bool) : Eff Unit :=
  let us := tileUnits off n
  if us.any (fun u => (gateOf x u).st = .waking) then waitE
  else if us.any (fun u => ((gateOf x u).st = .off || (write && (gateOf x u).st = .draining)) && !(write && xf.counted.contains u))
  then faultE fDmaTargetOff
  else .ok ()

/-- The failure of a virtual access as a stop, with its address kept for the record. -/
abbrev PageEff (α : Type) := Except Bad α

/-- A part of an instruction's stop as a page's failure. -/
def ofEff {α : Type} (va : Nat) (e : Eff α) : PageEff α :=
  match e with
  | .ok a => .ok a
  | .error .wait => .error ⟨0, va, 0⟩
  | .error (.fault c i) => .error ⟨c, va, i⟩

/-- Move one page of a DMA (R187, R425). -/
def moveDma (d : Dev) (xf : Xfer) (x : Tile) (k : Task) (mdl : Option Nat) : PageEff Dev :=
  let t := xf.tile.toNat
  let cr := xf.cr.toNat
  ((dmaPages xf).getD xf.next []).foldlM (fun d s => do
    let off := deckByte k xf 0 s.1
    if xf.kind = .dmaIn then
      let bs ← readVa d cr mdl s.2.1 s.2.2 (.cache (engineOf t))
      ofEff 0 (gateCheck x xf off s.2.2 true)
      pure (passVa (chargeRead (setTile d t (tilePut (getTile d t) off bs)) cr s.2.1 s.2.2) cr mdl s.2.1 s.2.2 false)
    else
      let bs ← ofEff 0 (winRead (getTile d t) off s.2.2)
      let d1 ← writePages d cr mdl s.2.1 bs xf.outCount (bs.length / 0x10000 + 2) (.cache (engineOf t))
      pure (passVa d1 cr mdl s.2.1 s.2.2 true)) d

/-- The page-list entry of page `i` of a transfer: its address and value, checked under R258. -/
def pageEntry (d : Dev) (xf : Xfer) (mdl : Option Nat) (i : Nat) : PageEff (Nat × Nat) := do
  let g := geoOf xf.a3
  let layer := fld xf.word 24 8
  let b := xf.a4.toNat / gRun g + i
  let va := xf.a2.toNat + 8 * (b * (g.layers + 1) + layer)
  let e := leNat (← readVa d xf.cr.toNat mdl va 8 (.cache (engineOf xf.tile.toNat)))
  let p := (getCtx d xf.cr.toNat).part.toNat
  let frame := e % 0x100000
  if !e.testBit 44 || e.testBit 46 || e / 2 ^ 20 % 256 ≠ layer || e / 2 ^ 28 % 65536 ≠ g.gen
      || frame < frameBase d p || frameLimit d p < frame || 0xFC000 ≤ frame || (xf.kind = .scatter && e.testBit 45)
  then .error ⟨fPageList, va, 0⟩
  else .ok (va, e)

/-- Move one page of a PGATHER or PSCATTER; a scatter sets DIRTY (R258, R260 to R262). A gather writes whole words (R117): the first
word of a run that starts inside one keeps the bytes that the page before it wrote, and the last is padded with zeros, which the
next page of the same deck row overwrites. -/
def moveKv (d : Dev) (xf : Xfer) (x : Tile) (k : Task) (mdl : Option Nat) : PageEff Dev := do
  let g := geoOf xf.a3
  let pos := xf.a4.toNat
  let cnt := fld xf.word 32 10 + 1
  let t := xf.tile.toNat
  let e ← pageEntry d xf mdl xf.next
  let fb := (e.2 % 0x100000) * 65536
  let runs := ((moveTens g (bitOf xf.word 18) (bitOf xf.word 17)).zipIdx).flatMap (fun p =>
    (pageRuns g p.1 pos cnt (pos / gRun g + xf.next)).map (fun r => (p.2, r)))
  let d1 ← runs.foldlM (fun d p => do
    let off := deckByte k xf p.1 p.2.deck
    let n := cdiv p.2.bits 8
    let pa := fb + p.2.page
    if linkHeld d pa n then .error ⟨0, e.1, 0⟩
    else if xf.kind = .gather then
      let lead := off % 4
      let tail := alignUp (off + n) 4 - (off + n)
      ofEff 0 (gateCheck x xf (off - lead) (lead + n + tail) true)
      match pierPoison d pa n with
      | some w => .error ⟨fEccPier, e.1, w / 4096⟩
      | none =>
        let y := getTile d t
        let bs := memGets y.mem (off - lead) lead ++ mergeBits p.2.bits (pierGet d pa n) [] ++ List.replicate tail 0
        pure (chargeCtx (setTile d t (tilePut y (off - lead) bs)) xf.cr.toNat 0 n |> (linkPass · pa n))
    else
      let bs ← ofEff 0 (winRead (getTile d t) off n)
      pure (chargeCtx (pierPut d pa (mergeBits p.2.bits bs (pierGet d pa n))) xf.cr.toNat 0 n |> (linkPass · pa n))) d
  let d2 := chargeRead d1 xf.cr.toNat e.1 8
  if xf.kind = .scatter then writePages d2 xf.cr.toNat mdl e.1 (toLe 8 (e.2 ||| 2 ^ 47)) [] 2 (.cache (engineOf t)) else pure d2

/-- The virtual accesses of page `i` of a transfer, with whether they write: the pieces of a DMA, or the page-list entry (R187, R188,
R425). -/
def pageAccesses (xf : Xfer) (i : Nat) : List (Nat × Bool) :=
  match xf.kind with
  | .dmaIn => ((dmaPages xf).getD i []).map (fun s => (s.2.1, false))
  | .dmaOut => ((dmaPages xf).getD i []).map (fun s => (s.2.1, true))
  | _ =>
    let g := geoOf xf.a3
    [(xf.a2.toNat + 8 * ((xf.a4.toNat / gRun g + i) * (g.layers + 1) + fld xf.word 24 8), xf.kind = .scatter)]

/-- A page that its transfer has translated leaves its entries in the engine's cache (R422). -/
def touchPage (d : Dev) (xf : Xfer) (mdl : Option Nat) (i : Nat) : Dev :=
  (pageAccesses xf i).foldl (fun d a => touchTlb d (engineOf xf.tile.toNat) xf.cr.toNat mdl a.1 a.2) d

/-- ECC reports of a page's source: a pier word (of 16 B) for a transfer into deck, a word of the tile otherwise. The frame of an
uncorrectable pier word is withdrawn (R321). -/
def pageEcc (d : Dev) (xf : Xfer) (e : Ecc) : Dev :=
  match e with
  | .ok => d
  | .corrected w => if xf.kind = .dmaOut || xf.kind = .scatter then
      setTile d xf.tile.toNat (applyEcc (getTile d xf.tile.toNat) (.corrected w)) else d
  | .uncorrectable w => if xf.kind = .dmaOut || xf.kind = .scatter then
      setTile d xf.tile.toNat (applyEcc (getTile d xf.tile.toNat) (.uncorrectable w))
    else withdrawFrame { d with pier := { d.pier with poison := if d.pier.poison.contains w then d.pier.poison else w :: d.pier.poison } } w

/-- Whether a transfer may move a page: its task runs and is not stopped, and it is the tile's oldest with pages left
(R424, R427). -/
def mayMove (d : Dev) (xf : Xfer) : Bool :=
  dmaClass xf.kind && decide (xf.next < xf.pages) && !(getTile d xf.tile.toNat).stopped
  && !d.xfers.any (fun p => p.2.tile = xf.tile && dmaClass p.2.kind && decide (p.2.id < xf.id) && decide (p.2.next < p.2.pages))

/-- One page of a transfer moves, or none of it does. -/
def movePage (d : Dev) (xf : Xfer) (x : Tile) (k : Task) : PageEff Dev :=
  let mdl := stepModel d xf.cr.toNat k.work.step
  match xf.kind with
  | .dmaIn => moveDma d xf x k mdl
  | .dmaOut => moveDma d xf x k mdl
  | _ => moveKv d xf x k mdl

/-- The fault of a Slide transfer (R426, R430). -/
def slideFault (d : Dev) (xf : Xfer) (k : Task) (b : Bad) : Dev :=
  accessFault d xf.cr.toNat b
    { unit := 1, tile := xf.tile.toNat, engine := engineOf xf.tile.toNat, task := taskIndex k.work, step := k.work.step, pc := xf.pc.toNat }

/-- Whether a transfer writes its own tile's deck. -/
def intoDeck (k : XKind) : Bool :=
  match k with
  | .dmaIn => true
  | .gather => true
  | _ => false

/-- A transfer with the destination units of page `i` counted (R149). -/
def countedPage (d : Dev) (xf : Xfer) (k : Task) (i : Nat) : Dev × Xfer :=
  let t := xf.tile.toNat
  if intoDeck xf.kind then
    let cx := countPage (getTile d t) k xf i
    (setTile d t cx.1, cx.2)
  else countOut d xf i

/-- The demanded page of a transfer has moved: the next one is demanded, and the units of which the last word is written are no
longer counted (R149, R425). -/
def pageMoved (d : Dev) (xf : Xfer) (k : Task) : Dev :=
  let t := xf.tile.toNat
  let left := unitsLeft k xf (xf.next + 1)
  let out := outLeft xf (xf.next + 1)
  let d1 := setTile d t (uncount (getTile d t) (xf.counted.filter (fun u => !left.contains u)))
  let d2 := uncountOut d1 (xf.outCount.filter (fun p => !out.contains p))
  { d2 with xfers := tset d2.xfers xf.id { xf with
      next := xf.next + 1
      ahead := xf.ahead.filter (fun p => xf.next + 1 < p.1)
      counted := xf.counted.filter (fun u => left.contains u)
      outCount := xf.outCount.filter (fun p => out.contains p) } }

/-- SLIDE_PAGE_DEMAND: the page is read, translated and checked again, and moves or faults; the units of which the last
word is written are no longer counted (R149, R425, R426). -/
def demandD (i : Nat) (e : Ecc) (d : Dev) : Dev :=
  match tfind d.xfers i with
  | none => d
  | some xf =>
    match (getTile d xf.tile.toNat).run with
    | none => d
    | some k =>
      if !mayMove d xf || pageHeld k xf then d
      else
        let d0 := pageEcc d xf e
        let cx := countedPage d0 xf k xf.next
        match movePage cx.1 cx.2 (getTile cx.1 xf.tile.toNat) k with
        | .error b => if b.code = 0 then d else slideFault d0 xf k b
        | .ok d2 =>
          syncEngine (pageMoved (touchPage d2 xf (stepModel d xf.cr.toNat k.work.step) xf.next) cx.2 k) xf.tile.toNat

/-- SLIDE_PAGE_DEMAND (R425). -/
def execSlidePageDemand (i : Nat) (e : Ecc) (s : State) : Answer := onDev s (demandD i e)

/-- Pages of run-ahead: RUNAHEAD of SLD_CTRL, at most 16 (R259, R428). -/
def runAhead (d : Dev) : Nat := min 16 (fld (reg d 0x0A00000) 0 5)

/-- SLIDE_PAGE_RUNAHEAD: the first page not yet run ahead is read, translated and checked; a failure squashes the page, which is
listed as failed and no longer counts as run ahead (R259, R425; log 86). -/
def runAheadD (i : Nat) (e : Ecc) (d : Dev) : Dev :=
  match tfind d.xfers i with
  | none => d
  | some xf =>
    match (getTile d xf.tile.toNat).run with
    | none => d
    | some k =>
      let n := xf.next + 1 + xf.ahead.length
      if !mayMove d xf || pageHeld k { xf with next := n } || xf.pages ≤ n || runAhead d ≤ xf.ahead.length then d
      else
        let d0 := pageEcc d xf e
        let cx := countedPage d0 xf k n
        let t := xf.tile.toNat
        match movePage cx.1 { cx.2 with next := n } (getTile cx.1 t) k with
        | .ok _ =>
          let d1 := touchPage cx.1 xf (stepModel d xf.cr.toNat k.work.step) n
          syncEngine { d1 with xfers := tset d1.xfers i { cx.2 with ahead := xf.ahead ++ [(n, true)] } } t
        | .error _ =>
          syncEngineAs { d0 with xfers := tset d0.xfers i { xf with ahead := xf.ahead ++ [(n, false)] } } (engineOf t) .squashing

/-- SLIDE_PAGE_RUNAHEAD (R425). -/
def execSlidePageRunahead (i : Nat) (e : Ecc) (s : State) : Answer := onDev s (runAheadD i e)

/-- A transfer's tag count falls and its scoreboard entries are removed (R129, R190). -/
def endXfer (d : Dev) (xf : Xfer) (trestle : Bool) : Dev :=
  let t := xf.tile.toNat
  let x := sbDel (getTile d t) (.xfer xf.id)
  let run := x.run.map (fun k =>
    if trestle then { k with trTag := tagDown k.trTag xf.tag } else { k with dmaTag := tagDown k.dmaTag xf.tag })
  dropXfer (setTile d t { x with run := run }) xf.id

/-- DMA_TRANSFER_DONE: every page has moved (R190). -/
def dmaDoneD (i : Nat) (d : Dev) : Dev :=
  match tfind d.xfers i with
  | none => d
  | some xf => if dmaClass xf.kind && decide (xf.pages ≤ xf.next) then syncEngine (endXfer d xf false) xf.tile.toNat else d

/-- DMA_TRANSFER_DONE (R190). -/
def execDmaTransferDone (i : Nat) (s : State) : Answer := onDev s (dmaDoneD i)

end Sys2Proof.Machine
end

