-- ==== Sys2Proof/Machine/Trestle.lean ====
section
/-! DEFINITION. The trestle instructions, remote reads and writes, and multicast buffers (R133 to R136, R191, R213 to
R218, R221 to R229). -/

namespace Sys2Proof.Machine

open Sys2Proof

/-- Trestle transfers (R191). -/
def trestleClass (k : XKind) : Bool := !dmaClass k

/-- The global column of a tile (R221). -/
def meshX (t : Nat) : Nat := 16 * (t / 128) + 8 * (t / 64 % 2) + t % 8
/-- The row of a tile (R221). -/
def meshY (t : Nat) : Nat := t / 8 % 8
/-- Links on the route between two tiles, the bridge link counted (R223, R229). -/
def hops (a b : Nat) : Nat :=
  (meshX a - meshX b) + (meshX b - meshX a) + (meshY a - meshY b) + (meshY b - meshY a)

/-- Count the units of a local destination range at issue (R149). -/
def countRange (x : Tile) (off n : Nat) : Tile × List Nat :=
  (tileUnits off n).foldl (fun (acc : Tile × List Nat) u =>
    let g := gateOf acc.1 u
    if g.st = .draining || g.st = .off then acc
    else ({ acc.1 with gates := tset acc.1.gates u { g with dma := g.dma + 1 } }, u :: acc.2)) (x, [])

/-- FETCH and PUT (R191, R227): the remote tile, then the local operand (an order that the spec does not give: log 87), the limit
of 16 in flight and the scoreboard. -/
def remoteD (f : Fetch) (op : Nat) (isFetch : Bool) (d : Dev) : Dev :=
  seqStep f op none (fun d t x k w _ => do
    let n := fld w 28 14
    let rr := getR k (fld w 46 5)
    let peer := fld (getS k (fld w 42 4)) 0 8
    faultIf (fld rr 48 16 ≠ 0 || mappedOut d peer) fXlateInvalid
    let p ← deckOperand k (fld w 51 5) 0 n isFetch
    holdIf (decide (16 ≤ inFlight d t trestleClass))
    let unscb := bitOf w 24
    holdIf (!unscb && (if isFetch then writeHeld x p n else readHeld x p n))
    if isFetch && !unscb then sbRoom x 1 else pure ()
    let c := if isFetch then countRange x (4 * p) (4 * n) else (x, [])
    let xf := { newXfer d (if isFetch then .fetch else .put) t k w (fld w 25 3) n unscb with
      a0 := getR k (fld w 51 5), a1 := BitVec.ofNat 64 (fld rr 0 18), peer := BitVec.ofNat 8 peer, counted := c.2 }
    let x1 := if isFetch && !unscb then sbAdd c.1 p n true (.xfer xf.id) else c.1
    .ok (launch d t x1 { k with trTag := tagUp k.trTag (fld w 25 3) } xf)) d

/-- FETCH (R191). -/
def execFetch (f : Fetch) (s : State) : Answer := onDev s (remoteD f 0x70 true)
/-- PUT (R191). -/
def execPut (f : Fetch) (s : State) : Answer := onDev s (remoteD f 0x71 false)

/-! ## Subscriptions (R214, R216, R218) -/

/-- The holder that a late SUB reads from: fewest hops, ties to the lower tile. A range due for release is a holder until it is
released (R216, R217). -/
def nearestHolder (t : Nat) (hs : List BufRange) : Option BufRange :=
  hs.foldl (fun acc h =>
    match acc with
    | none => some h
    | some g =>
      let a := hops t h.tile.toNat
      let b := hops t g.tile.toNat
      if a < b || (a = b && h.tile.toNat < g.tile.toNat) then some h else some g) none

/-- How the dispatcher resolves a SUB by the state of its entry (R214, R218): the entry and the transfer. A PIER-BACKED entry
without holder is filled again (R217); a late SUB on a PRODUCED entry with no holder left faults. -/
def resolveSub (b : Buf) (xf : Xfer) (t w : Nat) : Eff (Buf × Xfer) :=
  let r : BufRange := { tile := BitVec.ofNat 8 t, word := w, xfer := xf.id, rel := false }
  let join : Eff (Buf × Xfer) := .ok ({ b with subs := b.subs ++ [r] }, xf)
  let fill : Eff (Buf × Xfer) := .ok ({ b with st := .filling, src := some r }, xf)
  if if b.pier then b.st ≠ .held else !b.produced then (if b.pier && b.st = .idle then fill else join)
  else
    match nearestHolder t b.holders with
    | some h => .ok (b, { xf with kind := .lateSub, peer := h.tile, a1 := BitVec.ofNat 64 h.word })
    | none => if b.pier then fill else faultE fXlateInvalid

/-- The size rule of a SUB or MCAST: LEN is the buffer's size (R218). A PRODUCED entry takes its size from the first that
names it (log 15). -/
def sizeBuf (b : Buf) (n : Nat) (cr : RecNo) : Eff Buf :=
  if b.pier then (if b.words = n then .ok b else faultE fIllegalInstr)
  else if b.words = 0 then .ok { b with words := n, cr := cr }
  else if b.words = n then .ok b
  else faultE fIllegalInstr

/-- SUB (R191, R214 to R218): the deck operand is judged before LEN (an order that the spec does not give: log 87). -/
def subD (f : Fetch) (d : Dev) : Dev :=
  seqStep f 0x72 none (fun d t x k w _ => do
    let n := fld w 28 14
    let bn := fld w 0 16
    let p := bufTable (getCtx d k.work.cr.toNat).part.toNat k.work.step
    let a ← deckOperand k (fld w 51 5) 0 n true
    let b ← sizeBuf (getBuf d p bn) n k.work.cr
    if b.holders.any (fun h => h.tile.toNat = t && h.word = a) then
      .ok (setTile d t { x with run := some k })
    else
      holdIf (decide (16 ≤ inFlight d t trestleClass))
      holdIf (writeHeld x a n)
      sbRoom x 1
      let c := countRange x (4 * a) (4 * n)
      let xf0 := { newXfer d .sub t k w (fld w 25 3) n false with
        a0 := getR k (fld w 51 5), buf := BitVec.ofNat 16 bn, counted := c.2 }
      let r ← resolveSub b xf0 t a
      let x1 := sbAdd c.1 a n true (.xfer xf0.id)
      .ok (launch (setBuf d p bn r.1) t x1 { k with trTag := tagUp k.trTag (fld w 25 3) } r.2)) d

/-- SUB (R214). -/
def execTrestleSub (f : Fetch) (s : State) : Answer := onDev s (subD f)

/-- A multicast leaves tile `t` for its members: the one bridge link of its tree carries each byte once when a member is on the
other die (R225, R456). -/
def chargeTree (d : Dev) (cr t : Nat) (members : List BufRange) (n : Nat) : Dev :=
  match members.find? (fun r => decide (r.tile.toNat / 128 ≠ t / 128)) with
  | some r => chargeBridge d cr t r.tile.toNat n
  | none => d

/-- MCAST (R218): the issuing tile becomes the holder, and the subscriber set is resolved and dispatched. The deck operand is
judged before the entry's kind and LEN (an order that the spec does not give: log 87). The bytes sent are those of the range at
dispatch (R205; log 10). -/
def mcastD (f : Fetch) (d : Dev) : Dev :=
  seqStep f 0x73 none (fun d t x k w _ => do
    let n := fld w 28 14
    let bn := fld w 0 16
    let p := bufTable (getCtx d k.work.cr.toNat).part.toNat k.work.step
    let a ← deckOperand k (fld w 51 5) 0 n false
    faultIf ((getBuf d p bn).pier || (getBuf d p bn).produced) fIllegalInstr
    let b ← sizeBuf (getBuf d p bn) n k.work.cr
    holdIf (decide (16 ≤ inFlight d t trestleClass))
    holdIf (readHeld x a n)
    let bs ← deckRead x a n
    let xf := { newXfer d .mcast t k w (fld w 25 3) n false with a0 := getR k (fld w 51 5), buf := BitVec.ofNat 16 bn }
    let r : BufRange := { tile := BitVec.ofNat 8 t, word := a, xfer := xf.id, rel := false }
    let b1 := { b with produced := true, st := .held, holders := [r], src := some r, sending := b.subs, subs := [], data := bs
                       sentAt := xf.id }
    .ok (launch (chargeTree (setBuf d p bn b1) k.work.cr.toNat t b.subs bs.length) t x
      { k with trTag := tagUp k.trTag (fld w 25 3) } xf)) d

/-- MCAST (R218). -/
def execMcast (f : Fetch) (s : State) : Answer := onDev s (mcastD f)

/-! ## Remote accesses (R133 to R136, R150, R226) -/

/-- The fault of a trestle transfer; `t` is the tile that the record names, which for an ECC error is the tile that holds the word
(R142). -/
def trestleFaultAt (t : Nat) (d : Dev) (xf : Xfer) (code detail : Nat) : Dev :=
  let w := (getTile d xf.tile.toNat).run.map (fun k => k.work)
  ctxFault d xf.cr.toNat code
    { unit := 0, tile := t, task := (w.map taskIndex).getD 0, step := (w.map (fun w => w.step)).getD 0
      pc := xf.pc.toNat, detail := detail }

/-- The fault of a trestle transfer in its own tile's name. -/
def trestleFault (d : Dev) (xf : Xfer) (code detail : Nat) : Dev := trestleFaultAt xf.tile.toNat d xf code detail

/-- Whether an earlier access of one kind from one tile to one target is still unserved (R226). -/
def earlierUnserved (d : Dev) (xf : Xfer) (kinds : XKind → Bool) : Bool :=
  d.xfers.any (fun p => p.2.tile = xf.tile && p.2.peer = xf.peer && kinds p.2.kind && decide (p.2.id < xf.id) &&
    p.2.remote = .waiting)

/-- Whether an earlier remote write from tile `a` to tile `b` is still to take effect: a PUT, or the delivery of a multicast, that
left before place `n` (R135, R226). -/
def earlierWrite (d : Dev) (a b : TileId) (n : Nat) : Bool :=
  d.xfers.any (fun p => p.2.kind = .put && p.2.tile = a && p.2.peer = b && decide (p.2.id < n) && p.2.remote = .waiting) ||
  d.bufs.any (fun q => (match q.2.src with | some r => r.tile = a | none => false) && decide (q.2.sentAt < n) &&
    q.2.sending.any (fun r => r.tile = b))

/-- Whether a transfer reads a remote range. -/
def isRemoteRead (k : XKind) : Bool :=
  match k with
  | .fetch => true
  | .lateSub => true
  | _ => false

/-- Whether the issuer's context owns the target tile (R134). -/
def ownsTarget (y : Tile) (xf : Xfer) : Bool := y.ownerValid && y.owner = xf.ctx

/-- A remote read at its target: ownership, the deck's end, WRITE entries, gating and ECC, then the data (R134, R136,
R142, R150). -/
def remoteReadD (i : Nat) (e : Ecc) (d : Dev) : Dev :=
  match tfind d.xfers i with
  | none => d
  | some xf =>
    if !isRemoteRead xf.kind || xf.remote ≠ .waiting || earlierUnserved d xf isRemoteRead then d
    else
      let t := xf.peer.toNat
      let d0 := setTile d t (applyEcc (getTile d t) e)
      let y := getTile d0 t
      let w := xf.a1.toNat
      if !ownsTarget y xf then trestleFault d xf fXlatePerm 0
      else if 196608 < w + xf.pages then trestleFault d xf fDeckBound 0
      else if readHeld y w xf.pages then d
      else
        match deckRead y w xf.pages with
        | .error .wait => d
        | .error (.fault c i) => trestleFaultAt (if c = fEccDeck then t else xf.tile.toNat) d0 xf c i
        | .ok bs => { chargeBridge d0 xf.cr.toNat t xf.tile.toNat bs.length with xfers := tset d0.xfers i { xf with remote := .served bs } }

/-- REMOTE_READ (R136). -/
def execRemoteRead (i : Nat) (e : Ecc) (s : State) : Answer := onDev s (remoteReadD i e)

/-- Whether words lie inside one WRITE range that the target's own fetch or subscription registered (R135), and the units
that it counts. -/
def inFetchRange (d : Dev) (y : Tile) (w n : Nat) : Option (List Nat) :=
  (y.sb.find? (fun e => e.write && decide (16 * e.first ≤ w) && decide (w + n ≤ 16 * e.last + 16) &&
    (match e.owner with
     | .xfer j => (match tfind d.xfers j with
        | some z => z.kind = .fetch || z.kind = .sub || z.kind = .lateSub
        | none => false)
     | _ => false))).bind (fun e =>
    match e.owner with
    | .xfer j => (tfind d.xfers j).map (fun z => z.counted)
    | _ => none)

/-- A remote write at its target, after every earlier one of its source there (R226): ownership, then the registered range, then
gating (R134, R135, R150, R151). A write inside a range whose units the target's own fetch or subscription counts is taken as
counted, so that it completes on a unit that drains (log 88). The source is read now (R205). -/
def remoteWriteD (i : Nat) (d : Dev) : Dev :=
  match tfind d.xfers i with
  | none => d
  | some xf =>
    if xf.kind ≠ .put || xf.remote ≠ .waiting || earlierWrite d xf.tile xf.peer xf.id then d
    else
      let t := xf.peer.toNat
      let y := getTile d t
      let w := xf.a1.toNat
      match (getTile d xf.tile.toNat).run with
      | none => d
      | some k =>
        if !ownsTarget y xf then trestleFault d xf fXlatePerm 0
        else
          match inFetchRange d y w xf.pages with
          | none => trestleFault d xf fDeckBound 0
          | some us =>
            match gateCheck y { xf with counted := us } (4 * w) (4 * xf.pages) true with
            | .error .wait => d
            | .error (.fault c i) => trestleFault d xf c i
            | .ok _ =>
              match winRead (getTile d xf.tile.toNat) (deckByte k xf 0 0) (4 * xf.pages) with
              | .error .wait => d
              | .error (.fault c i) => trestleFault d xf c i
              | .ok bs =>
                let d1 := chargeBridge (setTile d t (tilePut (getTile d t) (4 * w) bs)) xf.cr.toNat xf.tile.toNat t bs.length
                { d1 with xfers := tset d1.xfers i { xf with remote := .served [] } }

/-- REMOTE_WRITE (R135). -/
def execRemoteWrite (i : Nat) (s : State) : Answer := onDev s (remoteWriteD i)

/-- Write a delivery into a tile's own range (R149, R150). -/
def deliver (d : Dev) (xf : Xfer) (k : Task) (bs : List Byte) : Eff Dev := do
  let t := xf.tile.toNat
  gateCheck (getTile d t) xf (deckByte k xf 0 0) bs.length true
  .ok (setTile d t (tilePut (getTile d t) (deckByte k xf 0 0) bs))

/-- The buffer table of a transfer's task. -/
def xferPart (d : Dev) (xf : Xfer) (k : Task) : Nat := bufTable (getCtx d xf.cr.toNat).part.toNat k.work.step

/-- A range becomes a holder of its buffer (R215, R216). -/
def addHolder (d : Dev) (p bn : Nat) (r : BufRange) : Dev :=
  let b := getBuf d p bn
  setBuf d p bn { b with holders := b.holders ++ [r] }

/-- TRESTLE_TRANSFER_DONE: a served read is written to its range, a write or a multicast is acknowledged, and the tag
count falls (R191, R214, R229). A late SUB's tile becomes a holder. -/
def trestleDoneD (i : Nat) (d : Dev) : Dev :=
  match tfind d.xfers i with
  | none => d
  | some xf =>
    match (getTile d xf.tile.toNat).run with
    | none => d
    | some k =>
      match xf.kind, xf.remote with
      | .put, .served _ => endXfer d xf true
      | .mcast, _ => if (getBuf d (xferPart d xf k) xf.buf.toNat).sending.isEmpty then endXfer d xf true else d
      | .fetch, .served bs =>
        match deliver d xf k bs with
        | .ok d1 => endXfer d1 xf true
        | .error .wait => d
        | .error (.fault c j) => trestleFault d xf c j
      | .lateSub, .served bs =>
        match deliver d xf k bs with
        | .ok d1 =>
          addHolder (endXfer d1 xf true) (xferPart d xf k) xf.buf.toNat
            { tile := xf.tile, word := deckByte k xf 0 0 / 4, xfer := i, rel := false }
        | .error .wait => d
        | .error (.fault c j) => trestleFault d xf c j
      | _, _ => d

/-- TRESTLE_TRANSFER_DONE (R229). -/
def execTrestleTransferDone (i : Nat) (s : State) : Answer := onDev s (trestleDoneD i)

/-! ## Fills and multicasts (R215 to R217, R225) -/

/-- The bytes of a PIER-BACKED buffer: its pieces in order, then zeros (R211, R213). -/
def fillBytes (d : Dev) (b : Buf) (k : Task) (t : Nat) : Except Bad (List Byte) := do
  let bs ← b.pieces.foldlM (fun acc p => do
    match p.1 with
    | none => pure (acc ++ List.replicate p.2 0)
    | some va =>
      let r ← readVa d b.cr.toNat (stepModel d b.cr.toNat k.work.step) va.toNat p.2 (.cache (engineOf t))
      pure (acc ++ r)) []
  pure (sub bs 0 (4 * b.words))

/-- The pages of a fill leave their entries in the cache of the holder tile's engine (R422, R424). -/
def touchFill (d : Dev) (b : Buf) (k : Task) (t : Nat) : Dev :=
  (b.pieces.flatMap (fun p => match p.1 with
    | none => []
    | some va => (List.range (p.2 / 0x10000 + 2)).map (fun i => if i = 0 then va.toNat else va.toNat / 0x10000 * 0x10000 + 0x10000 * i)
        |>.filter (fun a => decide (a < va.toNat + p.2)))).foldl
    (fun d a => touchTlb d (engineOf t) b.cr.toNat (stepModel d b.cr.toNat k.work.step) a false) d

/-- BUFFER_FILL_DONE: the fill is written to the source's range, the subscriber set is resolved and the multicast is
dispatched; the entry is HELD (R215). A failed read faults the context from the holder's engine (R424, R426). -/
def fillDoneD (p bn : Nat) (e : Ecc) (d0 : Dev) : Dev :=
  let b := getBuf d0 p bn
  match b.pier, b.st, b.src with
  | true, .filling, some r =>
    match tfind d0.xfers r.xfer, (getTile d0 r.tile.toNat).run with
    | some xf, some k =>
      let d := pageEcc d0 { xf with kind := .dmaIn } e
      match fillBytes d b k r.tile.toNat with
      | .error bad => if bad.code = 0 then d0 else slideFault d xf k bad
      | .ok bs =>
        match deliver d xf k bs with
        | .error .wait => d0
        | .error (.fault c i) => slideFault d xf k ⟨c, 0, i⟩
        | .ok d1 =>
          let d2 := endXfer (chargeTree (chargeCtx (touchFill d1 b k r.tile.toNat) b.cr.toNat 0 bs.length) b.cr.toNat r.tile.toNat b.subs bs.length) xf true
          syncEngine (setBuf { d2 with nextX := d2.nextX + 1 } p bn
            { b with st := .held, holders := [r], sending := b.subs, subs := [], data := bs, sentAt := d2.nextX }) r.tile.toNat
    | _, _ => d0
  | _, _, _ => d0

/-- The buffer table of partition `p` that a command on buffer `bn` means: the one whose entry meets `c` (log 16). -/
def pickTable (d : Dev) (p bn : Nat) (c : Buf → Bool) : Nat := if c (getBuf d p bn) then p else p + 16

/-- BUFFER_FILL_DONE (R215). -/
def execBufferFillDone (p : PartId) (bn : BitVec 16) (e : Ecc) (s : State) : Answer :=
  onDev s (fun d => fillDoneD (pickTable d p.toNat bn.toNat (fun b => b.st = .filling)) bn.toNat e d)

/-- MULTICAST_DELIVERY_DONE: after every earlier remote write of its source there (R226), the subscriber's range is written whole,
its tag falls, and it becomes a holder (R215, R225). -/
def deliveryD (p bn t : Nat) (d : Dev) : Dev :=
  let b := getBuf d p bn
  match b.sending.find? (fun r => r.tile.toNat = t) with
  | none => d
  | some r =>
    match tfind d.xfers r.xfer, (getTile d t).run with
    | some xf, some k =>
      if (match b.src with | some h => earlierWrite d h.tile r.tile b.sentAt | none => false) then d
      else
      match deliver d xf k b.data with
      | .error .wait => d
      | .error (.fault c i) => trestleFault d xf c i
      | .ok d1 =>
        setBuf (endXfer d1 xf true) p bn
          { b with sending := b.sending.filter (fun q => q.xfer ≠ r.xfer), holders := b.holders ++ [r] }
    | _, _ => d

/-- MULTICAST_DELIVERY_DONE (R225). -/
def execMulticastDeliveryDone (p : PartId) (bn : BitVec 16) (t : TileId) (s : State) : Answer :=
  onDev s (fun d =>
    deliveryD (pickTable d p.toNat bn.toNat (fun b => b.sending.any (fun r => r.tile = t))) bn.toNat t.toNat d)

/-- Whether a multicast or a remote read sourced from a holder's range is still to complete (R217). -/
def sourcing (d : Dev) (b : Buf) (h : BufRange) : Bool :=
  (!b.sending.isEmpty && (match b.src with | some r => r.tile = h.tile | none => false)) ||
  d.xfers.any (fun p => isRemoteRead p.2.kind && p.2.peer = h.tile && p.2.remote = .waiting &&
    decide (p.2.a1.toNat < h.word + b.words) && decide (h.word < p.2.a1.toNat + p.2.pages))

/-- HOLDER_RELEASE: a range due for release is released once nothing is sourced from it; an entry without holders
returns to IDLE (R217). -/
def holderReleaseD (p bn t : Nat) (d : Dev) : Dev :=
  let b := getBuf d p bn
  match b.holders.find? (fun h => h.tile.toNat = t && h.rel) with
  | none => d
  | some h =>
    if sourcing d b h then d
    else
      let hs := b.holders.filter (fun g => g ≠ h)
      setBuf d p bn { b with holders := hs, st := if b.pier && hs.isEmpty then .idle else b.st }

/-- HOLDER_RELEASE (R217). -/
def execHolderRelease (p : PartId) (bn : BitVec 16) (t : TileId) (s : State) : Answer :=
  onDev s (fun d =>
    holderReleaseD (pickTable d p.toNat bn.toNat (fun b => b.holders.any (fun h => h.tile = t && h.rel))) bn.toNat t.toNat d)

end Sys2Proof.Machine
end

