-- ==== Sys2Proof/Machine/Table.lean ====
section
/-! DEFINITION. The sequence table of a step: its entries, their writing, and the patches of the step built ahead
(R266, R286 to R288). -/

namespace Sys2Proof.Machine

open Sys2Proof

/-- The entry of a step's sequence table with a SEQ number: SEQ is (step mod 2) × 8,192 + entry index (R286). -/
def seqEntry (st : Step) (seq : Nat) : Option (Nat × Admitted) :=
  if seq / 8192 = st.num % 2 then st.admitted[seq % 8192]?.map (fun a => (seq % 8192, a)) else none

/-- Replace an entry of a step. -/
def setEntry (st : Step) (e : Nat) (a : Admitted) : Step := { st with admitted := st.admitted.set e a }

/-- Replace a step of a context by its number. -/
def putStep (d : Dev) (cr : Nat) (st : Step) : Dev :=
  let c := getSteps d cr
  let upd := fun (o : Option Step) => o.map (fun q => if q.num = st.num then st else q)
  setSteps d cr { c with cur := upd c.cur, nxt := upd c.nxt }

/-- SEQ of entry `e` of a step (R286). -/
def seqOf (num e : Nat) : Nat := num % 2 * 8192 + e

/-- S, the splits of token attention over `l` key positions, and their length Ls (R266). -/
def splitsOf (l splitLen run : Nat) : Nat × Nat :=
  let s0 := max 1 (min 32 (cdiv l splitLen))
  let ls := alignUp (cdiv l s0) run
  (max 1 (cdiv l ls), ls)

/-- Field `[lo + len - 1 : lo]` of quadword `q` of an entry set to `v`. -/
def setEnt (ent : List Word64) (q lo len v : Nat) : List Word64 := ent.set q (setFld (ent.getD q 0) lo len v)

/-- Write entry `e` of a step at STEP_TABLE_VA + 64 × SEQ; a failed write faults the context (R286, R426). -/
def writeEntry (d : Dev) (cr : Nat) (st : Step) (e : Nat) (a : Admitted) : Dev :=
  match writeVa d cr (some st.model) (st.table + 64 * seqOf st.num e) (a.entry.flatMap (fun w => toLe 8 w.toNat)) with
  | .ok d1 => d1
  | .error b => accessFault d cr b { unit := 3, handle := viewHandle d (getCtx d cr).fn.toNat a.handle.toNat, step := st.num }

/-- Replace an entry of a step and write it. -/
def rewriteEntry (d : Dev) (cr : Nat) (st : Step) (e : Nat) (a : Admitted) : Dev :=
  writeEntry (putStep d cr (setEntry st e a)) cr st e a

/-- The entry of a slot's current handle in a step. -/
def findEntry (d : Dev) (st : Step) (slot : Nat) : Option (Nat × Admitted) :=
  (st.admitted.zipIdx.find? (fun p => p.1.slot.toNat = slot && p.1.handle.toNat = slotHandle d slot)).map (fun p => (p.2, p.1))

/-- Withdraw the undelivered tasks of a step that `c` picks: they are never delivered (R287). What waits for one of them
waits for the others only. -/
def dropTodo (st : Step) (c : Work → Bool) : Step :=
  let gone := (st.todo.filter c).map taskIndex
  let wait := fun (w : WaitFor) => match w with
    | .tasks l => .tasks (l.filter (fun i => !gone.contains i))
    | v => v
  { st with todo := (st.todo.filter (fun w => !c w)).map (fun w => { w with waits := wait w.waits }) }

/-- The patch of the built step when a VERIFY outcome of the running step is taken: C, TOKEN and SPLITS are rewritten, and
split tasks at or above the new S are withdrawn (R288). -/
def patchVerify (d : Dev) (cr num e : Nat) : Dev :=
  match stepOf d cr num, stepOf d cr (num + 1) with
  | some st, some nx =>
    match st.admitted[e]? with
    | none => d
    | some a =>
      match a.outcome, findEntry d nx a.slot.toNat, getModel d nx.model with
      | some o, some (e2, b), some m =>
        if a.kind ≠ 2 || b.kind ≠ 2 then d
        else
          let c := a.c + o.accept + 1
          let tok := o.tokens.getLast?
          let s := (splitsOf (c + b.t) m.splitLen (2 ^ m.runLog2)).1
          let ent := setEnt (setEnt (setEnt b.entry 3 0 32 c) 4 24 32 ((tok.getD 0).toNat)) 0 42 5 (s - 1)
          let b1 := { b with c := c, pendBefore := tok, entry := ent }
          let nx1 := dropTodo nx (fun w => w.excl = some e2 && (match w.split with | some i => decide (s ≤ i) | none => false))
          rewriteEntry (putStep d cr nx1) cr nx1 e2 b1
      | _, _, _ => d
  | _, _ => d

/-- Set CANCELLED in the entry of a slot in a step (R288, R299); `drop` says that the slot is dropped, not cancelled. -/
def cancelEntry (d : Dev) (cr : Nat) (st : Step) (e : Nat) (a : Admitted) (drop : Bool) : Dev :=
  rewriteEntry d cr st e { a with cancelled := true, dropped := a.dropped || drop, entry := setEnt a.entry 0 36 1 1 }

end Sys2Proof.Machine
end

