-- ==== Sys2Proof/Machine/Batch.lean ====
section
/-! DEFINITION. The end of a step and its result batch: deadlines, slot records, the batch written to the result ring, and the
STEP tap event (R269, R294 to R300, R305 to R308, R483, R484, R533, R534). -/

namespace Sys2Proof.Machine

open Sys2Proof

/-! ## Depth adaptation (R307) -/

/-- The draft depth and the two counts of a slot, and whether the depth changed. -/
structure Adapt where
  depth   : Nat
  rejects : Nat
  goods   : Nat
  changed : Bool
deriving DecidableEq, Repr

/-- Depth adaptation after a VERIFY at depth `k` that accepted `acc` drafts; tree steps do not adapt (R307, R308). -/
def adapt (s : Slot) (k acc limit : Nat) : Adapt :=
  let r := if acc = 0 then s.rejects + 1 else 0
  let g := if k ≤ 2 * acc then s.goods + 1 else 0
  let low := decide (limit ≤ r)
  let high := decide (8 ≤ g)
  let d := if low then s.depth / 2 else if high then min (2 * s.depth) s.depthMax else s.depth
  { depth := d, rejects := if low || high then 0 else r, goods := if low || high then 0 else g, changed := d ≠ s.depth }

/-- The adaptation that an admitted slot's outcome makes, if any: cancelled and dropped steps leave the counts (R307). -/
def adaptOf (s : Slot) (a : Admitted) (limit : Nat) : Option Adapt :=
  match a.outcome with
  | some o => if a.kind = 2 && a.nodes = 0 && !a.cancelled then some (adapt s a.depth o.accept limit) else none
  | none => none

/-! ## What an admitted slot's step gave -/

/-- Tokens emitted: none for a cancelled slot (R295, R299). -/
def emitted (a : Admitted) : List Word32 :=
  match a.outcome with
  | some o => if a.cancelled then [] else o.tokens
  | none => []

/-- Draft tokens or tree nodes accepted. -/
def accepted (a : Admitted) : Nat :=
  match a.outcome with
  | some o => if a.cancelled then 0 else o.accept
  | none => 0

/-- Positions that the step wrote and kept (R269, R306): none for a cancelled or dropped slot. -/
def kept (a : Admitted) : Nat :=
  if a.cancelled || a.dropped then 0
  else if a.kind = 1 then a.t
  else if a.kind = 2 then accepted a + 1
  else 1

/-- POSITION after the step (R295, R298, R306). -/
def endPos (a : Admitted) : Nat := a.c + kept a

/-- TOKENS_IN: the prompt positions processed; 0 if cancelled (R295, R587). -/
def tokensIn (a : Admitted) : Nat := if a.kind = 1 && !a.cancelled then a.t else 0

/-! ## Slot records (R295) -/

/-- The 64 bytes of a slot record. -/
def recordOf (handle pos kind ntok acc depth flags reason tin : Nat) (toks : List Word32) : List Byte :=
  toLe 4 handle ++ toLe 4 pos ++ toLe 1 kind ++ toLe 1 ntok ++ toLe 1 acc ++ toLe 1 depth ++ toLe 2 flags ++ toLe 1 reason
    ++ toLe 1 0 ++ toLe 4 tin ++ toLe 4 0 ++ sub ((toks.take 9).flatMap (fun w => toLe 4 w.toNat)) 0 36 ++ toLe 4 0

/-- Whether a slot still has the handle of a record. -/
def sameSlot (d : Dev) (slot : SlotNo) (handle : Word32) : Bool := decide (slotHandle d slot.toNat = handle.toNat)

/-- SHARED_HIT: the slot's first record after a lookup that matched (R333). -/
def hitFlag (d : Dev) (slot : SlotNo) (handle : Word32) : Bool :=
  sameSlot d slot handle && decide (0 < (getSlot d slot.toNat).hit)

/-- Whether a slot is in another step of its context than number `num`. -/
def inOther (d : Dev) (cr num : Nat) (slot : Nat) : Bool :=
  ([(getSteps d cr).cur, (getSteps d cr).nxt].filterMap id).any (fun st => st.num ≠ num && (findEntry d st slot).isSome)

/-- The FLAGS of an admitted slot's record. -/
def admFlags (d : Dev) (cr : Nat) (st : Step) (a : Admitted) : Nat :=
  let s := getSlot d a.slot.toNat
  let bad := match a.outcome with | some o => o.badDist && !a.cancelled | none => false
  let ch := match adaptOf s a (getSteps d cr).policy.allRej with | some x => x.changed | none => false
  1 + 4 * b2n a.late + 8 * b2n a.dropped + 16 * b2n a.cancelled
    + 32 * b2n (a.kind = 2 && a.outcome.isSome && accepted a = 0 && !a.cancelled) + 64 * b2n ch + 128 * b2n a.chunkShort
    + 256 * b2n (a.lastChunk && !a.cancelled && !a.dropped) + 512 * b2n (hitFlag d a.slot a.handle)
    + 1024 * b2n (s.parkPend.isSome && !a.cancelled && !inOther d cr st.num a.slot.toNat) + 2048 * b2n bad

/-- The record of an admitted slot, in the function's view (R295, R478). -/
def admRecord (d : Dev) (cr fn : Nat) (st : Step) (a : Admitted) : List Byte :=
  recordOf (viewHandle d fn a.handle.toNat) (endPos a) a.kind.toNat (emitted a).length (accepted a) a.depth (admFlags d cr st a) 0
    (tokensIn a) (emitted a)

/-- The record of a deferred slot (R290, R298). -/
def defRecord (d : Dev) (fn : Nat) (x : Deferred) : List Byte :=
  recordOf (viewHandle d fn x.handle.toNat) x.pos 0 0 0 0 (2 + 8 * b2n x.dropped + 512 * b2n (hitFlag d x.slot x.handle))
    x.reason.toNat 0 []

/-- The slot records in the order in which the slots were examined. -/
def recordsOf (d : Dev) (cr fn : Nat) (st : Step) (order : List Bool) (adm : List Admitted) (df : List Deferred) :
    List (List Byte) :=
  match order with
  | [] => []
  | o :: r =>
    if o then
      (match adm with
       | a :: as => admRecord d cr fn st a :: recordsOf d cr fn st r as df
       | [] => recordsOf d cr fn st r [] df)
    else
      (match df with
       | x :: xs => defRecord d fn x :: recordsOf d cr fn st r adm xs
       | [] => recordsOf d cr fn st r adm [])

/-- The 64 bytes of a batch header (R294). -/
def headerOf (st : Step) (vid : Nat) (keyFull : Bool) : List Byte :=
  toLe 8 st.num ++ toLe 8 st.startTs.toNat ++ toLe 8 st.endTs.toNat ++ toLe 2 vid
    ++ toLe 2 (st.admitted.length + st.deferred.length) ++ toLe 2 st.admitted.length ++ toLe 2 st.deferred.length
    ++ toLe 4 st.rows ++ toLe 2 (b2n st.modelChange + 2 * b2n st.clockStepped + 4 * b2n keyFull) ++ toLe 2 0
    ++ toLe 4 st.proj.toNat ++ sub [] 0 20

/-! ## The tap (R533, R534) -/

/-- The STEP event of a step: cancelled and dropped slots contribute no tokens; the tile time of every task counts. -/
def stepTap (d : Dev) (cr : Nat) (st : Step) (m : Model) : TapEvent :=
  let live := st.admitted.filter (fun a => !a.cancelled && !a.dropped)
  let recs := d.cat.done.filter (fun r => r.cr.toNat = cr && r.step = st.num && !r.withdrawn)
  .step (getCtx d cr).part m.fn (BitVec.ofNat 14 st.model) m.vid (live.map tokensIn).sum
    ((live.filter (fun a => a.kind = 2)).map (fun a => a.t)).sum (live.map (fun a => (emitted a).length)).sum
    (recs.map (fun r => r.ticks)).sum

/-- Put an event on the tap link, with the next sequence number (R535). -/
def pushTap (d : Dev) (e : TapEvent) : Dev :=
  { d with toll := { d.toll with taps := d.toll.taps ++ [e], tapSeqOut := d.toll.tapSeqOut + 1 } }

/-! ## Writing the batch (R294, R426, R482 to R484) -/

/-- Tokens beyond TOKEN8 of a tree step go to the slot's tree area (R295). -/
def putTreeTokens (d : Dev) (cr : Nat) (st : Step) (a : Admitted) : Except Bad Dev :=
  match a.tree with
  | some tr =>
    if (emitted a).length ≤ 9 then .ok d
    else writeVa d cr (some st.model) tr.outVa.toNat (((emitted a).drop 9).flatMap (fun w => toLe 4 w.toNat))
  | none => .ok d

/-- A fault of a ring access: FAULT is set and the context faults (R482). -/
def ringFault (d : Dev) (k cr : Nat) (b : Bad) : Dev :=
  if b.code = 0 then d
  else accessFault (setRing d k { getRing d k with fault := true }) cr b { unit := 8 }

/-- Note that slots have shown SHARED_HIT. -/
def clearHits (d : Dev) (st : Step) : Dev :=
  ((st.admitted.map (fun a => (a.slot, a.handle))) ++ st.deferred.map (fun x => (x.slot, x.handle))).foldl (fun d p =>
    if sameSlot d p.1 p.2 then setSlot d p.1.toNat { getSlot d p.1.toNat with hit := 0 } else d) d

/-- Write the result batch of a recorded step when the result ring is in use and has room; the step then counts as written and
its STEP event is sent. A fault leaves the step incomplete (R426). -/
def writeBatch (d : Dev) (cr : Nat) (st : Step) : Dev :=
  let c := getCtx d cr
  let k := ringKey c.fn.toNat c.vctx.toNat 2
  let n := st.admitted.length + st.deferred.length
  match getModel d st.model with
  | none => d
  | some m =>
    if !ringUsable (getRing d k) || ringFree (getRing d k) < n + 1 then d
    else
      match st.admitted.foldlM (fun d a => putTreeTokens d cr st a) d with
      | .error b => if b.code = 0 then d else accessFault d cr b { unit := 3, step := st.num }
      | .ok d1 =>
        let sc := getSteps d1 cr
        let batch := headerOf st m.vid.toNat sc.keyFull :: recordsOf d1 cr c.fn.toNat st st.order st.admitted st.deferred
        match ringPush d1 k cr 64 batch with
        | (d2, some b) => if b.code = 0 then d else ringFault d2 k cr b
        | (d2, none) =>
          let sc2 := getSteps d2 cr
          let d3 := setSteps (clearHits d2 st) cr { sc2 with keyFull := false, batches := sc2.batches + 1 }
          pushTap (putStep d3 cr { st with phase := .written }) (stepTap d cr st m)

/-- Take END_TS: slots past their deadline are LATE, and LATE slots with DROP_LATE are dropped (R296, R298). -/
def lateness (a : Admitted) (t : Word64) : Admitted :=
  let late := decide (a.deadline ≠ 0) && decide (a.deadline.toNat < t.toNat)
  { a with late := late, dropped := a.dropped || (late && a.dropLate && !a.cancelled) }

/-- Drop or cancel the slots of the built step whose running step dropped them (R288): their entries are marked and their own
tasks are never delivered. -/
def patchDropped (d : Dev) (cr : Nat) (st : Step) : Dev :=
  (st.admitted.filter (fun a => a.dropped)).foldl (fun d a =>
    match stepOf d cr (st.num + 1) with
    | none => d
    | some nx =>
      match findEntry d nx a.slot.toNat with
      | none => d
      | some (e, b) =>
        if b.cancelled then d
        else
          let nx1 := dropTodo nx (fun w => w.excl = some e)
          cancelEntry (putStep d cr nx1) cr nx1 e b true) d

/-- The end of a step: END_TS, lateness, the patches that it makes, and the result batch (R288, R294, R296, R298). -/
def finishStep (d : Dev) (cr : Nat) (st0 : Step) : Dev :=
  let st := { st0 with phase := .recorded, endTs := d.now, admitted := st0.admitted.map (fun a => lateness a d.now) }
  let d0 := putStep d cr st
  let d1 := patchDropped (setSteps d0 cr { getSteps d0 cr with holdBuild := false }) cr st
  match stepOf d1 cr st.num with
  | none => d1
  | some st1 => writeBatch d1 cr st1

end Sys2Proof.Machine
end

