-- ==== Sys2Proof/Machine/Sequencer.lean ====
section
/-! DEFINITION. The scoreboard instructions, REPORT, SAVE_POINT, the end of a hold window, ECC write-back and the gating
of units (R128, R141, R147, R148, R192 to R199). -/

namespace Sys2Proof.Machine

open Sys2Proof

/-! ## Scoreboard instructions (R192) -/

/-- SBWAIT (R192). -/
def execSbwait (f : Fetch) (s : State) : Answer :=
  onDev s (seqTile f 0x80 none (fun x k w _ => do
    let n := fld w 37 14
    let a ← deckOperand k (fld w 51 5) (offOf w) n false
    holdIf (x.sb.any (fun e => (if e.write then bitOf w 36 else bitOf w 35) && sbOverlap e a n))
    .ok (x, k)))

/-- SBDRAIN (R192). -/
def execSbdrain (f : Fetch) (s : State) : Answer :=
  onDev s (seqTile f 0x81 none (fun x k _ _ => do
    holdIf (!x.sb.isEmpty)
    .ok (x, k)))

/-- SBCOUNT (R192). -/
def execSbcount (f : Fetch) (s : State) : Answer :=
  onDev s (seqTile f 0x82 none (fun x k w _ => .ok (x, setR k (fld w 50 6) (BitVec.ofNat 64 x.sb.length))))

/-! ## Outcome reports (R193, R194) -/

/-- The bound of ACCEPT: the entry's draft depth, or the node count of a tree step (R194). -/
def acceptMax (a : Admitted) : Nat := if a.nodes = 0 then a.depth else a.nodes

/-- What an outcome record gives: the taken outcome, nothing for a discarded record, or the fault of the first check that
fails (R194). -/
def reportCheck (a : Admitted) (withdrawn : Bool) (h : List Byte) (toks : List Word32) : Eff (Option Outcome) :=
  if leAt h 0 4 ≠ a.handle.toNat then faultE fStaleHandle
  else if a.reported || leAt h 8 1 = 0 || 64 < leAt h 8 1 || acceptMax a < leAt h 9 1 || leAt h 7 1 ≠ 0
      || 2 ≤ leAt h 10 1 || leAt h 11 5 ≠ 0 then faultE fIllegalInstr
  else if a.cancelled || withdrawn then .ok none
  else .ok (some { tokens := toks, accept := leAt h 9 1, badDist := leAt h 10 1 = 1 })

/-- REPORT (R193, R194): entries of TOKENS beyond NTOK are not read; the outcome of a VERIFY patches the next step
(R288). -/
def reportD (f : Fetch) (d : Dev) : Dev :=
  seqStep f 0xF1 none (fun d t x k w _ => do
    let a ← deckOperand k (fld w 51 5) (offOf w) 68 false
    holdIf (readHeld x a 68)
    let h ← deckRead x a 4
    let n := min 64 (leAt h 8 1)
    let bs ← deckRead x (a + 4) n
    let cr := k.work.cr.toNat
    match stepOf d cr k.work.step with
    | none => faultE fIllegalInstr
    | some st =>
      match seqEntry st (leAt h 4 3) with
      | none => faultE fIllegalInstr
      | some (e, adm) =>
        let o ← reportCheck adm k.work.withdrawn h (bytesWords n bs)
        let d1 := setTile d t { x with run := some k }
        .ok (patchVerify (putStep d1 cr (setEntry st e { adm with reported := true, outcome := o })) cr k.work.step e)) d

/-- REPORT (R193). -/
def execReport (f : Fetch) (s : State) : Answer := onDev s (reportD f)

/-! ## SAVE_POINT and the hold window (R195 to R199) -/

/-- SAVE_POINT: the entry in force changes, and a pending PRE_INSTR request stops the sequencer when CHEAP is set. -/
def execSavePoint (f : Fetch) (s : State) : Answer :=
  onDev s (seqTile f 0xF0 none (fun x k w _ =>
    .ok ({ x with stopped := x.stopped || (x.preReq && bitOf w 45) }, { k with lrt := fld w 46 10 })))

/-- The end of a partition's hold window: every sequencer with a pending request stops at this instruction boundary, and
one that starts afterwards stops at once (R199, R238). -/
def holdEnd (p : Nat) (d : Dev) : Dev :=
  { d with tiles := tmap d.tiles (fun t x =>
      if tileIn d p t && x.preReq then { x with windowOver := true, stopped := true } else x) }

/-- HOLD_WINDOW_END (R199). -/
def execHoldWindowEnd (p : PartId) (s : State) : Answer := onDev s (holdEnd p.toNat)

/-! ## ECC write-back (R141) -/

/-- The corrected word is written back, unless a write cancelled it. -/
def writeBack (t w : Nat) (d : Dev) : Dev :=
  let x := getTile d t
  match tfind x.fixups w with
  | none => d
  | some v => setTile d t { x with mem := memSet32 x.mem (4 * w) v, fixups := tdel x.fixups w }

/-- ECC_WRITE_BACK (R141). -/
def execEccWriteBack (t : TileId) (w : BitVec 18) (s : State) : Answer := onDev s (writeBack t.toNat w.toNat)

/-! ## Gating (R147, R148) -/

/-- The byte range of a unit in its tile's window: bank groups 0 to 5, slots 6 to 9 (R114, R137). -/
def unitRange (u : Nat) : Nat × Nat := if u < 6 then (u * 0x20000, 0x20000) else (0xC0000 + (u - 6) * 0x10000, 0x10000)

/-- Write zero to a byte range of a tile; errors in it are cleared (R140). -/
def zeroRange (x : Tile) (off n : Nat) : Tile :=
  let inR := fun w => decide (off ≤ 4 * w) && decide (4 * w < off + n)
  { x with
    mem := memZero x.mem off n
    bad := x.bad.filter (fun w => !inR w)
    fixups := x.fixups.filter (fun p => !inR p.1) }

/-- UNIT_OFF: a gated unit that drains and has no counted transfer left (R148). -/
def unitOff (t u : Nat) (d : Dev) : Dev :=
  let x := getTile d t
  let g := gateOf x u
  if u < 10 && g.st = .draining && g.gated && g.dma = 0 then setTile d t { x with gates := tset x.gates u { g with st := .off } }
  else d

/-- UNIT_OFF (R148). -/
def execUnitOff (t : TileId) (u : BitVec 4) (s : State) : Answer := onDev s (unitOff t.toNat u.toNat)

end Sys2Proof.Machine
end

