-- ==== Sys2Proof/Machine/Loader.lean ====
section
/-! DEFINITION. The program loader's check of a code image (R20, R21, R31, R33, R38, R40, R69, R72, R89, R90, R95, R104,
R105, R139, R154, R157, R170 to R174, R182, R183, R188, R191, R195, R196, R584). -/

namespace Sys2Proof.Machine

open Sys2Proof

/-- A check: passes, or refuses with a fault code. -/
abbrev Chk := Except Nat Unit

/-- Refuse with `code` when `c`. -/
def refuseIf (c : Bool) (code : Nat) : Chk := if c then .error code else .ok ()

/-! ## Descriptor fields (R200) -/

/-- The quadword of a task descriptor that holds region `r`: CODE, DATA, WEIGHT, SCRATCH. -/
def regionWord (t : TaskDesc) (r : Nat) : Word64 := if r = 0 then t.q1 else if r = 1 then t.q2 else if r = 2 then t.q3 else t.q4
/-- The base field of a region. -/
def descBase (t : TaskDesc) (r : Nat) : Nat := fld (regionWord t r) 0 18
/-- The bound of a region. -/
def descBound (t : TaskDesc) (r : Nat) : Nat := fld (regionWord t r) 18 18
/-- Whether a region floats. -/
def descFloat (t : TaskDesc) (r : Nat) : Bool := bitOf t.q0 (36 + r)
/-- The slot footprint, ACC_SLOTS + 1 (R139). -/
def descSlots (t : TaskDesc) : Nat := fld t.q0 33 2 + 1
/-- EXACT. -/
def descExact (t : TaskDesc) : Bool := bitOf t.q0 31
/-- ENTRY_PC. -/
def descEntry (t : TaskDesc) : Nat := fld t.q1 36 18
/-- LRT_OFFSET. -/
def descLrtOff (t : TaskDesc) : Nat := fld t.q2 36 18
/-- LRT_COUNT. -/
def descLrtCount (t : TaskDesc) : Nat := fld t.q2 54 10
/-- CODE_VA. -/
def descCodeVa (t : TaskDesc) : Nat := fld t.q5 0 48
/-- COMPLETION_VA. -/
def descComplVa (t : TaskDesc) : Nat := fld t.q6 0 48

/-! ## Fields and reserved bits (R154) -/

/-- A mask of the bits from `lo` to `hi`. -/
def bits (hi lo : Nat) : Nat := 2 ^ (hi + 1) - 2 ^ lo

/-- The bits below the opcode that an instruction uses, by opcode; `none` for an opcode that is not defined. -/
def usedBits (op : Nat) : Option Nat :=
  if op = 0x00 || op = 0x05 || op = 0x81 then some 0
  else if op = 0x01 || op = 0x04 then some (bits 31 0)
  else if op = 0x02 then some (bits 55 50 + bits 34 0)
  else if op = 0x03 || op = 0x06 || op = 0x07 then some (bits 55 50 + bits 31 0)
  else if 0x08 ≤ op && op ≤ 0x0F then some (bits 55 37 + bits 31 0)
  else if 0x10 ≤ op && op ≤ 0x13 then some (bits 55 45 + bits 23 0)
  else if op = 0x14 || op = 0x15 then some (bits 55 34 + bits 23 0)
  else if op = 0x16 then some (bits 55 52)
  else if op = 0x20 then some (bits 55 7)
  else if op = 0x21 then some (bits 55 0)
  else if op = 0x30 then some (bits 55 8)
  else if op = 0x31 then some (bits 55 38)
  else if op = 0x32 then some (bits 55 7)
  else if op = 0x43 then some (bits 55 32)
  else if 0x40 ≤ op && op ≤ 0x45 then some (bits 55 47 + bits 43 32)
  else if op = 0x46 then some (bits 55 47 + bits 43 29)
  else if op = 0x47 || op = 0x48 then some (bits 55 50 + bits 31 29)
  else if op = 0x49 then some (bits 55 50 + bits 41 36 + bits 31 29)
  else if op = 0x4C || op = 0x4D then some (bits 55 53 + bits 49 45 + bits 23 0)
  else if op = 0x4E || op = 0x4F then some (bits 55 43)
  else if op = 0x50 then some (bits 55 5)
  else if op = 0x51 then some (bits 55 31 + bits 18 18 + bits 15 4)
  else if op = 0x52 then some (bits 55 14)
  else if op = 0x53 || op = 0xF1 then some (bits 55 51 + bits 23 0)
  else if op = 0x54 || op = 0x82 then some (bits 55 50)
  else if op = 0x55 then some (bits 7 0)
  else if op = 0x56 then some (bits 55 30)
  else if op = 0x60 then some (bits 55 12)
  else if op = 0x61 || op = 0x62 then some (bits 55 17)
  else if op = 0x70 || op = 0x71 then some (bits 55 24)
  else if op = 0x72 || op = 0x73 then some (bits 55 51 + bits 41 25 + bits 15 0)
  else if op = 0x80 then some (bits 55 35 + bits 23 0)
  else if op = 0xF0 then some (bits 55 45)
  else none

/-- A reserved value, or a non-zero field that the instruction does not use by its own mode fields (R154, R155; log 17): among
them RSA and RSW of a CXT whose scale mode has no scales (R184), and CLIP of a split-3 CVTS (R77). -/
def badField (w : Word64) : Bool :=
  let op := opcode w
  let rd := decide (0x30 ≤ fld w 50 6)
  if op = 0x02 then rd || decide (6 ≤ fld w 32 3)
  else if op = 0x03 || op = 0x06 || op = 0x07 || op = 0x54 || op = 0x82 || (0x10 ≤ op && op ≤ 0x13) then rd
  else if op = 0x04 then decide (fld w 27 5 ≠ 0)
  else if 0x08 ≤ op && op ≤ 0x0F then
    rd || decide (0x30 ≤ fld w 44 6) || (if bitOf w 37 then decide (fld w 38 6 ≠ 0) else decide (0x30 ≤ fld w 38 6) || decide (fld w 0 32 ≠ 0))
  else if op = 0x14 then bitOf w 53
  else if op = 0x20 then decide (fld w 10 2 = 3)
  else if op = 0x30 then !bitOf w 23 && decide (fld w 8 9 ≠ 0)
  else if op = 0x31 then decide (fld w 38 2 = 3)
  else if op = 0x32 then decide (fld w 15 2 = 0)
  else if 0x40 ≤ op && op ≤ 0x46 then
    let m := fld w 42 2
    m = 3 || (m ≠ 1 && fld w 36 6 ≠ 0) || (m ≠ 2 && fld w 32 4 ≠ 0) || (m = 2 && fld w 47 3 ≠ 0) || (op = 0x46 && decide (3 ≤ fld w 29 3))
  else if op = 0x47 then decide (2 ≤ fld w 29 3)
  else if op = 0x48 then decide (4 ≤ fld w 29 3)
  else if op = 0x49 then decide (3 ≤ fld w 29 3)
  else if op = 0x56 then (fld w 48 2 = 0 && fld w 35 5 ≠ 0) || (fld w 40 2 = 0 && fld w 30 5 ≠ 0)
  else if op = 0x50 || op = 0x51 then
    (op = 0x51 && !bitOf w 4 && bitOf w 18) || (if bitOf w 33 then decide (fld w 31 2 ≠ 0) else decide (fld w 31 2 = 3)) || (!bitOf w 14 && decide (fld w 9 4 ≠ 0))
  else if op = 0x60 then decide (2 ≤ fld w 54 2) || decide (fld w 12 14 = 0) || bitOf w 44
  else if op = 0x61 || op = 0x62 then bitOf w 51 || bitOf w 46
  else if 0x70 ≤ op && op ≤ 0x73 then decide (fld w 28 14 = 0)
  else false

/-- R154. -/
def chkWord (w : Word64) : Chk :=
  match usedBits (opcode w) with
  | none => .error fIllegalInstr
  | some m => refuseIf (decide (w.toNat % 2 ^ 56 &&& m ≠ w.toNat % 2 ^ 56) || badField w) fIllegalInstr

/-! ## Formats, pairs and scale modes -/

/-- Whether a format code is a multiplicand, weights included (R20). -/
def isMult (c : Nat) : Bool := decide (1 ≤ c) && decide (c ≤ 9)

/-- The legal pairs of weight and activation format; "check" is legal for the loader (R31). -/
def pairOk (w a : Nat) : Bool :=
  if w = 6 then a = 1 || a = 2 || a = 3 || a = 4 || a = 6
  else if w = 7 then a = 1 || a = 2 || a = 3 || a = 4 || a = 5 || a = 7
  else if w = 8 || w = 9 then a = 1 || a = 2 || a = 3 || a = 4 || a = 5
  else w = a

/-- A scale mode with reserved bits or a reserved BLOCK code (R38). -/
def badMode (sm : Nat) : Bool := decide (64 ≤ sm) || decide (5 ≤ sm / 4 % 8)

/-- A reduction-direction scale (R40, R183). -/
def redScale (sm : Nat) : Bool := smFmt sm ≠ 0 && !smDir sm

/-- R20, R21, R31, R38 and R40 for a pair and its scale modes, in that order (R170). -/
def chkPair (a w asm wsm : Nat) : Chk := do
  refuseIf (decide (0xC ≤ a) || decide (0xC ≤ w)) fIllegalInstr
  refuseIf (!isMult a || a = 8 || a = 9 || !isMult w) fFormatPair
  refuseIf (!pairOk w a) fFormatPair
  refuseIf (badMode asm || badMode wsm) fIllegalInstr
  refuseIf (intPair a && (redScale asm || redScale wsm)) fFormatPair

/-- The last logical slot of rows `m0` to `m0 + m - 1` of a slot set of width `w` (R90). -/
def lastSlot (s w m0 m : Nat) : Nat := s + (m0 + m - 1) / 128 * (w / 128) + w / 128 - 1

/-! ## Instructions -/

/-- MATMUL: the rules of R170 in order, then REUSE against the shape of the last MATMUL before it (R95). -/
def chkMatmul (w : Word64) (n : Nat) (last : Option (BitVec 64)) : Chk := do
  chkPair (fld w 36 4) (fld w 32 4) (fld w 24 8) (fld w 16 8)
  refuseIf (decide (65536 * 8 < (fld w 47 9 + 1) * (fld w 40 7 + 1) * fmtWidth (fld w 36 4))) fIllegalInstr
  refuseIf (decide (n ≤ lastSlot (fld w 14 2) (passWidth (fld w 32 4)) 0 (fld w 47 9 + 1))) fAccCapacity
  refuseIf (fld w 10 2 ≠ 0 && !intPair (fld w 36 4)) fIllegalInstr
  refuseIf (bitOf w 12 && decide (last ≠ some (shapeOf w))) fIllegalInstr

/-- SCULL with its prefix: R33, R104, R105, then the pair and scale rules of R170 (R172, R173). An ARRAY SCULL whose N + 1 exceeds W is
refused with F_ILLEGAL_INSTR after the pair and scale rules: R173 gives neither the code nor the place (log 89). -/
def chkScull (w : Word64) (pre : Option Word64) (n : Nat) : Chk := do
  let a := fld w 31 4
  let wf := fld w 27 4
  let kk := fld w 46 7 + 1
  let width := passWidth wf
  let last := if bitOf w 23 && isMult wf then lastSlot (fld w 25 2) width (fld w 8 9) (fld w 53 3 + 1) else fld w 25 2
  refuseIf (a = 6 || a = 7) fFormatPair
  refuseIf (decide (0xC ≤ a) || decide (0xC ≤ wf)) fIllegalInstr
  refuseIf (decide (32768 < (fld w 35 11 + 1) * rowBytes wf kk)) fIllegalInstr
  refuseIf (decide (2048 < 256 * fld w 20 3 + (fld w 53 3 + 1) * rowBytes a kk)) fIllegalInstr
  refuseIf (decide (3 < last)) fAccCapacity
  match pre with
  | none =>
    chkPair a wf 0 0
    .error fIllegalInstr
  | some p =>
    chkPair a wf (fld p 48 8) (fld p 40 8)
    refuseIf (fld p 38 2 ≠ 0 && !intPair a) fIllegalInstr
    refuseIf (bitOf w 23 && decide (width < fld w 35 11 + 1)) fIllegalInstr
    refuseIf (decide (n ≤ last)) fAccCapacity

/-- SCORR (R76, R174); an N + 1 above W is refused as chkScull refuses it (log 89). -/
def chkScorr (w : Word64) (n : Nat) : Chk := do
  let wf := fld w 31 4
  refuseIf (decide (0xC ≤ wf)) fIllegalInstr
  refuseIf (decide (32768 < (fld w 35 11 + 1) * rowBytes wf (fld w 46 7 + 1))) fIllegalInstr
  refuseIf (!isMult wf || !pairOk wf 3) fFormatPair
  refuseIf (badMode (fld w 7 8)) fIllegalInstr
  refuseIf (decide (passWidth wf < fld w 35 11 + 1)) fIllegalInstr
  refuseIf (decide (n ≤ lastSlot (fld w 29 2) (passWidth wf) (fld w 17 9) (fld w 53 3 + 1))) fAccCapacity

/-- An output target (R20). -/
def isTarget (c : Nat) : Bool := c ≤ 7 || c = 11

/-- A target that takes block scales (R69). -/
def blockTarget (c : Nat) : Bool := c = 3 || c = 4 || c = 5 || c = 6 || c = 7

/-- CVT and CVTS: the rules of R182 in order, then R38, R72, R139, R183 and R40. An ESC other than 0 is refused under an OSM with SFMT
0b00 also where its BLOCK code is 32 and its DIR 0: R72 does not name SFMT (log 89). -/
def chkCvt (w : Word64) (pre : Option Word64) (n : Nat) (plain : Bool) : Chk := do
  let thin := bitOf w 33
  let t := fld w 27 4
  let osm := fld w 19 8
  let esc := fld w 16 2
  let last := if thin then fld w 34 2 else lastSlot (fld w 34 2) (cvtWidth w) 0 (fld w 47 9 + 1)
  refuseIf (if thin then decide (7 < fld w 47 9) else decide (cvtWidth w < fld w 36 11 + 1)) fIllegalInstr
  refuseIf (decide (3 < last)) fAccCapacity
  if plain then
    refuseIf (decide (0xC ≤ t)) fIllegalInstr
    refuseIf (!isTarget t || (t = 11 && !bitOf w 5)) fFormatPair
    refuseIf (smFmt osm ≠ 0 && !blockTarget t) fFormatPair
    refuseIf (badMode osm) fIllegalInstr
    refuseIf (esc = 3 || (esc ≠ 0 && !(t = 6 && smFmt osm ≠ 0 && smBlock osm = 32 && !smDir osm))) fIllegalInstr
  refuseIf (decide (n ≤ last)) fAccCapacity
  if bitOf w 5 then
    match pre with
    | none => .error fIllegalInstr
    | some p =>
      refuseIf (badMode (fld p 48 8) || badMode (fld p 40 8)) fIllegalInstr
      refuseIf (redScale (fld p 48 8) || redScale (fld p 40 8)) fFormatPair

/-- Moves and slot accesses (R139, R165, R179). -/
def chkMove (w : Word64) (n : Nat) : Chk := do
  if bitOf w 53 then refuseIf (decide (2048 < fld w 39 11 + 1)) fIllegalInstr
  else refuseIf (decide (127 < fld w 46 7 + fld w 39 7)) fIllegalInstr
  refuseIf (decide (n ≤ fld w 54 2)) fAccCapacity

/-- A code image as the loader sees it: the word at each instruction index, none outside the bound or in the live-range
table. -/
structure Image where
  words : List Word64
  lrt0  : Nat
  lrtN  : Nat
deriving DecidableEq, Repr

/-- The instruction word of index `i`. -/
def imageWord (g : Image) (i : Nat) : Option Word64 :=
  if g.lrt0 ≤ i && i < g.lrt0 + g.lrtN then none else g.words[i]?

/-- Whether the instruction of index `i` has the opcode `op`. -/
def isOp (g : Image) (i op : Nat) : Bool :=
  match imageWord g i with
  | some w => opcode w = op
  | none => false

/-- An instruction that must follow a prefix: SCULL, and CVT or CVTS with SRC = 1 (R172, R183). -/
def needsPrefix (w : Word64) : Bool := opcode w = 0x30 || ((opcode w = 0x50 || opcode w = 0x51) && bitOf w 5)

/-- The prefix word directly before index `i`, if it is of opcode `op`. -/
def prefixOf (g : Image) (i op : Nat) : Option Word64 :=
  if i = 0 then none else (imageWord g (i - 1)).filter (fun p => opcode p = op)

/-- A branch target (R161). -/
def chkBranch (g : Image) (i : Nat) (w : Word64) : Chk :=
  let t : Int := (i : Int) + sfld w 0 32
  if t < 0 then .error fIllegalInstr
  else
    match imageWord g t.toNat with
    | none => .error fIllegalInstr
    | some v => refuseIf (needsPrefix v) fIllegalInstr

/-- The checks of the instruction of index `i`, `n` slots in the footprint, `cnt` live-range entries. -/
def chkInstr (g : Image) (n cnt i : Nat) (w : Word64) (last : Option (BitVec 64)) : Chk := do
  chkWord w
  let op := opcode w
  if op = 0x01 || op = 0x02 || op = 0x03 then chkBranch g i w
  else if op = 0x14 || op = 0x15 then chkMove w n
  else if op = 0x16 then refuseIf (decide (2 ^ n ≤ fld w 52 4)) fAccCapacity
  else if op = 0x4E || op = 0x4F then refuseIf (decide (n ≤ fld w 51 2)) fAccCapacity
  else if op = 0x20 then chkMatmul w n last
  else if op = 0x30 then chkScull w (prefixOf g i 0x31) n
  else if op = 0x31 then refuseIf (!isOp g (i + 1) 0x30) fIllegalInstr
  else if op = 0x32 then chkScorr w n
  else if op = 0x50 then chkCvt w (prefixOf g i 0x56) n true
  else if op = 0x51 then chkCvt w (prefixOf g i 0x56) n false
  else if op = 0x56 then
    refuseIf (!(match imageWord g (i + 1) with | some v => needsPrefix v && opcode v ≠ 0x30 | none => false)) fIllegalInstr
  else if op = 0xF0 then refuseIf (decide (cnt ≤ fld w 46 10)) fIllegalInstr
  else .ok ()

/-- The word offset that a breach of index `i` names: its prefix's, if it has one (R584). -/
def breachPc (g : Image) (i : Nat) (w : Word64) : Nat :=
  if (opcode w = 0x30 && (prefixOf g i 0x31).isSome) || (needsPrefix w && opcode w ≠ 0x30 && (prefixOf g i 0x56).isSome)
  then 2 * i - 2 else 2 * i

/-- The first breach among the instruction words from index `i`, `k` of them left (R584). -/
def chkWords (g : Image) (n cnt : Nat) (last : Option (BitVec 64)) (i k : Nat) : Option (Nat × Nat) :=
  match k with
  | 0 => none
  | j + 1 =>
    match imageWord g i with
    | none => chkWords g n cnt last (i + 1) j
    | some w =>
      match chkInstr g n cnt i w last with
      | .error c => some (c, breachPc g i w)
      | .ok _ => chkWords g n cnt (if opcode w = 0x20 then some (shapeOf w) else last) (i + 1) j

/-! ## The live-range table (R196) -/

/-- Whether range word `r` of an entry breaks a rule. -/
def badRange (t : TaskDesc) (nr r : Nat) (q : Word64) : Bool :=
  if nr ≤ r then q ≠ 0
  else
    decide (fld q 20 4 ≠ 0) || decide (fld q 42 22 ≠ 0) || decide (fld q 24 18 = 0) ||
      decide (descBound t (fld q 18 2) < fld q 0 18 + fld q 24 18)

/-- The word offset of the first breach of the entry whose eight words begin at index `i0`. -/
def badEntry (t : TaskDesc) (ws : List Word64) (i0 : Nat) : Option Nat :=
  let nr := fld (ws.getD i0 0) 60 4
  if 7 < nr then some (2 * i0)
  else ((List.range 7).find? (fun r => badRange t nr r (ws.getD (i0 + 1 + r) 0))).map (fun r => 2 * (i0 + 1 + r))

/-! ## The whole check (R584) -/

/-- The first breach of a code image, with the PC that the record names: descriptor, live-range table, words. -/
def checkImage (t : TaskDesc) (ws : List Word64) : Option (Nat × Nat) :=
  let cnt := descLrtCount t
  let off := descLrtOff t
  if descEntry t % 2 = 1 || descBound t 0 ≤ descEntry t then some (fIllegalInstr, 0)
  else if off % 2 = 1 || (cnt ≠ 0 && decide (descBound t 0 < off + 16 * cnt)) then some (fIllegalInstr, 0)
  else
    match (List.range cnt).findSome? (fun e => badEntry t ws (off / 2 + 8 * e)) with
    | some pc => some (fIllegalInstr, pc)
    | none => chkWords { words := ws, lrt0 := off / 2, lrtN := 8 * cnt } (descSlots t) cnt none 0 ws.length

end Sys2Proof.Machine
end

