-- ==== Sys2Proof/Machine/Save.lean ====
section
/-! DEFINITION. What a PRE_INSTR save of a running task keeps and what a resume brings back: the live-range table, masks,
deck ranges and slots, the sequencer record, and the transfers (R195 to R199, R427, R449). -/

namespace Sys2Proof.Machine

open Sys2Proof

/-- Where the entry of the live-range table in force stands in the tile's window (R196). -/
def lrtOff (k : Task) : Nat := 4 * (tget k.base 0 0 + descLrtOff k.work.desc + 16 * k.lrt)

/-- The entry of the live-range table in force: its 64 bytes in the CODE region (R196). -/
def lrtEntry (x : Tile) (k : Task) : List Byte := memGets x.mem (lrtOff k) 64

/-- The deck ranges of an entry: region, word offset in the region, words (R196). -/
def lrtRanges (e : List Byte) : List (Nat × Nat × Nat) :=
  (List.range (leAt e 7 1 / 16)).map (fun i =>
    let q : Word64 := BitVec.ofNat 64 (leAt e (8 + 8 * i) 8)
    (fld q 18 2, fld q 0 18, fld q 24 18))

/-- The regions of a task whole. -/
def wholeRegions (k : Task) : List (Nat × Nat × Nat) := (List.range 4).map (fun r => (r, 0, tget k.bound r 0))

/-- The deck ranges that a save stores: the ranges in force, or all four regions when the image has no live-range table;
the CODE region too unless CODE_LOAD is set (R197). -/
def saveRanges (x : Tile) (k : Task) : List (Nat × Nat × Nat) :=
  if descLrtCount k.work.desc = 0 then wholeRegions k
  else lrtRanges (lrtEntry x k) ++ (if bitOf k.work.desc.q0 35 then [] else [(0, 0, tget k.bound 0 0)])

/-- The logical slots that a save stores (R196, R197). -/
def saveSlots (x : Tile) (k : Task) : List Nat :=
  if descLrtCount k.work.desc = 0 then List.range k.slotMap.length
  else (List.range k.slotMap.length).filter (fun j => (leAt (lrtEntry x k) 7 1).testBit j)

/-- Bytes of one block of a save area: 17 frames hold the largest save of a tile (R440). -/
def saveBlock : Nat := 17 * 0x10000

/-- Where the registers lie in a block: after 1 MiB for deck and accumulator items; the sequencer record follows them (R440; log 92). -/
def saveRegsAt : Nat := 0x100000

/-- The deck ranges of a save with the byte of the block where each lies: one after the other (log 92). -/
def placedRanges (rs : List (Nat × Nat × Nat)) (at_ : Nat) : List ((Nat × Nat × Nat) × Nat) :=
  match rs with
  | [] => []
  | r :: q => (r, at_) :: placedRanges q (at_ + 4 * r.2.2)

/-- Where the slots of a save lie in its block: after its deck ranges. -/
def slotsAt (rs : List (Nat × Nat × Nat)) : Nat := 4 * (rs.map (fun r => r.2.2)).sum

/-- The cells of `[from, from + n)` moved to `to`. -/
def moveCells (m : Memory) (src n dst : Nat) : List Host.Cell := (memSlice m src n).map (fun c => (c.1 - src + dst, c.2))

/-- Write the bytes `[a, a + n)` of pier: zero but for the cells given; words wholly covered are good again (R321). -/
def pierImage (d : Dev) (a n : Nat) (cells : List Host.Cell) : Dev :=
  { d with pier := { d.pier with
      mem := memCells (memZero d.pier.mem a n) cells
      poison := d.pier.poison.filter (fun w => !(a ≤ 16 * w && 16 * w + 16 ≤ a + n)) } }

/-- The first byte of the save area of a context's slot: SAVE_FRAME of PMG_CSLOT (R440, R465). -/
def saveArea (d : Dev) (cr : Nat) : Nat := fld (reg d (0x0200800 + 8 * ctxNo d cr)) 0 20 * 0x10000

/-- Bytes of the save area of a context's slot. -/
def saveAreaLen (d : Dev) (cr : Nat) : Nat := fld (reg d (0x0200800 + 8 * ctxNo d cr)) 20 13 * 0x10000

/-- The memory items of a save, for a block at byte `a` of pier. -/
def saveItems (x : Tile) (k : Task) (a : Nat) : List Host.Cell :=
  let rs := saveRanges x k
  ((placedRanges rs 0).flatMap (fun p => moveCells x.mem (4 * (tget k.base p.1.1 0 + p.1.2.1)) (4 * p.1.2.2) (a + p.2)))
    ++ ((saveSlots x k).zipIdx.flatMap (fun p => moveCells x.mem (elemOff k p.1 0) 0x10000 (a + slotsAt rs + 0x10000 * p.2)))

/-- The 2,432 bytes of a task's registers: R0 to R31, S0 to S15, V0 to V7 (R440). -/
def regBytes (k : Task) : List Byte :=
  (List.range 48).flatMap (fun i => toLe 8 (tget k.r i 0).toNat) ++ (List.range 512).flatMap (fun i => toLe 4 (tget k.v i 0).toNat)

/-- A task with the registers that such bytes hold. -/
def withRegBytes (k : Task) (bs : List Byte) : Task :=
  { k with
    r := (List.range 48).map (fun i => (i, BitVec.ofNat 64 (leAt bs (8 * i) 8)))
    v := (List.range 512).map (fun i => (i, BitVec.ofNat 32 (leAt bs (384 + 4 * i) 4))) }

/-- The first word with an uncorrectable error that a save reads: of the entry in force, or among its items (R142). -/
def saveBad (x : Tile) (k : Task) : Option Nat :=
  match if descLrtCount k.work.desc = 0 then none else tileBad x (lrtOff k) 64 with
  | some w => some w
  | none =>
    match (saveRanges x k).findSome? (fun p => tileBad x (4 * (tget k.base p.1 0 + p.2.1)) (4 * p.2.2)) with
    | some w => some w
    | none => (saveSlots x k).findSome? (fun j => tileBad x (elemOff k j 0) 0x10000)

/-- The registers that a save stores: those outside the masks read +0 at resume (R197). -/
def saveRegs (x : Tile) (k : Task) : Task :=
  if descLrtCount k.work.desc = 0 then k
  else
    let e := lrtEntry x k
    { k with
      r := k.r.filter (fun p => if p.1 < 32 then (leAt e 0 4).testBit p.1 else (leAt e 4 2).testBit (p.1 - 32))
      v := k.v.filter (fun p => (leAt e 6 1).testBit (p.1 / 64)) }

/-- The SAT bits of the saved slots, by logical slot. -/
def saveSat (x : Tile) (k : Task) : BitVec 4 :=
  (saveSlots x k).foldl (fun s j => setFld s j 1 (b2n (getSat x k j))) 0

/-- Whether a physical deck word lies in a region of a task. -/
def inRegions (k : Task) (w : Nat) : Bool :=
  (List.range 4).any (fun r => decide (tget k.base r 0 ≤ w) && decide (w < tget k.base r 0 + tget k.bound r 0))

/-- A task as its save stores it in the block at byte `place` of the save area, with the tile's transfers (R197, R427). Staged bytes of the queue are staged again after
the resume; the activation buffer kept for REUSE and the histogram go with the task, so that the resume changes no result (R81,
R95, R113; log 85). -/
def saveTask (d : Dev) (t : Nat) (x : Tile) (k : Task) (place : Nat) : SavedTask :=
  let k1 := saveRegs x k
  { tile := BitVec.ofNat 8 t
    task := { k1 with r := [], v := [], queue := k1.queue.map (fun q => { q with ranges := [], data := none }), slotMap := k.slotMap }
    sat := saveSat x k
    place := place
    slots := saveSlots x k
    whole := descLrtCount k.work.desc = 0
    ranges := saveRanges x k
    xfers := (d.xfers.filter (fun p => p.2.tile.toNat = t)).map (fun p => { p.2 with
      counted := [], outCount := [], ahead := [] })
    heldBuf := k.held.map (fun b => tget x.actBuf b FeedBuf.init)
    hist := x.hist
    histSat := x.histSat
    savedAt := d.now }

/-- The end of a task on its tile when it is saved: its transfers leave, its scoreboard entries are removed, and its histogram
counts leave with it (log 85). -/
def unplaceTask (d : Dev) (t : Nat) : Dev :=
  let gone := (d.xfers.filter (fun p => p.2.tile.toNat = t)).map (fun p => p.1)
  let d1 := gone.foldl dropXfer d
  syncEngine (setTile d1 t { getTile d1 t with
    run := none, sb := [], stopped := false, preReq := false, windowOver := false, hist := [], histSat := false }) t

/-! ## Resume -/

/-- `n` words of undefined value: free values from number `f` on (R197; log 6). -/
def freeBytes (f n : Nat) : List Byte := (List.range n).flatMap (fun i => toLe 4 (Config.freeWord (f + i)).toNat)

/-- The words of the four regions. -/
def regionWords (k : Task) : Nat := ((List.range 4).map (fun r => tget k.bound r 0)).sum

/-- Write free values over the four regions, in order. -/
def freeRegions (x : Tile) (k : Task) (f : Nat) : Tile :=
  ((List.range 4).foldl (fun (acc : Tile × Nat) r =>
    (tilePut acc.1 (4 * tget k.base r 0) (freeBytes acc.2 (tget k.bound r 0)), acc.2 + tget k.bound r 0)) (x, f)).1

/-- Bring back a byte range of a save from pier. -/
def putSaved (x : Tile) (pm : Memory) (src n dst : Nat) : Tile :=
  let x1 := zeroRange x dst n
  { x1 with mem := memCells x1.mem (moveCells pm src n dst) }

/-- The tile's memory at a resume, from the block at byte `a` of pier: slots outside SLOTS read +0, deck words outside the ranges hold
undefined values, and the saved items are restored (R197). -/
def restoreMem (x : Tile) (k : Task) (sv : SavedTask) (pm : Memory) (a f : Nat) : Tile :=
  let x1 := if sv.whole then x else freeRegions x k f
  let x2 := (placedRanges sv.ranges 0).foldl (fun x p =>
    putSaved x pm (a + p.2) (4 * p.1.2.2) (4 * (tget k.base p.1.1 0 + p.1.2.1))) x1
  let x3 := (List.range k.slotMap.length).foldl (fun x j => setSat (zeroRange x (elemOff k j 0) 0x10000) k j false) x2
  sv.slots.zipIdx.foldl (fun x p =>
    setSat (putSaved x pm (a + slotsAt sv.ranges + 0x10000 * p.2) 0x10000 (elemOff k p.1 0)) k p.1 (bitOf sv.sat p.1)) x3

/-- The byte ranges of pier that the resume of a task reads. -/
def savedReads (sv : SavedTask) (a : Nat) : List (Nat × Nat) :=
  [(a, slotsAt sv.ranges + 0x10000 * sv.slots.length), (a + saveRegsAt, 2688)]

/-- The deck ranges that a transfer's WRITE entries cover: word and words (R129). -/
def xferRanges (k : Task) (xf : Xfer) : List (Nat × Nat) :=
  if xf.unscb then []
  else
    match xf.kind with
    | .dmaIn => [(deckByte k xf 0 0 / 4, (fld xf.word 26 13 + 1) * fld xf.word 12 14)]
    | .gather =>
      let cnt := fld xf.word 32 10 + 1
      ((moveTens (geoOf xf.a3) (bitOf xf.word 18) (bitOf xf.word 17)).zipIdx).map (fun p =>
        (deckByte k xf p.2 0 / 4, tDeckBytes p.1 cnt / 4))
    | .sub => [(deckByte k xf 0 0 / 4, xf.pages)]
    | .fetch => [(deckByte k xf 0 0 / 4, xf.pages)]
    | .lateSub => [(deckByte k xf 0 0 / 4, xf.pages)]
    | _ => []

/-- Put one saved transfer in flight again on tile `t`: its WRITE entries are registered, and a subscription is resolved
again by the state of its buffer (R214, R427; log 18). -/
def resumeXfer (t : Nat) (acc : Eff Dev) (xf0 : Xfer) : Eff Dev := do
  let d ← acc
  let x := getTile d t
  match x.run with
  | none => .ok d
  | some k =>
    let xf := { xf0 with tile := BitVec.ofNat 8 t, ctx := k.work.ctx }
    let x1 := (xferRanges k xf).foldl (fun x r => sbAdd x r.1 r.2 true (.xfer xf.id)) x
    if xf.kind = .sub then
      let p := bufTable (getCtx d xf.cr.toNat).part.toNat k.work.step
      let a := deckByte k xf 0 0 / 4
      let c := countRange x1 (4 * a) (4 * xf.pages)
      let b := getBuf d p xf.buf.toNat
      let xf1 := { xf with counted := c.2 }
      let r ← resolveSub b xf1 t a
      let d1 := setTile (setBuf d p xf.buf.toNat r.1) t c.1
      .ok (syncEngine { d1 with xfers := tset d1.xfers xf.id r.2 } t)
    else
      let c := if xf.kind = .fetch then countRange x1 (deckByte k xf 0 0) (4 * xf.pages) else (x1, [])
      let d1 := setTile d t c.1
      .ok (syncEngine { d1 with xfers := tset d1.xfers xf.id { xf with counted := c.2 } } t)

/-- The task's own tile state at a resume: the activation buffer kept for REUSE and the histogram (R81, R95; log 85). -/
def restoreFeed (x : Tile) (sv : SavedTask) : Tile :=
  let x1 := { x with hist := sv.hist, histSat := sv.histSat }
  match sv.heldBuf with
  | some b => { x1 with actBuf := tset x1.actBuf 0 b }
  | none => x1

end Sys2Proof.Machine
end

