-- ==== Sys2Proof/Machine/Dispatcher.lean ====
section
/-! DEFINITION. The Catch dispatcher: intake, fit, deques, pops and steals, task start, completion records, the hold list
and withdrawal (R212, R219, R230 to R248, R586). -/

namespace Sys2Proof.Machine

open Sys2Proof

/-! ## Fit (R233, R234) -/

/-- Words of a tile's deck (R114). -/
def deckWords : Nat := 196608

/-- The stroke tiles: row 0, columns 0 to 3 of each reach (R10). -/
def isStroke (t : Nat) : Bool := t % 64 < 4

/-- Whether `n` words from word `a` lie in ON bank groups and in no range of `taken` (R233). -/
def roomAt (x : Tile) (a n : Nat) (taken : List (Nat × Nat)) : Bool :=
  n = 0 ||
    (decide (a + n ≤ deckWords) && (tileUnits (4 * a) (4 * n)).all (fun u => (gateOf x u).st = .on) &&
      !taken.any (fun r => decide (r.1 < a + n) && decide (a < r.1 + r.2) && decide (0 < r.2)))

/-- The kept items of a tile that a task of record `cr` may inherit (R234). -/
def keptFor (x : Tile) (cr : RecNo) : List (Nat × Nat) × List (Nat × Nat × Nat) :=
  match x.kept with
  | some k => if k.cr = cr then (k.slots, k.regions) else ([], [])
  | none => ([], [])

/-- The lowest-numbered physical slot that is ON and not in use. -/
def freeSlot (x : Tile) (used : List Nat) : Option Nat :=
  (List.range 4).find? (fun p => !used.contains p && (gateOf x (6 + p)).st = .on)

/-- The physical slots of a task's logical slots: inherited ones keep theirs, the others take the lowest free (R233). -/
def fitSlots (x : Tile) (inh : List (Nat × Nat)) (n : Nat) : Option (List Nat) :=
  let own := (List.range n).map (fun j => tfind inh j)
  let used := own.filterMap id
  if used.any (fun p => (gateOf x (6 + p)).st ≠ .on) then none
  else
    (own.foldl (fun (acc : Option (List Nat × List Nat)) o =>
      match acc, o with
      | none, _ => none
      | some (l, u), some p => some (l ++ [p], u)
      | some (l, u), none => (freeSlot x u).map (fun p => (l ++ [p], p :: u))) (some ([], used))).map (fun r => r.1)

/-- Whether region `r` of a task is inherited: floated with the bound of the kept region (R234). -/
def inherits (t : TaskDesc) (inh : List (Nat × Nat × Nat)) (r : Nat) : Option (Nat × Nat) :=
  (inh.find? (fun p => p.1 = r && descFloat t r && p.2.2 = descBound t r)).map (fun p => p.2)

/-- The lowest word address, a multiple of 128, at which a floating region fits (R233). -/
def lowestRoom (x : Tile) (n : Nat) (taken : List (Nat × Nat)) : Option Nat :=
  (findFrom (fun i => roomAt x (128 * i) n taken) 0 1536).map (fun i => 128 * i)

/-- The bases of the four regions, or none when one does not fit (R233). A pinned range of a deck-direct model counts as a
fixed region (R378); nothing is placed on the ranges `due`, which wait for their release (R217). -/
def fitRegions (x : Tile) (t : TaskDesc) (kept : List (Nat × Nat × Nat)) (pins due : List (Nat × Nat)) : Option (Tbl Nat) :=
  let inh := (List.range 4).filterMap (fun r => (inherits t kept r).map (fun p => (r, p)))
  let inhR := inh.map (fun p => p.2)
  let fixed := (List.range 4).filter (fun r => !descFloat t r)
  if inhR.any (fun p => !roomAt x p.1 p.2 []) || fixed.any (fun r => !roomAt x (descBase t r) (descBound t r) (inhR ++ due)) ||
      pins.any (fun p => !roomAt x p.1 p.2 inhR) then none
  else
    let start : Tbl Nat × List (Nat × Nat) :=
      (inh.map (fun p => (p.1, p.2.1)) ++ fixed.map (fun r => (r, descBase t r)),
       inhR ++ pins ++ due ++ fixed.map (fun r => (descBase t r, descBound t r)))
    ((List.range 4).foldl (fun (acc : Option (Tbl Nat × List (Nat × Nat))) r =>
      match acc with
      | none => none
      | some (bs, taken) =>
        if (tfind bs r).isSome then some (bs, taken)
        else (lowestRoom x (descBound t r) taken).map (fun a => ((r, a) :: bs, (a, descBound t r) :: taken))) (some start)).map
      (fun r => r.1)

/-- The deck ranges of a tile that are pinned for deck-direct models to which a task does not belong, from the start of each
model's pull until its eviction (R378). A task belongs to its step's main model and that model's draft. -/
def pinsOn (d : Dev) (w : Work) (t : Nat) : List (Nat × Nat) :=
  let main := stepModel d w.cr.toNat w.step
  let draft := (main.bind (getModel d)).bind (fun m => m.draft)
  (d.cox.models.filter (fun m => m.2.part = (getCtx d w.cr.toNat).part && (m.2.resident || m.2.pull.isSome) &&
      main ≠ some m.1 && draft ≠ some m.1)).flatMap (fun m =>
    (m.2.deck.filter (fun e => e.tile.toNat = t)).map (fun e => (e.word.toNat, e.len / 4)))

/-- The deck ranges of a tile that are no task's any more and whose release waits (R217). -/
def dueRanges (d : Dev) (t : Nat) : List (Nat × Nat) :=
  d.bufs.flatMap (fun q => (q.2.holders.filter (fun h => h.tile.toNat = t && h.rel)).map (fun h => (h.word, q.2.words)))

/-- The allocation of a task on a tile: its slots and its region bases, when it fits clear of the ranges `due` (R233). -/
def fitAt (d : Dev) (w : Work) (t : Nat) (due : List (Nat × Nat)) : Option (List Nat × Tbl Nat) :=
  let x := getTile d t
  let k := keptFor x w.cr
  if descExact w.desc && !isStroke t then none
  else
    match fitSlots x k.1 (descSlots w.desc), fitRegions x w.desc k.2 (pinsOn d w t) due with
    | some s, some r => some (s, r)
    | _, _ => none

/-- The allocation of a task on a tile now: no torn-down context's range is still to be zeroed there (R146, R249), and it lies clear
of the ranges that wait for their release (R217). -/
def fitOn (d : Dev) (w : Work) (t : Nat) : Option (List Nat × Tbl Nat) :=
  if (getTile d t).zeroing ≠ [] then none else fitAt d w t (dueRanges d t)

/-- The same test without the zeroing of a torn-down context and the releases to come, which only delay a placement. -/
def fitsTile (d : Dev) (w : Work) (t : Nat) : Bool := (fitAt d w t []).isSome

/-! ## Intake (R231, R586) -/

/-- The partition of a task. -/
def workPart (d : Dev) (w : Work) : Nat := (getCtx d w.cr.toNat).part.toNat

/-- A deque, head first (R230). -/
def getDeque (d : Dev) (t : Nat) : List Work := tget d.cat.deques t []
/-- Replace a deque. -/
def setDeque (d : Dev) (t : Nat) (q : List Work) : Dev := { d with cat := { d.cat with deques := tset d.cat.deques t q } }

/-- Reserved bits of a descriptor and the base fields of floating regions (R200, R201). -/
def badDesc (t : TaskDesc) : Bool :=
  decide (fld t.q0 48 16 ≠ 0) || decide (fld t.q1 54 10 ≠ 0) || decide (fld t.q3 36 28 ≠ 0) || decide (fld t.q4 36 28 ≠ 0) ||
  decide (fld t.q5 48 16 ≠ 0) || decide (fld t.q6 48 16 ≠ 0) ||
  (List.range 4).any (fun r => descFloat t r && decide (descBase t r ≠ 0))

/-- The slots that a grid's shape needs (R206, R219), from the first quadword of its record. -/
def gridSlots (g : Word64) : Nat := cdiv (fld g 0 9 + 1) 128 * (max (passWidth (fld g 32 4)) (fld g 9 11 + 1) / 128)

/-- Whether a tile has the ON slots and ON deck of R219 for a task. -/
def roomyTile (x : Tile) (t : TaskDesc) : Bool :=
  let on := fun u => decide ((gateOf x u).st = .on)
  decide (descSlots t ≤ ((List.range 4).filter (fun p => on (6 + p))).length) &&
  decide (((List.range 4).map (descBound t)).sum ≤ 32768 * ((List.range 6).filter on).length) &&
  (List.range 4).all (fun r => descFloat t r || roomAt x (descBase t r) (descBound t r) [])

/-- The footprint check of R219. -/
def footprintOk (d : Dev) (w : Work) : Bool :=
  (w.gridWord = 0 || decide (gridSlots w.gridWord ≤ descSlots w.desc)) &&
  (partTiles d (workPart d w)).any (fun t => roomyTile (getTile d t) w.desc)

/-- The key under which the loader's result is kept: the context, CODE_VA and ACC_SLOTS (R157). -/
def checkKey (w : Work) : RecNo × Word64 × BitVec 2 :=
  (w.cr, BitVec.ofNat 64 (descCodeVa w.desc), BitVec.ofNat 2 (descSlots w.desc - 1))

/-- A refused task: the fault code, the virtual address and the PC that its record names. -/
structure Refused where
  code : Nat
  va   : Nat
  pc   : Nat
deriving DecidableEq, Repr

/-- The words of a task's code image, read through the context's translations (R157). -/
def readImage (d : Dev) (w : Work) : Except Bad (List Byte) :=
  readVa d w.cr.toNat (stepModel d w.cr.toNat w.step) (descCodeVa w.desc) (4 * descBound w.desc 0)

/-- The loader's check of a task's image, in the order of R584 with the footprint check last. -/
def loaderCheck (d : Dev) (w : Work) : Option Refused :=
  match readImage d w with
  | .error b => some ⟨b.code, b.va, 0⟩
  | .ok bs =>
    let ws : List Word64 := (List.range (descBound w.desc 0 / 2)).map (fun i => BitVec.ofNat 64 (leAt bs (8 * i) 8))
    match checkImage w.desc ws with
    | some r => some ⟨r.1, 0, r.2⟩
    | none => if footprintOk d w then none else some ⟨fAccCapacity, 0, 0⟩

/-- The checks of intake in the order of R586. -/
def intakeCheck (d : Dev) (w : Work) : Option Refused :=
  if descComplVa w.desc % 32 ≠ 0 then some ⟨fXlateInvalid, descComplVa w.desc, 0⟩
  else if badDesc w.desc then some ⟨fIllegalInstr, 0, 0⟩
  else if (List.range 4).any (fun r => !descFloat w.desc r && decide (deckWords < descBase w.desc r + descBound w.desc r)) then
    some ⟨fDeckBound, 0, 0⟩
  else
    match if d.cat.checked.contains (checkKey w) then none else loaderCheck d w with
    | some r => some r
    | none => if (partTiles d (workPart d w)).any (fitsTile d w) then none else some ⟨fAccCapacity, 0, 0⟩

/-- The fault of a task that the dispatcher refuses. -/
def catchFault (d : Dev) (w : Work) (r : Refused) : Dev :=
  ctxFault d w.cr.toNat r.code { unit := 4, va := r.va, task := taskIndex w, step := w.step, pc := r.pc }

/-- The fitting tile with the fewest deque entries, ties to the lower tile (R231, PLACE clear). -/
def fewestTile (d : Dev) (w : Work) : Option Nat :=
  ((partTiles d (workPart d w)).filter (fitsTile d w)).foldl (fun (acc : Option Nat) t =>
    match acc with
    | none => some t
    | some u => if (getDeque d t).length < (getDeque d u).length then some t else some u) none

/-- The target of a task: by index with PLACE set, over the stroke tiles for an EXACT task, otherwise the fitting tile with
the fewest entries (R212, R231). -/
def targetTile (d : Dev) (w : Work) : Option Nat :=
  if w.place then
    let ts := (partTiles d (workPart d w)).filter (fun t => !descExact w.desc || isStroke t)
    ts[(taskIndex w - w.taskBase) % ts.length]?
  else fewestTile d w

/-- Push a task at the head of a tile's deque. -/
def pushHead (d : Dev) (t : Nat) (w : Work) : Dev := setDeque d t (w :: getDeque d t)

/-- Place a checked task: at its target's head, in `none` when the target's deque is full (R231), and as a fault when no
tile fits (R232). -/
def placeTask (d : Dev) (w : Work) : Option Dev :=
  match targetTile d w with
  | none => some (catchFault d w ⟨fAccCapacity, 0, 0⟩)
  | some t => if 64 ≤ (getDeque d t).length then none else some (pushHead d t w)

/-! ## Holding (R242, R266, R585) -/

/-- The tasks of a step that are with the dispatcher, on a tile or saved, and have no record yet. -/
def openWork (d : Dev) (cr : RecNo) (step : Nat) : List Work :=
  let onTile := fun (x : Tile) =>
    (match x.inbox with | some i => [i.1] | none => []) ++ (match x.run with | some k => [k.work] | none => []) ++
      (match x.ended with | some e => [e.work] | none => [])
  let owed := d.cat.owed
  let away := match (getCtx d cr.toNat).saved with
    | some v => (v.deques.flatMap (fun p => p.2)) ++ v.hold ++ v.tasks.map (fun t => t.task.work)
    | none => []
  ((d.cat.deques.flatMap (fun p => p.2)) ++ d.cat.hold ++ d.cat.stalled.map (fun p => p.2) ++ owed ++ away ++ d.tiles.flatMap (fun p => onTile p.2)).filter
    (fun w => w.cr = cr && w.step = step)

/-- Whether a task of a step has its completion record written (R240). -/
def isRecorded (d : Dev) (cr : RecNo) (step i : Nat) : Bool := d.cat.done.any (fun r => r.cr = cr && r.step = step && r.index = i)

/-- Whether a task of a step is still to come: delivered and without a record, or not yet delivered. A withdrawn task that was never
delivered is not (R287). -/
def isComing (d : Dev) (cr : RecNo) (step i : Nat) : Bool :=
  (openWork d cr step).any (fun v => taskIndex v = i) ||
    (match stepOf d cr.toNat step with | some st => st.todo.any (fun v => taskIndex v = i) | none => false)

/-- Whether everything that a held task waits for has its record: K-part and split predecessors (R242, R266), or every task
of the step that is not a sampling task (R585). -/
def waitOver (d : Dev) (w : Work) : Bool :=
  match w.waits with
  | .nothing => true
  | .tasks l => l.all (fun i => isRecorded d w.cr w.step i || !isComing d w.cr w.step i)
  | .allOthers =>
    !(openWork d w.cr w.step).any (fun v => !v.sampling) &&
      !(match stepOf d w.cr.toNat w.step with | some st => st.todo.any (fun v => !v.sampling) | none => false)

/-- Release the held tasks whose wait is over, in order, while their targets have room. -/
def releaseHeld (d : Dev) : Dev :=
  d.cat.hold.foldl (fun d w =>
    if !d.cat.hold.contains w || !waitOver d w then d
    else
      match placeTask d w with
      | none => d
      | some d1 => { d1 with cat := { d1.cat with hold := d1.cat.hold.erase w } }) d

/-- Take in a checked task: on the hold list while it waits, else at its target; `none` when intake stalls (R231, R242). -/
def admitTask (d : Dev) (w : Work) : Option Dev :=
  if waitOver d w then placeTask d w
  else if 8192 ≤ d.cat.hold.length then none
  else some { d with cat := { d.cat with hold := d.cat.hold ++ [w] } }

/-- The step of a context that delivers tasks now: the running one first. -/
def deliveringStep (d : Dev) (cr : Nat) : Option Step :=
  ([(getSteps d cr).cur, (getSteps d cr).nxt].filterMap id).find? (fun st => st.phase = .delivering && st.todo ≠ [])

/-- A partition's RUNNING context, unless a pre-emption request stops its tasks (R238, R449). -/
def servedCtx (d : Dev) (p : Nat) : Option Nat :=
  if d.cat.stopServe.contains p || !alive d then none else (getPart d p).running.map (fun r => r.toNat)

/-- Keep the loader's result for a task's image; the read of an image that was not checked before is traffic of its context (R157,
R456). -/
def noteChecked (d : Dev) (w : Work) : Dev :=
  if d.cat.checked.contains (checkKey w) then d
  else
    let d1 := chargeRead d w.cr.toNat (descCodeVa w.desc) (4 * descBound w.desc 0)
    { d1 with cat := { d1.cat with checked := checkKey w :: d1.cat.checked } }

/-- TASK_INTAKE: the next task that Cox delivers for the partition is checked and placed, held, or stalls intake; its CONTEXT
field becomes the context number (R231, R442, R586). -/
def intakeD (p : Nat) (d : Dev) : Dev :=
  match servedCtx d p, tfind d.cat.stalled p with
  | some cr, none =>
    match deliveringStep d cr with
    | none => d
    | some st =>
      match st.todo with
      | [] => d
      | w0 :: rest =>
        let w : Work := { w0 with ctx := BitVec.ofNat 7 (ctxNo d cr), desc := { w0.desc with q0 := setFld w0.desc.q0 24 7 (ctxNo d cr) } }
        let d1 := putStep d cr { st with todo := rest }
        match intakeCheck d1 w with
        | some r => if r.code = 0 then d else catchFault d1 w r
        | none =>
          let d2 := noteChecked d1 w
          match admitTask d2 w with
          | some d3 => d3
          | none => { d2 with cat := { d2.cat with stalled := tset d2.cat.stalled p w } }
  | _, _ => d

/-- TASK_INTAKE (R586). -/
def execTaskIntake (p : PartId) (s : State) : Answer := onDev s (intakeD p.toNat)

/-- INTAKE_RESUME: held tasks whose target was full, and the stalled task, are placed once there is room (R231, R242). -/
def intakeResumeD (p : Nat) (d0 : Dev) : Dev :=
  match servedCtx d0 p with
  | none => d0
  | some _ =>
    let d := releaseHeld d0
    match tfind d.cat.stalled p with
    | none => d
    | some w =>
      match admitTask d w with
      | none => d
      | some d1 => { d1 with cat := { d1.cat with stalled := tdel d1.cat.stalled p } }

/-- INTAKE_RESUME (R231). -/
def execIntakeResume (p : PartId) (s : State) : Answer := onDev s (intakeResumeD p.toNat)

/-! ## Pops and steals (R235 to R238) -/

/-- Whether a tile is idle: no task in delivery, running, or without its record. -/
def idleTile (x : Tile) : Bool := x.inbox.isNone && x.run.isNone && x.ended.isNone

/-- The deque's last entry removed. -/
def popTail (q : List Work) : List Work := q.dropLast

/-- TASK_POP: the idle tile takes the tail of its deque when it fits; it waits for ranges that are to be zeroed or released there
(R146, R217); otherwise the entry is placed again under the PLACE-clear rule, or faults its context when it fits no tile
(R235). -/
def popD (t : Nat) (d : Dev) : Dev :=
  match partOfTile d t with
  | none => d
  | some p =>
    let x := getTile d t
    match servedCtx d p, (getDeque d t).getLast? with
    | some _, some w =>
      if !idleTile x || x.zeroing ≠ [] then d
      else
        match fitOn d w t with
        | some a => setDeque (setTile d t { x with inbox := some (w, a.1, a.2) }) t (popTail (getDeque d t))
        | none =>
          if fitsTile d w t then d
          else
          let d1 := setDeque d t (popTail (getDeque d t))
          match fewestTile d1 w with
          | none => catchFault d1 w ⟨fAccCapacity, 0, 0⟩
          | some u => if 64 ≤ (getDeque d1 u).length then d else pushHead d1 u w
    | _, _ => d

/-- TASK_POP (R235). -/
def execTaskPop (t : TileId) (s : State) : Answer := onDev s (popD t.toNat)

/-- The probe order of a thief: its own reach in ring order, then the next reaches, each from the tile of its own bits
[5:0] (R236). -/
def probeOrder (t : Nat) : List Nat :=
  let r := t / 64
  ((List.range 63).map (fun i => 64 * r + (t + 1 + i) % 64)) ++
    (List.range 3).flatMap (fun j => (List.range 64).map (fun i => 64 * ((r + 1 + j) % 4) + (t + i) % 64))

/-- TASK_STEAL: an idle tile with an empty deque takes the first head task in its probe order that fits it (R236). -/
def stealD (t : Nat) (d : Dev) : Dev :=
  match partOfTile d t with
  | none => d
  | some p =>
    let x := getTile d t
    if (servedCtx d p).isNone || !idleTile x || !(getDeque d t).isEmpty then d
    else
      let victim := ((probeOrder t).filter (fun v => tileIn d p v && !mappedOut d v)).findSome? (fun v =>
        match getDeque d v with
        | [] => none
        | w :: r => (fitOn d w t).map (fun a => (v, w, r, a)))
      match victim with
      | none => d
      | some (v, w, r, a) =>
        setDeque (setTile d t { x with inbox := some ({ w with stolen := true }, a.1, a.2) }) v r

/-- TASK_STEAL (R236). -/
def execTaskSteal (t : TileId) (s : State) : Answer := onDev s (stealD t.toNat)

/-! ## Start (R112, R197, R201, R234, R237) -/

/-- The registers and tables of a task that starts (R112, R201). -/
def freshTask (w : Work) (slots : List Nat) (bases : Tbl Nat) (now : Word64) : Task :=
  { work := w, r := [(32, w.desc.q7), (33, BitVec.ofNat 64 (taskIndex w))], v := [], pc := BitVec.ofNat 32 (descEntry w.desc)
    flags := 0, mm := { aStride := 0, asStride := 0, wStride := 0, wsStride := 0 }, oc := { eStride := 0, sStride := 0, xStride := 0 }
    dmaTag := [], trTag := [], base := bases, bound := (List.range 4).map (fun r => (r, descBound w.desc r)), slotMap := slots
    lrt := 0, queue := [], held := none, passes := [], shape := none, convs := [], nextId := 0, ending := false, start := now
    away := 0, resumes := 0 }

/-- The saved task of a resumed context that an entry names (R247). -/
def savedOf (d : Dev) (w : Work) : Option SavedTask :=
  (tget d.cat.resume w.cr.toNat []).find? (fun s => s.task.work.step = w.step && taskIndex s.task.work = taskIndex w)

/-- The tile takes the task: OWNER changes, and kept items that are not inherited are released (R134, R234). A request that
is already past its hold window stops it at once (R238). -/
def installTask (d : Dev) (t : Nat) (k : Task) : Dev :=
  let x := getTile d t
  let inh := (List.range 4).filterMap (inherits k.work.desc (keptFor x k.work.cr).2)
  markRelease (setTile d t
    { x with inbox := none, kept := none, owner := k.work.ctx, ownerValid := true, run := some k
             stopped := x.preReq && x.windowOver }) t inh

/-- The CODE_LOAD copy (R200, R237): CODE_BOUND words from CODE_VA into the CODE region. -/
def codeLoad (d : Dev) (t : Nat) (k : Task) : Except Bad Dev :=
  if bitOf k.work.desc.q0 35 then (readImage d k.work).map (fun bs =>
      chargeRead (setTile d t (tilePut (getTile d t) (4 * tget k.base 0 0) bs)) k.work.cr.toNat (descCodeVa k.work.desc) bs.length)
  else .ok d

/-- The first uncorrectable word of pier that a task's resume reads (R320). -/
def resumePoison (d : Dev) (sv : SavedTask) (cr : Nat) : Option Nat :=
  (savedReads sv (saveArea d cr + sv.place)).findSome? (fun r => pierPoison d r.1 r.2)

/-- A resumed task on its tile: its live items, its transfers and its queue (R197, R247). -/
def resumeTask (d : Dev) (t : Nat) (sv : SavedTask) (w : Work) (slots : List Nat) (bases : Tbl Nat) : Eff Dev :=
  let area := saveArea d w.cr.toNat + sv.place
  let k := { withRegBytes sv.task (pierGet d (area + saveRegsAt) 2432) with
                          work := { sv.task.work with ctx := w.ctx, stolen := sv.task.work.stolen || w.stolen }, slotMap := slots, base := bases
                          held := sv.heldBuf.map (fun _ => 0)
                          away := sv.task.away + (d.now - sv.savedAt).toNat, resumes := sv.task.resumes + 1 }
  let d1 := installTask d t k
  let d2 := setTile d1 t (restoreFeed (restoreMem (getTile d1 t) k sv d.pier.mem area d.fresh) sv)
  let d3 := { d2 with
    fresh := if sv.whole then d.fresh else d.fresh + regionWords k
    cat := { d2.cat with resume := tset d2.cat.resume w.cr.toNat ((tget d2.cat.resume w.cr.toNat []).erase sv) } }
  sv.xfers.foldl (resumeXfer t) (.ok d3)

/-- Whether a multicast or a remote read is still sourced from a range that a task in delivery is to be placed on and does not
inherit (R217, R234). -/
def startHeld (d : Dev) (t : Nat) (w : Work) (bases : Tbl Nat) : Bool :=
  let inh := (List.range 4).filterMap (inherits w.desc (keptFor (getTile d t) w.cr).2)
  d.bufs.any (fun q => q.2.holders.any (fun h => h.tile.toNat = t && sourcing d q.2 h &&
    !inh.any (fun r => decide (r.1 ≤ h.word) && decide (h.word < r.1 + r.2)) &&
    (List.range 4).any (fun r => decide (tget bases r 0 < h.word + q.2.words) && decide (h.word < tget bases r 0 + descBound w.desc r))))

/-- TASK_START: the task in delivery reaches its tile (R237), once nothing is sourced from the ranges that it takes over (R217). -/
def startD (t : Nat) (d : Dev) : Dev :=
  let x := getTile d t
  match x.inbox with
  | none => d
  | some (w, slots, bases) =>
    if startHeld d t w bases then d
    else
    match savedOf d w with
    | none =>
      let k := freshTask w slots bases d.now
      (match codeLoad (installTask d t k) t k with
       | .ok d1 => d1
       | .error b => accessFault d w.cr.toNat b { unit := 4, tile := t, task := taskIndex w, step := w.step })
    | some sv =>
      match resumePoison d sv w.cr.toNat with
      | some q => accessFault d w.cr.toNat ⟨fEccPier, 0, q / 4096⟩ { unit := 4, tile := t, task := taskIndex w, step := w.step }
      | none =>
      match resumeTask d t sv w slots bases with
      | .error .wait => d
      | .error (.fault c i) => ctxFault d w.cr.toNat c { unit := 0, tile := t, task := taskIndex w, step := w.step, detail := i }
      | .ok d1 =>
        match (getTile d1 t).run with
        | none => d
        | some k =>
          match codeLoad d1 t k with
          | .ok d2 => d2
          | .error b => accessFault d w.cr.toNat b { unit := 4, tile := t, task := taskIndex w, step := w.step }

/-- TASK_START (R237). -/
def execTaskStart (t : TileId) (s : State) : Answer := onDev s (startD t.toNat)

/-! ## Completion (R239 to R243) -/

/-- The bytes of a completion record (R239). -/
def complBytes (index vctx : Nat) (stolen : Bool) (tile flags chain status start finish cycles resumes : Nat) : List Byte :=
  toLe 8 (index + vctx * 2 ^ 24 + b2n stolen * 2 ^ 31 + tile * 2 ^ 32 + flags * 2 ^ 40 + chain * 2 ^ 48 + status * 2 ^ 56)
    ++ toLe 8 start ++ toLe 8 finish ++ toLe 8 (cycles % 2 ^ 32 + resumes * 2 ^ 32)

/-- What the chain predecessor of a task left: its CHAIN_FLAGS, with bit [3] set for a SAT slot (R243). -/
def chainFlags (d : Dev) (w : Work) : BitVec 8 :=
  match w.chain with
  | none => 0
  | some i =>
    match d.cat.done.find? (fun r => r.cr = w.cr && r.step = w.step && r.index = i) with
    | some r => r.flags
    | none => 0

/-- Whether every task of a step is recorded: it delivers, it has no task left, and none is open (R240). -/
def stepOver (d : Dev) (cr : RecNo) (st : Step) : Bool := st.phase = .delivering && st.todo.isEmpty && (openWork d cr st.num).isEmpty

/-- The end of a step for the dispatcher: its buffer entries are cleared, and Cox takes END_TS and writes the result batch
(R213, R217, R240, R294). -/
def endStep (d : Dev) (cr : RecNo) (num : Nat) : Dev :=
  match stepOf d cr.toNat num with
  | none => d
  | some st =>
    if !stepOver d cr st then d
    else
      let lo := bufTable (getCtx d cr.toNat).part.toNat num * 65536
      finishStep { d with bufs := d.bufs.filter (fun p => !(decide (lo ≤ p.1) && decide (p.1 < lo + 65536))) } cr.toNat st

/-- A record is written: the task counts complete, held tasks are released and the step may end (R240, R242). -/
def noteDone (d : Dev) (r : DoneRec) : Dev :=
  endStep (releaseHeld { d with cat := { d.cat with done := d.cat.done ++ [r] } }) r.cr r.step

/-- COMPLETION_RECORD_WRITTEN: the record of the ended task is written through the context's translations; CYCLES is a free
value (R239, R240, R243; log 6). -/
def complD (t : Nat) (d : Dev) : Dev :=
  let x := getTile d t
  match x.ended with
  | none => d
  | some e =>
    let w := e.work
    let cf := e.flags ||| chainFlags d w
    let bs := complBytes (taskIndex w) (getCtx d w.cr.toNat).vctx.toNat w.stolen t e.flags.toNat cf.toNat 0 e.start.toNat
      e.finish.toNat (Config.freeCycles d.fresh).toNat e.resumes.toNat
    match writeVa d w.cr.toNat (stepModel d w.cr.toNat w.step) (descComplVa w.desc) bs with
    | .error b => accessFault d w.cr.toNat b { unit := 4, tile := t, task := taskIndex w, step := w.step }
    | .ok d1 =>
      let d2 := setTile { d1 with fresh := d1.fresh + 1 } t { getTile d1 t with ended := none }
      noteDone d2
        { cr := w.cr, step := w.step, index := taskIndex w, flags := if e.satSet then cf ||| flAccSat else cf
          withdrawn := false, ticks := e.finish.toNat - e.start.toNat - e.away }

/-- COMPLETION_RECORD_WRITTEN (R240). -/
def execCompletionRecordWritten (t : TileId) (s : State) : Answer := onDev s (complD t.toNat)

/-- The ticks of a task's watchdog: from its first instruction, without the time saved out (R245). -/
def watchdogTicks (d : Dev) (k : Task) : Nat := d.now.toNat - k.start.toNat - k.away

/-- TASK_WATCHDOG_EXPIRY: a running task that is not at the end of END after 1,000,000 ticks faults its context (R245). -/
def watchdogD (t : Nat) (d : Dev) : Dev :=
  match (getTile d t).run with
  | none => d
  | some k => if watchdogTicks d k < 1000000 then d else tileFault d t k k.pc fTaskTimeout 0

/-- TASK_WATCHDOG_EXPIRY (R245). -/
def execTaskWatchdogExpiry (t : TileId) (s : State) : Answer := onDev s (watchdogD t.toNat)

/-! ## Withdrawal (R248, R287) -/

/-- Write the WITHDRAWN record of a task that was delivered and has not started; a record that a WAKING unit keeps from being written
is owed (R151, R239, R248). -/
def withdrawOne (d : Dev) (w : Work) : Dev :=
  let bs := complBytes (taskIndex w) (getCtx d w.cr.toNat).vctx.toNat false 0 0 0 1 0 0 0 0
  match writeVa d w.cr.toNat (stepModel d w.cr.toNat w.step) (descComplVa w.desc) bs with
  | .error b =>
    if b.code = 0 then { d with cat := { d.cat with owed := d.cat.owed ++ [w] } }
    else accessFault d w.cr.toNat b { unit := 4, task := taskIndex w, step := w.step }
  | .ok d1 => noteDone d1 { cr := w.cr, step := w.step, index := taskIndex w, flags := 0, withdrawn := true, ticks := 0 }

/-- Write the WITHDRAWN records that are owed, as far as they can be written (R151, R248). -/
def payOwed (d : Dev) : Dev := d.cat.owed.foldl (fun d w => if ctxDead d w.cr.toNat then d else withdrawOne d w)
  { d with cat := { d.cat with owed := [] } }

/-- What withdrawing the tasks `mine` leaves of a context's saved state (R246, R248). -/
def strikeSaved (mine : Work → Bool) (mark : Work → Work) (v : Saved) : Saved :=
  { v with
    deques := tmap v.deques (fun _ q => q.filter (fun w => !mine w))
    hold := v.hold.filter (fun w => !mine w)
    tasks := v.tasks.map (fun t => { t with task := { t.task with work := mark t.task.work } }) }

/-- Withdraw the tasks of a context that `c` picks: undelivered ones are never delivered, waiting ones, saved or not, are removed
with a WITHDRAWN record, started ones run on with their output discarded, and a step that this leaves with nothing to run ends
(R240, R248, R287). -/
def withdrawTasks (d : Dev) (cr : RecNo) (c : Work → Bool) : Dev :=
  let picked := fun (w : Work) => w.cr = cr && c w
  let mine := fun (w : Work) => picked w && (savedOf d w).isNone
  let strip := fun (o : Option Step) => o.map (fun st => { st with todo := st.todo.filter (fun w => !picked w) })
  let sc := getSteps d cr.toNat
  let d1 := setSteps d cr.toNat { sc with cur := strip sc.cur, nxt := strip sc.nxt }
  let ctx := getCtx d1 cr.toNat
  let away := match ctx.saved with
    | some v => (v.deques.flatMap (fun p => p.2)) ++ v.hold
    | none => []
  let waiting := ((d1.cat.deques.flatMap (fun p => p.2)) ++ d1.cat.hold ++ d1.cat.stalled.map (fun p => p.2) ++ away).filter mine
  let mark := fun (w : Work) => if picked w then { w with withdrawn := true } else w
  let d2 := setCtx { d1 with
    cat := { d1.cat with
      deques := tmap d1.cat.deques (fun _ q => (q.filter (fun w => !mine w)).map mark)
      hold := d1.cat.hold.filter (fun w => !mine w)
      stalled := d1.cat.stalled.filter (fun p => !mine p.2)
      resume := tmap d1.cat.resume (fun _ l => l.map (fun t => { t with task := { t.task with work := mark t.task.work } })) }
    tiles := tmap d1.tiles (fun _ x =>
      { x with
        inbox := x.inbox.map (fun i => (mark i.1, i.2))
        run := x.run.map (fun k => { k with work := mark k.work }) }) } cr.toNat { ctx with saved := ctx.saved.map (strikeSaved mine mark) }
  let d3 := waiting.foldl (fun d w => if ctxDead d cr.toNat then d else withdrawOne d w) d2
  [sc.cur, sc.nxt].foldl (fun d o => match o with | some st => endStep d cr st.num | none => d) d3

/-! ## A unit that wakes (R148, R151) -/

/-- UNIT_WAKE_DONE: every word of a waking unit is written zero, and it is ON, or DRAINING if an image has gated it again
(R148); the WITHDRAWN records that waited for it are written (R151). -/
def unitWake (t u : Nat) (d : Dev) : Dev :=
  let x := getTile d t
  let g := gateOf x u
  if u < 10 && g.st = .waking then
    let x1 := zeroRange x (unitRange u).1 (unitRange u).2
    payOwed (setTile d t { x1 with gates := tset x1.gates u { g with st := if g.gated then .draining else .on } })
  else d

/-- UNIT_WAKE_DONE (R148). -/
def execUnitWakeDone (t : TileId) (u : BitVec 4) (s : State) : Answer := onDev s (unitWake t.toNat u.toNat)

end Sys2Proof.Machine
end

