-- ==== Sys2Proof/Machine/Pool.lean ====
section
/-! DEFINITION. The Cox pool of a partition, the scratch area of a context and the page lists of a slot (R253, R256, R263,
R290, R293, R321, R324, R325). -/

namespace Sys2Proof.Machine

open Sys2Proof

/-! ## Frames (R321, R324, R325) -/

/-- The frames that a partition has allocated one at a time: KV pages and Keystone segments. -/
def usedFrames (d : Dev) (p : Nat) : List Nat := tget d.pier.used p []

/-- Whether a frame lies in a run that holds a model's weights. -/
def inModelRun (d : Dev) (p f : Nat) : Bool :=
  d.cox.models.any (fun m => m.2.part.toNat = p && m.2.frames.any (fun b => decide (b ≤ f) && decide (f < b + 512)))

/-- Whether a frame of a partition's pool is free: neither allocated nor withdrawn (R321). -/
def frameFree (d : Dev) (p f : Nat) : Bool :=
  decide (poolBase d p ≤ f) && decide (f ≤ frameLimit d p) && !(usedFrames d p).contains f && !d.pier.withdrawn.contains f &&
    !inModelRun d p f

/-- Frames of a partition's pool. -/
def poolSize (d : Dev) (p : Nat) : Nat := frameLimit d p + 1 - poolBase d p

/-- Free frames of a partition's pool. -/
def freeCount (d : Dev) (p : Nat) : Nat :=
  let runs := ((d.cox.models.filter (fun m => m.2.part.toNat = p)).map (fun m => 512 * m.2.frames.length)).sum
  let gone := d.pier.withdrawn.filter (fun f =>
    decide (poolBase d p ≤ f) && decide (f ≤ frameLimit d p) && !(usedFrames d p).contains f && !inModelRun d p f)
  poolSize d p - (usedFrames d p).length - runs - gone.length

/-- Put frames on a partition's list of allocated frames. -/
def markUsed (d : Dev) (p : Nat) (fs : List Nat) : Dev :=
  { d with pier := { d.pier with used := tset d.pier.used p (fs ++ usedFrames d p) } }

/-- The `n` lowest free frames of a partition from frame `lo` up, `k` frames left to look at. -/
def pickFrames (d : Dev) (p n lo k : Nat) : List Nat :=
  match k with
  | 0 => []
  | j + 1 =>
    if n = 0 then []
    else if frameFree d p lo then lo :: pickFrames d p (n - 1) (lo + 1) j
    else pickFrames d p n (lo + 1) j

/-- Allocate `n` frames of a partition's pool, the lowest free ones. -/
def takeFrames (d : Dev) (p n : Nat) : Option (List Nat × Dev) :=
  let fs := pickFrames d p n (poolBase d p) (poolSize d p)
  if fs.length = n then some (fs, markUsed d p fs) else none

/-- Frames were released: slots deferred for frames may be admitted again (R292, R443). -/
def framesReleased (d : Dev) (p : Nat) : Dev :=
  { d with cox := { d.cox with slots := tmap d.cox.slots (fun _ s => if s.part.toNat = p then { s with starved := false } else s) } }

/-- Whether some flow of a transfer is still to be made or has not ended. -/
def xferOpen (t : Transfer) : Bool := !t.live.isEmpty || !t.toMake.isEmpty

/-- The handle of an unended KV_PUSH that carries a frame (R279). -/
def carrier (d : Dev) (f : Nat) : Option Nat :=
  (d.cwy.xfers.find? (fun p => p.2.type = .kvPush && xferOpen p.2 && p.2.pieces.any (fun q => q.1 / 65536 = f))).map
    (fun p => p.2.handle.toNat)

/-- Whether a KV_PUSH of a handle has a flow that has not ended (R279). -/
def pushOpen (d : Dev) (handle : Nat) : Bool :=
  d.cwy.xfers.any (fun p => p.2.type = .kvPush && p.2.handle.toNat = handle && xferOpen p.2)

/-- Return frames to a partition's pool. -/
def returnFrames (d : Dev) (p : Nat) (fs : List Nat) : Dev :=
  if fs = [] then d
  else
    framesReleased { d with pier := { d.pier with
      used := tset d.pier.used p ((usedFrames d p).filter (fun f => !fs.contains f))
      zeroed := d.pier.zeroed.filter (fun f => !fs.contains f) } } p

/-- Keep a released frame of a partition allocated until the last flow of the pushes of a handle has ended (R279). -/
def holdFrame (p : Nat) (d : Dev) (q : Nat × Nat) : Dev :=
  { d with pier := { d.pier with limbo := tset d.pier.limbo q.1 (p, q.2 :: (tget d.pier.limbo q.1 (p, [])).2) } }

/-- Release frames: those that a KV_PUSH still carries stay allocated until the last flow of its sequence ends (R279). A withdrawn
frame never becomes free (R321). -/
def freeFrames (d : Dev) (p : Nat) (fs : List Nat) : Dev :=
  let hold := fs.filterMap (fun f => (carrier d f).map (fun h => (h, f)))
  returnFrames (hold.foldl (holdFrame p) d) p (fs.filter (fun f => (carrier d f).isNone))

/-- Release the frames that pushes held, of the sequences whose last flow has ended (R279). -/
def releaseLimbo (d : Dev) : Dev :=
  (d.pier.limbo.filter (fun q => !pushOpen d q.1)).foldl (fun d q =>
    freeFrames { d with pier := { d.pier with limbo := tdel d.pier.limbo q.1 } } q.2.1 q.2.2) d

/-- Write a frame to zero (R256). -/
def zeroFrame (d : Dev) (f : Nat) : Dev :=
  { d with pier := { d.pier with
      mem := memZero d.pier.mem (f * 65536) 65536
      poison := d.pier.poison.filter (fun w => w / 4096 ≠ f) } }

/-- Bring frames to zero for a context before their entries are made VALID, unless the copy engine has done so already (R256, R326). -/
def cleanFrames (d : Dev) (cr : Nat) (fs : List Nat) : Dev :=
  fs.foldl (fun d f =>
    if d.pier.zeroed.contains f then { d with pier := { d.pier with zeroed := d.pier.zeroed.erase f } }
    else chargeCtx (zeroFrame d f) cr 0 65536) d

/-- Frames taken for another use than pages: what the copy engine zeroed ahead does not stay zero (R256). -/
def unzero (d : Dev) (c : Nat → Bool) : Dev := { d with pier := { d.pier with zeroed := d.pier.zeroed.filter (fun f => !c f) } }

/-- FRAME_ZERO: the copy engine zeroes a free frame of a pool ahead of its next use (R256), as traffic of its partition (R326). -/
def frameZeroD (f : Nat) (d : Dev) : Dev :=
  match (List.range 16).find? (fun p => partEnabled d p && frameFree d p f) with
  | none => d
  | some p =>
    let d1 := charge (zeroFrame d f) p 0 65536 false
    { d1 with pier := { d1.pier with zeroed := if d1.pier.zeroed.contains f then d1.pier.zeroed else f :: d1.pier.zeroed } }

/-- FRAME_ZERO (R256). -/
def execFrameZero (f : BitVec 20) (s : State) : Answer := onDev s (frameZeroD f.toNat)

/-- The lowest `n` free runs of 512 frames, each 512-aligned, from run `r` up (R325). -/
def pickRuns (d : Dev) (p n r k : Nat) : List Nat :=
  match k with
  | 0 => []
  | j + 1 =>
    if n = 0 then []
    else if (List.range 512).all (fun i => frameFree d p (512 * r + i)) then 512 * r :: pickRuns d p (n - 1) (r + 1) j
    else pickRuns d p n (r + 1) j

/-- `n` free runs of a partition's pool. -/
def findRuns (d : Dev) (p n : Nat) : Option (List Nat) :=
  let rs := pickRuns d p n (poolBase d p / 512) (poolSize d p / 512)
  if rs.length = n then some rs else none

/-! ## Scratch (R256, R293) -/

/-- The runs of a context's scratch area in use: page lists, partial records and masks. -/
def scratchRuns (d : Dev) (cr : Nat) : List (Nat × Nat) :=
  let c := getSteps d cr
  (d.cox.slots.filter (fun p => p.2.st ≠ .free && p.2.cr.toNat = cr)).flatMap (fun p =>
      [(p.2.list.va.toNat, p.2.list.bytes), (p.2.draft.va.toNat, p.2.draft.bytes)])
    ++ ([c.cur, c.nxt].filterMap id).flatMap (fun st => st.scratch)

/-- The lowest address of a scratch area, aligned, at which `n` bytes overlap no run. -/
def firstFit (pol : Policy) (runs : List (Nat × Nat)) (align n : Nat) : Option Nat :=
  let base := pol.scratchVa.toNat
  let cand := (base :: runs.map (fun r => r.1 + r.2)).map (fun a => alignUp a align)
  (cand.filter (fun a => decide (base ≤ a) && decide (a + n ≤ base + pol.scratchSize) &&
    !runs.any (fun r => decide (r.1 < a + n) && decide (a < r.1 + r.2) && decide (0 < r.2)))).foldl (fun (acc : Option Nat) a =>
      match acc with
      | none => some a
      | some b => some (min a b)) none

/-! ## Page lists (R253, R256) -/

/-- The geometry word of a sequence: HEAD zero, GEN the handle's generation (R255). -/
def geomWord (m : Model) (gen : Nat) : Word64 :=
  BitVec.ofNat 64 (m.runLog2 + m.dimCode.toNat * 2 ^ 4 + (m.heads - 1) * 2 ^ 6 + m.kvFmt.toNat * 2 ^ 12 + m.ksm.toNat * 2 ^ 16
    + m.vsm.toNat * 2 ^ 24 + (m.layers - 1) * 2 ^ 38 + gen * 2 ^ 48)

/-- The page geometry of a model. -/
def modelGeo (m : Model) : Geo := geoOf (geomWord m 0)

/-- Bytes of a page of a model (R253). -/
def modelPage (m : Model) : Nat := pageBytes (modelGeo m)

/-- RUN of a model. -/
def modelRun (m : Model) : Nat := 2 ^ m.runLog2

/-- Pages that hold `n` positions. -/
def pagesFor (m : Model) (n : Nat) : Nat := cdiv n (modelRun m)

/-- A page-list entry (R256). -/
def listEntry (frame layer gen : Nat) (valid shared parked dirty : Bool) : Word64 :=
  BitVec.ofNat 64 (frame + layer * 2 ^ 20 + gen * 2 ^ 28 + b2n valid * 2 ^ 44 + b2n shared * 2 ^ 45 + b2n parked * 2 ^ 46
    + b2n dirty * 2 ^ 47)

/-- The address of entry `i` of a page list. -/
def entryVa (l : PageList) (i : Nat) : Nat := l.va.toNat + 8 * i

/-- Read entry `i` of a page list. -/
def readEntry (d : Dev) (cr : Nat) (l : PageList) (i : Nat) : Except Bad Word64 :=
  (readVa d cr none (entryVa l i) 8).map (fun bs => BitVec.ofNat 64 (leNat bs))

/-- Write entry `i` of a page list. -/
def putEntry (d : Dev) (cr : Nat) (l : PageList) (i : Nat) (w : Word64) : Except Bad Dev :=
  writeVa d cr none (entryVa l i) (toLe 8 w.toNat)

/-- Change the entries `is` of a page list by `f`. -/
def mapEntries (d : Dev) (cr : Nat) (l : PageList) (f : Word64 → Word64) (is : List Nat) : Except Bad Dev :=
  is.foldlM (fun d i =>
    match readEntry d cr l i with
    | .error e => .error e
    | .ok w => putEntry (chargeRead d cr (entryVa l i) 8) cr l i (f w)) d

/-- The run that a list needs to hold `n` pages: unchanged when it is large enough, otherwise the first fit beside the
other runs `runs` (R256). -/
def growList (pol : Policy) (runs : List (Nat × Nat)) (m : Model) (l : PageList) (n : Nat) : Option (Nat × Nat) :=
  let need := 8 * m.layers * n
  if need ≤ l.bytes then some (l.va.toNat, l.bytes)
  else (firstFit pol (runs.filter (fun r => r ≠ (l.va.toNat, l.bytes) || l.bytes = 0)) 8 need).map (fun a => (a, need))

/-- Move a list to the run `(a, n)`: its entries are copied and the rest is zero (R256). -/
def moveList (d : Dev) (cr : Nat) (l : PageList) (a n : Nat) : Except Bad (Dev × PageList) :=
  if a = l.va.toNat && n = l.bytes then .ok (d, l)
  else
    match readVa d cr none l.va.toNat l.bytes with
    | .error e => .error e
    | .ok old =>
      match writeVa (chargeRead d cr l.va.toNat l.bytes) cr none a (sub old 0 n) with
      | .error e => .error e
      | .ok d1 => .ok (d1, { l with va := BitVec.ofNat 64 a, bytes := n })

/-- Add pages to a list, up to `n` pages, each entry VALID with a zeroed private frame of the partition (R256). The frames
`fs` are in entry order. -/
def addPages (d : Dev) (cr gen : Nat) (m : Model) (l : PageList) (n : Nat) (fs : List Nat) : Except Bad (Dev × PageList) :=
  let first := l.pages * m.layers
  let ents := (List.range ((n - l.pages) * m.layers)).map (fun i => (first + i, fs.getD i 0))
  match ents.foldlM (fun d p => putEntry d cr l p.1 (listEntry p.2 (p.1 % m.layers) gen true false false false)) (cleanFrames d cr fs) with
  | .error e => .error e
  | .ok d1 => .ok (d1, { l with pages := max l.pages n, frames := ents ++ l.frames })

/-- Cut a list back to `n` pages: entries of later pages are cleared, and their private frames are to be released. -/
def cutPageList (d : Dev) (cr : Nat) (m : Model) (l : PageList) (n : Nat) : Except Bad (Dev × PageList × List Nat) :=
  let lo := n * m.layers
  let out := (List.range ((l.pages - n) * m.layers)).map (fun i => lo + i)
  match out.foldlM (fun d i => putEntry d cr l i 0) d with
  | .error e => .error e
  | .ok d1 =>
    .ok (d1, { l with pages := min l.pages n, frames := l.frames.filter (fun p => p.1 < lo) },
      (l.frames.filter (fun p => lo ≤ p.1)).map (fun p => p.2))

end Sys2Proof.Machine
end

