-- ==== Sys2Proof/Machine/Keystone.lean ====
section
/-! DEFINITION. The Keystone index: nodes, children, references, the eviction lists and segments (R327 to R337), and CRC32C
(R327, R355). -/

namespace Sys2Proof.Machine

open Sys2Proof

/-! ## CRC32C (R355) -/

/-- One byte of the reflected Castagnoli CRC, `k` bits left. -/
def crcBits (c : BitVec 32) (k : Nat) : BitVec 32 :=
  match k with
  | 0 => c
  | j + 1 => crcBits (if c.getLsbD 0 then (c >>> 1) ^^^ 0x82F63B78 else c >>> 1) j

/-- CRC32C of a byte string: initial value and final XOR all ones. -/
def crc32c (bs : List Byte) : BitVec 32 :=
  (bs.foldl (fun c b => crcBits (c ^^^ b.zeroExtend 32) 8) 0xFFFFFFFF) ^^^ 0xFFFFFFFF

/-! ## Children (R327, R328) -/

/-- Entries of a node's child table. -/
def childCap (n : Node) : Nat := if n.kind = .block then 24 else 56

/-- The children in the table of one node: index and child. -/
def ownChildren (d : Dev) (table : Nat) : List (Nat × Child) :=
  let n := getNode d table
  (List.range (childCap n)).filterMap (fun i =>
    match tfind n.child i with
    | some c => if c.dir then none else some (i, c)
    | none => none)

/-- The DIRECTORY that a table's last entry names (R328). -/
def nextTable (d : Dev) (table : Nat) : Option Nat :=
  let n := getNode d table
  match tfind n.child (childCap n - 1) with
  | some c => if c.dir then some c.node else none
  | none => none

/-- The child entries of a node's table and of the DIRECTORY chain that its last entry names, in scanning order: the table
that holds each, its index and the child. `k` tables are left to look at. -/
def childrenOf (d : Dev) (node k : Nat) : List (Nat × Nat × Child) :=
  match k with
  | 0 => []
  | j + 1 =>
    let own := (ownChildren d node).map (fun c => (node, c.1, c.2))
    match nextTable d node with
    | some t => own ++ childrenOf d t j
    | none => own

/-- Tables in the longest chain that is scanned. -/
def chainFuel : Nat := 65536

/-- Where a new child goes: the lowest free entry of the chain, or the last entry of its last table, where a DIRECTORY is
needed. -/
inductive Place where
  | entry (table i : Nat)
  | directory (table i : Nat)
deriving DecidableEq, Repr

/-- The place of a new child of a node (R328). -/
def childPlace (d : Dev) (node k : Nat) : Place :=
  match k with
  | 0 => .directory node 0
  | j + 1 =>
    let n := getNode d node
    let last := childCap n - 1
    match (List.range last).find? (fun i => (tfind n.child i).isNone) with
    | some i => .entry node i
    | none =>
      match tfind n.child last with
      | some c => if c.dir then childPlace d c.node j else .directory node last
      | none => .directory node last

/-- Set child entry `i` of a table. -/
def setChild (d : Dev) (table i : Nat) (c : Child) : Dev :=
  let n := getNode d table
  setNode d table { n with child := tset n.child i c }

/-- Whether a node has a valid child. -/
def hasChild (d : Dev) (node : Nat) : Bool := !(childrenOf d node chainFuel).isEmpty

/-! ## The eviction list (R337) -/

/-- A partition's eviction list, head first. -/
def lruList (d : Dev) (p : Nat) : List Nat := tget d.key.lru p []
/-- Replace a partition's eviction list. -/
def setLru (d : Dev) (p : Nat) (l : List Nat) : Dev := { d with key := { d.key with lru := tset d.key.lru p l } }

/-- Take a node out of its partition's eviction list. -/
def lruRemove (d : Dev) (i : Nat) : Dev :=
  let n := getNode d i
  if n.inLru then setLru (setNode d i { n with inLru := false }) n.part.toNat ((lruList d n.part.toNat).filter (· ≠ i)) else d

/-- Enter a node in its partition's eviction list, at the head or at the tail. -/
def lruEnter (d : Dev) (i : Nat) (head : Bool) : Dev :=
  let n := getNode d i
  if n.inLru then d
  else
    let l := lruList d n.part.toNat
    setLru (setNode d i { n with inLru := true }) n.part.toNat (if head then i :: l else l ++ [i])

/-! ## Segments (R330) -/

/-- Bytes of a node's segment, in units of 512 B. -/
def segSize (entries : Nat) : Nat := cdiv (8 * entries) 512

/-- The segment units in use in a segment frame. -/
def segTaken (d : Dev) (p frame : Nat) : List (Nat × Nat) :=
  (d.key.nodes.filter (fun q => q.2.kind ≠ .free && q.2.part.toNat = p && q.2.segN ≠ 0 && q.2.segPa.toNat / 65536 = frame)).map
    (fun q => (q.2.segPa.toNat % 65536 / 512, segSize q.2.segN.toNat))

/-- The lowest unit of a frame with room for `n` units. -/
def segRoom (d : Dev) (p frame n : Nat) : Option Nat :=
  let taken := segTaken d p frame
  findFrom (fun a => decide (a + n ≤ 128) && !taken.any (fun r => decide (r.1 < a + n) && decide (a < r.1 + r.2))) 0 128

/-- The segment frames of a partition. -/
def segFramesOf (d : Dev) (p : Nat) : List Nat := tget d.key.segFrames p []

/-- Allocate a segment of `entries` entries: in a segment frame with room, or in a new frame of the pool. -/
def takeSegment (d : Dev) (p entries : Nat) : Option (Nat × Dev) :=
  let n := segSize entries
  match (segFramesOf d p).findSome? (fun f => (segRoom d p f n).map (fun u => 65536 * f + 512 * u)) with
  | some a => some (a, d)
  | none =>
    match takeFrames d p 1 with
    | some ([f], d1) =>
      some (65536 * f, unzero { d1 with key := { d1.key with segFrames := tset d1.key.segFrames p (f :: segFramesOf d1 p) } } (· = f))
    | _ => none

/-- Entry `i` of a node's segment. -/
def segEntry (d : Dev) (n : Node) (i : Nat) : Word64 := mem64 d.pier.mem (n.segPa.toNat + 8 * i)

/-- Release a node's segment and the pages that it names to the pool, and its frame with its last segment (R330, R337). -/
def dropSegment (d : Dev) (i : Nat) : Dev :=
  let n := getNode d i
  if n.segN = 0 then d
  else
    let p := n.part.toNat
    let pages := (List.range n.segN.toNat).map (fun j => fld (segEntry d n j) 0 20)
    let f := n.segPa.toNat / 65536
    let d1 := freeFrames (setNode d i { n with segN := 0, segPa := 0 }) p pages
    if (segTaken d1 p f).isEmpty then
      freeFrames { d1 with key := { d1.key with segFrames := tset d1.key.segFrames p ((segFramesOf d1 p).filter (· ≠ f)) } } p [f]
    else d1

/-! ## Unlinking, freeing, eviction (R328, R329, R337) -/

/-- Free a node: it is FREE and in no list, and no slot's chain goes on from it (R334). -/
def freeNode (d : Dev) (i : Nat) : Dev :=
  let d1 := lruRemove d i
  { d1 with
    key := { d1.key with nodes := tdel d1.key.nodes i, roots := d1.key.roots.filter (fun r => r.2 ≠ i) }
    cox := { d1.cox with slots := tmap d1.cox.slots (fun _ s => if s.chainNode = some i then { s with chainNode := none, chainLen := 0 } else s) } }

/-- Free the DIRECTORY tables of a chain that are left empty, from a table up, `k` left. -/
def freeEmptyDir (d : Dev) (table k : Nat) : Dev :=
  match k with
  | 0 => d
  | j + 1 =>
    let n := getNode d table
    if n.kind = .directory && n.child.isEmpty then
      let up := getNode d n.parent
      let d1 := freeNode (setNode d n.parent { up with child := up.child.filter (fun c => !(c.2.dir && c.2.node = table)) }) table
      freeEmptyDir d1 n.parent j
    else d

/-- Clear the child entry that names a node. -/
def unlink (d : Dev) (i : Nat) : Dev :=
  let p := (getNode d i).parent
  match (childrenOf d p chainFuel).find? (fun c => c.2.2.node = i) with
  | none => d
  | some (t, e, _) =>
    let n := getNode d t
    freeEmptyDir (setNode d t { n with child := tdel n.child e }) t chainFuel

/-- A BLOCK whose REFS is 0 and that has no child enters the eviction list (R337). -/
def settle (d : Dev) (i : Nat) (head : Bool) : Dev :=
  let n := getNode d i
  if n.kind = .block && n.refs = 0 && !n.poisoned && !hasChild d i then lruEnter d i (head || n.cold) else d

/-- Evict a node: it is unlinked, its segment and pages are released, and it is free; a parent left without children enters
at the head (R337). -/
def evictNode (d : Dev) (i : Nat) : Dev :=
  let p := (getNode d i).parent
  settle (freeNode (dropSegment (unlink (lruRemove d i) i) i) i) p true

/-- Evict the head of a partition's eviction list. -/
def evictHead (d : Dev) (p : Nat) : Option Dev :=
  match lruList d p with
  | [] => none
  | i :: _ => some (evictNode d i)

/-- Bytes of pier that the eviction of the head of a partition's list moves: its node, the node that named it, the one that follows it in
the list, and its segment (R326, R337). -/
def evictBytes (d : Dev) (p : Nat) : Nat :=
  match lruList d p with
  | [] => 0
  | i :: _ => 1536 + 8 * (getNode d i).segN.toNat

/-- Nodes of the index. -/
def nodeCount : Nat := 2097152

/-- Evict the head of a partition's list until `stop` holds or the list is empty, as the partition's traffic; `k` nodes at most. -/
def evictWhile (d : Dev) (p : Nat) (stop : Dev → Bool) (k : Nat) : Dev :=
  match k with
  | 0 => d
  | j + 1 =>
    if stop d then d
    else
      match evictHead d p with
      | none => d
      | some d1 => evictWhile (charge d1 p 0 (evictBytes d p) false) p stop j

/-- The DIRECTORY nodes of a node's chain. -/
def dirsOf (d : Dev) (node k : Nat) : List Nat :=
  match k with
  | 0 => []
  | j + 1 =>
    match nextTable d node with
    | some t => t :: dirsOf d t j
    | none => []

/-- The nodes under a node that can no longer be reached, freed when their REFS are 0; the others stay until they are
dereferenced (R328, R329). `work` is what is still to visit. -/
def reap (d : Dev) (work : List Nat) (k : Nat) : Dev :=
  match k, work with
  | 0, _ => d
  | _, [] => d
  | j + 1, i :: rest =>
    let kids := (childrenOf d i chainFuel).map (fun c => c.2.2.node)
    let dirs := dirsOf d i chainFuel
    let n := getNode d i
    let d0 := dirs.foldl freeNode (lruRemove d i)
    let d1 := if n.refs = 0 then freeNode (dropSegment d0 i) i else setNode d0 i { getNode d0 i with poisoned := true, child := [] }
    reap d1 (kids ++ rest) j

/-- Free a model's root and every node under it as soon as their REFS are 0 (R329). -/
def dropRoot (d : Dev) (m : Nat) : Dev :=
  match tfind d.key.roots m with
  | none => d
  | some r => reap { d with key := { d.key with roots := tdel d.key.roots m } } [r] nodeCount

/-- The pier address of a node (R327). -/
def nodeAt (i : Nat) : Nat := 0xFC0000000 + 512 * i

/-- Whether reading a node meets an uncorrectable word (R320). -/
def nodeBad (d : Dev) (i : Nat) : Bool := (pierPoison d (nodeAt i) 512).isSome

/-- Whether reading a node's segment meets an uncorrectable word (R320, R330). -/
def segBad (d : Dev) (i : Nat) : Bool := (pierPoison d (getNode d i).segPa.toNat (8 * (getNode d i).segN.toNat)).isSome

/-- The frame of an uncorrectable word that the walker met is withdrawn (R321). -/
def withdrawRange (d : Dev) (a n : Nat) : Dev :=
  match pierPoison d a n with
  | some w => withdrawFrame d w
  | none => d

/-- The BLOCK or ROOT whose chain a table belongs to, `k` tables up. -/
def tableOwner (d : Dev) (table k : Nat) : Nat :=
  match k with
  | 0 => table
  | j + 1 => if (getNode d table).kind = .directory then tableOwner d (getNode d table).parent j else table

/-- Clear the entry that names a node in the table above it; a ROOT has none (R327, R328). -/
def detach (d : Dev) (i : Nat) : Dev :=
  let n := getNode d i
  match n.kind with
  | .block => unlink d i
  | .directory =>
    let up := getNode d n.parent
    setNode d n.parent { up with child := up.child.filter (fun c => !(c.2.dir && c.2.node = i)) }
  | _ => d

/-- A node becomes POISONED: its frame is withdrawn, it is unlinked, its subtree is reaped, and a parent that this leaves without a
child enters the eviction list (R320, R321, R328, R337). -/
def poisonNode (d : Dev) (i : Nat) : Dev :=
  let n := getNode d i
  let up := tableOwner d n.parent chainFuel
  let d1 := withdrawRange (withdrawRange d (nodeAt i) 512) n.segPa.toNat (8 * n.segN.toNat)
  let d2 := reap (detach (setNode d1 i { getNode d1 i with poisoned := true }) i) [i] nodeCount
  if n.kind = .root then { d2 with key := { d2.key with roots := d2.key.roots.filter (fun r => r.2 ≠ i) } } else settle d2 up true

/-- Take one reference off a node; an unlinked node is freed at 0 (R328, R337). `cold` marks it COLD (R312). -/
def deref (d : Dev) (i : Nat) (cold : Bool) : Dev :=
  let n := getNode d i
  let n1 := { n with refs := n.refs - 1, cold := n.cold || cold }
  if n.kind ≠ .block then d
  else
    let d1 := setNode d i n1
    if n1.poisoned && n1.refs = 0 then freeNode (dropSegment d1 i) i else settle d1 i false

/-- Nodes of all kinds that a partition holds (R344). -/
def nodesHeld (d : Dev) (p : Nat) : Nat := (d.key.nodes.filter (fun q => q.2.kind ≠ .free && q.2.part.toNat = p)).length

/-- The lowest FREE node. -/
def freeIndex (d : Dev) : Option Nat := findFrom (fun i => (getNode d i).kind = .free) 0 nodeCount

/-- Write a node whole: its words are good again (R321). -/
def writeNode (d : Dev) (i : Nat) (n : Node) : Dev :=
  let d1 := setNode d i n
  { d1 with pier := { d1.pier with poison := d1.pier.poison.filter (fun w => !(nodeAt i ≤ 16 * w && 16 * w + 16 ≤ nodeAt i + 512)) } }

/-- Take a node for a partition in an insert, evicting first when the partition is at its QUOTA or no node is free; an eviction stands
even when no node can be taken (R335, R336, R458). -/
def takeNode (d : Dev) (p : Nat) (n : Node) : Dev × Option Nat :=
  let quota := fld (reg d (0x0600000 + 8 * p)) 0 22
  let d1 := if quota ≤ nodesHeld d p || (freeIndex d).isNone then
      (match evictHead d p with
       | some e => debit e p 0 (evictBytes d p)
       | none => d)
    else d
  if quota ≤ nodesHeld d1 p then (d1, none)
  else
    match freeIndex d1 with
    | none => (d1, none)
    | some i => (writeNode d1 i n, some i)

/-- The traffic of an operation that a context's slot or command caused: an insert's is granted ahead and still debited (R326,
R458). -/
def keyCharge (d : Dev) (cr n : Nat) (ins : Bool) : Dev := if ins then debit d (getCtx d cr).part.toNat 0 n else chargeCtx d cr 0 n

/-! ## Blocks -/

/-- The bytes of a block's token IDs (R327). -/
def tokenBytes (ts : List Word32) : List Byte := ts.flatMap (fun w => toLe 4 w.toNat)

/-- The child in one table that equals a block: the hash steers the scan, tokens and MODEL decide (R333). A node with an
uncorrectable word met on the way is poisoned and does not match (R320). -/
def scanTable (d : Dev) (cr : Nat) (ins : Bool) (m table : Nat) (ts : List Word32) : Dev × Option Nat :=
  let h := crc32c (tokenBytes ts)
  ((ownChildren d table).filter (fun c => c.2.hash = h)).foldl (fun (acc : Dev × Option Nat) c =>
    match acc.2 with
    | some _ => acc
    | none =>
      let i := c.2.node
      let d1 := keyCharge acc.1 cr 512 ins
      if nodeBad d1 i then (poisonNode d1 i, none)
      else
        let n := getNode d1 i
        (d1, if n.tokens = ts && n.model.toNat = m then some i else none)) (d, none)

/-- The child that equals a block in a table or in the DIRECTORY chain after it, `k` tables at most (R328, R333). -/
def scanChain (d : Dev) (cr : Nat) (ins : Bool) (m table : Nat) (ts : List Word32) (k : Nat) : Dev × Option Nat :=
  match k with
  | 0 => (d, none)
  | j + 1 =>
    match scanTable d cr ins m table ts with
    | (d1, some i) => (d1, some i)
    | (d1, none) =>
      match nextTable d1 table with
      | none => (d1, none)
      | some t =>
        let d2 := keyCharge d1 cr 512 ins
        if nodeBad d2 t then (poisonNode d2 t, none) else scanChain d2 cr ins m t ts j

/-- The child of a node that equals a block (R333). -/
def findChild (d : Dev) (cr : Nat) (ins : Bool) (m node : Nat) (ts : List Word32) : Dev × Option Nat :=
  scanChain d cr ins m node ts chainFuel

/-- The nodes that match a prompt's blocks, from a node down (R333). A lookup that copies segments poisons a matched node whose
segment it cannot read, and ends there (R320). -/
def walkDown (d : Dev) (cr : Nat) (copies : Bool) (m node : Nat) (blocks : List (List Word32)) : Dev × List Nat :=
  match blocks with
  | [] => (d, [])
  | b :: r =>
    match findChild d cr false m node b with
    | (d1, none) => (d1, [])
    | (d1, some i) =>
      if copies && segBad d1 i then (poisonNode d1 i, [])
      else
        let q := walkDown d1 cr copies m i r
        (q.1, i :: q.2)

/-- The walk from a model's root; a root that cannot be read is poisoned (R320, R329). -/
def walkRoot (d : Dev) (cr : Nat) (copies : Bool) (m : Nat) (blocks : List (List Word32)) : Dev × List Nat :=
  match tfind d.key.roots m with
  | none => (d, [])
  | some r =>
    let d1 := keyCharge d cr 512 false
    if nodeBad d1 r then (poisonNode d1 r, []) else walkDown d1 cr copies m r blocks

/-- B, the blocks that a lookup considers (R332). -/
def blocksOf (tokens : Nat) : Nat := min ((tokens - 1) / 64) 4096

/-- The list of blocks of a run of tokens. -/
def blockList (ts : List Word32) (n : Nat) : List (List Word32) := (List.range n).map (fun j => (ts.drop (64 * j)).take 64)

/-- Pages whose first position lies in block `b` (R330). -/
def blockPages (run b : Nat) : List Nat :=
  if run ≤ 64 then (List.range (64 / run)).map (fun i => b * (64 / run) + i)
  else if 64 * b % run = 0 then [64 * b / run] else []

/-! ## A node's 512 bytes (R327) -/

/-- The code of a KIND. -/
def kindCode (k : NodeKind) : Nat :=
  match k with
  | .free => 0
  | .block => 1
  | .directory => 2
  | .root => 3

/-- A child entry as it is stored. -/
def childWord (n : Node) (i : Nat) : Nat :=
  match tfind n.child i with
  | some c => c.hash.toNat + c.node * 2 ^ 32 + 2 ^ 53 + b2n c.dir * 2 ^ 54
  | none => 0

/-- The neighbours of a node in its partition's eviction list, LRU_PREV and LRU_NEXT; 0 where it has none (log 91). -/
def lruNeighbours (d : Dev) (i : Nat) : Nat × Nat :=
  let l := lruList d (getNode d i).part.toNat
  let k := l.idxOf i
  if (getNode d i).inLru then (if k = 0 then 0 else l.getD (k - 1) 0, l.getD (k + 1) 0) else (0, 0)

/-- The 512 bytes of a node as they lie at its address. -/
def nodeBytes (d : Dev) (i : Nat) : List Byte :=
  let n := getNode d i
  let block := n.kind = .block
  let kids := fun (lo k : Nat) => (List.range k).flatMap (fun j => toLe 8 (childWord n (lo + j)))
  (if block then sub (tokenBytes n.tokens) 0 256 else kids 0 32)
    ++ toLe 8 (n.model.toNat + n.part.toNat * 2 ^ 14 + kindCode n.kind * 2 ^ 18 + b2n n.cold * 2 ^ 20 + b2n n.poisoned * 2 ^ 21
        + n.depth.toNat * 2 ^ 22)
    ++ toLe 8 (n.parent + (lruNeighbours d i).1 * 2 ^ 21 + (lruNeighbours d i).2 * 2 ^ 42 + b2n n.inLru * 2 ^ 63)
    ++ toLe 8 (n.hash.toNat + n.refs.toNat * 2 ^ 32)
    ++ toLe 8 (n.segPa.toNat + n.segN.toNat * 2 ^ 36)
    ++ toLe 8 n.lastUse.toNat ++ List.replicate 24 0
    ++ (if block then kids 0 24 else kids 32 24)

end Sys2Proof.Machine
end

