-- ==== Sys2Proof/Machine/Wire.lean ====
section
/-! DEFINITION. How a frame lies on the wire, byte by byte: the causeway header, Ethernet, IP and UDP, the MACsec SecTAG and the frame
check sequence (R346 to R350, R355, R395, R399). -/

namespace Sys2Proof.Machine

open Sys2Proof

/-! ## The causeway header (R350, R355) -/

/-- Header bytes 0 to 59. -/
def headerBytes (f : Frame) : List Byte :=
  toBe 1 (f.ver.toNat * 16 + f.type.toNat) ++ toBe 1 f.flags.toNat ++ toBe 2 f.payLen.toNat ++ toBe 4 f.flow.toNat
    ++ toBe 4 f.seq.toNat ++ toBe 4 f.handle.toNat ++ toBe 8 f.offset.toNat ++ toBe 8 f.total.toNat ++ sub f.body 0 28

/-- The CRC of a frame (R355). -/
def frameCrc (f : Frame) : BitVec 32 := crc32c (headerBytes f ++ f.payload)

/-- The causeway header and its payload: every header field big-endian, payload bytes unchanged (R348). -/
def causewayBytes (f : Frame) : List Byte := headerBytes f ++ toBe 4 f.crc.toNat ++ f.payload

/-! ## IP and UDP (R346, R347) -/

/-- The sum of the 16-bit words of a byte string, an odd last byte padded with zero. -/
def wordSum (bs : List Byte) : Nat :=
  match bs with
  | a :: b :: r => a.toNat * 256 + b.toNat + wordSum r
  | [a] => a.toNat * 256
  | [] => 0

/-- Fold the carries of a sum into 16 bits, `k` times. -/
def foldSum (k n : Nat) : Nat :=
  match k with
  | 0 => n
  | j + 1 => foldSum j (n % 65536 + n / 65536)

/-- The internet checksum of a byte string: the complement of the ones' complement sum of its 16-bit words. -/
def inetSum (bs : List Byte) : Nat := 65535 - foldSum 4 (wordSum bs)

/-- Bytes of a frame's UDP datagram. -/
def udpLen (f : Frame) : Nat := 8 + (causewayBytes f).length

/-- The UDP header with a checksum. -/
def udpHead (f : Frame) (sum : Nat) : List Byte := toBe 2 f.udpSrc.toNat ++ toBe 2 f.udpPort.toNat ++ toBe 2 (udpLen f) ++ toBe 2 sum

/-- The IPv4 header with a checksum: 20 bytes, no options (R346). -/
def ip4Head (f : Frame) (sum : Nat) : List Byte :=
  toBe 1 0x45 ++ toBe 1 (4 * f.dscp.toNat + f.ecn.toNat) ++ toBe 2 (20 + udpLen f) ++ toBe 2 f.ipId.toNat
    ++ toBe 2 (0x4000 * b2n f.ipDf) ++ toBe 1 f.ttl.toNat ++ toBe 1 17 ++ toBe 2 sum ++ toBe 4 f.srcIp.toNat ++ toBe 4 f.dstIp.toNat

/-- The IPv6 header: 40 bytes, no extension headers (R346). -/
def ip6Head (f : Frame) : List Byte :=
  toBe 4 (6 * 2 ^ 28 + (4 * f.dscp.toNat + f.ecn.toNat) * 2 ^ 20 + f.flowLabel.toNat) ++ toBe 2 (udpLen f) ++ toBe 1 17
    ++ toBe 1 f.ttl.toNat ++ toBe 16 f.srcIp.toNat ++ toBe 16 f.dstIp.toNat

/-- The UDP checksum over IPv6: of the pseudo-header and the datagram, 0 sent as all ones (R346). -/
def udp6Sum (f : Frame) : Nat :=
  let s := inetSum (toBe 16 f.srcIp.toNat ++ toBe 16 f.dstIp.toNat ++ toBe 4 (udpLen f) ++ toBe 4 17 ++ udpHead f 0 ++ causewayBytes f)
  if s = 0 then 65535 else s

/-- The headers between EtherType and causeway header (R346). -/
def ipBytes (f : Frame) : List Byte :=
  match f.encap.toNat with
  | 1 => ip4Head f (inetSum (ip4Head f 0)) ++ udpHead f f.udpSum.toNat
  | 2 => ip6Head f ++ udpHead f f.udpSum.toNat
  | _ => []

/-! ## Ethernet (R346, R399) -/

/-- An 802.1Q tag of priority 0 (R390). -/
def tagBytes (f : Frame) : List Byte := match f.vlan with | some v => toBe 2 0x8100 ++ toBe 2 v.toNat | none => []

/-- What follows the addresses of a frame, which is what MACsec encrypts: the 802.1Q tag, EtherType, IP and UDP headers, causeway header
and payload (R346, R399). -/
def frameText (f : Frame) : List Byte := tagBytes f ++ toBe 2 f.etherType.toNat ++ ipBytes f ++ causewayBytes f

/-- Destination and source address. -/
def macBytes (f : Frame) : List Byte := toBe 6 f.dstMac.toNat ++ toBe 6 f.srcMac.toNat

/-- The 16 bytes of a SecTAG: EtherType 0x88E5, TCI and AN, SL (the length of a text below 48 bytes), the low half of PN, SCI (R399). -/
def secTagBytes (t : SecTag) (len : Nat) : List Byte :=
  toBe 2 0x88E5 ++ toBe 1 (t.an.toNat + 4 * b2n t.c + 8 * b2n t.e + 16 * b2n t.scb + 32 * b2n t.sc + 64 * b2n t.es)
    ++ toBe 1 (if len < 48 then len else 0) ++ toBe 4 (t.pn.toNat % 2 ^ 32) ++ toBe 8 t.sci.toNat

/-- What MACsec protects and does not encrypt: the addresses and the SecTAG. -/
def secHead (f : Frame) (t : SecTag) : List Byte := macBytes f ++ secTagBytes t (frameText f).length

/-- One byte of the reflected CRC-32 of IEEE 802.3, `k` bits left. -/
def fcsBits (c : BitVec 32) (k : Nat) : BitVec 32 :=
  match k with
  | 0 => c
  | j + 1 => fcsBits (if c.getLsbD 0 then (c >>> 1) ^^^ 0xEDB88320 else c >>> 1) j

/-- The frame check sequence of a byte string, in wire order. -/
def fcsBytes (bs : List Byte) : List Byte :=
  toLe 4 ((bs.foldl (fun c b => fcsBits (c ^^^ b.zeroExtend 32) 8) 0xFFFFFFFF) ^^^ 0xFFFFFFFF).toNat

/-- A frame on the wire, from destination address to frame check sequence (R395). -/
def wireBytes (f : Frame) : List Byte :=
  let bs := match f.sec with
    | none => macBytes f ++ frameText f
    | some t => secHead f t ++ t.secured
  bs ++ fcsBytes bs

/-- The length of a sent frame in the form of R349, from destination address to frame check sequence. -/
def frameSize (encap pay : Nat) (vlan sec : Bool) : Nat :=
  14 + 4 * b2n vlan + (if encap = 1 then 28 else if encap = 2 then 48 else 0) + 64 + pay + 4 + 32 * b2n sec

end Sys2Proof.Machine
end

