-- ==== Sys2Proof/Machine/Link.lean ====
section
/-! DEFINITION. Frames on the regatta ports: logical ports and their lanes, what a logical port accepts, what the causeway accepts, and
how a frame leaves (R346 to R355, R364, R391 to R403). -/

namespace Sys2Proof.Machine

open Sys2Proof

/-! ## Logical ports (R391, R392, R407) -/

/-- PRT_PORT_CFG of the port of a logical port. -/
def portCfg (d : Dev) (l : Nat) : Word64 := reg d (0x0C00000 + 16 * (l / 8))
/-- Sub-ports of the port of a logical port. -/
def subPorts (d : Dev) (l : Nat) : Nat := 2 ^ fld (portCfg d l) 0 2
/-- Whether a logical port exists in the current breakout (R394). -/
def lportExists (d : Dev) (l : Nat) : Bool := decide (l < 160) && decide (l % 8 < subPorts d l)
/-- Whether a logical port is a whole port at 1 × 1.6 Tb/s (R390). -/
def wholePort (d : Dev) (l : Nat) : Bool := decide (fld (portCfg d l) 0 2 = 0) && !bitOf (portCfg d l) 2
/-- The payload rate of a logical port, Gb/s (R392). -/
def portRate (d : Dev) (l : Nat) : Nat := (if bitOf (portCfg d l) 2 then 800 else 1600) / subPorts d l
/-- Whether MACsec protects a logical port (R399). -/
def macsecOn (d : Dev) (l : Nat) : Bool := bitOf (portCfg d l) (4 + l % 8)
/-- The MAC address of a logical port (R409). -/
def portMac (d : Dev) (l : Nat) : Nat := fld (reg d (0x0C01000 + 8 * l)) 0 48
/-- SA slot `s` of a logical port: 0 and 1 transmit, 2 and 3 receive. -/
def getSa (p : LPort) (s : Nat) : SaSlot := tget p.sa s SaSlot.init

/-! ## Lanes (R391, R403, R408) -/

/-- The logical lanes of a logical port (R391). -/
def portLanes (d : Dev) (l : Nat) : List Nat :=
  let n := subPorts d l
  (List.range (8 / n)).map (fun i => l % 8 * 8 / n + i)

/-- The physical lanes of a logical port with their polarity inversion, of logical lanes in ascending order: TX_MAP and TX_POL of its
port, or RX_MAP and RX_POL (R403, R408). -/
def physLanes (d : Dev) (l : Nat) (tx : Bool) : List (Nat × Bool) :=
  let w := reg d (0x0C00008 + 16 * (l / 8))
  (portLanes d l).map (fun i =>
    let p := fld w ((if tx then 16 else 40) + 3 * i) 3
    (p, bitOf w ((if tx then 0 else 8) + p)))

/-! ## The header (R350) -/

/-- Bits of byte 1 of the header. -/
def fREQ (f : Frame) : Bool := bitOf f.flags 0
def fLAST (f : Frame) : Bool := bitOf f.flags 1
def fECE (f : Frame) : Bool := bitOf f.flags 3
def fABORT (f : Frame) : Bool := bitOf f.flags 4

/-- The TYPE code of a transfer (R351). -/
def typeCode (t : XferType) : Nat :=
  match t with
  | .kvPush => 1
  | .weightPull => 2
  | .prefixPull => 3
  | .tierDemote => 4
  | .tierRecall => 5

/-- CUM, SACK, CREDIT and STATUS of an ACK (R354). -/
def ackCum (f : Frame) : Nat := beAt f.body 0 4
def ackSack (f : Frame) : Nat := beAt f.body 4 8
def ackCredit (f : Frame) : Nat := beAt f.body 12 4
def ackStatus (f : Frame) : Nat := beAt f.body 16 1

/-! ## Reception by a port (R395, R396, R399, R401) -/

/-- The RX slot that a received frame uses: valid, with the SecTAG's AN. -/
def rxSlot (p : LPort) (t : SecTag) : Option Nat := [2, 3].find? (fun s => (getSa p s).valid && (getSa p s).an = t.an)

/-- The salt of an SA slot. -/
def saSalt (s : SaSlot) : BitVec 96 := BitVec.ofNat 96 (s.saltHi.toNat * 2 ^ 64 + s.saltLo.toNat)
/-- The key of an SA slot. -/
def saKey (s : SaSlot) : BitVec 256 :=
  BitVec.ofNat 256 (s.key3.toNat * 2 ^ 192 + s.key2.toNat * 2 ^ 128 + s.key1.toNat * 2 ^ 64 + s.key0.toNat)

/-- The encrypted text and ICV of a frame under an SA slot, a packet number and a SecTAG (R399). -/
def sealed (s : SaSlot) (f : Frame) (t : SecTag) : List Byte :=
  Config.macsecSeal (saKey s) (saSalt s) s.ssci t.pn (secHead f t) (frameText f)

/-- Whether a received frame has a valid SecTAG and ICV under an SA slot: the options of R399, and the text that its fields give is what
KEY, SALT and SSCI of the slot decrypt and verify (R399, R401; log 7). -/
def secOk (s : SaSlot) (f : Frame) (t : SecTag) : Bool := t.sc && !t.es && !t.scb && t.e && t.c && sealed s f t = t.secured

/-- MACsec reception: the port after it, or none when the frame is discarded (R399, R401). -/
def macsecIn (d : Dev) (l : Nat) (f : Frame) : Option Dev :=
  let p := getPort d l
  if !macsecOn d l then (if f.sec.isNone then some d else none)
  else
    match f.sec with
    | none => none
    | some t =>
      match rxSlot p t with
      | none => none
      | some s =>
        let sa := getSa p s
        let late := bitOf p.ctrl 18 && decide (t.pn.toNat + fld p.ctrl 19 32 < sa.nextPn.toNat)
        if !secOk sa f t || late then none
        else
          let pn := if sa.nextPn.toNat ≤ (t.pn + 1).toNat then t.pn + 1 else sa.nextPn
          some (setPort d l { p with sa := tset p.sa s { sa with nextPn := pn } })

/-- Whether a frame is of a kind that a port discards: PAUSE, PFC and EAPOL (R396). -/
def portDiscards (f : Frame) : Bool := f.etherType = 0x8808 || f.etherType = 0x888E

/-- Whether an address is a group address, broadcast among them (R396). -/
def groupMac (mac : BitVec 48) : Bool := mac.getLsbD 40

/-- What a logical port accepts: the device after it, or none (R395, R396). -/
def portIn (d : Dev) (l : Nat) (f : Frame) : Option Dev :=
  if !alive d || !lportExists d l || (getPort d l).st ≠ .up then none
  else if f.size < 64 || 9216 < f.size || !f.fcsOk || portDiscards f then none
  else if groupMac f.dstMac || f.dstMac.toNat ≠ portMac d l then none
  else macsecIn d l f

/-! ## Reception by the causeway (R364) -/

/-- The EtherType or the UDP port of a frame matches CWY_CTRL. -/
def encapOk (d : Dev) (f : Frame) : Bool :=
  let c := reg d 0x0800000
  match f.encap.toNat with
  | 0 => f.etherType.toNat = fld c 0 16
  | 1 => f.etherType = 0x0800 && f.udpPort.toNat = fld c 16 16
  | 2 => f.etherType = 0x86DD && f.udpPort.toNat = fld c 16 16
  | _ => false

/-- A group's register, and the four quadwords of its destination `i` (R388, R390). -/
def groupWord (d : Dev) (g : Nat) : Word64 := reg d (0x0801000 + 8 * g)
def destWords (d : Dev) (g i : Nat) : List Word64 :=
  (List.range 4).map (fun q => reg d (0x0810000 + 32 * (16 * g + i) + 8 * q))

/-- Fields of a destination. -/
def dq (ws : List Word64) (q lo len : Nat) : Nat := fld (ws.getD q 0) lo len
def destMac (ws : List Word64) : Nat := dq ws 0 0 48
def destEncap (ws : List Word64) : Nat := dq ws 0 61 2
def destValid (ws : List Word64) : Bool := dq ws 0 63 1 = 1
def destIp (ws : List Word64) : Nat :=
  if destEncap ws = 2 then dq ws 2 0 64 * 2 ^ 64 + dq ws 3 0 64 else dq ws 3 0 32
def destCredit (ws : List Word64) : Nat := max 1 (dq ws 1 28 10)

/-- Whether a destination is the source of a frame: by MAC address without IP, by IP address otherwise. -/
def isSource (f : Frame) (ws : List Word64) : Bool :=
  destValid ws && destEncap ws = f.encap.toNat &&
    (if f.encap = 0 then f.srcMac.toNat = destMac ws else f.srcIp.toNat = destIp ws)

/-- Whether the source of a frame is a valid destination of a group of partition `p`, or, when none is given, of an enabled group
(R364). -/
def sourceOk (d : Dev) (p : Option Nat) (f : Frame) : Bool :=
  (List.range 256).any (fun g =>
    let w := groupWord d g
    (match p with | some q => decide (fld w 5 4 = q) | none => bitOf w 9) &&
      (List.range (fld w 0 4 + 1)).any (fun i => isSource f (destWords d g i)))

/-- The flow record that FLOW names, when it is in range (R356). -/
def flowIndex (f : Frame) : Nat := f.flow.toNat % 32768
def flowUse (f : Frame) : Nat := f.flow.toNat / 32768

/-- The live record that FLOW names. -/
def liveFlow (d : Dev) (f : Frame) : Option (Nat × Flow) :=
  let r := getFlow d (flowIndex f)
  if r.live then some (flowIndex f, r) else none

/-- The partition whose groups a frame's source must be in (R364): none is any partition. -/
def framePart (d : Dev) (f : Frame) : Option Nat :=
  match liveFlow d f with
  | some (_, r) => some r.part.toNat
  | none => if f.handle = 0 then none else some (getSlot d (f.handle.toNat % 65536)).part.toNat

/-- What the causeway accepts of the frames that a port accepted (R364). -/
def causewayOk (d : Dev) (f : Frame) : Bool :=
  encapOk d f && f.ver = 1 && decide (1 ≤ f.type.toNat) && decide (f.type.toNat ≤ 6) && frameCrc f = f.crc && !fREQ f
    && f.type ≠ 1 && f.type ≠ 4 && sourceOk d (framePart d f) f

/-! ## Sending (R346, R347, R395, R397, R399, R400) -/

/-- The source IP address of a logical port (R389). -/
def srcIpOf (d : Dev) (l encap : Nat) : Nat :=
  let q := fun i => reg d (0x0804000 + 32 * l + 8 * i)
  if encap = 2 then fld (q 1) 0 64 * 2 ^ 64 + fld (q 2) 0 64 else if encap = 1 then fld (q 0) 0 32 else 0

/-- The frame of a flow to a destination over a logical port, before MACsec (R346, R347, R350). -/
def buildFrame (d : Dev) (l : Nat) (ws : List Word64) (be : Bool) (type flags seq off total : Nat) (flow handle : Word32)
    (body payload : List Byte) : Frame :=
  let c := reg d 0x0800000
  let e := reg d 0x0800010
  let enc := destEncap ws
  let f : Frame :=
    { dstMac := BitVec.ofNat 48 (destMac ws), srcMac := BitVec.ofNat 48 (portMac d l)
      vlan := if dq ws 0 60 1 = 1 then some (BitVec.ofNat 12 (dq ws 0 48 12)) else none
      encap := BitVec.ofNat 2 enc
      etherType := if enc = 0 then BitVec.ofNat 16 (fld c 0 16) else if enc = 1 then 0x0800 else 0x86DD
      udpPort := if enc = 0 then 0 else BitVec.ofNat 16 (fld c 16 16)
      udpSrc := if enc = 0 then 0 else BitVec.ofNat 16 (fld c 16 16), udpSum := 0
      srcIp := BitVec.ofNat 128 (srcIpOf d l enc), dstIp := if enc = 0 then 0 else BitVec.ofNat 128 (destIp ws)
      dscp := if enc = 0 then 0 else BitVec.ofNat 6 (if be then fld e 22 6 else fld e 16 6)
      ecn := if enc ≠ 0 && bitOf e 28 then 2 else 0
      ttl := if enc = 0 then 0 else 64, ipId := if enc = 1 then Config.ipIdent flow (BitVec.ofNat 32 seq) else 0, ipDf := enc = 1
      flowLabel := if enc = 2 then flow.setWidth 20 else 0
      size := frameSize enc payload.length (dq ws 0 60 1 = 1) (macsecOn d l)
      fcsOk := true, sec := none, ver := 1, type := BitVec.ofNat 4 type, flags := BitVec.ofNat 8 flags
      payLen := BitVec.ofNat 16 payload.length, flow := flow, seq := BitVec.ofNat 32 seq, handle := handle
      offset := BitVec.ofNat 64 off, total := BitVec.ofNat 64 total, body := sub body 0 28, payload := payload, crc := 0 }
  let g := { f with crc := frameCrc f }
  { g with udpSum := if enc = 2 then BitVec.ofNat 16 (udp6Sum g) else 0 }

/-- Put a frame on the wire. -/
def emit (d : Dev) (l : Nat) (f : Frame) : Dev :=
  { d with hif := { d.hif with out := { d.hif.out with frames := d.hif.out.frames ++ [(l, f, wireBytes f)] } } }

/-- The SecTAG of a frame that a logical port sends under an SA slot: its SCI is the port's MAC followed by PORT_ID (R399). -/
def sendTag (d : Dev) (l : Nat) (s : SaSlot) : SecTag :=
  { an := s.an, pn := s.nextPn, es := false, sc := true, scb := false, e := true, c := true
    sci := BitVec.ofNat 64 (portMac d l * 65536 + fld (getPort d l).ctrl 0 16), secured := [] }

/-- The packet number at which PRT_PN_NEAR is recorded (R400). -/
def pnNear : Nat := 0xC000000000000000

/-- Send a frame on a logical port: it is discarded unless the port is UP with a MAC address and, with MACsec, a valid TX slot
has the AN of TX_AN (R397, R398, R400). -/
def portOut (d : Dev) (l : Nat) (f : Frame) : Dev :=
  let p := getPort d l
  if !alive d || !lportExists d l || p.st ≠ .up || portMac d l = 0 then d
  else if !macsecOn d l then emit d l f
  else
    match [0, 1].find? (fun s => (getSa p s).valid && (getSa p s).an.toNat = fld p.ctrl 16 2) with
    | none => d
    | some s =>
      let sa := getSa p s
      if sa.nextPn.toNat = 2 ^ 64 - 1 then d
      else
        let t := sendTag d l sa
        let d1 := emit (setPort d l { p with sa := tset p.sa s { sa with nextPn := sa.nextPn + 1 } }) l
          { f with sec := some { t with secured := sealed sa f t } }
        if sa.nextPn.toNat + 1 = pnNear then devRecord d1 0x0303 0 0 { unit := 7, detail := l } else d1

end Sys2Proof.Machine
end

