-- ==== Sys2Proof/Machine/Transfers.lean ====
section
/-! DEFINITION. Causeway transfers and flows: groups, creation, the frames of a flow, the ends of flows, and what arriving
acknowledgements and data change in a flow (R352 to R362, R366, R367, R369, R370, R373, R379, R383). -/

namespace Sys2Proof.Machine

open Sys2Proof

/-! ## Timers (R386) -/

/-- A field of CWY_TIMERS held to its range. -/
def timer (d : Dev) (lo len least most : Nat) : Nat := max least (min most (fld (reg d 0x0800008) lo len))
/-- TIMEOUT in µs. -/
def timeoutUs (d : Dev) : Nat := timer d 0 17 100 100000
/-- RTO in µs. -/
def rtoUs (d : Dev) : Nat := timer d 17 11 8 1024
/-- PULL_RETRY. -/
def pullRetry (d : Dev) : Nat := timer d 28 4 0 15
/-- RX_WINDOW. -/
def rxWindow (d : Dev) : Nat := timer d 32 10 16 1023

/-! ## Destination groups (R369) -/

/-- The logical ports of a destination: one for each port of PORTS, or LPORT (R357, R390). -/
def destPorts (ws : List Word64) : List Nat :=
  if dq ws 1 0 20 = 0 then [dq ws 1 20 8]
  else ((List.range 20).filter (fun n => (dq ws 1 0 20).testBit n)).map (fun n => 8 * n)

/-- Whether a destination may be used: VALID, its ports exist, and its ENCAP is 0, 1 or 2. -/
def destOk (d : Dev) (ws : List Word64) : Bool :=
  destValid ws && destEncap ws ≠ 3 &&
    (if dq ws 1 0 20 = 0 then lportExists d (dq ws 1 20 8) else (destPorts ws).all (wholePort d))

/-- Destinations of a group word. -/
def groupSize (w : Word64) : Nat := fld w 0 4 + 1
/-- LAYOUT of a group word: true is BY_POSITION. -/
def byPosition (w : Word64) : Bool := bitOf w 4
/-- SPAN of a group word. -/
def groupSpan (w : Word64) : Nat := fld w 10 32

/-- The checks of R369 that apply to every group. -/
def groupBase (d : Dev) (part g : Nat) : Bool :=
  let w := groupWord d g
  bitOf w 9 && decide (fld w 5 4 = part) && (List.range (groupSize w)).all (fun i => destOk d (destWords d g i))

/-- A destination group is valid for a slot of a partition and model (R369). -/
def groupOk (d : Dev) (part g : Nat) (m : Model) : Bool :=
  let w := groupWord d g
  groupBase d part g &&
    (if byPosition w then decide (groupSpan w ≠ 0) && decide (groupSpan w % modelRun m = 0) else decide (groupSize w ≤ m.heads))

/-! ## Transfers (R357, R388) -/

/-- Bytes of a chunk. -/
def chunkBytes : Nat := 8192

/-- A causeway transfer. -/
def getXfer (d : Dev) (x : Nat) : Option Transfer := tfind d.cwy.xfers x
/-- Replace a causeway transfer. -/
def setXfer (d : Dev) (x : Nat) (t : Transfer) : Dev := { d with cwy := { d.cwy with xfers := tset d.cwy.xfers x t } }
/-- Add a transfer under the next number. -/
def addXfer (d : Dev) (t : Transfer) : Dev :=
  { d with cwy := { d.cwy with xfers := tset d.cwy.xfers d.cwy.nextId t, nextId := d.cwy.nextId + 1 } }

/-- Chunks of a transfer. -/
def nChunks (t : Transfer) : Nat := cdiv (t.total - t.offset) chunkBytes
/-- Bytes of chunk `c` of a transfer. -/
def chunkLen (t : Transfer) (c : Nat) : Nat := min chunkBytes (t.total - (t.offset + chunkBytes * c))
/-- Chunks of the stripe whose first chunk is `first`, of `n` chunks in all, with `f` flows. -/
def stripeLen (n f first : Nat) : Nat := if first < n then (n - 1 - first) / f + 1 else 0

/-- The flows of destinations, in ascending destination and port; a flow without a chunk is not created (R357). -/
def specsOf (dests : List (Nat × List Word64)) (off n : Nat) : Nat × List FlowSpec :=
  let ports := dests.flatMap (fun p => (destPorts p.2).map (fun l => (p.1, l)))
  (ports.length,
   (ports.zipIdx.map (fun q => ({ stripe := q.2, off := off, start := q.2, dest := q.1.1, lport := q.1.2 } : FlowSpec))).filter
     (fun s => s.start < n))

/-- The destinations of a group as a transfer keeps them (R388). -/
def groupDests (d : Dev) (g : Nat) : List (List Word64) := (List.range (groupSize (groupWord d g))).map (destWords d g)

/-- A transfer of a slot with one destination of a group: everything but its payload and flows. -/
def slotXfer (d : Dev) (type : XferType) (i : Nat) (s : Slot) (g dest : Nat) : Transfer :=
  { type := type, slot := some (BitVec.ofNat 16 i), handle := BitVec.ofNat 32 (slotHandle d i), cr := s.cr, fn := s.fn, part := s.part
    model := s.model, grp := groupWord d g, dests := groupDests d g, dest := dest, total := 0, offset := 0, pieces := [], entries := []
    nFlows := 0, toMake := [], live := [], got := [], retries := 0, gnum := g, ents := [], posFirst := 0, posCount := 0
    geom := (match getModel d s.model with | some m => geomWord m s.gen.toNat | none => 0), object := 0, ttlMs := 0, be := s.be }

/-- The transfer with its flows to one destination. -/
def withFlows (t : Transfer) : Transfer :=
  let q := specsOf [(t.dest, t.dests.getD t.dest [])] t.offset (nChunks t)
  { t with nFlows := q.1, toMake := q.2 }

/-! ## Payload (R348, R367) -/

/-- The bytes `[off, off + n)` of a list of pieces, as runs of pier addresses. -/
def cutPieces (ps : List (Nat × Nat)) (off n : Nat) : List (Nat × Nat) :=
  match ps with
  | [] => []
  | (a, l) :: r =>
    if n = 0 then []
    else if l ≤ off then cutPieces r (off - l) n
    else
      let m := min n (l - off)
      (a + off, m) :: cutPieces r 0 (n - m)

/-- The pier runs of chunk `c` of a transfer. -/
def chunkRuns (t : Transfer) (c : Nat) : List (Nat × Nat) := cutPieces t.pieces (chunkBytes * c) (chunkLen t c)

/-- Bytes 32 to 59 of a data frame of R352. -/
def kvBody (d : Dev) (t : Transfer) : List Byte :=
  let vid := (match getModel d t.model with | some m => m.vid.toNat | none => 0)
  let lay := byPosition t.grp
  toBe 8 t.geom.toNat ++ toBe 4 t.posFirst ++ toBe 4 t.posCount ++ toBe 4 (if lay then groupSpan t.grp else 0)
    ++ toBe 2 (vid + 2 ^ 14 * b2n lay) ++ toBe 1 t.fn.toNat ++ toBe 1 (t.dest + 16 * (groupSize t.grp - 1)) ++ toBe 4 t.ttlMs

/-- Bytes 32 to 59 of a request frame (R353). -/
def requestBody (t : Transfer) (f : Flow) : List Byte :=
  toBe 8 t.object.toNat ++ toBe 2 t.nFlows ++ toBe 2 f.reqStripe ++ toBe 4 f.window ++ sub [] 0 12

/-- SACK of a flow. -/
def sackBits (f : Flow) : Nat := ((List.range 64).map (fun i => if f.above.contains (f.cum + 1 + i) then 2 ^ i else 0)).sum

/-- Bytes 32 to 59 of an ACK (R354): a device grants CUM + RX_WINDOW (R358). -/
def ackBody (f : Flow) (status : Nat) : List Byte :=
  toBe 4 f.cum ++ toBe 8 (sackBits f) ++ toBe 4 (f.cum + f.window) ++ toBe 1 status ++ sub [] 0 11

/-! ## Flows (R356 to R362) -/

/-- Whether a record number is an ingress record. -/
def isIngress (i : Nat) : Bool := decide (16384 ≤ i)

/-- Whether the device receives the data of a transfer. -/
def ingressType (t : XferType) : Bool :=
  match t with
  | .kvPush => false
  | .tierDemote => false
  | _ => true

/-- FLOW of a record (R356). -/
def flowId (i : Nat) (f : Flow) : Word32 := BitVec.ofNat 32 (i + 32768 * f.use.toNat)

/-- The absolute chunk of SEQ `q` of a flow. -/
def absChunk (t : Transfer) (f : Flow) (q : Nat) : Nat := f.first + t.nFlows * q

/-- The quadwords of a flow's destination. -/
def flowDest (t : Transfer) (f : Flow) : List Word64 := t.dests.getD f.dest []

/-- Send an ACK of a flow (R358, R359). -/
def sendAck (d : Dev) (i : Nat) (t : Transfer) (f : Flow) (ece : Bool) (status : Nat) : Dev :=
  portOut d f.lport (buildFrame d f.lport (flowDest t f) f.be 6 (8 * b2n ece + 16 * b2n (status = 4)) 0 0 0 (flowId i f) f.handle
    (ackBody f status) [])

/-- The ABORT frame of a flow that the device ends (R361). -/
def sendAbort (d : Dev) (i : Nat) (t : Transfer) (f : Flow) : Dev :=
  if isIngress i then sendAck d i t f false 4
  else
    portOut d f.lport (buildFrame d f.lport (flowDest t f) f.be (typeCode t.type) 16 f.next
      (t.offset + chunkBytes * absChunk t f f.next) t.total (flowId i f) f.handle (kvBody d t) [])

/-- The new record of a flow (R356, R358, R360, R386). -/
def newFlow (d : Dev) (x : Nat) (t : Transfer) (s : FlowSpec) (use : BitVec 17) : Flow :=
  let first := (s.off - t.offset) / chunkBytes + s.start
  { live := true, use := use, xfer := x, stripe := s.stripe, lport := s.lport, dest := s.dest, handle := t.handle, cr := t.cr
    part := t.part, be := t.be, first := first, chunks := stripeLen (nChunks t) t.nFlows first, reqOff := s.off, reqStripe := s.start
    reqSent := false, credit := destCredit (t.dests.getD s.dest []), cum := 0, above := [], next := 0, resend := [], gapAt := []
    rtoUs := rtoUs d, rto0 := rtoUs d, timeoutUs := timeoutUs d, window := rxWindow d, rate := (portRate d s.lport : Rat), cutAt := none
    unacked := 0, paceAt := (d.now.toNat : Rat), progressAt := d.now, maxRetry := pullRetry d }

/-- FLOW_CREATE: the lowest free record takes the flow; without one the creation waits (R356). -/
def flowCreateD (x stripe : Nat) (d : Dev) : Dev :=
  match getXfer d x with
  | none => d
  | some t =>
    match t.toMake.find? (fun s => s.stripe = stripe) with
    | none => d
    | some s =>
      let lo := if ingressType t.type then 16384 else 0
      let n := if ingressType t.type then 4096 else 16384
      match findFrom (fun i => !(getFlow d i).live) lo n with
      | none => d
      | some i =>
        let use := match tfind d.cwy.flows i with
          | some f => f.use + 1
          | none => 0
        let d1 := setFlow d i (newFlow d x t s use)
        setXfer d1 x { t with toMake := t.toMake.erase s, live := t.live ++ [i] }

/-- FLOW_CREATE (R356). -/
def execFlowCreate (x stripe : Nat) (s : State) : Answer := onDev s (flowCreateD x stripe)

/-- Free a flow's record and take it off its transfer; a transfer that ends its flow itself sends an ABORT frame (R361). -/
def closeFlow (d : Dev) (i : Nat) (abort : Bool) : Dev :=
  let f := getFlow d i
  match getXfer d f.xfer with
  | none => setFlow d i { f with live := false }
  | some t =>
    let d1 := if abort && f.live then sendAbort d i t f else d
    setXfer (setFlow d1 i { f with live := false }) f.xfer { t with live := t.live.filter (· ≠ i) }

/-- The payload areas of a KV_PUSH with the page-list entry of each: first byte, one past the last, entry. -/
def areaSpans (ps : List (Nat × Nat)) (es : List Nat) (off : Nat) : List (Nat × Nat × Nat) :=
  match ps, es with
  | p :: pr, e :: er => (off, off + p.2, e) :: areaSpans pr er (off + p.2)
  | _, _ => []

/-- The page-list entries of the pages that a flow carries (R368). -/
def flowEntries (t : Transfer) (f : Flow) : List Nat :=
  ((areaSpans t.pieces t.ents 0).filter (fun a => (List.range f.chunks).any (fun q =>
    let o := chunkBytes * absChunk t f q
    decide (a.1 < o + chunkLen t (absChunk t f q)) && decide (o < a.2.1)))).map (fun a => a.2.2) |>.eraseDups

/-- The page-list entries of the pages that the flows of a transfer which have not ended carry, those still to be made among them. -/
def openEntries (d : Dev) (x : Nat) (t : Transfer) : List Nat :=
  (t.live.flatMap (fun i => flowEntries t (getFlow d i)) ++ t.toMake.flatMap (fun s => flowEntries t (newFlow d x t s 0))).eraseDups

/-- Page-list entries that the causeway engine reads or writes pass through its translation cache (R422). -/
def touchList (d : Dev) (cr : Nat) (l : PageList) (es : List Nat) : Dev := es.foldl (fun d e => touchTlb d 32 cr none (entryVa l e) true) d

/-- Forget a transfer whose flows have ended. -/
def delXfer (d : Dev) (x : Nat) : Dev := { d with cwy := { d.cwy with xfers := tdel d.cwy.xfers x } }

/-- End every flow of a transfer ABORTED and forget it (R361, R371, R372, R382). -/
def dropTransfer (d : Dev) (x : Nat) : Dev :=
  match getXfer d x with
  | none => d
  | some t => releaseLimbo (delXfer (t.live.foldl (fun d i => closeFlow d i true) d) x)

/-- An event record of the causeway for a slot's owner: HANDLE in the function's view, DETAIL is FLOW (R365, R430). Nothing
is recorded when the context no longer exists. -/
def cwEvent (d : Dev) (cr : Nat) (code handle flow : Nat) : Dev :=
  if (getCtx d cr).st = .free then d
  else ctxEvent d cr code { unit := 2, handle := viewHandle d (getCtx d cr).fn.toNat handle, detail := flow }

/-! ## Taps (R370, R535) -/

/-- Send tap accumulator `k` on the tap link: its event, and its place is free (R535). -/
def sendAcc (d : Dev) (k : Nat) : Dev :=
  match tfind d.cwy.acc k with
  | none => d
  | some a =>
    let d1 := { d with cwy := { d.cwy with acc := tdel d.cwy.acc k } }
    pushTap d1 (if a.egress then .egress a.part a.fn a.model a.vid a.bytes else .ingress a.part a.fn a.model a.vid a.bytes)

/-- Add bytes to the tap accumulator of a direction, partition, function and model; a new key that finds the 64 in use takes
the place of accumulator 0, which is sent (R535). -/
def addTap (d : Dev) (egress : Bool) (t : Transfer) (n : Nat) : Dev :=
  if n = 0 then d
  else
    let m : BitVec 14 := BitVec.ofNat 14 t.model
    let vid := match getModel d t.model with | some x => x.vid | none => 0
    let same := fun (a : TapAcc) => a.egress = egress && a.part = t.part && a.fn = t.fn && a.model = m
    let put := fun (d : Dev) (k : Nat) (b : Nat) => { d with
      cwy := { d.cwy with acc := tset d.cwy.acc k { egress := egress, part := t.part, fn := t.fn, model := m, vid := vid, bytes := b } } }
    match d.cwy.acc.find? (fun p => same p.2) with
    | some (k, a) => put d k (a.bytes + n)
    | none =>
      match findFrom (fun k => (tfind d.cwy.acc k).isNone) 0 64 with
      | some k => put d k n
      | none => put (sendAcc d 0) 0 n

/-! ## Acknowledgements of an egress flow (R358 to R362) -/

/-- Take an ACK: CUM, SACK and CREDIT. Chunks never sent are not acknowledged. -/
def takeAck (f : Flow) (cum sack credit : Nat) : Flow :=
  let c := max f.cum (min cum f.next)
  let got := (List.range 64).filterMap (fun i => if sack.testBit i && cum + 1 + i < f.next then some (cum + 1 + i) else none)
  let above := (f.above ++ got.filter (fun q => !f.above.contains q)).filter (fun q => c ≤ q)
  { f with
    cum := c
    above := above
    credit := max f.credit credit
    resend := f.resend.filter (fun q => c ≤ q && !above.contains q)
    rtoUs := if f.cum < c then f.rto0 else f.rtoUs }

/-- Chunks acknowledged by an ACK for the first time. -/
def newlyAcked (f g : Flow) : List Nat :=
  (List.range g.next).filter (fun q => (q < g.cum || g.above.contains q) && !(q < f.cum || f.above.contains q))

/-- The rate cut on ECE, at most once in 16 µs (R362, R387). -/
def cutRate (d : Dev) (f : Flow) : Flow :=
  let ok := match f.cutAt with
    | none => true
    | some t => decide (t.toNat + 1600 ≤ d.now.toNat)
  if ok then { f with rate := max (f.rate / 2) (max 1 (fld (reg d 0x0800010) 8 8) : Nat), cutAt := some d.now } else f

/-- Chunks that an ACK shows missing with at least three chunks above them acknowledged, resent once per RTO (R360). -/
def gapResend (now : Nat) (f : Flow) : Flow :=
  let miss := (List.range f.next).filter (fun q =>
    decide (f.cum ≤ q) && !f.above.contains q && !f.resend.contains q && decide (3 ≤ (f.above.filter (fun a => q < a)).length) &&
      (match tfind f.gapAt q with | some t => decide (t + 100 * f.rto0 ≤ now) | none => true))
  { f with resend := f.resend ++ miss, gapAt := miss.foldl (fun g q => tset g q now) f.gapAt }

/-! ## Data of an ingress flow (R353, R359) -/

/-- The lowest chunk from `c` up that is not in a list, `k` chunks left to look at. -/
def firstMissing (all : List Nat) (c k : Nat) : Nat :=
  match k with
  | 0 => c
  | j + 1 => if all.contains c then firstMissing all (c + 1) j else c

/-- Note that chunk `q` of a flow arrived: CUM moves past the chunks that stand above it. -/
def noteChunk (f : Flow) (q : Nat) : Flow :=
  let all := q :: f.above
  let c := firstMissing all f.cum (all.length + 1)
  { f with cum := c, above := all.filter (fun a => c ≤ a), unacked := f.unacked + 1 }

/-- Whether chunk `q` of a flow has arrived. -/
def hasChunk (f : Flow) (q : Nat) : Bool := decide (q < f.cum) || f.above.contains q

/-- Whether a data frame carries chunk SEQ of the flow as R353 lays it out. -/
def chunkMatches (t : Transfer) (f : Flow) (fr : Frame) : Bool :=
  let q := fr.seq.toNat
  let c := absChunk t f q
  fr.type.toNat = typeCode t.type && decide (q < f.chunks) && fr.offset.toNat = t.offset + chunkBytes * c
    && fr.payload.length = chunkLen t c && fr.total.toNat = t.total

end Sys2Proof.Machine
end

