-- ==== Sys2Proof/Machine/Slots.lean ====
section
/-! DEFINITION. Slots of the active-sequence table: becoming READY, the hot places, freeing and quarantine, and completions of
commands (R273 to R279, R382, R483, R494). -/

namespace Sys2Proof.Machine

open Sys2Proof

/-! ## Completions (R483, R494) -/

/-- The first 24 bytes of a completion entry: all but its time. -/
def complEntry (cmdId opcode status handle detail value : Nat) : List Byte :=
  toLe 4 cmdId ++ toLe 1 opcode ++ toLe 1 0 ++ toLe 2 status ++ toLe 4 handle ++ toLe 4 detail ++ toLe 8 value

/-- The completion ring of a context. -/
def complRing (d : Dev) (cr : Nat) : Nat := ringKey (getCtx d cr).fn.toNat (getCtx d cr).vctx.toNat 1

/-- Write a completion entry with the present time to a ring that has room; an entry whose write waits for a WAKING unit stays
owed (R151). -/
def pushCompl (d : Dev) (cr : Nat) (e : List Byte) : Dev :=
  match ringPush d (complRing d cr) cr 32 [e ++ toLe 8 d.now.toNat] with
  | (d1, none) => d1
  | (d1, some b) =>
    if b.code = 0 then setSteps d cr { getSteps d cr with owed := (getSteps d cr).owed ++ [e] } else ringFault d1 (complRing d cr) cr b

/-- Write a completion entry, or keep it until an entry is free. A completion ring that is not in use takes nothing. -/
def putCompl (d : Dev) (cr : Nat) (e : List Byte) : Dev :=
  let q := getRing d (complRing d cr)
  let sc := getSteps d cr
  if ctxDead d cr || !ringUsable q then d
  else if ringFree q = 0 || sc.owed ≠ [] then setSteps d cr { sc with owed := sc.owed ++ [e] }
  else pushCompl d cr e

/-- Write the completion of a command, unless NOCPL is set and the command succeeded (R486, R494). -/
def complete (d : Dev) (cr : Nat) (nocpl : Bool) (cmdId : Word32) (opcode status handle detail value : Nat) : Dev :=
  if nocpl && status = 0 then d else putCompl d cr (complEntry cmdId.toNat opcode status handle detail value)

/-- Write the completions that waited for a free entry, in order, while there is room; at most `k` of them. -/
def flushOwed (d : Dev) (cr k : Nat) : Dev :=
  match k with
  | 0 => d
  | j + 1 =>
    let sc := getSteps d cr
    let q := getRing d (complRing d cr)
    match sc.owed with
    | [] => d
    | e :: r => if ctxDead d cr || !ringUsable q || ringFree q = 0 then d else flushOwed (pushCompl (setSteps d cr { sc with owed := r }) cr e) cr j

/-! ## Fences (R493) -/

/-- Whether a command of a context's ring with a serial below `n` still waits: a walk or a recall. -/
def earlierWaits (d : Dev) (cr n : Nat) : Bool :=
  d.key.ops.any (fun p => p.2.any (fun o => match o with
    | .walk c _ k _ _ _ _ => c.toNat = cr && decide (k < n)
    | _ => false)) ||
  d.cox.slots.any (fun p => p.2.cr.toNat = cr && (match p.2.recallBy with | some r => decide (r.serial < n) | none => false))

/-- Complete the FENCEs of a context whose wait is over, in ring order; `k` of them at most. -/
def pumpFences (d : Dev) (cr k : Nat) : Dev :=
  match k with
  | 0 => d
  | j + 1 =>
    match tget d.cox.fences cr [] with
    | [] => d
    | f :: r =>
      if earlierWaits d cr f.serial || (f.step && decide ((getSteps d cr).batches ≤ f.seen)) then d
      else
        let d1 := { d with cox := { d.cox with fences := tset d.cox.fences cr r } }
        pumpFences (complete d1 cr f.nocpl f.cmdId 0x30 0 0 0 0) cr j

/-- Complete the FENCEs of a context whose wait is over. -/
def fencesOf (d : Dev) (cr : Nat) : Dev := pumpFences d cr (tget d.cox.fences cr []).length

/-! ## READY and hot slots (R273, R276) -/

/-- Whether a slot holds one of the hot places. -/
def holdsPlace (s : Slot) : Bool :=
  match s.st with
  | .active => true
  | .cancelling => true
  | .ready => s.hot
  | _ => false

/-- Whether READY slot `a` comes before `b` for a hot place: LC first, then in the order in which they became READY, then by
number (R273). -/
def readyBefore (a b : Nat × Slot) : Bool :=
  if a.2.be ≠ b.2.be then !a.2.be
  else if a.2.readySeq ≠ b.2.readySeq then decide (a.2.readySeq < b.2.readySeq)
  else decide (a.1 < b.1)

/-- Whether a slot's context is SWAPPED_OUT: its slots are never hot (R444). -/
def swappedOut (d : Dev) (s : Slot) : Bool := (getCtx d s.cr.toNat).st = .swappedOut

/-- The first READY slot that is not hot. -/
def nextHot (d : Dev) : Option (Nat × Slot) :=
  d.cox.slots.foldl (fun (best : Option (Nat × Slot)) p =>
    if p.2.st = .ready && !p.2.hot && !swappedOut d p.2 then
      match best with
      | none => some p
      | some b => if readyBefore p b then some p else some b
    else best) none

/-- Give free hot places to READY slots, at most `k` of them. -/
def giveHot (d : Dev) (k : Nat) : Dev :=
  match k with
  | 0 => d
  | j + 1 =>
    match nextHot d with
    | none => d
    | some (i, s) => giveHot (setSlot d i { s with hot := true }) j

/-- The hot places after slots changed: 8,192 in all; a slot that is neither READY, ACTIVE nor CANCELLING is not hot (R273). -/
def rehot (d : Dev) : Dev :=
  let d1 := { d with cox := { d.cox with slots := tmap d.cox.slots (fun _ s =>
    match s.st with
    | .ready => if swappedOut d s then { s with hot := false } else s
    | .active => { s with hot := true }
    | .cancelling => { s with hot := true }
    | _ => { s with hot := false }) } }
  giveHot d1 (8192 - (d1.cox.slots.filter (fun p => holdsPlace p.2)).length)

/-- RUNNABLE of a context: a READY slot that no build has deferred for want of frames since frames were last released, a built
step, or a saved running state (R443). -/
def ctxRunnable (d : Dev) (cr : Nat) : Bool :=
  d.cox.slots.any (fun p => p.2.cr.toNat = cr && p.2.st = .ready && !p.2.starved) ||
    (getSteps d cr).cur.isSome || (getSteps d cr).nxt.isSome || (getCtx d cr).saved.isSome

/-- RUNNABLE of every context, with the time of each change (R443, R451). -/
def noteRunnable (d : Dev) : Dev :=
  { d with pmg := { d.pmg with ctxs := tmap d.pmg.ctxs (fun cr c =>
    let r := ctxRunnable d cr
    if c.st = .free || c.runnable = r then c
    else if r then { c with runnable := true, runnableAt := d.now } else { c with runnable := false, blockedAt := d.now }) } }

/-! ## Swaps (R451) -/


/-- Whether a context keeps its partition from a swap: it is resident and has work, or is on its way between states. -/
def holdsSwap (c : Ctx) : Bool :=
  match c.st with
  | .waiting => c.runnable
  | .running => c.runnable
  | .saving => true
  | .swappingOut => true
  | .swappingIn => true
  | _ => false

/-- The first of a list of contexts: class `firstBe` before the other, then the earlier time, then the lower key. -/
def pickCtx (l : List (Nat × Ctx)) (firstBe : Bool) (time : Ctx → Word64) (key : Nat × Ctx → Nat) : Option Nat :=
  (l.foldl (fun (best : Option (Nat × Ctx)) q =>
    match best with
    | none => some q
    | some b =>
      let sooner :=
        if q.2.be ≠ b.2.be then q.2.be = firstBe
        else if time q.2 ≠ time b.2 then decide ((time q.2).toNat < (time b.2).toNat)
        else decide (key q < key b)
      if sooner then some q else best) none).map (fun q => q.1)

/-- The lowest free context slot of a partition. -/
def freeCslot (d : Dev) (p : Nat) : Option Nat :=
  findFrom (fun c => (tfind d.pmg.cslots c).isNone) (partResBase d p) (partResCount d p)

/-- A context takes a context slot. -/
def giveCslot (d : Dev) (cr c : Nat) (st : CtxState) : Dev :=
  let d1 := setCtx d cr { getCtx d cr with st := st, cslot := some (BitVec.ofNat 7 c) }
  { d1 with pmg := { d1.pmg with cslots := tset d1.pmg.cslots c (BitVec.ofNat 12 cr) } }

/-- The swap that a partition starts when no resident context has work and a swapped-out one has; victim and incoming context are
chosen BE before LC (R451). The incoming context's
XLT_CTX_TBL value goes into its slot's register (R452). -/
def swapIn (d : Dev) (p : Nat) : Dev :=
  let cs := ctxsIn d p
  if cs.any (fun q => holdsSwap q.2) then d
  else
    match pickCtx (cs.filter (fun q => q.2.st = .swappedOut && q.2.runnable)) true (fun c => c.runnableAt) (fun q => q.1) with
    | none => d
    | some cr =>
      match freeCslot d p with
      | some c => setReg (giveCslot d cr c .swappingIn) (0x0B01000 + 8 * c) (getCtx d cr).tblValue
      | none =>
        match pickCtx (cs.filter (fun q => q.2.st = .waiting)) true (fun c => c.blockedAt)
            (fun q => match q.2.cslot with | some c => c.toNat | none => 0) with
        | none => d
        | some v => setCtx d v { getCtx d v with st := .swappingOut }

/-- The swaps that the partitions start; none while the device is quiesced (R516). -/
def swapSettle (d : Dev) : Dev :=
  if alive d && !d.boot.quiesce then ((List.range 16).filter (partEnabled d)).foldl swapIn d else d

/-- What follows every change of slots, steps or contexts: hot places, RUNNABLE and swaps. -/
def coxSettle (d : Dev) : Dev := swapSettle (noteRunnable (rehot d))

/-- Whether a slot has pending work (R275). -/
def hasWork (s : Slot) : Bool := !s.segs.isEmpty || s.pendTok.isSome

/-- A slot becomes READY in the present cycle (R273, R292). -/
def readySlot (d : Dev) (i : Nat) : Dev :=
  setSlot d i { getSlot d i with st := .ready, hot := false, readyAt := d.now, readySeq := d.cox.readyCtr, starved := false }

/-- The next slots to become READY do so in a later cycle (R273). -/
def nextReady (d : Dev) : Dev := { d with cox := { d.cox with readyCtr := d.cox.readyCtr + 1 } }

/-- Slots become READY in one cycle (R273, R292). -/
def makeReady (d : Dev) (is : List Nat) : Dev := nextReady (is.foldl readySlot d)

/-! ## Freeing (R274, R277, R279) -/

/-- The generation after one (R274). -/
def nextGen (g : BitVec 16) : BitVec 16 := if g = 0xFFFF then 1 else g + 1

/-- The FREE slot of the next generation; `owner`, partition and function stay for stale frames (R364, R365). -/
def vacateSlot (d : Dev) (i : Nat) : Dev :=
  let s := getSlot d i
  setSlot d i { Slot.init with gen := nextGen s.gen, owner := some s.cr, cr := s.cr, part := s.part, fn := s.fn }

/-- A QUARANTINED slot with no flow left becomes FREE (R279). -/
def settleSlot (d : Dev) (i : Nat) : Dev :=
  if (getSlot d i).st = .quarantined && !pushOpen d (slotHandle d i) then vacateSlot d i else d

/-- The transfers of a slot's tier traffic and prefix pull. -/
def tierXfers (d : Dev) (i : Nat) : List Nat :=
  (d.cwy.xfers.filter (fun p => p.2.slot = some (BitVec.ofNat 16 i) && p.2.type ≠ .kvPush && p.2.handle.toNat = slotHandle d i)).map
    (fun p => p.1)

/-- The frames that a transfer into pier has reserved (R313, R383). -/
def reserved (t : Transfer) : List Nat :=
  match t.type with
  | .tierRecall => t.pieces.map (fun p => p.1 / 65536)
  | .prefixPull => t.pieces.map (fun p => p.1 / 65536)
  | _ => []

/-- End a slot's tier transfer or prefix pull ABORTED; frames that it had reserved return to the pool (R382). -/
def dropTier (d : Dev) (x : Nat) : Dev :=
  match getXfer d x with
  | none => d
  | some t => freeFrames (dropTransfer d x) t.part.toNat (reserved t)

/-- Forget the Keystone operations queued for a slot. -/
def dropKeyOps (d : Dev) (i : Nat) : Dev :=
  let other := fun (o : KeyOp) => match o with
    | .lookup s _ => s.toNat ≠ i
    | .insert s _ _ _ => s.toNat ≠ i
    | _ => true
  { d with key := { d.key with ops := tmap d.key.ops (fun _ l => l.filter other) } }

/-- Whether inserts of a slot are still queued. -/
def insertsLeft (d : Dev) (i : Nat) : Bool :=
  d.key.ops.any (fun q => q.2.any (fun o => match o with
    | .insert k _ _ _ => k.toNat = i
    | _ => false))

/-- Free a slot: tier transfers end, its pages and references are released, and it becomes QUARANTINED or FREE; `cold` marks
its Keystone nodes (R277, R279, R312). -/
def releaseSlot (d : Dev) (i : Nat) (cold : Bool) : Dev :=
  let s := getSlot d i
  let d1 := (tierXfers d i).foldl dropTier (dropKeyOps d i)
  let d2 := freeFrames d1 s.part.toNat ((s.list.frames ++ s.draft.frames).map (fun p => p.2))
  let d3 := s.refs.foldl (fun d n => deref d n cold) d2
  let d4 := { d3 with key := { d3.key with parked := d3.key.parked.filter (· ≠ i) } }
  settleSlot (setSlot d4 i
    { Slot.init with gen := s.gen, st := .quarantined, owner := some s.cr, cr := s.cr, fn := s.fn, part := s.part, model := s.model
                     be := s.be, list := { s.list with frames := [] } }) i

/-- Leave the parked set: the sweeper no longer watches the slot (R338). -/
def unparkBit (d : Dev) (i : Nat) : Dev := { d with key := { d.key with parked := d.key.parked.filter (· ≠ i) } }
/-- Enter the parked set. -/
def parkBit (d : Dev) (i : Nat) : Dev :=
  { d with key := { d.key with parked := if d.key.parked.contains i then d.key.parked else i :: d.key.parked } }

/-- Set or clear PARKED in the listed entries of a slot (R310). -/
def setParked (d : Dev) (i : Nat) (on : Bool) : Except Bad Dev :=
  let s := getSlot d i
  match getModel d s.model with
  | none => .ok d
  | some m =>
    let f := fun (w : Word64) => if fld w 44 1 = 1 then setFld w 46 1 (b2n on) else w
    let main := (List.range (m.layers * s.list.pages))
    match mapEntries d s.cr.toNat s.list f main with
    | .error b => .error b
    | .ok d1 =>
      match m.draft.bind (getModel d) with
      | none => .ok d1
      | some q => mapEntries d1 s.cr.toNat s.draft f (List.range (q.layers * s.draft.pages))

end Sys2Proof.Machine
end

