-- ==== Sys2Proof/Machine/Flows.lean ====
section
/-! DEFINITION. What the ends of flows bring about for pushes, pulls, demotions and recalls, and the commands of the causeway:
frames sent, frames that arrive, timers (R358 to R384). -/

namespace Sys2Proof.Machine

open Sys2Proof

/-! ## KV_PUSH (R366 to R368) -/

/-- Positions `[lo, hi)` of the shipped positions `[c, c + n)` that lie in destination `k`'s share (R270, R271). -/
def sharePos (w : Word64) (k c n : Nat) : Nat × Nat :=
  if byPosition w then
    let lo := max c (k * groupSpan w)
    let hi := if k + 1 = groupSize w then c + n else min (c + n) ((k + 1) * groupSpan w)
    (lo, hi)
  else (c, c + n)

/-- The heads of destination `k` (R270). -/
def shareHeads (w : Word64) (k heads : Nat) : List Nat :=
  let lo := k * heads / groupSize w
  let hi := (k + 1) * heads / groupSize w
  (List.range (hi - lo)).map (fun i => lo + i)

/-- The byte areas of a page that holds positions `[i0, i0 + n)` of its run, for a destination (R367). -/
def pageAreas (m : Model) (w : Word64) (k i0 n : Nat) : List (Nat × Nat) :=
  let g := modelGeo m
  let sc := (scaleTens g false).2 + (scaleTens g true).2
  if byPosition w then [(0, pageBytes g)]
  else (shareHeads w k g.heads).flatMap (fun h =>
    [((h * gRun g + i0) * kRow g, n * kRow g), (vBase g + h * gDim g * vRow g, gDim g * vRow g), (sBase g + h * sc, sc)])

/-- The pages that hold positions `[lo, hi)`: page, first index in the page, count. -/
def pageSpans (run lo hi : Nat) : List (Nat × Nat × Nat) :=
  if hi ≤ lo then []
  else (List.range ((hi - 1) / run - lo / run + 1)).map (fun j =>
    let b := lo / run + j
    let a := max lo (b * run)
    (b, a - b * run, min hi ((b + 1) * run) - a))

/-- The payload of a KV_PUSH: each area with its pier address and the page-list entry of its page (R367). -/
def pushPieces (m : Model) (l : PageList) (w : Word64) (k lo hi : Nat) : List ((Nat × Nat) × Nat) :=
  (List.range m.layers).flatMap (fun y =>
    (pageSpans (modelRun m) lo hi).flatMap (fun b =>
      let e := b.1 * m.layers + y
      (pageAreas m w k b.2.1 b.2.2).map (fun a => ((65536 * tget l.frames e 0 + a.1, a.2), e))))

/-- The KV_PUSH to destination `k` of a slot's group for the shipped positions `[c, c + n)`. -/
def pushTo (d : Dev) (i : Nat) (s : Slot) (m : Model) (c n k : Nat) : Option Transfer :=
  let t := slotXfer d .kvPush i s s.destGroup.toNat k
  let r := sharePos t.grp k c n
  if r.2 ≤ r.1 then none
  else
    let ps := pushPieces m s.list t.grp k r.1 r.2
    some (withFlows { t with
      pieces := ps.map (fun p => p.1), ents := ps.map (fun p => p.2), entries := (ps.map (fun p => p.2)).eraseDups, total := (ps.map (fun p => p.1.2)).sum
      posFirst := r.1, posCount := r.2 - r.1 })

/-- Change bits of the entries of a transfer whose GEN is still that of its handle (R368). -/
def touchEntries (d : Dev) (t : Transfer) (f : Word64 → Word64) : Dev :=
  match t.slot with
  | none => d
  | some i =>
    let s := getSlot d i.toNat
    if slotHandle d i.toNat ≠ t.handle.toNat || ctxDead d t.cr.toNat then d
    else
      let g := fun (w : Word64) => if fld w 28 16 = s.gen.toNat then f w else w
      let l := (match getModel d t.model with | some m => m.layers | none => 0)
      let es := t.entries.filter (fun e => e < s.list.pages * l)
      match mapEntries d t.cr.toNat s.list g es with
      | .ok d1 => touchList d1 t.cr.toNat s.list es
      | .error b => accessFault d t.cr.toNat b { unit := 2, handle := viewHandle d t.fn.toNat t.handle.toNat }

/-- Set or clear DIRTY on the entries of a transfer. -/
def setDirty (d : Dev) (t : Transfer) (on : Bool) : Dev := touchEntries d t (fun w => setFld w 47 1 (b2n on))

/-- The egress of a slot after its step's batch: one KV_PUSH for each destination that receives a position; none when the
group is no longer valid (R366, R368, R369). -/
def pushSlot (d : Dev) (i c n : Nat) : Dev :=
  let s := getSlot d i
  match getModel d s.model with
  | none => d
  | some m =>
    if n = 0 then d
    else if !groupOk d s.part.toNat s.destGroup.toNat m then cwEvent d s.cr.toNat 0x0206 (slotHandle d i) 0
    else
      (List.range (groupSize (groupWord d s.destGroup.toNat))).foldl (fun d k =>
        match pushTo d i s m c n k with
        | none => d
        | some t => setDirty (addXfer d t) t false) d

/-- A KV_PUSH whose flows have all ended is done with: frames and quarantine are released (R279). -/
def finishPush (d : Dev) (x : Nat) : Dev :=
  match getXfer d x with
  | none => d
  | some t =>
    if xferOpen t then d
    else
      let d1 := releaseLimbo (delXfer d x)
      match t.slot with
      | some i => settleSlot d1 i.toNat
      | none => d1

/-! ## How a flow ends (R361) -/

/-- The ends of a flow that its device did not decide itself: DONE, TIMED_OUT, or ended by the peer with a STATUS (0 for an
ABORT frame). -/
inductive FlowEnd where
  | done
  | timedOut
  | peer (status : Nat)
deriving DecidableEq, Repr

/-- A KV_PUSH flow ends; one that does not end DONE leaves the pages that it carried DIRTY (R365, R368). -/
def pushEnd (d : Dev) (i x : Nat) (t : Transfer) (how : FlowEnd) : Dev :=
  let ev := fun (d : Dev) (code : Nat) => cwEvent d t.cr.toNat code t.handle.toNat (flowId i (getFlow d i)).toNat
  let mine := { t with entries := flowEntries t (getFlow d i) }
  match how with
  | .done => finishPush (closeFlow d i false) x
  | .timedOut => finishPush (closeFlow (setDirty (ev d 0x0202) mine true) i false) x
  | .peer _ => finishPush (closeFlow (setDirty (ev d 0x0207) mine true) i false) x

/-! ## Pulls into pier or deck (R373 to R377) -/

/-- A pull is dropped: its model's frames return and it is not resident. -/
def dropPull (d : Dev) (x : Nat) : Dev :=
  match getXfer d x with
  | none => d
  | some t =>
    let d1 := dropTransfer d x
    match getModel d1 t.model with
    | none => d1
    | some m => framesReleased (setModel d1 t.model { m with pull := none, frames := [], resident := false }) t.part.toNat

/-- A pull or recall that has used its retries faults the context that needed it (R374, R381). -/
def pullFails (d : Dev) (x : Nat) (t : Transfer) : Dev :=
  let d1 := if t.type = .weightPull then dropPull d x else dropTier d x
  ctxFault d1 t.cr.toNat fCausewayTimeout { unit := 2, handle := if t.handle = 0 then 0 else viewHandle d1 t.fn.toNat t.handle.toNat }

/-- The lowest chunk of a flow that its transfer has not received. -/
def firstGap (t : Transfer) (f : Flow) : Option Nat :=
  ((List.range f.chunks).map (absChunk t f)).find? (fun c => !t.got.contains c)

/-- A new request for the chunks of a flow not yet received, or the failure of the transfer once PULL_RETRY of the flow is used (R374,
R386). -/
def retryFlow (d : Dev) (i x : Nat) (t : Transfer) : Dev :=
  let f := getFlow d i
  match firstGap t f with
  | none => closeFlow d i false
  | some c =>
    if f.maxRetry ≤ t.retries then pullFails (closeFlow d i false) x t
    else
      let d1 := closeFlow d i false
      match getXfer d1 x with
      | none => d1
      | some t1 =>
        setXfer d1 x { t1 with
          retries := t1.retries + 1
          toMake := t1.toMake ++ [{ stripe := f.stripe, off := t1.offset + chunkBytes * c, start := 0, dest := f.dest, lport := f.lport }] }

/-- Every flow of a WEIGHT_PULL is DONE: the model is resident (R373). -/
def pullDone (d : Dev) (x : Nat) (t : Transfer) : Dev :=
  match getModel d t.model with
  | none => delXfer d x
  | some m => setModel (delXfer d x) t.model { m with resident := true, pull := none }

/-- A flow whose chunks are all here ends; with the last of its transfer the transfer is DONE and `fin` follows. -/
def flowDone (d : Dev) (i x : Nat) (fin : Dev → Nat → Transfer → Dev) : Dev :=
  let d1 := closeFlow d i false
  match getXfer d1 x with
  | some t1 => if xferOpen t1 then d1 else fin d1 x t1
  | none => d1

/-- A WEIGHT_PULL flow ends; one that ends early is retried unless its transfer already holds all its chunks (R373, R374). -/
def pullEnd (d : Dev) (i x : Nat) (t : Transfer) (how : FlowEnd) : Dev :=
  match how with
  | .done => flowDone d i x pullDone
  | _ => if (firstGap t (getFlow d i)).isNone then flowDone d i x pullDone else retryFlow d i x t

/-! ## Recalls (R313, R381) -/

/-- Whether a tier transfer's slot still is the sequence that it began for. -/
def tierSlot (d : Dev) (t : Transfer) : Option (Nat × Slot) :=
  match t.slot with
  | none => none
  | some i => if slotHandle d i.toNat = t.handle.toNat then some (i.toNat, getSlot d i.toNat) else none

/-- Complete the SEQ_RESUME of a slot whose recall ended. -/
def answerRecall (d : Dev) (cr : Nat) (r : Option RecallCmd) (status : Nat) : Dev :=
  match r with
  | none => d
  | some q => complete d cr q.nocpl q.cmdId 0x13 status q.handle.toNat 0 0

/-- The recall is DONE: the entries name the new frames, and the slot is IDLE. -/
def recallDone (d : Dev) (x : Nat) (t : Transfer) : Dev :=
  match tierSlot d t with
  | none => delXfer d x
  | some (i, s) =>
    let fs := (t.entries.zip t.pieces).map (fun p => (p.1, p.2.1 / 65536))
    let put : Except Bad Dev := fs.foldlM (fun (d : Dev) p =>
      match readEntry d t.cr.toNat s.list p.1 with
      | .error b => .error b
      | .ok w => putEntry (chargeRead d t.cr.toNat (entryVa s.list p.1) 8) t.cr.toNat s.list p.1 (setFld (setFld (setFld w 0 20 p.2) 44 1 1) 46 1 0)) d
    match put with
    | .error b => accessFault d t.cr.toNat b { unit := 3, handle := viewHandle d t.fn.toNat t.handle.toNat }
    | .ok d1 =>
      let d2 := (match s.demote with | some y => delXfer d1 y | none => d1)
      let s1 := { s with st := .idle, remote := false, demote := none, demoteLen := 0, park := none, recallBy := none
                         list := { s.list with frames := fs ++ s.list.frames } }
      match setParked (setSlot (touchList (delXfer d2 x) t.cr.toNat s.list t.entries) i s1) i false with
      | .error b => accessFault d t.cr.toNat b { unit := 3, handle := viewHandle d t.fn.toNat t.handle.toNat }
      | .ok d3 => fencesOf (answerRecall d3 t.cr.toNat s.recallBy 0) t.cr.toNat

/-- The tier no longer has the copy: CST_EXPIRED, and the slot is freed (R313, R381). -/
def recallGone (d : Dev) (i x : Nat) (t : Transfer) : Dev :=
  let d1 := dropTier (closeFlow d i false) x
  match tierSlot d1 t with
  | none => d1
  | some (j, s) => fencesOf (releaseSlot (answerRecall d1 t.cr.toNat s.recallBy 7) j false) t.cr.toNat

/-- A TIER_RECALL flow that ended early is retried unless its transfer already holds all its chunks (R374, R381). -/
def recallAgain (d : Dev) (i x : Nat) (t : Transfer) : Dev :=
  if (firstGap t (getFlow d i)).isNone then flowDone d i x recallDone else retryFlow d i x t

/-- A TIER_RECALL flow ends. -/
def recallEnd (d : Dev) (i x : Nat) (t : Transfer) (how : FlowEnd) : Dev :=
  match how with
  | .done => flowDone d i x recallDone
  | .peer st => if st = 1 || st = 2 then recallGone d i x t else recallAgain d i x t
  | .timedOut => recallAgain d i x t

/-! ## Demotions (R311, R379) -/

/-- The demotion is DONE: the entries name no frame, the frames are released, and the tier holds the copy. The transfer stays
as the record of where the copy is until the slot is recalled or freed. -/
def demoteDone (d : Dev) (x : Nat) (t : Transfer) : Dev :=
  match tierSlot d t with
  | none => delXfer d x
  | some (i, s) =>
    if s.demote ≠ some x || s.st ≠ .parked then delXfer d x
    else
      match mapEntries d t.cr.toNat s.list (fun w => setFld (setFld (setFld w 0 20 0) 44 1 0) 46 1 1) t.entries with
      | .error b => accessFault d t.cr.toNat b { unit := 3, handle := viewHandle d t.fn.toNat t.handle.toNat }
      | .ok d1 =>
        let gone := (s.list.frames.filter (fun p => t.entries.contains p.1)).map (fun p => p.2)
        let s1 := { s with remote := true, demoteLen := t.total
                           list := { s.list with frames := s.list.frames.filter (fun p => !t.entries.contains p.1) } }
        freeFrames (setSlot (touchList d1 t.cr.toNat s.list t.entries) i s1) t.part.toNat gone

/-- A demotion is abandoned: the slot stays PARKED in pier (R379). -/
def demoteFails (d : Dev) (x : Nat) (t : Transfer) (flow : Nat) : Dev :=
  let d1 := cwEvent (dropTransfer d x) t.cr.toNat 0x0204 t.handle.toNat flow
  match tierSlot d1 t with
  | none => d1
  | some (i, s) => if s.demote = some x then setSlot d1 i { s with demote := none } else d1

/-- A TIER_DEMOTE flow ends. -/
def demoteEnd (d : Dev) (i x : Nat) (t : Transfer) (how : FlowEnd) : Dev :=
  let id := (flowId i (getFlow d i)).toNat
  match how with
  | .done => flowDone d i x demoteDone
  | .timedOut => demoteFails (closeFlow d i false) x t id
  | .peer _ => demoteFails (closeFlow (cwEvent d t.cr.toNat 0x0207 t.handle.toNat id) i false) x t id

/-! ## Prefix pulls (R383, R384) -/

/-- The slot's lookup is over, and it may be admitted. -/
def lookupOver (d : Dev) (i : Nat) : Dev := setSlot d i { getSlot d i with lookup := false }

/-- Tokens of a run of segments without the first `n`. -/
def dropSegs (l : List TokSeg) (n : Nat) : List TokSeg :=
  match l with
  | [] => []
  | g :: r =>
    if g.count ≤ n then dropSegs r (n - g.count)
    else { va := g.va + BitVec.ofNat 64 (4 * n), count := g.count - n } :: r

/-- The prefix pull is DONE: the pages are the slot's own, and its position moves past them (R384). -/
def prefixDone (d : Dev) (x : Nat) (t : Transfer) : Dev :=
  match tierSlot d t, getModel d t.model with
  | some (i, s), some m =>
    let fs := (t.entries.zip t.pieces).map (fun p => (p.1, p.2.1 / 65536))
    let put := fs.foldlM (fun (d : Dev) p =>
      putEntry d t.cr.toNat s.list p.1 (listEntry p.2 (p.1 % m.layers) s.gen.toNat true false false false)) d
    (match put with
     | .error b => accessFault d t.cr.toNat b { unit := 3, handle := viewHandle d t.fn.toNat t.handle.toNat }
     | .ok d1 =>
       let pos := t.posFirst + t.posCount
       setSlot (touchList (delXfer d1 x) t.cr.toNat s.list t.entries) i
         { s with pos := pos, segs := dropSegs s.segs t.posCount, lookup := false
                  list := { s.list with pages := max s.list.pages (pagesFor m pos), frames := fs ++ s.list.frames } })
  | _, _ => delXfer d x

/-- A prefix pull is abandoned: its frames return, and the slot goes on from what it matched (R384). -/
def prefixFails (d : Dev) (x : Nat) (t : Transfer) (flow : Nat) : Dev :=
  let d1 := cwEvent (dropTier d x) t.cr.toNat 0x0205 t.handle.toNat flow
  match tierSlot d1 t with
  | none => d1
  | some (i, _) => lookupOver d1 i

/-- A PREFIX_PULL flow ends. -/
def prefixEnd (d : Dev) (i x : Nat) (t : Transfer) (how : FlowEnd) : Dev :=
  let id := (flowId i (getFlow d i)).toNat
  match how with
  | .done => flowDone d i x prefixDone
  | _ => prefixFails (closeFlow d i false) x t id

/-- A flow ends DONE, TIMED_OUT or by its peer (R361). -/
def flowEnds (d : Dev) (i : Nat) (how : FlowEnd) : Dev :=
  let f := getFlow d i
  match getXfer d f.xfer with
  | none => setFlow d i { f with live := false }
  | some t =>
    coxSettle (match t.type with
      | .kvPush => pushEnd d i f.xfer t how
      | .weightPull => pullEnd d i f.xfer t how
      | .prefixPull => prefixEnd d i f.xfer t how
      | .tierDemote => demoteEnd d i f.xfer t how
      | .tierRecall => recallEnd d i f.xfer t how)

/-! ## CHUNK_SEND (R358, R360, R371) -/

/-- The next chunk of an egress flow: queued retransmissions first, then a new chunk within the credit. -/
def nextChunk (f : Flow) : Option (Nat × Bool) :=
  match f.resend with
  | q :: r => some (r.foldl min q, true)
  | [] => if f.next < f.chunks && f.next < f.credit then some (f.next, false) else none

/-- An egress read met a poisoned word: the flows of the transfer end ABORTED, and the frame is withdrawn (R321, R371). -/
def egressPoison (d : Dev) (i x : Nat) (t : Transfer) (w : Nat) : Dev :=
  let id := (flowId i (getFlow d i)).toNat
  let d1 := cwEvent (withdrawFrame d w) t.cr.toNat 0x0203 t.handle.toNat id
  if t.type = .tierDemote then demoteFails d1 x t id
  else
    let d2 := dropTransfer (setDirty d1 { t with entries := openEntries d1 x t } true) x
    match t.slot with
    | some j => settleSlot d2 j.toNat
    | none => d2

/-- Send chunk `q` of an egress flow, read from pier (R348, R350, R352, R360). -/
def sendData (d : Dev) (i : Nat) (f : Flow) (t : Transfer) (q : Nat) (retx : Bool) : Dev :=
  let c := absChunk t f q
  let runs := chunkRuns t c
  match runs.findSome? (fun r => pierPoison d r.1 r.2) with
  | some w => egressPoison d i f.xfer t w
  | none =>
    let bytes := runs.flatMap (fun r => pierGet d r.1 r.2)
    let last := decide (t.offset + chunkBytes * c + bytes.length = t.total)
    let fr := buildFrame d f.lport (flowDest t f) f.be (typeCode t.type) (2 * b2n last + 4 * b2n retx) q (t.offset + chunkBytes * c)
      t.total (flowId i f) f.handle (kvBody d t) bytes
    let d1 := charge (chargeCtx d t.cr.toNat 0 bytes.length) t.part.toNat 3 bytes.length t.be
    setFlow (portOut d1 f.lport fr) i (if retx then { f with resend := f.resend.erase q } else { f with next := f.next + 1 })

/-- Send the request frame of an ingress flow (R353, R360). -/
def sendRequest (d : Dev) (i : Nat) (f : Flow) (t : Transfer) (retx : Bool) : Dev :=
  portOut d f.lport (buildFrame d f.lport (flowDest t f) f.be (typeCode t.type) (1 + 4 * b2n retx) 0 f.reqOff t.total (flowId i f)
    f.handle (requestBody t f) [])

/-- What the ECC of pier reports of a read. -/
def pierEcc (d : Dev) (e : Ecc) : Dev :=
  match e with
  | .uncorrectable w => { d with pier := { d.pier with poison := if d.pier.poison.contains w then d.pier.poison else w :: d.pier.poison } }
  | _ => d

/-- A live flow with its transfer, while the causeway works. -/
def openFlow (d : Dev) (i : Nat) : Option (Flow × Transfer) :=
  let f := getFlow d i
  if !alive d || !f.live then none else (getXfer d f.xfer).map (fun t => (f, t))

/-- Whether a flow has a data or request frame queued that its pacing rate lets go (R358, R362). -/
def queued (d : Dev) (i : Nat) (f : Flow) : Bool :=
  f.live && decide (f.paceAt ≤ (d.now.toNat : Rat)) && (if isIngress i then !f.reqSent else (nextChunk f).isSome)

/-- The flow whose data or request frame a logical port sends next: LC before BE, the flows of a class in turn by frame (R362). ACK and
ABORT frames are sent at once, ahead of these. -/
def portNext (d : Dev) (l : Nat) : Option Nat :=
  let qs := d.cwy.flows.filter (fun p => p.2.lport = l && queued d p.1 p.2)
  let be := !qs.any (fun p => !p.2.be)
  let is := (qs.filter (fun p => p.2.be = be)).map (fun p => p.1)
  match tfind d.cwy.served (2 * l + b2n be) with
  | none => is.head?
  | some j => match is.find? (fun i => decide (j < i)) with | some i => some i | none => is.head?

/-- A flow after a frame of `n` bytes: its rate holds the next one for the frame's time on the wire, preamble and gap included (R362; log
95). -/
def paced (now : Nat) (n : Nat) (f : Flow) : Flow := { f with paceAt := (now : Rat) + 8 * ((n : Rat) + 20) / (10 * f.rate) }

/-- Note that a flow's data or request frame was sent: its turn, and its pacing. -/
def noteSent (d : Dev) (i n : Nat) : Dev :=
  let f := getFlow d i
  setFlow { d with cwy := { d.cwy with served := tset d.cwy.served (2 * f.lport + b2n f.be) i } } i (paced d.now.toNat n f)

/-- Bytes of a frame of a flow with `n` bytes of payload. -/
def flowSize (d : Dev) (t : Transfer) (f : Flow) (n : Nat) : Nat :=
  frameSize (destEncap (flowDest t f)) n (dq (flowDest t f) 0 60 1 = 1) (macsecOn d f.lport)

/-- CHUNK_SEND: the next data frame of an egress flow, or the request of an ingress flow, when it is the port's next frame. -/
def chunkSendD (i : Nat) (e : Ecc) (d : Dev) : Dev :=
  match openFlow d i with
  | none => d
  | some (f, t) =>
    if portNext d f.lport ≠ some i then d
    else if isIngress i then noteSent (setFlow (sendRequest d i f t false) i { f with reqSent := true }) i (flowSize d t f 0)
    else
      match nextChunk f with
      | none => d
      | some (q, retx) =>
        coxSettle (noteSent (sendData (pierEcc d e) i f t q retx) i (flowSize d t f (chunkLen t (absChunk t f q))))

/-- CHUNK_SEND (R358). -/
def execChunkSend (flow : BitVec 15) (e : Ecc) (s : State) : Answer := onDev s (chunkSendD flow.toNat e)

/-! ## Arriving frames (R364, R365) -/

/-- A stale frame is recorded once for consecutive ones of its FLOW, for the context that owns or last owned its HANDLE's slot;
of a weight pull in the device event ring (R365). -/
def staleFrame (d : Dev) (f : Frame) : Dev :=
  if d.cwy.lastStale = some f.flow then d
  else
    let d1 := { d with cwy := { d.cwy with lastStale := some f.flow } }
    if f.handle = 0 then devRecord d1 0x0201 0 0 { unit := 2, detail := f.flow.toNat }
    else
      match (getSlot d1 (f.handle.toNat % 65536)).owner with
      | none => d1
      | some cr => cwEvent d1 cr.toNat 0x0201 f.handle.toNat f.flow.toNat

/-- A frame arrives: the port, then the causeway, then the flow that it names takes it (R364, R365, R396). -/
def arrives (d : Dev) (l : Nat) (f : Frame) (k : Dev → Nat → Flow → Dev) : Dev :=
  match portIn d l f with
  | none => d
  | some d1 =>
    if !causewayOk d1 f then d1
    else
      match liveFlow d1 f with
      | none => staleFrame d1 f
      | some (i, r) =>
        if r.use.toNat ≠ flowUse f || r.handle ≠ f.handle then staleFrame d1 f
        else k { d1 with cwy := { d1.cwy with lastStale := none } } i r

/-- The kinds of frame that the commands of arrival distinguish. -/
def isRequestKind (f : Frame) : Bool := fREQ f || f.type = 1 || f.type = 4
def isAbortKind (f : Frame) : Bool := fABORT f && !isRequestKind f && decide (1 ≤ f.type.toNat) && decide (f.type.toNat ≤ 6)
def isAckKind (f : Frame) : Bool := f.type = 6 && !fABORT f && !fREQ f
def isDataKind (f : Frame) : Bool := (f.type = 2 || f.type = 3 || f.type = 5) && !fABORT f && !fREQ f

/-- An ACK reaches its flow: what it covers is taken and reported, then a STATUS other than OK ends the flow (R358, R360 to R362,
R370). -/
def ackFlow (fr : Frame) (d : Dev) (i : Nat) (f : Flow) : Dev :=
  let st := ackStatus fr
  match getXfer d f.xfer with
  | none => d
  | some t =>
    if isIngress i then (if st = 0 then d else flowEnds d i (.peer st))
    else
      let g := takeAck f (ackCum fr) (ackSack fr) (ackCredit fr)
      let new := newlyAcked f g
      let g0 := if new.isEmpty then g else { g with progressAt := d.now }
      let g1 := if fECE fr && bitOf (reg d 0x0800010) 28 then cutRate d g0 else g0
      let d1 := if t.type = .kvPush then addTap d true t ((new.map (fun q => chunkLen t (absChunk t f q))).sum) else d
      if st ≠ 0 then flowEnds (setFlow d1 i g1) i (.peer st)
      else if f.chunks ≤ g.cum then flowEnds (setFlow d1 i g1) i .done
      else setFlow d1 i (gapResend d.now.toNat g1)

/-- ACK_FRAME_ARRIVAL. -/
def ackArrivalD (l : Nat) (f : Frame) (d : Dev) : Dev := if isAckKind f then arrives d l f (ackFlow f) else d

/-- ACK_FRAME_ARRIVAL (R358). -/
def execAckFrameArrival (l : Nat) (f : Frame) (s : State) : Answer := onObj l 160 s (ackArrivalD l f)

/-- Write received bytes to the pier runs of a chunk. -/
def putRuns (d : Dev) (runs : List (Nat × Nat)) (bs : List Byte) : Dev :=
  match runs with
  | [] => d
  | (a, n) :: r => putRuns (pierPut d a (bs.take n)) r (bs.drop n)

/-- Write the bytes of an image chunk that a deck map entry covers (R376, R377). -/
def deckChunk (cr : Nat) (off : Nat) (bs : List Byte) (d : Dev) (e : DeckEnt) : Except Bad Dev :=
  let lo := max off e.imgOff
  let hi := min (off + bs.length) (e.imgOff + e.len)
  let va := 0x4000000000 + e.tile.toNat * 0x100000 + 4 * e.word.toNat + (lo - e.imgOff)
  if hi ≤ lo then .ok d
  else if (tileUnits (va % 0x100000) (hi - lo)).any (fun u => (gateOf (getTile d e.tile.toNat) u).st ≠ .on) then .error ⟨fDmaTargetOff, va, 0⟩
  else
    let part := (bs.drop (lo - off)).take (hi - lo)
    writePages d cr none va (part ++ List.replicate (alignUp part.length 4 - part.length) 0)
      ((tileUnits (va % 0x100000) (hi - lo)).map (fun u => (e.tile.toNat, u))) 3

/-- Write a received chunk where its transfer puts it (R373, R377, R381, R383). -/
def storeChunk (d : Dev) (t : Transfer) (c : Nat) (bs : List Byte) : Except Bad Dev :=
  match t.type with
  | .weightPull =>
    (match getModel d t.model with
     | none => .ok d
     | some m =>
       let o := chunkBytes * c
       if m.deck = [] then
         .ok (charge (pierPut d (m.frames.getD (o / 0x2000000) 0 * 65536 + o % 0x2000000) bs) t.part.toNat 0 bs.length t.be)
       else m.deck.foldlM (deckChunk t.cr.toNat o bs) d)
  | _ => .ok (charge (putRuns d (chunkRuns t c) bs) t.part.toNat 0 bs.length t.be)

/-- A data chunk reaches its flow: written once, acknowledged as R359 says (R370). -/
def dataFlow (fr : Frame) (d : Dev) (i : Nat) (f : Flow) : Dev :=
  match getXfer d f.xfer with
  | none => d
  | some t =>
    if !isIngress i || !chunkMatches t f fr then d
    else
      let q := fr.seq.toNat
      let c := absChunk t f q
      let ce := fr.encap ≠ 0 && fr.ecn = 3
      if hasChunk f q then sendAck (setFlow d i { f with unacked := 0 }) i t f ce 0
      else
        let fresh := !t.got.contains c
        match if fresh then storeChunk d t c fr.payload else .ok d with
        | .error b => if b.code = 0 then d else accessFault d t.cr.toNat b { unit := 2 }
        | .ok d1 =>
          let d2 := if fresh && t.type = .weightPull then addTap d1 false t fr.payload.length else d1
          let d3 := setXfer d2 f.xfer { t with got := if fresh then c :: t.got else t.got }
          let g : Flow := { noteChunk f q with progressAt := d.now }
          let fin := decide (f.chunks ≤ g.cum)
          let ack := q ≠ f.cum || f.above.any (fun a => decide (q < a)) || fLAST fr || ce || fin || decide (16 ≤ g.unacked)
          let d4 := if ack then sendAck (setFlow d3 i { g with unacked := 0 }) i t g ce 0 else setFlow d3 i g
          if fin then flowEnds d4 i .done else d4

/-- DATA_FRAME_ARRIVAL. -/
def dataArrivalD (l : Nat) (f : Frame) (d : Dev) : Dev := if isDataKind f then arrives d l f (dataFlow f) else d

/-- DATA_FRAME_ARRIVAL (R359). -/
def execDataFrameArrival (l : Nat) (f : Frame) (s : State) : Answer := onObj l 160 s (dataArrivalD l f)

/-- ABORT_FRAME_ARRIVAL: the peer ends the flow. -/
def abortArrivalD (l : Nat) (f : Frame) (d : Dev) : Dev :=
  if isAbortKind f then arrives d l f (fun d i _ => flowEnds d i (.peer 0)) else d

/-- ABORT_FRAME_ARRIVAL (R361). -/
def execAbortFrameArrival (l : Nat) (f : Frame) (s : State) : Answer := onObj l 160 s (abortArrivalD l f)

/-- REQUEST_FRAME_ARRIVAL: discarded without record; a MACsec port has counted it (R364, R401). -/
def requestArrivalD (l : Nat) (f : Frame) (d : Dev) : Dev :=
  if isRequestKind f then
    match portIn d l f with
    | none => d
    | some d1 => d1
  else d

/-- REQUEST_FRAME_ARRIVAL (R364). -/
def execRequestFrameArrival (l : Nat) (f : Frame) (s : State) : Answer := onObj l 160 s (requestArrivalD l f)

/-- FRAME_DISCARD: a frame that the port refuses changes nothing; one of no kind that the causeway takes is discarded after the
port has accepted it (R364, R396, R401). -/
def frameDiscardD (l : Nat) (f : Frame) (d : Dev) : Dev :=
  if isRequestKind f || isAbortKind f || isAckKind f || isDataKind f then d
  else
    match portIn d l f with
    | none => d
    | some d1 => d1

/-- FRAME_DISCARD (R396). -/
def execFrameDiscard (l : Nat) (f : Frame) (s : State) : Answer := onObj l 160 s (frameDiscardD l f)

/-! ## Timers (R359 to R362) -/

/-- ACK_TIMER_EXPIRY: chunks not yet acknowledged are. -/
def ackTimerD (i : Nat) (d : Dev) : Dev :=
  match openFlow d i with
  | none => d
  | some (f, t) => if !isIngress i || f.unacked = 0 then d else sendAck (setFlow d i { f with unacked := 0 }) i t f false 0

/-- ACK_TIMER_EXPIRY (R359). -/
def execAckTimerExpiry (flow : BitVec 15) (s : State) : Answer := onDev s (ackTimerD flow.toNat)

/-- RTO_EXPIRY: the lowest unacknowledged chunk and every chunk missing below the highest one acknowledged are queued to be
sent again, and the next interval doubles. -/
def rtoD (i : Nat) (d : Dev) : Dev :=
  match openFlow d i with
  | none => d
  | some (f, _) =>
    if isIngress i || f.next ≤ f.cum then d
    else
      let top := f.above.foldl max 0
      let miss := (List.range f.next).filter (fun q => f.cum ≤ q && !f.above.contains q && (q = f.cum || q < top))
      setFlow d i { f with resend := miss, rtoUs := min 1024 (2 * f.rtoUs) }

/-- RTO_EXPIRY (R360). -/
def execRtoExpiry (flow : BitVec 15) (s : State) : Answer := onDev s (rtoD flow.toNat)

/-- Whether a logical port may send a request again now: no frame of an LC transfer is queued before one of a BE transfer (R362). -/
def mayRepeat (d : Dev) (f : Flow) : Bool := !f.be || !d.cwy.flows.any (fun p => p.2.lport = f.lport && !p.2.be && queued d p.1 p.2)

/-- REQUEST_RETRANSMIT: a request that drew no data is sent again with RETX. -/
def requestAgainD (i : Nat) (d : Dev) : Dev :=
  match openFlow d i with
  | none => d
  | some (f, t) =>
    if !isIngress i || !f.reqSent || f.cum ≠ 0 || f.above ≠ [] || !mayRepeat d f then d else sendRequest d i f t true

/-- REQUEST_RETRANSMIT (R360). -/
def execRequestRetransmit (flow : BitVec 15) (s : State) : Answer := onDev s (requestAgainD flow.toNat)

/-- Whether a flow's TIMEOUT has passed with no progress (R361). -/
def stalled (d : Dev) (f : Flow) : Bool := decide (f.progressAt.toNat + 100 * f.timeoutUs ≤ d.now.toNat)

/-- FLOW_TIMEOUT: the flow ends TIMED_OUT. -/
def flowTimeoutD (i : Nat) (d : Dev) : Dev :=
  match openFlow d i with
  | none => d
  | some (f, _) => if stalled d f then flowEnds d i .timedOut else d

/-- FLOW_TIMEOUT (R361). -/
def execFlowTimeout (flow : BitVec 15) (s : State) : Answer := onDev s (flowTimeoutD flow.toNat)

/-- RATE_INCREASE: the pacing rate rises by RATE_AI, up to the port's rate. -/
def rateD (i : Nat) (d : Dev) : Dev :=
  match openFlow d i with
  | none => d
  | some (f, _) =>
    if isIngress i then d
    else setFlow d i { f with rate := min (f.rate + (fld (reg d 0x0800010) 0 8 : Nat)) (portRate d f.lport : Nat) }

/-- RATE_INCREASE (R362). -/
def execRateIncrease (flow : BitVec 15) (s : State) : Answer := onDev s (rateD flow.toNat)

end Sys2Proof.Machine
end

