-- ==== Sys2Proof/Machine/Commands.lean ====
section
/-! DEFINITION. The commands of a context's command ring but for the registration of models: taking an entry, the checks of its
reserved bits, and what each command does (R277, R299, R310 to R313, R480 to R494). -/

namespace Sys2Proof.Machine

open Sys2Proof

/-! ## Taking a command (R480, R482, R483, R486, R487, R493) -/

/-- A command taken from a ring: its context record, function and entry. -/
structure Taken where
  cr : Nat
  fn : Nat
  e  : List Byte
deriving DecidableEq, Repr

/-- Fields of an entry's header. -/
def cOp (t : Taken) : Nat := leAt t.e 0 1
def cFlags (t : Taken) : Nat := leAt t.e 1 1
def cNocpl (t : Taken) : Bool := (cFlags t).testBit 0
def cId (t : Taken) : Word32 := BitVec.ofNat 32 (leAt t.e 4 4)
def cHandle (t : Taken) : Nat := leAt t.e 8 4

/-- Opcodes of R487. -/
def knownOps : List Nat := [0x01, 0x10, 0x11, 0x12, 0x13, 0x14, 0x15, 0x20, 0x21, 0x30]

/-- The bytes 12 to 63 that an opcode gives a meaning: byte and mask (R487 to R492). -/
def bodyMask (op : Nat) : List (Nat × Nat) :=
  let span := fun (lo hi : Nat) => (List.range (hi + 1 - lo)).map (fun i => (lo + i, 0xFF))
  match op with
  | 0x01 => [(12, 0xFF), (13, 0x3F)] ++ span 16 23
  | 0x10 => [(12, 0xFF), (13, 0x3F)] ++ span 14 44 ++ [(45, 0x1F)] ++ span 46 55
  | 0x11 => [(12, 0x3F), (13, 0xFF), (14, 0x01)] ++ span 16 44 ++ span 48 63
  | 0x12 => span 12 16
  | 0x20 => span 12 26 ++ span 28 51
  | 0x21 => [(12, 0xFF), (13, 0x3F)] ++ span 32 43
  | 0x30 => [(12, 0x01)]
  | _ => []

/-- The mask of byte `i` of an entry of an opcode. -/
def byteMask (op i : Nat) : Nat :=
  if i = 0 then 0xFF
  else if i = 1 then (if op = 0x01 then 3 else 1)
  else if i < 4 then 0
  else if i < 12 then 0xFF
  else ((bodyMask op).map (fun p => if p.1 = i then p.2 else 0)).sum

/-- Whether every reserved byte and bit of an entry is zero (R486). -/
def reservedOk (e : List Byte) : Bool :=
  (e.zipIdx).all (fun p => decide (p.1.toNat &&& (0xFF - byteMask (leAt e 0 1) p.2) = 0))

/-- Complete a taken command with a status; a slot command returns its handle (R494). -/
def reply (d : Dev) (t : Taken) (status : Nat) : Dev :=
  complete d t.cr (cNocpl t) (cId t) (cOp t) status (if 0x11 ≤ cOp t ∧ cOp t ≤ 0x15 then cHandle t else 0) 0 0

/-- Advance CONS of a ring and write it back (R480): the device after it, and the access that failed, if one did. CONS has then
advanced all the same (log 94). -/
def advanceCons (d : Dev) (k cr : Nat) : Dev × Option Bad :=
  let x := getRing d k
  let d1 := setRing d k { x with cons := x.cons + 1 }
  if x.wb = 0 then (d1, none)
  else
    match writeVa d1 cr none x.wb.toNat (toLe 8 (x.cons + 1).toNat) with
    | .ok d2 => (d2, none)
    | .error b => (d1, some b)

/-- Whether Cox may take a command of a context's ring: its function is the PF or a bound VF, the context exists and is not FAULTED, the
ring is in use and holds an entry, and the completion ring is not full (R474, R481, R483, R493). -/
def mayTake (d : Dev) (cr k : Nat) : Bool :=
  let q := getRing d (complRing d cr)
  alive d && (ringFn k = 0 || vfBound d (ringFn k)) && !ctxDead d cr && ringUsable (getRing d k) && (getRing d k).prod ≠ (getRing d k).cons &&
    (!ringUsable q || (ringFree q ≠ 0 && (getSteps d cr).owed = []))

/-- Take the entry at CONS of a context's command ring when `want` accepts it or its opcode is not listed; a listed opcode
then takes effect by `act` (R486, R487). -/
def takeCmd (d : Dev) (fn vctx : Nat) (want : List Byte → Bool) (act : Dev → Taken → Dev) : Dev :=
  match ctxOf d fn vctx with
  | none => d
  | some cr =>
    let k := ringKey fn vctx 0
    if !mayTake d cr k then d
    else
      let x := getRing d k
      match readVa d cr none (x.ba.toNat + 64 * (x.cons.toNat % ringSize x)) 64 with
      | .error b => ringFault d k cr b
      | .ok e =>
        let t : Taken := { cr := cr, fn := fn, e := e }
        let known := knownOps.contains (leAt e 0 1)
        if known && !want e then d
        else
          match advanceCons (chargeRead d cr x.ba.toNat 64) k cr with
          | (d1, some b) => if b.code = 0 then d else ringFault d1 k cr b
          | (d1, none) => coxSettle (if !known || !reservedOk e then reply d1 t 8 else act d1 t)

/-- An entry with an opcode. -/
def entryOp (op : Nat) (e : List Byte) : Bool := decide (leAt e 0 1 = op)

/-! ## Naming a slot (R277, R314) -/

/-- The device slot of a command's handle, or the status of the first check that it fails. -/
def slotOf (d : Dev) (t : Taken) : Except Nat Nat :=
  let w := vfWin d t.fn
  let s := cHandle t % 65536
  if w.2 ≤ s then .error 2
  else
    let i := w.1 + s
    let x := getSlot d i
    if x.st = .free || x.gen.toNat ≠ cHandle t / 65536 then .error 1
    else if x.st = .quarantined then .error 4
    else .ok i

/-- A command on a slot: the check of its handle, then its effect. -/
def onSlot (d : Dev) (t : Taken) (act : Nat → Slot → Dev) : Dev :=
  match slotOf d t with
  | .error st => reply d t st
  | .ok i => act i (getSlot d i)

/-- The device model of a function's virtual model ID (R478). -/
def modelOf (d : Dev) (fn vid : Nat) : Option Nat := tfind d.cox.vmods (fn * 16384 + vid)

/-- Whether the slot speculates (R301). -/
def speculates (d : Dev) (s : Slot) : Bool :=
  decide (1 ≤ s.depth) && decide (s.depth ≤ 8) && (match getModel d s.model with | some m => m.draft.isSome | none => false)

/-- Queue a lookup for a slot that was given prompt tokens at position 0 with its prefix option set; the slot waits for it
(R332, R383). -/
def queueLookup (d : Dev) (i : Nat) : Dev :=
  let s := getSlot d i
  let p := s.part.toNat
  if (s.usePrefix || s.pullObj.isSome) && s.pos = 0 && !s.lookup && !s.segs.isEmpty then
    let d1 := setSlot d i { s with lookup := true }
    { d1 with key := { d1.key with ops := tset d1.key.ops p (tget d1.key.ops p [] ++ [.lookup (BitVec.ofNat 16 i) s.gen]) } }
  else d

/-! ## SEQ_ADD (R277, R489) -/

/-- The slot that SEQ_ADD sets up. -/
def newSlot (d : Dev) (t : Taken) (s : Slot) (m : Nat) (mo : Model) : Slot :=
  let b := leAt t.e 45 1
  let n := leAt t.e 40 4
  { Slot.init with
    gen := s.gen, st := .idle, owner := some (BitVec.ofNat 12 t.cr), cr := BitVec.ofNat 12 t.cr, fn := BitVec.ofNat 6 t.fn
    part := (getCtx d t.cr).part, model := m, be := b.testBit 0
    segs := if n = 0 then [] else [{ va := BitVec.ofNat 64 (leAt t.e 32 8), count := n }]
    deadline := BitVec.ofNat 64 (leAt t.e 16 8), dropLate := b.testBit 2, depth := leAt t.e 44 1 % 16, depthMax := leAt t.e 44 1 / 16
    sample := b.testBit 1, key := BitVec.ofNat 64 (leAt t.e 24 8), destGroup := BitVec.ofNat 8 (leAt t.e 14 1)
    tierGroup := BitVec.ofNat 8 (leAt t.e 15 1), usePrefix := b.testBit 3
    pullObj := if b.testBit 4 && decide (mo.runLog2 ≤ 6) then some (BitVec.ofNat 64 (leAt t.e 48 8), leAt t.e 46 2) else none }

/-- SEQ_ADD: the slot is FREE, the parameters in range, the model known and its group valid. -/
def seqAddT (d : Dev) (t : Taken) : Dev :=
  let w := vfWin d t.fn
  let s := cHandle t % 65536
  let i := w.1 + s
  let x := getSlot d i
  if w.2 ≤ s then reply d t 2
  else if x.st = .quarantined then reply d t 4
  else if x.st ≠ .free then reply d t 3
  else if 262144 < leAt t.e 40 4 || 8 < leAt t.e 44 1 % 16 || 8 < leAt t.e 44 1 / 16 then reply d t 8
  else
    match modelOf d t.fn (leAt t.e 12 2) with
    | none => reply d t 9
    | some m =>
      match getModel d m with
      | none => reply d t 9
      | some mo =>
        if mo.sampleVa = 0 then reply d t 8
        else if !groupOk d (getCtx d t.cr).part.toNat (leAt t.e 14 1) mo then reply d t 0xC
        else
          let y := newSlot d t x m mo
          let d1 := setSlot d i y
          let d2 := queueLookup (if y.segs.isEmpty then d1 else makeReady d1 [i]) i
          complete d2 t.cr (cNocpl t) (cId t) 0x10 0 (viewHandle d2 t.fn (slotHandle d2 i)) 0 0

/-- SEQ_ADD. -/
def seqAddD (fn vctx : Nat) (d : Dev) : Dev := takeCmd d fn vctx (entryOp 0x10) seqAddT

/-- SEQ_ADD (R277). -/
def execSeqAdd (fn : Func) (vctx : VCtx) (s : State) : Answer := onDev s (seqAddD fn.toNat vctx.toNat)

/-! ## SEQ_APPEND (R308, R490) -/

/-- The parent of node `i` in the token tree that an entry names, and whether its reserved bits are zero. -/
def treeNode (bs : List Byte) (i : Nat) : Nat × Bool :=
  let w : Word64 := BitVec.ofNat 64 (leAt bs (8 * (i - 1)) 8)
  (fld w 32 6, fld w 38 26 = 0)

/-- Whether a token tree is one: every node but node 0 has a parent below it (R308). -/
def treeOk (bs : List Byte) (n : Nat) : Bool :=
  (List.range (n - 1)).all (fun j => decide ((treeNode bs (j + 1)).1 < j + 1) && (treeNode bs (j + 1)).2)

/-- A slot after the fields that SEQ_APPEND selects. -/
def appendTo (t : Taken) (s : Slot) : Slot :=
  let b := leAt t.e 12 1
  let n := leAt t.e 40 4
  let s1 := if b.testBit 0 then { s with deadline := BitVec.ofNat 64 (leAt t.e 16 8) } else s
  let s2 := if b.testBit 1 then { s1 with dropLate := b.testBit 2 } else s1
  let s3 := if b.testBit 3 then
      { s2 with depth := leAt t.e 13 1 % 16, depthMax := leAt t.e 13 1 / 16, sample := (leAt t.e 14 1).testBit 0 } else s2
  let s4 := if b.testBit 4 then { s3 with key := BitVec.ofNat 64 (leAt t.e 24 8) } else s3
  let s5 := if b.testBit 5 then
      { s4 with tree := some { nodes := leAt t.e 44 1, va := BitVec.ofNat 64 (leAt t.e 48 8), outVa := BitVec.ofNat 64 (leAt t.e 56 8) } } else s4
  if n = 0 then s5 else { s5 with segs := s5.segs ++ [{ va := BitVec.ofNat 64 (leAt t.e 32 8), count := n }] }

/-- Whether the fields of SEQ_APPEND are in range, but for the tree's nodes. -/
def appendOk (t : Taken) (s : Slot) : Bool :=
  let b := leAt t.e 12 1
  let mode := if b.testBit 3 then (leAt t.e 14 1).testBit 0 else s.sample
  decide (leAt t.e 40 4 ≤ 262144) && (!b.testBit 3 || (decide (leAt t.e 13 1 % 16 ≤ 8) && decide (leAt t.e 13 1 / 16 ≤ 8))) &&
    (!b.testBit 5 || (decide (leAt t.e 40 4 = 0) && decide (2 ≤ leAt t.e 44 1) && decide (leAt t.e 44 1 ≤ 64) && !mode))

/-- The effect of SEQ_APPEND on a slot: an IDLE or READY slot is READY, with or without tokens (R277, R298). -/
def appendSlot (d : Dev) (t : Taken) (i : Nat) (s : Slot) : Dev :=
  let y := appendTo t s
  let d1 := setSlot d i y
  let d2 := if s.st = .idle then makeReady d1 [i] else d1
  let d3 := if leAt t.e 40 4 = 0 then d2 else queueLookup d2 i
  reply d3 t 0

/-- SEQ_APPEND. -/
def seqAppendT (d : Dev) (t : Taken) : Dev :=
  onSlot d t (fun i s =>
    if s.st ≠ .idle && s.st ≠ .ready && s.st ≠ .active then reply d t 5
    else if !appendOk t s then reply d t 8
    else if !(leAt t.e 12 1).testBit 5 then appendSlot d t i s
    else
      match readVaC d t.cr none (leAt t.e 48 8) (8 * (leAt t.e 44 1 - 1)) with
      | .error b => accessFault d t.cr b { unit := 3, handle := cHandle t }
      | .ok (d1, bs) => if treeOk bs (leAt t.e 44 1) then appendSlot d1 t i s else reply d1 t 8)

/-- Whether a read of a context's memory waits for a WAKING unit (R151); the command that makes it is then not taken yet. -/
def readWaits (d : Dev) (fn vctx va n : Nat) : Bool :=
  match ctxOf d fn vctx with
  | none => false
  | some cr => match readVa d cr none va n with | .error b => b.code = 0 | .ok _ => false

/-- SEQ_APPEND. -/
def seqAppendD (fn vctx : Nat) (d : Dev) : Dev :=
  takeCmd d fn vctx (fun e => entryOp 0x11 e &&
    !((leAt e 12 1).testBit 5 && readWaits d fn vctx (leAt e 48 8) (8 * (leAt e 44 1 - 1)))) seqAppendT

/-- SEQ_APPEND (R490). -/
def execSeqAppend (fn : Func) (vctx : VCtx) (s : State) : Answer := onDev s (seqAppendD fn.toNat vctx.toNat)

/-! ## Parking (R310 to R313) -/

/-- Park a slot: its entries are PARKED and its time to live runs (R310, R338). -/
def parkSlot (d : Dev) (i : Nat) (q : ParkReq) : Dev :=
  let s := getSlot d i
  match setParked d i true with
  | .error b => accessFault d s.cr.toNat b { unit := 3, handle := viewHandle d s.fn.toNat (slotHandle d i) }
  | .ok d1 =>
    parkBit (setSlot d1 i { s with st := .parked, park := some q, parkPend := none, parkedAt := d.now, tierGroup := q.group }) i

/-- The parking that a SEQ_PARK asks for: its time to live counts from the command (R310). -/
def parkReq (d : Dev) (t : Taken) : ParkReq :=
  { group := BitVec.ofNat 8 (leAt t.e 16 1), expiry := d.now + BitVec.ofNat 64 (100000 * leAt t.e 12 4) }

/-- SEQ_PARK. -/
def seqParkT (d : Dev) (t : Taken) : Dev :=
  onSlot d t (fun i s =>
    let q := parkReq d t
    match s.st with
    | .cancelling => reply d t 5
    | .recalling => reply d t 5
    | st =>
      if leAt t.e 12 4 = 0 then reply d t 8
      else
        match st with
        | .active => reply (setSlot d i { s with parkPend := some q }) t 0
        | .parked => reply (setSlot d i { s with park := some q, tierGroup := q.group }) t 0
        | _ => reply (parkSlot d i q) t 0)

/-- SEQ_PARK. -/
def seqParkD (fn vctx : Nat) (d : Dev) : Dev := takeCmd d fn vctx (entryOp 0x12) seqParkT

/-- SEQ_PARK (R310). -/
def execSeqPark (fn : Func) (vctx : VCtx) (s : State) : Answer := onDev s (seqParkD fn.toNat vctx.toNat)

/-- Resume a slot held in pier: IDLE at once; a demotion that runs goes on (R311, R313). -/
def resumeInPier (d : Dev) (i : Nat) (s : Slot) : Dev :=
  match setParked d i false with
  | .error b => accessFault d s.cr.toNat b { unit := 3, handle := viewHandle d s.fn.toNat (slotHandle d i) }
  | .ok d1 => unparkBit (setSlot d1 i { s with st := .idle, park := none, demote := none }) i

/-- The recall of a demoted slot into reserved frames, from the destination that holds the copy, by the group's registers as they are now
(R313, R381, R388). -/
def recallXfer (d : Dev) (i : Nat) (s : Slot) (m : Model) (was : Transfer) (fs : List Nat) : Transfer :=
  withFlows { slotXfer d .tierRecall i s was.gnum was.dest with
    total := was.total, entries := was.entries, pieces := fs.map (fun f => (65536 * f, modelPage m)) }

/-- Start the recall of a demoted slot, or CST_FRAMES. A group that is no longer valid fails the recall as a pull fails (R369, R373, R374,
R381; log 95). -/
def startRecall (d : Dev) (t : Taken) (i : Nat) (s : Slot) (x : Nat) : Dev :=
  match getXfer d x, getModel d s.model with
  | some was, some m =>
    if !groupBase d s.part.toNat was.gnum || groupSize (groupWord d was.gnum) ≤ was.dest then
      ctxFault (cwEvent d s.cr.toNat 0x0206 (slotHandle d i) 0) s.cr.toNat fCausewayTimeout
        { unit := 2, handle := viewHandle d s.fn.toNat (slotHandle d i) }
    else
    (match takeFrames d s.part.toNat was.entries.length with
     | none => reply d t 6
     | some (fs, d0) =>
       let d1 := cleanFrames d0 s.cr.toNat fs
       let r : RecallCmd := { cmdId := cId t, serial := d.cox.serial, nocpl := cNocpl t, handle := BitVec.ofNat 32 (cHandle t) }
       let d2 := unparkBit (setSlot d1 i { s with st := .recalling, park := none, recallBy := some r }) i
       addXfer { d2 with cox := { d2.cox with serial := d2.cox.serial + 1 } } (recallXfer d2 i s m was fs))
  | _, _ => d

/-- SEQ_RESUME. -/
def seqResumeT (d : Dev) (t : Taken) : Dev :=
  onSlot d t (fun i s =>
    if s.st ≠ .parked then reply d t 5
    else
      match s.remote, s.demote with
      | true, some x => startRecall d t i s x
      | _, _ => reply (resumeInPier d i s) t 0)

/-- SEQ_RESUME. -/
def seqResumeD (fn vctx : Nat) (d : Dev) : Dev := takeCmd d fn vctx (entryOp 0x13) seqResumeT

/-- SEQ_RESUME (R313). -/
def execSeqResume (fn : Func) (vctx : VCtx) (s : State) : Answer := onDev s (seqResumeD fn.toNat vctx.toNat)

/-! ## Cancelling and retiring (R277, R299, R300, R382) -/

/-- Cancel a slot's work in one step: CANCELLED is set in its entry and its row-exclusive tasks are withdrawn, unless every
completion record of the step is written (R287, R299, R300). -/
def cancelIn (d : Dev) (cr i : Nat) (num : Nat) : Dev :=
  match stepOf d cr num with
  | none => d
  | some st =>
    match findEntry d st i with
    | none => d
    | some (e, a) =>
      if st.phase = .recorded || st.phase = .written || a.cancelled then d
      else withdrawTasks (cancelEntry d cr st e a false) (BitVec.ofNat 12 cr) (fun w => w.step = num && w.excl = some e)

/-- Cancel a slot in every step that holds it. -/
def cancelSteps (d : Dev) (cr i : Nat) : Dev :=
  ([(getSteps d cr).cur, (getSteps d cr).nxt].filterMap id).foldl (fun d st => cancelIn d cr i st.num) d

/-- The completion of a SEQ_RESUME whose recall a cancellation abandons: the spec states no status for it, a free value
(log 6). -/
def abandonRecall (d : Dev) (s : Slot) : Dev :=
  match s.recallBy with
  | none => d
  | some _ => answerRecall { d with fresh := d.fresh + 1 } s.cr.toNat s.recallBy ((Config.freeWord d.fresh).toNat % 65536)

/-- SEQ_CANCEL. -/
def seqCancelT (d : Dev) (t : Taken) : Dev :=
  onSlot d t (fun i s =>
    match s.st with
    | .active =>
      if s.leaving then reply (releaseSlot d i false) t 0
      else reply (cancelSteps (setSlot d i { s with st := .cancelling }) s.cr.toNat i) t 0
    | .cancelling => reply d t 0
    | .recalling => fencesOf (reply (releaseSlot (abandonRecall d s) i false) t 0) s.cr.toNat
    | _ => reply (releaseSlot d i false) t 0)

/-- SEQ_CANCEL. -/
def seqCancelD (fn vctx : Nat) (d : Dev) : Dev := takeCmd d fn vctx (entryOp 0x14) seqCancelT

/-- SEQ_CANCEL (R299). -/
def execSeqCancel (fn : Func) (vctx : VCtx) (s : State) : Answer := onDev s (seqCancelD fn.toNat vctx.toNat)

/-- SEQ_RETIRE. -/
def seqRetireT (d : Dev) (t : Taken) : Dev :=
  onSlot d t (fun i s =>
    match s.st with
    | .active => reply (setSlot d i { s with retirePend := true }) t 0
    | .cancelling => reply d t 5
    | .recalling => reply d t 5
    | _ => reply (releaseSlot d i false) t 0)

/-- SEQ_RETIRE. -/
def seqRetireD (fn vctx : Nat) (d : Dev) : Dev := takeCmd d fn vctx (entryOp 0x15) seqRetireT

/-- SEQ_RETIRE (R277). -/
def execSeqRetire (fn : Func) (vctx : VCtx) (s : State) : Answer := onDev s (seqRetireD fn.toNat vctx.toNat)

/-! ## STEP_POLICY (R293, R492) -/

/-- The policy that an entry spells. -/
def policyOf (e : List Byte) : Policy :=
  { lcBudget := leAt e 12 4, beBudget := leAt e 16 4, ageLimit := leAt e 20 4, maxSeqs := leAt e 24 2, maxRows := leAt e 28 4
    tableVa := leAt e 32 8, scratchVa := BitVec.ofNat 64 (leAt e 40 8), scratchSize := leAt e 48 4, allRej := leAt e 26 1 }

/-- Whether a policy is in range. -/
def policyOk (p : Policy) : Bool :=
  decide (100 ≤ p.lcBudget) && decide (p.lcBudget ≤ 1000000) && decide (100 ≤ p.beBudget) && decide (p.beBudget ≤ 1000000) &&
  decide (1000 ≤ p.ageLimit) && decide (p.ageLimit ≤ 10000000) && decide (1 ≤ p.maxSeqs) && decide (p.maxSeqs ≤ 8192) &&
  decide (1 ≤ p.maxRows) && decide (p.maxRows ≤ 262144) && decide (1 ≤ p.allRej) && decide (p.allRej ≤ 15) &&
  decide (p.tableVa % 0x100000 = 0) && decide (p.scratchVa.toNat % 256 = 0) && decide (p.scratchSize % 256 = 0) &&
  decide (p.scratchVa.toNat + p.scratchSize ≤ 0x2000000000)

/-- STEP_POLICY. -/
def stepPolicyT (d : Dev) (t : Taken) : Dev :=
  let p := policyOf t.e
  if policyOk p then reply (setSteps d t.cr { getSteps d t.cr with policy := p }) t 0 else reply d t 8

/-- STEP_POLICY. -/
def stepPolicyD (fn vctx : Nat) (d : Dev) : Dev := takeCmd d fn vctx (entryOp 0x20) stepPolicyT

/-- STEP_POLICY (R492). -/
def execStepPolicy (fn : Func) (vctx : VCtx) (s : State) : Answer := onDev s (stepPolicyD fn.toNat vctx.toNat)

/-! ## PREFIX_LOOKUP and FENCE (R333, R493, R494) -/

/-- Read token IDs. -/
def readTokens (d : Dev) (cr va n : Nat) : Except Bad (List Word32) :=
  (readVa d cr none va (4 * n)).map (fun bs => (List.range n).map (fun i => BitVec.ofNat 32 (leAt bs (4 * i) 4)))

/-- Run a walk: its completion carries the blocks matched; no reference is taken (R333). -/
def runWalk (d : Dev) (cr : Nat) (cmdId : Word32) (nocpl : Bool) (model va count : Nat) : Dev :=
  let b := blocksOf count
  match readTokens d cr va (64 * b) with
  | .error e => accessFault d cr e { unit := 3 }
  | .ok ts =>
    fwRead (chargeRead d cr va (256 * b)) (modelEntryAt model) 1024 (fun d =>
      let r := walkRoot d cr false model (blockList ts b)
      complete r.1 cr nocpl cmdId 0x21 0 0 0 r.2.length)

/-! ## The operations of a walker (R331) -/

/-- The partitions of the walker of a die in the order of its turns: after the one that it served last (R331). -/
def walkerOrder (d : Dev) (die : Nat) : List Nat :=
  (List.range 4).map (fun k => (tget d.key.turn die (die + 12) + 4 * (k + 1)) % 16)

/-- The partition that a walker serves next: the first in turn with an operation queued. -/
def walkerNext (d : Dev) (die : Nat) : Option Nat := (walkerOrder d die).find? (fun p => tget d.key.ops p [] ≠ [])

/-- The operation of a partition that its walker carries out next (R331). -/
def frontOp (d : Dev) (p : Nat) : Option KeyOp := if walkerNext d (p % 4) = some p then (tget d.key.ops p []).head? else none

/-- Take the operation in front off a partition's queue; the walker's turn passes on. -/
def popOp (d : Dev) (p : Nat) : Dev :=
  { d with key := { d.key with ops := tset d.key.ops p ((tget d.key.ops p []).drop 1), turn := tset d.key.turn (p % 4) p } }

/-- Queue an operation of a partition. -/
def queueOp (d : Dev) (p : Nat) (o : KeyOp) : Dev :=
  { d with key := { d.key with ops := tset d.key.ops p (tget d.key.ops p [] ++ [o]) } }

/-- Run the walks and relief evictions that a walker has in turn, `k` of them at most (R331, R337). -/
def pumpWalks (d : Dev) (die k : Nat) : Dev :=
  match k with
  | 0 => d
  | j + 1 =>
    match walkerNext d die with
    | none => d
    | some p =>
      match frontOp d p with
      | some (.walk cr id _ nc m va n) => pumpWalks (fencesOf (runWalk (popOp d p) cr.toNat id nc m va.toNat n) cr.toNat) die j
      | some (.relief n) =>
        let d1 := popOp d p
        pumpWalks (evictWhile d1 p (fun e => decide (freeCount d1 p + n ≤ freeCount e p)) nodeCount) die j
      | _ => d

/-- Run every walk and relief eviction that the walker of a partition has in turn. -/
def walksOf (d : Dev) (p : Nat) : Dev :=
  pumpWalks d (p % 4) ((walkerOrder d (p % 4)).map (fun q => (tget d.key.ops q []).length)).sum

/-- PREFIX_LOOKUP: the walk is queued behind the partition's operations. -/
def prefixLookupT (d : Dev) (t : Taken) : Dev :=
  match modelOf d t.fn (leAt t.e 12 2) with
  | none => reply d t 9
  | some m =>
    let p := (getCtx d t.cr).part.toNat
    let op : KeyOp := .walk (BitVec.ofNat 12 t.cr) (cId t) d.cox.serial (cNocpl t) m (BitVec.ofNat 64 (leAt t.e 32 8)) (leAt t.e 40 4)
    walksOf (queueOp { d with cox := { d.cox with serial := d.cox.serial + 1 } } p op) p

/-- PREFIX_LOOKUP. -/
def prefixLookupD (fn vctx : Nat) (d : Dev) : Dev := takeCmd d fn vctx (entryOp 0x21) prefixLookupT

/-- PREFIX_LOOKUP (R333). -/
def execPrefixLookup (fn : Func) (vctx : VCtx) (s : State) : Answer := onDev s (prefixLookupD fn.toNat vctx.toNat)

/-- FENCE: it completes once every earlier command has, and with STEP after the next result batch. -/
def fenceT (d : Dev) (t : Taken) : Dev :=
  let f : FenceWait := { cmdId := cId t, serial := d.cox.serial, step := (leAt t.e 12 1).testBit 0, seen := (getSteps d t.cr).batches
                         nocpl := cNocpl t }
  fencesOf { d with cox := { d.cox with
    serial := d.cox.serial + 1
    fences := tset d.cox.fences t.cr (tget d.cox.fences t.cr [] ++ [f]) } } t.cr

/-- FENCE. -/
def fenceD (fn vctx : Nat) (d : Dev) : Dev := takeCmd d fn vctx (entryOp 0x30) fenceT

/-- FENCE (R493). -/
def execFence (fn : Func) (vctx : VCtx) (s : State) : Answer := onDev s (fenceD fn.toNat vctx.toNat)

end Sys2Proof.Machine
end

