-- ==== Sys2Proof/Machine/Models.lean ====
section
/-! DEFINITION. Registration of models: the descriptor, its checks, grid shapes, buffers and deck maps, and the end of a
registration (R206, R210, R213, R250 to R254, R278, R280, R281, R284, R329, R376, R488). -/

namespace Sys2Proof.Machine

open Sys2Proof

/-! ## Grid records (R206, R209, R210, R213) -/

/-- MT + 1 of a grid record. -/
def gMt (g : TaskDesc) : Nat := fld g.q0 0 9 + 1
/-- NT + 1. -/
def gNt (g : TaskDesc) : Nat := fld g.q0 9 11 + 1
/-- K parts. -/
def gParts (g : TaskDesc) : Nat := fld g.q0 20 4 + 1
/-- AFMT. -/
def gAfmt (g : TaskDesc) : Nat := fld g.q0 28 4
/-- WFMT. -/
def gWfmt (g : TaskDesc) : Nat := fld g.q0 32 4
/-- ASM. -/
def gAsm (g : TaskDesc) : Nat := fld g.q0 36 8
/-- WSM. -/
def gWsm (g : TaskDesc) : Nat := fld g.q0 44 8
/-- N_TOTAL. -/
def gN (g : TaskDesc) : Nat := fld g.q1 0 24
/-- K_TOTAL. -/
def gK (g : TaskDesc) : Nat := fld g.q1 24 24
/-- ABUF_BASE. -/
def gAbuf (g : TaskDesc) : Nat := fld g.q3 0 16
/-- WBUF_BASE. -/
def gWbuf (g : TaskDesc) : Nat := fld g.q3 16 16
/-- Positions of a full chunk. -/
def gChunk (g : TaskDesc) : Nat := 128 * 2 ^ fld g.q3 32 3
/-- TASK_BASE. -/
def gBase (g : TaskDesc) : Nat := fld g.q3 35 24
/-- MB for a product of `m` rows. -/
def gMb (g : TaskDesc) (m : Nat) : Nat := cdiv m (gMt g)
/-- NB. -/
def gNb (g : TaskDesc) : Nat := cdiv (gN g) (gNt g)
/-- C, the chunks of the reduction. -/
def gChunks (g : TaskDesc) : Nat := cdiv (gK g) (gChunk g)

/-- The shapes of R206 by weight width. -/
def shapeList (w : Nat) : List (Nat × Nat) :=
  if w = 16 || w = 8 then [(128, 128), (256, 64), (64, 256), (512, 128)]
  else if w = 4 then [(128, 256), (256, 128), (64, 512), (256, 256)]
  else if w = 2 || w = 1 then [(128, 512)]
  else []

/-- Whether a grid record's shape is one that Cox accepts. -/
def shapeOk (g : TaskDesc) : Bool := isMult (gWfmt g) && (shapeList (fmtWidth (gWfmt g))).contains (gMt g, gNt g)

/-- Positions of chunk `c`. -/
def chunkPos (g : TaskDesc) (c : Nat) : Nat := min (gChunk g) (gK g - c * gChunk g)

/-- Bytes of the scale rows of `rows` rows over `k` positions in a scale mode (R43). -/
def scaleArea (sm rows k : Nat) : Nat :=
  if smFmt sm = 0 then 0
  else if smDir sm then cdiv rows (smBlock sm) * scaleRow sm k
  else rows * scaleRow sm (cdiv k (smBlock sm))

/-- Words of a buffer of `rows` rows of chunk `c`: the rows, a W2 value table, the scales (R35, R213). -/
def bufWords (g : TaskDesc) (fmt sm rows c : Nat) : Nat :=
  (rows * rowBytes fmt (chunkPos g c) + (if fmt = 8 then 8 else 0) + scaleArea sm rows (chunkPos g c)) / 4

/-- The buffer numbers of a grid at `m` rows: first and count of its activation and its weight buffers. -/
def gridBufs (g : TaskDesc) (m : Nat) : List (Nat × Nat) :=
  [(gAbuf g, gMb g m * gChunks g), (gWbuf g, gNb g * gChunks g)]

/-- Whether two runs of buffer numbers share one. -/
def runsMeet (a b : Nat × Nat) : Bool := decide (a.1 < b.1 + b.2) && decide (b.1 < a.1 + a.2) && decide (0 < a.2) && decide (0 < b.2)

/-- Whether some two of a list of runs share a buffer number. -/
def anyMeet (l : List (Nat × Nat)) : Bool :=
  match l with
  | [] => false
  | a :: r => r.any (runsMeet a) || anyMeet r

/-- Whether a grid's buffers break R213 by themselves, at the model's MAX_M. -/
def badBufs (g : TaskDesc) (m : Nat) : Bool :=
  decide (16383 < bufWords g (gAfmt g) (gAsm g) (gMt g) 0) || decide (16383 < bufWords g (gWfmt g) (gWsm g) (gNt g) 0) ||
    (gridBufs g m).any (fun p => decide (65536 < p.1 + p.2))

/-- Whether a grid's last task index passes 24 bits (R210). -/
def badIndex (g : TaskDesc) (m : Nat) : Bool := decide (16777216 < gBase g + gMb g m * gNb g * gParts g)

/-! ## The descriptor (R488) -/

/-- A task descriptor or grid record from 64 bytes. -/
def descOf (bs : List Byte) : TaskDesc :=
  let q := fun i => BitVec.ofNat 64 (leAt bs (8 * i) 8)
  { q0 := q 0, q1 := q 1, q2 := q 2, q3 := q 3, q4 := q 4, q5 := q 5, q6 := q 6, q7 := q 7 }

/-- A deck map entry from 16 bytes. -/
def deckOf (bs : List Byte) : DeckEnt :=
  let v := leAt bs 0 16
  { imgOff := v % 2 ^ 40, len := v / 2 ^ 40 % 2 ^ 24, tile := BitVec.ofNat 8 (v / 2 ^ 64), word := BitVec.ofNat 18 (v / 2 ^ 72) }

/-- Whether the descriptor's reserved bits are zero and its fields in range. -/
def descOk (b : List Byte) : Bool :=
  let zero := fun (i m : Nat) => decide (leAt b i 1 &&& m = 0)
  let within := fun (v lo hi : Nat) => decide (lo ≤ v) && decide (v ≤ hi)
  zero 1 0xC0 && zero 2 0xFC && zero 3 0xF0 && zero 7 0xF0 && zero 41 0x40 && zero 47 0xFF &&
    allZero (sub b 88 40) &&
    (leAt b 12 4 = 0 || (within (leAt b 12 4) 64 262144 && decide (leAt b 12 4 % 64 = 0))) &&
    (leAt b 16 4 = 0 || within (leAt b 16 4) 64 262144) &&
    decide (2 ≤ leAt b 32 4) && within (leAt b 36 4) 64 262144 && within (leAt b 42 2) 1 4096 && within (leAt b 44 2) 0 512

/-- The value of a field whose 0 selects a default. -/
def orDefault (v dflt : Nat) : Nat := if v = 0 then dflt else v

/-- The model that a descriptor describes. -/
def modelOfDesc (d : Dev) (t : Taken) (vid : Nat) (b : List Byte) (grids : List TaskDesc) (deck : List DeckEnt) : Model :=
  { fn := BitVec.ofNat 6 t.fn, vid := BitVec.ofNat 14 vid, part := (getCtx d t.cr).part, layers := leAt b 0 1 + 1, heads := leAt b 1 1 + 1
    dimCode := BitVec.ofNat 2 (leAt b 2 1), kvFmt := BitVec.ofNat 4 (leAt b 3 1), ksm := BitVec.ofNat 8 (leAt b 4 1)
    vsm := BitVec.ofNat 8 (leAt b 5 1), runLog2 := leAt b 6 1, kpp := leAt b 7 1 + 1, splitLen := orDefault (leAt b 8 4) 1024
    chunk := orDefault (leAt b 12 4) 8192, quantum := orDefault (leAt b 16 4) 8192, costStep := BitVec.ofNat 32 (leAt b 20 4)
    costTok := BitVec.ofNat 32 (leAt b 24 4), costCtx := BitVec.ofNat 32 (leAt b 28 4)
    draft := if (leAt b 41 1).testBit 7 then none else modelOf d t.fn (leAt b 40 2 % 16384)
    vocab := leAt b 32 4, maxM := leAt b 36 4, grids := grids, deck := deck, wgroup := BitVec.ofNat 8 (leAt b 46 1)
    object := BitVec.ofNat 64 (leAt b 48 8), imageLen := leAt b 56 8, sampleVa := BitVec.ofNat 64 (leAt b 80 8), attn := none
    resident := false, frames := [], pull := none, lastStep := 0 }

/-! ## Refusals (R278) -/

/-- DETAIL 1: KV format or scale mode (R250, R252). -/
def badKv (m : Model) : Bool :=
  let f := m.kvFmt.toNat
  let g := modelGeo m
  !(f = 3 || f = 5 || f = 6 || f = 7) || badKvMode m.ksm.toNat (gDim g) (gRun g) || badKvMode m.vsm.toNat (gDim g) (gRun g) ||
    (f = 5 && (!smDir m.ksm.toNat || smDir m.vsm.toNat))

/-- DETAIL 2: page geometry (R253, R254). -/
def badPage (m : Model) : Bool :=
  decide (m.runLog2 < 3) || decide (8 < m.runLog2) || m.dimCode = 3 || decide (65536 < modelPage m)

/-- Whether two deck map entries overlap on a tile. -/
def deckMeet (a b : DeckEnt) : Bool := a.tile = b.tile && runsMeet (a.word.toNat, a.len / 4) (b.word.toNat, b.len / 4)

/-- Whether some two entries of a deck map overlap. -/
def anyDeckMeet (l : List DeckEnt) : Bool :=
  match l with
  | [] => false
  | a :: r => r.any (deckMeet a) || anyDeckMeet r

/-- DETAIL 5: buffers of the model's grids and its draft model's, and the deck map (R213, R376). -/
def badBuffers (d : Dev) (m : Model) : Bool :=
  let own := m.grids.flatMap (fun g => gridBufs g m.maxM)
  let drafts := match m.draft.bind (getModel d) with
    | some q => q.grids.flatMap (fun g => gridBufs g q.maxM)
    | none => []
  m.grids.any (fun g => badBufs g m.maxM) || anyMeet (own ++ drafts) || anyDeckMeet m.deck ||
    m.deck.any (fun e => decide (deckWords < e.word.toNat + e.len / 4))

/-- DETAIL 7: the draft model (R281); `none` says that the descriptor names no draft model. -/
def badDraft (d : Dev) (m : Model) (none : Bool) : Bool :=
  !none && (match m.draft.bind (getModel d) with
    | some q => q.vocab ≠ m.vocab || q.draft.isSome
    | .none => true)

/-- The lowest DETAIL code that applies to a model, if one does (R278). -/
def refusal (d : Dev) (m : Model) (noDraft : Bool) : Option Nat :=
  if badKv m then some 1
  else if badPage m then some 2
  else if m.grids.any (fun g => !shapeOk g) then some 3
  else if m.grids.any (fun g => badIndex g m.maxM) then some 4
  else if badBuffers d m then some 5
  else if m.splitLen % modelRun m ≠ 0 then some 6
  else if badDraft d m noDraft then some 7
  else none

/-! ## MODEL_REGISTER (R280, R488) -/

/-- Models that may be registered (R278). -/
def modelLimit : Nat := 16384

/-- Enter a model under the lowest free device ID; the tollhouse is told (R280, R329, R533). -/
def enterModel (d : Dev) (t : Taken) (vid : Nat) (m : Model) : Dev :=
  match findFrom (fun i => (getModel d i).isNone) 0 modelLimit with
  | none => d
  | some i =>
    let m1 := { m with attn := some (Config.attn d.fresh) }
    let d1 := setModel { d with fresh := d.fresh + 1 } i m1
    let d2 := { d1 with cox := { d1.cox with vmods := tset d1.cox.vmods (t.fn * 16384 + vid) i } }
    pushTap d2 (.register m.part m.fn (BitVec.ofNat 14 i) m.vid)

/-- Complete a MODEL_REGISTER that breaks the rule of a DETAIL code. -/
def refuseModel (d : Dev) (t : Taken) (detail : Nat) : Dev := complete d t.cr (cNocpl t) (cId t) 0x01 0xA 0 detail 0

/-- The records at a virtual address, `size` bytes each, `n` of them, read as traffic of the context (R456). -/
def readRecords (d : Dev) (cr va size n : Nat) : Except Bad (Dev × List (List Byte)) :=
  (readVaC d cr none va (size * n)).map (fun r => (r.1, (List.range n).map (fun i => sub r.2 (size * i) size)))

/-- MODEL_REGISTER: the descriptor is read and checked, then its grid records and deck map. -/
def modelRegisterT (d : Dev) (t : Taken) : Dev :=
  let vid := leAt t.e 12 2
  let va := leAt t.e 16 8
  let bad := fun (b : Bad) => ringFault d (ringKey t.fn (getCtx d t.cr).vctx.toNat 0) t.cr b
  if (modelOf d t.fn vid).isSome then reply d t 8
  else if modelLimit ≤ d.cox.models.length then reply d t 0xB
  else if va % 64 ≠ 0 then reply d t 8
  else
    match readVaC d t.cr none va 128 with
    | .error b => bad b
    | .ok (d1, b) =>
      if !descOk b then reply d1 t 8
      else
        match readRecords d1 t.cr (leAt b 64 8) 64 (leAt b 42 2) with
        | .error e => bad e
        | .ok (d2, gs) =>
          match readRecords d2 t.cr (leAt b 72 8) 16 (leAt b 44 2) with
          | .error e => bad e
          | .ok (d3, ds) =>
            let m := modelOfDesc d3 t vid b (gs.map descOf) (ds.map deckOf)
            match refusal d3 m ((leAt b 41 1).testBit 7) with
            | some c => refuseModel d3 t c
            | none => reply (enterModel d3 t vid m) t 0

/-- Whether an entry is MODEL_REGISTER with UNREGISTER clear or set. -/
def registerOp (un : Bool) (e : List Byte) : Bool := entryOp 0x01 e && (leAt e 1 1).testBit 1 == un

/-- MODEL_REGISTER. -/
def modelRegisterD (fn vctx : Nat) (d : Dev) : Dev :=
  takeCmd d fn vctx (fun e => registerOp false e && !readWaits d fn vctx (leAt e 16 8) 128) modelRegisterT

/-- MODEL_REGISTER (R280). -/
def execModelRegister (fn : Func) (vctx : VCtx) (s : State) : Answer := onDev s (modelRegisterD fn.toNat vctx.toNat)

/-! ## Eviction and MODEL_UNREGISTER (R284, R329, R488) -/

/-- A model is evicted: a pull in progress ends, its frames and pinned ranges are released, its window translates nothing, and no cache
holds an entry of it (R284, R378, R413, R423). -/
def evictModel (d : Dev) (i : Nat) : Dev :=
  match getModel d i with
  | none => d
  | some m =>
    let d1 := match m.pull with
      | some x => dropPull d x
      | none => d
    match getModel d1 i with
    | none => d1
    | some m1 => framesReleased (dropModelEnts (setModel d1 i { m1 with resident := false, frames := [], pull := none }) i) m.part.toNat

/-- The end of a registration: the model is evicted, its IDs are free and its root is dropped. -/
def forgetModel (d : Dev) (i : Nat) : Dev :=
  match getModel d i with
  | none => d
  | some m =>
    let d1 := dropRoot (evictModel d i) i
    { d1 with cox := { d1.cox with
      models := tdel d1.cox.models i
      vmods := tdel d1.cox.vmods (m.fn.toNat * 16384 + m.vid.toNat) } }

/-- Whether a registration is in use: by a slot that is neither FREE nor QUARANTINED, or as another model's draft model. -/
def modelInUse (d : Dev) (i : Nat) : Bool :=
  d.cox.slots.any (fun p => p.2.st ≠ .free && p.2.st ≠ .quarantined && p.2.model = i) ||
    d.cox.models.any (fun p => p.2.draft = some i)

/-- MODEL_REGISTER with UNREGISTER set. -/
def modelUnregisterT (d : Dev) (t : Taken) : Dev :=
  match modelOf d t.fn (leAt t.e 12 2) with
  | none => reply d t 9
  | some i => if modelInUse d i then reply d t 5 else reply (forgetModel d i) t 0

/-- MODEL_UNREGISTER. -/
def modelUnregisterD (fn vctx : Nat) (d : Dev) : Dev := takeCmd d fn vctx (registerOp true) modelUnregisterT

/-- MODEL_UNREGISTER (R488). -/
def execModelUnregister (fn : Func) (vctx : VCtx) (s : State) : Answer := onDev s (modelUnregisterD fn.toNat vctx.toNat)

end Sys2Proof.Machine
end

