-- ==== Sys2Proof/Machine/Builder.lean ====
section
/-! DEFINITION. The building of a step: the work of a slot, the choice of the main model, residency, admission and its tests,
frame pressure, and the sequence table (R256, R263, R272, R282 to R293, R298, R301, R308, R311, R373, R459, R483, R491,
R587). -/

namespace Sys2Proof.Machine

open Sys2Proof

/-! ## Lists in order -/

/-- Insert into a list that is in order. -/
def insertBy {α : Type} (before : α → α → Bool) (x : α) (l : List α) : List α :=
  match l with
  | [] => [x]
  | y :: r => if before x y then x :: y :: r else y :: insertBy before x r

/-- A list in order. -/
def sortBy {α : Type} (before : α → α → Bool) (l : List α) : List α := l.foldr (insertBy before) []

/-- The largest `k` of `[1, n]` that satisfies `p`. -/
def largest (p : Nat → Bool) (n : Nat) : Option Nat :=
  match n with
  | 0 => none
  | j + 1 => if p (j + 1) then some (j + 1) else largest p j

/-! ## What a slot brings (R282, R587) -/

/-- The work that a slot brings to a step: KIND, positions with KV, rows, draft depth, tree nodes, and whether the slot is
READY rather than run ahead of the running step. -/
structure Offer where
  kind  : Nat
  c     : Nat
  t     : Nat
  depth : Nat
  nodes : Nat
  ready : Bool
deriving DecidableEq, Repr

/-- Prompt tokens of a slot, a pending token before them included (R587). -/
def promptLen (s : Slot) : Nat := (s.segs.map (fun g => g.count)).sum + b2n s.pendTok.isSome

/-- The work of a READY slot. -/
def readyOffer (d : Dev) (m : Model) (s : Slot) : Option Offer :=
  if !s.segs.isEmpty then some { kind := 1, c := s.pos, t := min m.chunk (promptLen s), depth := 0, nodes := 0, ready := true }
  else if s.pendTok.isNone then none
  else
    match s.tree with
    | some tr => some { kind := 2, c := s.pos, t := tr.nodes, depth := 0, nodes := tr.nodes, ready := true }
    | none =>
      if speculates d s then some { kind := 2, c := s.pos, t := s.depth + 1, depth := s.depth, nodes := 0, ready := true }
      else some { kind := 3, c := s.pos, t := 1, depth := 0, nodes := 0, ready := true }

/-- The work of an ACTIVE slot in the step after the running one, which projects full acceptance: a further chunk of its prompt,
or a VERIFY whose outcome will patch it (R288). Tokens appended behind a prompt's last chunk follow the token that its step emits, so
they wait for it (R587). -/
def aheadOffer (d : Dev) (m : Model) (s : Slot) (a : Admitted) : Option Offer :=
  if a.cancelled || a.dropped || s.parkPend.isSome || s.retirePend then none
  else if a.kind = 1 then
    if s.segs.isEmpty || a.lastChunk then none
    else some { kind := 1, c := a.c + a.t, t := min m.chunk (promptLen s), depth := 0, nodes := 0, ready := false }
  else if a.kind = 2 && s.segs.isEmpty && s.tree.isNone && speculates d s then
    some { kind := 2, c := a.c + a.t, t := s.depth + 1, depth := s.depth, nodes := 0, ready := false }
  else none

/-- Draft-model rows of a slot (R282). -/
def draftRows (d : Dev) (s : Slot) (o : Offer) : Nat := if o.kind = 1 then (if speculates d s then o.t else 0) else o.depth

/-- Positions that the draft model's list must hold. -/
def draftReach (d : Dev) (s : Slot) (o : Offer) : Nat := if draftRows d s o = 0 then 0 else o.c + draftRows d s o

/-- A page list stays where it is while a step that uses it runs: an ACTIVE slot is run ahead only when it need not grow (R256). -/
def listStays (d : Dev) (m : Model) (s : Slot) (o : Offer) : Bool :=
  decide (8 * m.layers * pagesFor m (o.c + o.t) ≤ s.list.bytes) &&
    (match m.draft.bind (getModel d) with
     | some q => decide (8 * q.layers * pagesFor q (draftReach d s o) ≤ s.draft.bytes)
     | none => true)

/-- A candidate: its slot, and what it brings. -/
abbrev Cand := Nat × Slot × Offer

/-- The candidate that a slot of a context is, if it is one (R273, R290). -/
def candOf (d : Dev) (cr : Nat) (i : Nat) (s : Slot) : Option Cand :=
  match getModel d s.model with
  | none => none
  | some m =>
    if s.cr.toNat ≠ cr || s.lookup then none
    else if s.st = .ready then (if s.hot then (readyOffer d m s).map (fun o => (i, s, o)) else none)
    else if s.st = .active then
      match (getSteps d cr).cur with
      | none => none
      | some st =>
        match findEntry d st i with
        | none => none
        | some (_, a) =>
          (match aheadOffer d m s a with
           | some o => if st.phase ≠ .recorded && listStays d m s o then some (i, s, o) else none
           | none => none)
    else none

/-- The candidates of a context. -/
def candsOf (d : Dev) (cr : Nat) : List Cand := d.cox.slots.filterMap (fun p => candOf d cr p.1 p.2)

/-! ## The main model (R283) -/

/-- Whether candidate `a` became READY before `b`; ties to the lower slot. -/
def readySooner (a b : Cand) : Bool :=
  if a.2.1.readySeq ≠ b.2.1.readySeq then decide (a.2.1.readySeq < b.2.1.readySeq) else decide (a.1 < b.1)

/-- The candidates among which the choice is made: those of models with an LC slot, when there is one. -/
def choiceCands (cs : List Cand) : List Cand :=
  if cs.any (fun c => !c.2.1.be) then
    let ms := (cs.filter (fun c => !c.2.1.be)).map (fun c => c.2.1.model)
    cs.filter (fun c => ms.contains c.2.1.model)
  else cs

/-- One turn after another: a model takes its quantum, and is chosen when its deficit covers its first slot's rows. The list holds
model, quantum and rows. -/
def takeTurns (l : List (Nat × Nat × Nat)) (df : Tbl Int) (k : Nat) : Option (Nat × Tbl Int) :=
  match k, l with
  | 0, _ => none
  | _, [] => none
  | j + 1, (m, q, r) :: rest =>
    let v := tget df m 0 + (q : Int)
    let df1 := tset df m v
    if (r : Int) ≤ v then some (m, df1) else takeTurns (rest ++ [(m, q, r)]) df1 j

/-- The main model of the next step, with the pointer and deficits after the choice. The choice is among the READY slots; those run ahead
of the running step stand in when no slot is READY (log 32). -/
def chooseModel (d : Dev) (sc : CtxSteps) (cs0 : List Cand) : Option (Nat × CtxSteps) :=
  let cs := choiceCands (if cs0.any (fun c => c.2.2.ready) then cs0.filter (fun c => c.2.2.ready) else cs0)
  let oldest := (sortBy readySooner (cs.filter (fun c => c.2.2.ready))).head?
  let aged := match oldest with
    | some c => if c.2.1.readyAt.toNat + 100 * sc.policy.ageLimit < d.now.toNat then some c.2.1.model else none
    | none => none
  match aged with
  | some m => some (m, sc)
  | none =>
    let ms := sortBy (fun a b => decide (a < b)) ((cs.map (fun c => c.2.1.model)).eraseDups)
    let rot := ms.filter (fun m => sc.ptr < m) ++ ms.filter (fun m => m ≤ sc.ptr)
    let turn := rot.filterMap (fun m =>
      match getModel d m, (sortBy readySooner (cs.filter (fun c => c.2.1.model = m))).head? with
      | some x, some c => some (m, x.quantum, c.2.2.t)
      | _, _ => none)
    let rounds := (turn.map (fun x => ((x.2.2 : Int) - tget sc.deficit x.1 0).toNat / x.2.1 + 2)).foldl max 0
    (takeTurns turn sc.deficit (turn.length * rounds)).map (fun r => (r.1, { sc with ptr := r.1, deficit := r.2 }))

/-! ## Residency (R284, R373) -/

/-- Models that the built steps of a partition use, with their draft models. -/
def modelsInUse (d : Dev) (p : Nat) : List Nat :=
  let ms := (ctxsIn d p).flatMap (fun q => ([(getSteps d q.1).cur, (getSteps d q.1).nxt].filterMap id).map (fun st => st.model))
  ms ++ ms.filterMap (fun m => (getModel d m).bind (fun x => x.draft))

/-- The resident model to evict first: least recently stepped, ties to the lower number. -/
def evictVictim (d : Dev) (p : Nat) (keep : List Nat) : Option Nat :=
  ((d.cox.models.filter (fun m => m.2.part.toNat = p && m.2.resident && m.2.frames ≠ [] && !keep.contains m.1)).foldl
    (fun (best : Option (Nat × Model)) m =>
      match best with
      | none => some m
      | some b => if m.2.lastStep.toNat < b.2.lastStep.toNat || (m.2.lastStep = b.2.lastStep && m.1 < b.1) then some m else some b)
    none).map (fun m => m.1)

/-- Find `n` runs of frames, evicting models that no built step uses, `k` of them at most. -/
def findOrEvict (d : Dev) (p n : Nat) (keep : List Nat) (k : Nat) : Dev × Option (List Nat) :=
  match findRuns d p n with
  | some rs => (d, some rs)
  | none =>
    match k, evictVictim d p keep with
    | j + 1, some v => findOrEvict (evictModel d v) p n keep j
    | _, _ => (d, none)

/-- Runs of 512 frames that a model's image takes. -/
def imageRuns (m : Model) : Nat := if m.deck = [] then cdiv m.imageLen 0x2000000 else 0

/-- Give a model its frames when it is neither resident nor being pulled; false when they cannot be found. -/
def roomFor (d : Dev) (i : Nat) (keep : List Nat) : Dev × Bool :=
  match getModel d i with
  | none => (d, false)
  | some m =>
    if m.resident || m.pull.isSome then (d, true)
    else
      match findOrEvict d m.part.toNat (imageRuns m) keep d.cox.models.length with
      | (d1, none) => (d1, false)
      | (d1, some rs) =>
        (setModel (unzero d1 (fun f => rs.any (fun b => decide (b ≤ f) && decide (f < b + 512)))) i { m with frames := rs }, true)

/-- The WEIGHT_PULL of a model for a context (R373). -/
def pullXfer (d : Dev) (cr i : Nat) (m : Model) (be : Bool) : Transfer :=
  let g := m.wgroup.toNat
  let t : Transfer :=
    { type := .weightPull, slot := none, handle := 0, cr := BitVec.ofNat 12 cr, fn := m.fn, part := m.part, model := i
      grp := groupWord d g, dests := groupDests d g, dest := 0, total := m.imageLen, offset := 0, pieces := [], entries := []
      nFlows := 0, toMake := [], live := [], got := [], retries := 0, gnum := g, ents := [], posFirst := 0, posCount := 0
      geom := 0, object := m.object, ttlMs := 0, be := be }
  let q := specsOf (t.dests.zipIdx.map (fun p => (p.2, p.1))) 0 (nChunks t)
  { t with nFlows := q.1, toMake := q.2 }

/-- Pull the weights of a model that has its frames: resident at once without an image, a failed pull when its group is not
valid (R373). -/
def startPull (d : Dev) (cr i : Nat) (be : Bool) : Dev :=
  match getModel d i with
  | none => d
  | some m =>
    if m.resident || m.pull.isSome then d
    else if m.imageLen = 0 then setModel d i { m with resident := true }
    else if !groupBase d m.part.toNat m.wgroup.toNat then
      ctxFault (cwEvent (setModel d i { m with frames := [] }) cr 0x0206 0 0) cr fCausewayTimeout { unit := 2 }
    else
      let x := d.cwy.nextId
      setModel (addXfer d (pullXfer d cr i m be)) i { m with pull := some x }

/-- The models that a step of a main model needs: the draft model too when some candidate speculates. -/
def stepModels (d : Dev) (m : Nat) (cs : List Cand) : List Nat :=
  match (getModel d m).bind (fun x => x.draft) with
  | some q => if cs.any (fun c => c.2.1.model = m && decide (0 < draftRows d c.2.1 c.2.2)) then [m, q] else [m]
  | none => [m]

/-- Whether a step of a model has its weights. -/
def isResident (d : Dev) (m : Nat) : Bool := match getModel d m with | some x => x.resident | none => false

/-- Find frames for the models of a step. -/
def roomForAll (d : Dev) (ms keep : List Nat) : Dev × Bool :=
  ms.foldl (fun (acc : Dev × Bool) m => if acc.2 then roomFor acc.1 m keep else acc) (d, true)

/-- The main model of the step with frames found for its weights; without them, the next choice that is resident; when none is, no step is
built until the running one ends (R284). -/
def chooseResident (d : Dev) (cr p : Nat) (cs : List Cand) : Dev × Option Nat :=
  match chooseModel d (getSteps d cr) cs with
  | none => (d, none)
  | some (m, sc) =>
    let d1 := setSteps d cr sc
    let ms := stepModels d m cs
    match roomForAll d1 ms (ms ++ modelsInUse d1 p) with
    | (d2, true) => (d2, some m)
    | (d2, false) =>
      match chooseModel d2 (getSteps d2 cr) (cs.filter (fun c => (stepModels d2 c.2.1.model cs).all (isResident d2))) with
      | none => (setSteps d2 cr { getSteps d2 cr with holdBuild := (getSteps d2 cr).cur.isSome }, none)
      | some (m2, sc2) => (setSteps d2 cr sc2, some m2)

/-! ## Projected time (R289) -/

/-- FP32 of a number. -/
def natF32 (n : Nat) : Word32 := enc32 (.fin false n 1)

/-- COST_TOK × t + COST_CTX × t × c. -/
def costOf (m : Model) (t c : Nat) : Word32 := add32 (mul32 m.costTok (natF32 t)) (mul32 (mul32 m.costCtx (natF32 t)) (natF32 c))

/-- The sum with a slot's rows and its draft rows added, in that order. -/
def addCost (d : Dev) (m : Model) (s : Slot) (o : Offer) (sum : Word32) : Word32 :=
  let s1 := add32 sum (costOf m o.t (o.c + o.t))
  let dr := draftRows d s o
  match m.draft.bind (getModel d) with
  | some q => if dr = 0 then s1 else add32 s1 (costOf q dr (o.c + dr))
  | none => s1

/-- The lowest reach clock of a partition, as the step that is furthest down (R553). -/
def slowestStep (d : Dev) (p : Nat) : Nat :=
  ((partTiles d p).map (fun t => (tget d.clk.steps (t / 64) 16).toNat)).foldl max 0

/-- T, in ns. -/
def projected (d : Dev) (p : Nat) (sum : Word32) : Word32 :=
  enc32 (numDiv (dec32 (mul32 sum (enc32 (.fin false 5 4)))) (.fin false (5 * (32 - slowestStep d p)) 128))

/-! ## Admission (R290) -/

/-- A step in the making: the device, the slots admitted and deferred with their order, the sum of R289, rows, bytes shipped by
class, whether an LC slot is admitted, scratch runs taken, and the frames that slots deferred with FRAMES wanted. -/
structure Build where
  d     : Dev
  adm   : List Admitted
  defd  : List Deferred
  order : List Bool
  sum   : Word32
  rows  : Nat
  drows : Nat
  lcOut : Nat
  beOut : Nat
  anyLc : Bool
  runs  : List (Nat × Nat)
  want  : Nat
deriving DecidableEq, Repr

/-- What a step under construction is for: context, partition, number and main model. -/
structure Frame0 where
  cr   : Nat
  p    : Nat
  num  : Nat
  mi   : Nat
  m    : Model
  room : Nat
deriving DecidableEq, Repr

/-- The limits test (R282). -/
def limitsOk (f : Frame0) (b : Build) (s : Slot) (o : Offer) : Bool :=
  let pol := (getSteps b.d f.cr).policy
  let dr := draftRows b.d s o
  decide (b.adm.length < min 8192 pol.maxSeqs) && decide (b.rows + o.t ≤ min 262144 pol.maxRows) && decide (b.rows + o.t ≤ f.m.maxM) &&
    (match f.m.draft.bind (getModel b.d) with | some q => dr = 0 || decide (b.drows + dr ≤ q.maxM) | none => true)

/-- The time test: T against LC_BUDGET when an LC slot is admitted or tested, else BE_BUDGET. -/
def timeOk (f : Frame0) (b : Build) (s : Slot) (o : Offer) : Bool :=
  let pol := (getSteps b.d f.cr).policy
  let budget := 1000 * (if b.anyLc || !s.be then pol.lcBudget else pol.beBudget)
  !numLt (.fin false budget 1) (dec32 (projected b.d f.p (addCost b.d f.m s o b.sum)))

/-- A slot's work cut to the limits and the time test: whole, or for a PREFILL the largest multiple of 64 rows that passes
(R291). -/
def cutOffer (f : Frame0) (b : Build) (s : Slot) (o : Offer) : Option (Offer × Bool) :=
  let ok := fun (o : Offer) => limitsOk f b s o && timeOk f b s o
  if ok o then some (o, false)
  else if o.kind ≠ 1 then none
  else (largest (fun k => ok { o with t := 64 * k }) ((o.t - 1) / 64)).map (fun k => ({ o with t := 64 * k }, true))

/-- The entries of a list's listed pages that the positions `[c, c + t)` lie in and that hold no private frame: the SHARED pages
that a step writes (R263). -/
def sharedIn (m : Model) (l : PageList) (c t : Nat) : List Nat :=
  let lo := c / modelRun m * m.layers
  let hi := min l.pages (pagesFor m (c + t)) * m.layers
  ((List.range (hi - lo)).map (fun i => lo + i)).filter (fun i => (tfind l.frames i).isNone)

/-- New entries of a list that is to hold `n` positions. -/
def newPages (m : Model) (l : PageList) (n : Nat) : Nat := (pagesFor m n - l.pages) * m.layers

/-- Frames that a slot's step takes: main pages, draft pages, copies of shared pages. -/
def framesFor (d : Dev) (m : Model) (s : Slot) (o : Offer) : Nat × Nat × Nat :=
  (newPages m s.list (o.c + o.t),
   (match m.draft.bind (getModel d) with | some q => newPages q s.draft (draftReach d s o) | none => 0),
   (sharedIn m s.list o.c o.t).length)

/-- Splits of a slot's rows (R266): none for a PREFILL. -/
def offerSplits (m : Model) (o : Offer) : Nat := if o.kind = 1 then 0 else (splitsOf (o.c + o.t) m.splitLen (modelRun m)).1

/-- Bytes of the partial record of one split of one KV head, for `t` positions (R267). -/
def partialBytes (m : Model) (t : Nat) : Nat :=
  let q := match m.attn with | some a => a.qHeads | none => m.heads
  alignUp (4 * (t * (q / m.heads)) * (2 + gDim (modelGeo m))) 256

/-- Bytes of all partial records of `t` positions in `s` splits: by layer, KV head and split. -/
def partialRun (m : Model) (s t : Nat) : Nat := m.layers * m.heads * s * partialBytes m t

/-- Bytes of the partial records of a slot's step: the main model's, or those of one draft row, which have ended before them (R266,
R301). -/
def partialArea (d : Dev) (m : Model) (o : Offer) : Nat :=
  let n := partialRun m (offerSplits m o) o.t
  match m.draft.bind (getModel d) with
  | some q => if o.kind = 1 || o.depth = 0 then n else max n (partialRun q (splitsOf (o.c + o.depth) q.splitLen (modelRun q)).1 1)
  | none => n

/-- Where a slot's step lies in the scratch area: its lists, its partial records and its mask. -/
structure Places where
  list  : Nat × Nat
  draft : Nat × Nat
  part  : Nat
  mask  : Nat
  runs  : List (Nat × Nat)
deriving DecidableEq, Repr

/-- Find the scratch space of a slot's step, or none when it does not fit (R256, R267, R290). -/
def scratchFor (f : Frame0) (b : Build) (s : Slot) (o : Offer) : Option Places := do
  let pol := (getSteps b.d f.cr).policy
  let r0 := scratchRuns b.d f.cr ++ b.runs
  let l ← growList pol r0 f.m s.list (pagesFor f.m (o.c + o.t))
  let r1 := l :: r0
  let dl ← match f.m.draft.bind (getModel b.d) with
    | some q => growList pol r1 q s.draft (pagesFor q (draftReach b.d s o))
    | none => some (s.draft.va.toNat, s.draft.bytes)
  let r2 := dl :: r1
  let n := partialArea b.d f.m o
  let pa ← if n = 0 then some 0 else firstFit pol r2 256 n
  let ma ← if o.nodes = 0 then some 0 else firstFit pol ((pa, n) :: r2) 256 512
  some { list := l, draft := dl, part := pa, mask := ma, runs := (if n = 0 then [] else [(pa, n)]) ++ (if o.nodes = 0 then [] else [(ma, 512)]) }

/-- The frames test: what the slot takes, and where. -/
def framesOk (f : Frame0) (b : Build) (s : Slot) (o : Offer) : Option Places :=
  let n := framesFor b.d f.m s o
  if freeCount b.d f.p < n.1 + n.2.1 + n.2.2 then none else scratchFor f b s o

/-- The causeway egress rate of a class in bytes a ns (R459). -/
def egressRate (d : Dev) (p : Nat) (be : Bool) : Num :=
  let on := (List.range 16).filter (partEnabled d)
  let lc := (on.map (fun q => fld (partReg d q 2) 0 16)).sum
  let w := (on.map (fun q => fld (partReg d q 2) 22 8)).sum
  if !be then .fin false (fld (partReg d p 2) 0 16) 1
  else if w = 0 then .fin false 0 1
  else .fin false ((4000 - lc) * fld (partReg d p 2) 22 8) w

/-- The regulator test: bytes shipped by the slot's class against the rate times T. -/
def egressOk (f : Frame0) (b : Build) (s : Slot) (o : Offer) : Bool :=
  let rows := o.t + (if s.be then b.beOut else b.lcOut)
  let t := dec32 (projected b.d f.p (addCost b.d f.m s o b.sum))
  !numLt (numMul (egressRate b.d f.p s.be) t) (.fin false (rows * f.m.layers * modelPage f.m) (modelRun f.m))

/-! ## Taking a slot into the step (R256, R263, R286, R308, R491) -/

/-- The first `n` tokens of a run of segments. -/
def takeSegs (l : List TokSeg) (n : Nat) : List TokSeg :=
  match l with
  | [] => []
  | g :: r => if n = 0 then [] else { g with count := min g.count n } :: takeSegs r (n - g.count)

/-- Copy a frame to another for a context: 64 KiB read and written (R263, R326). -/
def copyFrame (d : Dev) (cr src dst : Nat) : Except Bad Dev :=
  match pierPoison d (65536 * src) 65536 with
  | some w => .error ⟨fEccPier, 0, w / 4096⟩
  | none =>
    let d1 := chargeCtx (zeroFrame d dst) cr 0 131072
    .ok { d1 with pier := { d1.pier with mem := memCells d1.pier.mem (moveCells d.pier.mem (65536 * src) 65536 (65536 * dst)) } }

/-- Copy the SHARED pages of a list that a step writes into fresh frames; the slot drops its references on the nodes whose pages
it replaces (R263). -/
def copyShared (d : Dev) (cr i : Nat) (m : Model) (l : PageList) (is fs : List Nat) : Except Bad (Dev × PageList) := do
  let d1 ← (is.zip fs).foldlM (fun (d : Dev) p => do
    let w ← readEntry d cr l p.1
    let d2 ← copyFrame (chargeRead d cr (entryVa l p.1) 8) cr (fld w 0 20) p.2
    putEntry d2 cr l p.1 (setFld (setFld (setFld w 0 20 p.2) 45 1 0) 47 1 1)) d
  let blocks := ((is.map (fun e => e / m.layers * modelRun m / 64)).eraseDups)
  let s := getSlot d1 i
  let out := blocks.filterMap (fun b => s.refs[b]?)
  let d2 := out.foldl (fun d n => deref d n false) (setSlot d1 i { s with refs := s.refs.filter (fun n => !out.contains n) })
  pure (d2, { l with frames := is.zip fs ++ l.frames })

/-- The rows of a tree's ancestor mask: node `i` sees itself and its ancestors (R308). -/
def maskRows (bs : List Byte) (n : Nat) : List Nat :=
  (List.range (n - 1)).foldl (fun (rows : List Nat) j =>
    rows ++ [2 ^ (j + 1) + rows.getD (treeNode bs (j + 1)).1 0]) [1]

/-- The 512 bytes of a tree's mask. -/
def maskBytes (bs : List Byte) (n : Nat) : List Byte := sub ((maskRows bs n).flatMap (toLe 8)) 0 512

/-- The sequence table entry of a slot (R286). -/
def entryOf (d : Dev) (f : Frame0) (i : Nat) (s : Slot) (o : Offer) (pl : Places) (row0 : Nat) : List Word64 :=
  let a := f.m.attn
  let mf := match a with | some x => x.mfmt.toNat | none => 0
  let mb := match a with | some x => x.mbuf.toNat | none => 0
  let tok := if o.ready then (match s.pendTok with | some w => w.toNat | none => 0) else 0
  [BitVec.ofNat 64 (slotHandle d i + o.kind * 2 ^ 32 + b2n (o.nodes ≠ 0) * 2 ^ 37 + o.depth * 2 ^ 38 + (offerSplits f.m o - 1) * 2 ^ 42
     + mf * 2 ^ 47),
   geomWord f.m s.gen.toNat, BitVec.ofNat 64 (pl.list.1 + mb * 2 ^ 48), BitVec.ofNat 64 (o.c + o.t * 2 ^ 32),
   BitVec.ofNat 64 (row0 + tok * 2 ^ 24), BitVec.ofNat 64 pl.part,
   BitVec.ofNat 64 (if draftRows d s o = 0 then 0 else pl.draft.1), BitVec.ofNat 64 pl.mask]

/-- The prompt tokens of a PREFILL's rows: the pending token, then those read from the slot's buffers (R491, R587). -/
def inputTokens (d : Dev) (cr : Nat) (s : Slot) (taken : List TokSeg) : Except Bad (List Word32) := do
  let l ← taken.foldlM (fun acc g => do
    let ts ← readTokens d cr g.va.toNat g.count
    pure (acc ++ ts)) []
  pure ((match s.pendTok with | some w => [w] | none => []) ++ l)

/-- Those reads as traffic of the context (R456). -/
def chargeInputs (d : Dev) (cr : Nat) (taken : List TokSeg) : Dev := taken.foldl (fun d g => chargeRead d cr g.va.toNat (4 * g.count)) d

/-- The lists of an admitted slot with the pages that its step writes: moved, extended, shared pages copied. -/
def growSlot (f : Frame0) (d : Dev) (i : Nat) (s : Slot) (o : Offer) (pl : Places) : Except Bad (Dev × PageList × PageList) := do
  let n := framesFor d f.m s o
  match takeFrames d f.p (n.1 + n.2.1 + n.2.2) with
  | none => pure (d, s.list, s.draft)
  | some (fs, d1) =>
    let (d2, l1) ← moveList d1 f.cr s.list pl.list.1 pl.list.2
    let (d3, l2) ← copyShared d2 f.cr i f.m l1 (sharedIn f.m s.list o.c o.t) (fs.drop (n.1 + n.2.1))
    let (d4, l3) ← addPages d3 f.cr s.gen.toNat f.m l2 (pagesFor f.m (o.c + o.t)) (fs.take n.1)
    match f.m.draft.bind (getModel d) with
    | none => pure (d4, l3, s.draft)
    | some q =>
      let (d5, g1) ← moveList d4 f.cr s.draft pl.draft.1 pl.draft.2
      let (d6, g2) ← addPages d5 f.cr s.gen.toNat q g1 (pagesFor q (draftReach d s o)) ((fs.drop n.1).take n.2.1)
      pure (d6, l3, g2)

/-- A step number's entry is written at STEP_TABLE_VA + 64 × SEQ (R286). -/
def putTable (d : Dev) (f : Frame0) (e : Nat) (ent : List Word64) : Except Bad Dev :=
  writeVa d f.cr (some f.mi) ((getSteps d f.cr).policy.tableVa.toNat + 64 * seqOf f.num e) (ent.flatMap (fun w => toLe 8 w.toNat))

/-- Take a slot that passed the tests into the step. -/
def admitOne (f : Frame0) (b : Build) (i : Nat) (s : Slot) (o : Offer) (short : Bool) (pl : Places) : Except Bad Build := do
  let (d0, l, g) ← growSlot f b.d i s o pl
  let fromSegs := if o.kind = 1 then o.t - b2n s.pendTok.isSome else 0
  let taken := takeSegs s.segs fromSegs
  let ins ← inputTokens d0 f.cr s taken
  let d1 := chargeInputs d0 f.cr taken
  let d2 ← match s.tree with
    | some tr =>
      if o.nodes = 0 then pure d1
      else do
        let (d2, bs) ← readVaC d1 f.cr none tr.va.toNat (8 * (tr.nodes - 1))
        writeVa d2 f.cr none pl.mask (maskBytes bs tr.nodes)
    | none => pure d1
  let ent := entryOf d2 f i s o pl b.rows
  let d3 ← putTable d2 f b.adm.length ent
  let rest := dropSegs s.segs fromSegs
  let s1 := getSlot d3 i
  let d4 := setSlot d3 i { s1 with
    st := .active, segs := rest, pendTok := none, tree := if o.nodes = 0 then s1.tree else none, list := l, draft := g }
  let a : Admitted :=
    { slot := BitVec.ofNat 16 i, handle := BitVec.ofNat 32 (slotHandle d4 i), kind := BitVec.ofNat 4 o.kind, c := o.c, c0 := o.c, t := o.t
      depth := o.depth, nodes := o.nodes, splits0 := offerSplits f.m o, entry := ent, inputs := if o.kind = 1 then ins else []
      taken := taken, pendBefore := s.pendTok, pages := s.list.pages, dpages := s.draft.pages, tree := if o.nodes = 0 then none else s.tree
      deadline := s.deadline, dropLate := s.dropLate, cancelled := false, dropped := false, late := false, reported := false
      outcome := none, chunkShort := short, lastChunk := o.kind = 1 && rest.isEmpty }
  pure { b with
    d := d4, adm := b.adm ++ [a], order := b.order ++ [true], sum := addCost b.d f.m s o b.sum, rows := b.rows + o.t
    drows := b.drows + draftRows b.d s o, lcOut := b.lcOut + (if s.be then 0 else o.t), beOut := b.beOut + (if s.be then o.t else 0)
    anyLc := b.anyLc || !s.be, runs := b.runs ++ pl.runs }

/-- Defer a slot with a reason (R290, R292); a slot run ahead is merely not run ahead. -/
def deferSlot (b : Build) (i : Nat) (s : Slot) (o : Offer) (reason : Nat) (dropped : Bool) (want : Nat) : Build :=
  if !o.ready then b
  else { b with
    defd := b.defd ++ [{ slot := BitVec.ofNat 16 i, handle := BitVec.ofNat 32 (slotHandle b.d i), pos := s.pos, reason := BitVec.ofNat 8 reason
                         dropped := dropped }]
    order := b.order ++ [false], want := b.want + want
    d := if reason = 2 then setSlot b.d i { getSlot b.d i with starved := true } else b.d }

/-- Examine one slot: the tests of R290 in order, and a slot past its deadline with DROP_LATE (R298). -/
def examine (f : Frame0) (b : Build) (c : Cand) : Except Bad Build :=
  let i := c.1
  let s := c.2.1
  if s.dropLate && s.deadline ≠ 0 && s.deadline.toNat < b.d.now.toNat then pure (deferSlot b i s c.2.2 1 true 0)
  else
    match cutOffer f b s c.2.2 with
    | none => pure (deferSlot b i s c.2.2 1 false 0)
    | some (o, short) =>
      match framesOk f b s o with
      | none =>
        let n := framesFor b.d f.m s o
        pure (deferSlot b i s o 2 false (n.1 + n.2.1 + n.2.2))
      | some pl => if egressOk f b s o then admitOne f b i s o short pl else pure (deferSlot b i s o 3 false 0)

/-- Examine slots in order until all are examined, 8,192 are admitted, 256 deferred, or the result ring has no room (R292,
R483). -/
def examineAll (f : Frame0) (b : Build) (l : List Cand) : Except Bad Build :=
  match l with
  | [] => pure b
  | c :: r =>
    if 8192 ≤ b.adm.length || 256 ≤ b.defd.length || f.room ≤ b.adm.length + b.defd.length + 1 then pure b
    else
      match examine f b c with
      | .error e => .error e
      | .ok b1 => examineAll f b1 r

/-- The order in which slots are examined (R290): LC by deadline, none counting as the latest, then BE by longest READY; ties to
the lower slot. -/
def examineBefore (a b : Cand) : Bool :=
  let s := a.2.1
  let t := b.2.1
  if s.be ≠ t.be then !s.be
  else if s.be then readySooner a b
  else if s.deadline ≠ t.deadline then t.deadline = 0 || (s.deadline ≠ 0 && decide (s.deadline.toNat < t.deadline.toNat))
  else decide (a.1 < b.1)

/-! ## Frame pressure (R311, R337, R379) -/

/-- The entries of a slot's main list that a demotion carries: those with private frames, in list order. -/
def demoteEntries (m : Model) (s : Slot) : List Nat := (List.range (s.list.pages * m.layers)).filter (fun e => (tfind s.list.frames e).isSome)

/-- Demote a PARKED slot held in pier (R379). -/
def startDemote (d : Dev) (i : Nat) : Dev :=
  let s := getSlot d i
  let g := s.tierGroup.toNat
  match getModel d s.model, s.park with
  | some m, some q =>
    if !groupBase d s.part.toNat g then cwEvent d s.cr.toNat 0x0206 (slotHandle d i) 0
    else
      let es := demoteEntries m s
      let x := d.cwy.nextId
      let t := slotXfer d .tierDemote i s g (i % groupSize (groupWord d g))
      let d1 := addXfer d (withFlows { t with
        pieces := es.map (fun e => (65536 * tget s.list.frames e 0, modelPage m)), entries := es, total := es.length * modelPage m
        posFirst := 0, posCount := s.pos, ttlMs := (q.expiry.toNat - d.now.toNat) / 100000 })
      setSlot d1 i { s with demote := some x }
  | _, _ => d

/-- Demote parked caches, longest parked first, until `short` frames are covered; the frames still to be covered. -/
def demoteAll (d : Dev) (l : List (Nat × Slot)) (short : Nat) : Dev × Nat :=
  match l with
  | [] => (d, short)
  | (i, s) :: r =>
    if short = 0 then (d, 0)
    else
      match getModel d s.model with
      | none => demoteAll d r short
      | some m =>
        let d1 := startDemote d i
        let n := if (getSlot d1 i).demote.isSome then (demoteEntries m s).length else 0
        demoteAll d1 r (short - n)

/-- Frame pressure: the frames that deferred slots wanted beyond those that are free. Demotions that already run count; what they do not
cover is left to the partition's walker, in the order of its operations (R311, R331, R337). -/
def relieve (d : Dev) (p want : Nat) : Dev :=
  let short := want - freeCount d p
  if short = 0 then d
  else
    let parked := d.cox.slots.filter (fun q => q.2.st = .parked && q.2.part.toNat = p && !q.2.remote)
    let coming := ((parked.filter (fun q => q.2.demote.isSome)).map (fun q => q.2.list.frames.length)).sum
    let idle := parked.filter (fun q => q.2.demote.isNone && q.2.list.frames ≠ [])
    let order := sortBy (fun (a b : Nat × Slot) =>
      if a.2.parkedAt ≠ b.2.parkedAt then decide (a.2.parkedAt.toNat < b.2.parkedAt.toNat) else decide (a.1 < b.1)) idle
    let r := demoteAll d order (short - coming)
    if r.2 = 0 then r.1 else walksOf (queueOp r.1 p (.relief r.2)) p

/-! ## STEP_BUILD (R272, R284, R292) -/

/-- The context that a partition builds steps for: the RUNNING one (R272). -/
def buildsFor (d : Dev) (p : Nat) : Option Nat :=
  let x := getPart d p
  if !alive d then none
  else
    match x.running with
    | none => none
    | some cr => if (getCtx d cr.toNat).st = .running then some cr.toNat else none

/-- Whether a context may take another step: fewer than two, no wait for the running one's end (R284), a sequence table, and a result ring with two free entries (R272,
R293, R483). -/
def mayBuild (d : Dev) (cr : Nat) : Bool :=
  let sc := getSteps d cr
  let q := getRing d (ringKey (getCtx d cr).fn.toNat (getCtx d cr).vctx.toNat 2)
  sc.nxt.isNone && !sc.holdBuild && sc.policy.tableVa ≠ 0 && ringUsable q && decide (2 ≤ ringFree q)

/-- Deficits after a step: the rows admitted are taken off, and a model without a READY slot starts again at 0 (R283). -/
def settleDeficits (d : Dev) (cr m rows : Nat) : Dev :=
  let sc := getSteps d cr
  let df := tset sc.deficit m (tget sc.deficit m 0 - (rows : Int))
  let has := fun (k : Nat) => d.cox.slots.any (fun p => p.2.st = .ready && p.2.cr.toNat = cr && p.2.model = k)
  setSteps d cr { sc with deficit := df.filter (fun q => has q.1) }

/-- The built step takes its place: the running step when none runs, else the next. -/
def placeStep (d : Dev) (cr : Nat) (st : Step) : Dev :=
  let sc := getSteps d cr
  setSteps d cr (match sc.cur with
    | none => { sc with cur := some st, nextNum := sc.nextNum + 1 }
    | some _ => { sc with nxt := some st, nextNum := sc.nextNum + 1 })

/-- A step built after slots of the running one have reported takes their patches at once (R288). -/
def patchReported (d : Dev) (cr num : Nat) : Dev :=
  match num, (getSteps d cr).cur with
  | n + 1, some st =>
    if st.num ≠ n then d else (List.range st.admitted.length).foldl (fun d e => patchVerify d cr n e) d
  | _, _ => d

/-- The step that a build of model `mi` makes. -/
def stepFrom (f : Frame0) (b : Build) (change : Bool) : Step :=
  { num := f.num, model := f.mi, phase := .built, table := (getSteps b.d f.cr).policy.tableVa.toNat, order := b.order, admitted := b.adm
    deferred := b.defd, todo := [], rows := b.rows, proj := projected b.d f.p b.sum, modelChange := change, clockStepped := false
    scratch := b.runs, startTs := 0, endTs := 0 }

/-- A build that admitted slots: the weights are pulled, and the step takes its place. -/
def finishBuild (f : Frame0) (b : Build) (ms : List Nat) : Dev :=
  let change := ms.any (fun m => !isResident b.d m)
  let st := stepFrom f b change
  let d1 := patchReported (placeStep (settleDeficits b.d f.cr f.mi b.rows) f.cr st) f.cr f.num
  let d2 := ms.foldl (fun d m => match getModel d m with | some x => setModel d m { x with lastStep := d.now } | none => d) d1
  ms.foldl (fun d m => startPull d f.cr m (!b.anyLc)) (relieve d2 f.p b.want)

/-- Build a step of a context with main model `mi`, whose weights have their frames. A build that admits no slot builds no step;
`d0` is the device before frames were found. -/
def buildStep (d0 d : Dev) (cr p mi : Nat) (m : Model) (cs : List Cand) : Dev :=
  let q := getRing d (ringKey (getCtx d cr).fn.toNat (getCtx d cr).vctx.toNat 2)
  let f : Frame0 := { cr := cr, p := p, num := (getSteps d cr).nextNum, mi := mi, m := m, room := ringFree q }
  let b0 : Build := { d := d, adm := [], defd := [], order := [], sum := m.costStep, rows := 0, drows := 0, lcOut := 0, beOut := 0
                      anyLc := false, runs := [], want := 0 }
  match examineAll f b0 (sortBy examineBefore (cs.filter (fun c => c.2.1.model = mi))) with
  | .error e => accessFault d cr e { unit := 3, step := f.num }
  | .ok b =>
    if b.adm.isEmpty then
      let back := b.defd.foldl (fun d x =>
        if x.reason = 2 then setSlot d x.slot.toNat { getSlot d x.slot.toNat with starved := true } else d) d0
      relieve (setSteps back cr (getSteps d cr)) p b.want
    else finishBuild f b (stepModels d mi cs)

/-- STEP_BUILD. -/
def stepBuildD (p : Nat) (d : Dev) : Dev :=
  match buildsFor d p with
  | none => d
  | some cr =>
    if !mayBuild d cr then d
    else
      let cs := candsOf d cr
      match chooseResident d cr p cs with
      | (d1, none) => coxSettle d1
      | (d1, some mi) =>
        match getModel d1 mi with
        | none => coxSettle d1
        | some m => coxSettle (buildStep d d1 cr p mi m cs)

/-- STEP_BUILD (R290). -/
def execStepBuild (p : PartId) (s : State) : Answer := onDev s (stepBuildD p.toNat)

end Sys2Proof.Machine
end

