-- ==== Sys2Proof/Machine/Merge.lean ====
section
/-! DEFINITION. What two of Cox's own tasks compute, as the spec gives it: the merge of a split attention's partial records (R267, R268),
and the compaction of an accepted token tree in the slot's pages (R261, R308, R309). -/

namespace Sys2Proof.Machine

open Sys2Proof

/-! ## The merge of split attention (R267, R268) -/

/-- One row of a partial record: its maximum, its sum and its output channels (R267). -/
structure PartRow where
  m : Word32
  l : Word32
  o : List Word32
deriving DecidableEq, Repr

/-- Row `i` of a partial record of `r` rows of `dim` channels (R267). -/
def partRow (bs : List Byte) (r dim i : Nat) : PartRow :=
  let w := fun (a : Nat) => BitVec.ofNat 32 (leAt bs a 4)
  { m := w (4 * i), l := w (4 * r + 4 * i), o := (List.range dim).map (fun c => w (8 * r + 4 * (i * dim + c))) }

/-- The weight of a part under the common maximum `m`: +0 where the part saw no key (R268). -/
def partWeight (a m : Word32) : Word32 := if a = 0xFF800000 then 0 else vexp2 (sub32 a m)

/-- Combine two rows of partial records (R268). -/
def combineRows (a b : PartRow) : PartRow :=
  let m := max32 a.m b.m
  let wa := partWeight a.m m
  let wb := partWeight b.m m
  { m := m, l := fma32 a.l wa (mul32 b.l wb), o := a.o.zipWith (fun x y => fma32 x wa (mul32 y wb)) b.o }

/-- One level of the merge: neighbours combine, and an odd record rises unchanged. -/
def mergeLevel (l : List PartRow) : List PartRow :=
  match l with
  | a :: b :: r => combineRows a b :: mergeLevel r
  | l => l

/-- `k` levels of the merge. -/
def mergeLevels (k : Nat) (l : List PartRow) : List PartRow :=
  match k with
  | 0 => l
  | j + 1 => mergeLevels j (mergeLevel l)

/-- The output channels of a row from its partial records in split order: +0 where every key is masked (R268). -/
def mergeRow (l : List PartRow) : List Word32 :=
  match mergeLevels l.length l with
  | p :: _ => p.o.map (fun x => if numIsZero (dec32 p.l) then 0 else mul32 x (vrecip p.l))
  | [] => []

/-- Where the partial record of split `s` of a layer and KV head lies, `t` positions a record: records follow one another by layer, KV
head and split from PARTIAL_VA (R267, R286; log 20). -/
def partialVa (m : Model) (a : Admitted) (layer head s : Nat) : Nat :=
  (a.entry.getD 5 0).toNat + ((layer * m.heads + head) * a.splits0 + s) * partialBytes m a.t

/-- The output rows of a merge task, one for each query head and position that share its KV head, each packed in the format MFMT of the
slot's sequence table entry (R267, R268, R286). -/
def mergeOutput (d : Dev) (cr : Nat) (m : Model) (a : Admitted) (layer head : Nat) : Except Bad (List (List Byte)) := do
  let q := match m.attn with | some x => x.qHeads | none => m.heads
  let r := a.t * (q / m.heads)
  let dim := gDim (modelGeo m)
  let fmt := fld (a.entry.getD 0 0) 47 4
  let s := fld (a.entry.getD 0 0) 42 5 + 1
  let recs ← (List.range s).mapM (fun i => readVa d cr none (partialVa m a layer head i) (4 * r * (2 + dim)))
  pure ((List.range r).map (fun i =>
    packRow (fmtWidth fmt) ((mergeRow (recs.map (fun bs => partRow bs r dim i))).map (fun w =>
      (cvtElem { tfmt := fmt, clip := true, flush := false } (dec32 w)).1))))

/-! ## Compaction of a token tree (R261, R308, R309) -/

/-- The lowest-numbered child of node `p` with a token, among `n` nodes (R308). -/
def treeChild (bs : List Byte) (n p tok : Nat) : Option Nat :=
  (List.range n).find? (fun j => decide (0 < j) && decide ((treeNode bs j).1 = p) && decide (leAt bs (8 * (j - 1)) 4 = tok))

/-- The nodes that the acceptance walk takes from node `p` on for the accepted tokens (R308). -/
def treePath (bs : List Byte) (n p : Nat) (toks : List Word32) : List Nat :=
  match toks with
  | [] => []
  | w :: r =>
    match treeChild bs n p w.toNat with
    | none => []
    | some j => j :: treePath bs n j r

/-- The bits of one position in a tensor of a page: bit offset and length (R253). -/
def posBits (g : Geo) (t : Tens) (p : Nat) : List (Nat × Nat) :=
  let q := p / t.unit % (gRun g / t.unit)
  if t.byRow then [(8 * (t.off + q * t.ps), 8 * t.ps)]
  else (List.range t.n).map (fun r => (8 * (t.off + r * t.ps) + q * t.w, t.w))

/-- The tensors of every head that a copy to position `dst` writes: elements and scales, the scale of a block of positions only when
`dst` is its first (R261). -/
def posTens (g : Geo) (dst : Nat) : List Tens :=
  (List.range g.heads).flatMap (fun h => [false, true].flatMap (fun v =>
    (moveTens { g with head := h } v true).filter (fun t => t.unit = 1 || decide (dst % t.unit = 0))))

/-- Bits of pier from a bit address. -/
def bitsGet (m : Memory) (a n : Nat) : Nat := leNat (memGets m (a / 8) (cdiv (a % 8 + n) 8)) / 2 ^ (a % 8) % 2 ^ n

/-- Pier bytes with bits from a bit address replaced. -/
def bitsPut (m : Memory) (a n v : Nat) : Memory :=
  let k := cdiv (a % 8 + n) 8
  let old := leNat (memGets m (a / 8) k)
  memPuts m (a / 8) (toLe k (old - bitsGet m a n * 2 ^ (a % 8) + v % 2 ^ n * 2 ^ (a % 8)))

/-- Copy one position of a layer's pages to another, K and V of every head, and mark the page DIRTY (R253, R262, R309). -/
def copyPos (m : Model) (cr : Nat) (l : PageList) (layer src dst : Nat) (d : Dev) : Except Bad Dev := do
  let g := modelGeo m
  let se ← readEntry d cr l (src / modelRun m * m.layers + layer)
  let de ← readEntry d cr l (dst / modelRun m * m.layers + layer)
  let sa := 65536 * fld se 0 20
  let da := 65536 * fld de 0 20
  match pierPoison d sa (modelPage m), pierPoison d da (modelPage m) with
  | some w, _ => .error ⟨fEccPier, entryVa l (src / modelRun m * m.layers + layer), w / 4096⟩
  | _, some w => .error ⟨fEccPier, entryVa l (dst / modelRun m * m.layers + layer), w / 4096⟩
  | none, none =>
    let mem := (posTens g dst).foldl (fun mem t =>
      ((posBits g t src).zip (posBits g t dst)).foldl (fun mem p =>
        bitsPut mem (8 * da + p.2.1) p.2.2 (bitsGet d.pier.mem (8 * sa + p.1.1) p.1.2)) mem) d.pier.mem
    let d1 := chargeCtx { d with pier := { d.pier with mem := mem } } cr 0 (2 * cdiv (modelPage m) (modelRun m))
    putEntry d1 cr l (dst / modelRun m * m.layers + layer) (setFld de 47 1 1)

/-- Copy the accepted nodes from positions C + i_j to C + j in ascending j, on every layer (R309). -/
def compactPages (m : Model) (cr c : Nat) (l : PageList) (nodes : List Nat) (d : Dev) : Except Bad Dev :=
  (nodes.zipIdx).foldlM (fun d p =>
    if p.1 = p.2 + 1 then pure d
    else (List.range m.layers).foldlM (fun d layer => copyPos m cr l layer (c + p.1) (c + p.2 + 1) d) d) d

/-- The compaction of a tree step before egress (R309; log 20): the accepted nodes follow from the tree and the tokens emitted. -/
def compactTree (d : Dev) (i : Nat) (a : Admitted) : Dev :=
  let s := getSlot d i
  match a.tree, getModel d s.model with
  | some tr, some m =>
    if a.nodes = 0 || accepted a = 0 then d
    else
      let step : Except Bad Dev := do
        let (d1, bs) ← readVaC d s.cr.toNat none tr.va.toNat (8 * (tr.nodes - 1))
        compactPages m s.cr.toNat a.c s.list (treePath bs tr.nodes 0 ((emitted a).take (accepted a))) d1
      match step with
      | .ok d1 => d1
      | .error b => accessFault d s.cr.toNat b { unit := 3, handle := viewHandle d s.fn.toNat (slotHandle d i) }
  | _, _ => d

end Sys2Proof.Machine
end

