-- ==== Sys2Proof/Machine/Steps.lean ====
section
/-! DEFINITION. A step from the start of its delivery to the effects of its result batch: the tasks of its grids, attention and
sampling, the buffer table, slots leaving ACTIVE, egress, inserts, and the windows and snapshot of Cox's registers (R209 to
R213, R264, R266, R276, R285, R297, R298, R307, R314, R315, R334, R366, R557, R585). -/

namespace Sys2Proof.Machine

open Sys2Proof

/-! ## Grid tasks (R209 to R211, R242) -/

/-- The index of task (m, n, p) of a grid of `mb` by `nb` blocks. -/
def gridIndex (g : TaskDesc) (mb nb m n p : Nat) : Nat :=
  gBase g + (if bitOf g.q0 24 then (p * mb + m) * nb + n else (p * nb + n) * mb + m)

/-- ARG of a grid task: the block, the part, and its valid rows and columns. -/
def gridArg (g : TaskDesc) (rows m n p : Nat) : Word64 :=
  BitVec.ofNat 64 (m + n * 2 ^ 16 + p * 2 ^ 32 + (min (gMt g) (rows - m * gMt g) - 1) * 2 ^ 36
    + (min (gNt g) (gN g - n * gNt g) - 1) * 2 ^ 45)

/-- A template descriptor with its index and argument. -/
def fillDesc (t : TaskDesc) (index : Nat) (arg : Word64) : TaskDesc := { t with q0 := setFld t.q0 0 24 index, q7 := arg }

/-- A task as Cox delivers it, before anything particular to its kind. -/
def plainWork (cr : RecNo) (step : Nat) (t : TaskDesc) : Work :=
  { desc := t, ctx := 0, cr := cr, step := step, place := false, taskBase := 0, gridWord := 0, excl := none, split := none
    waits := .nothing, chain := none, sampling := false, stolen := false, withdrawn := false }

/-- Task (m, n, p) of a grid: part p waits for part p − 1 of its block and takes its flags (R242, R243). -/
def gridTask (cr : RecNo) (step : Nat) (g t : TaskDesc) (rows m n p : Nat) : Work :=
  let mb := gMb g rows
  let nb := gNb g
  let before := gridIndex g mb nb m n (p - 1)
  { plainWork cr step (fillDesc t (gridIndex g mb nb m n p) (gridArg g rows m n p)) with
    place := bitOf g.q0 25, taskBase := gBase g, gridWord := g.q0
    waits := if p = 0 then .nothing else .tasks [before], chain := if p = 0 then none else some before }

/-- All tasks of a grid for a product of `rows` rows. -/
def gridTasks (cr : RecNo) (step : Nat) (g t : TaskDesc) (rows : Nat) : List Work :=
  (List.range (gParts g)).flatMap (fun p => (List.range (gNb g)).flatMap (fun n => (List.range (gMb g rows)).map (fun m =>
    gridTask cr step g t rows m n p)))

/-- A model's grids with their templates, read through the context's translations. -/
def modelGrids (d : Dev) (cr mi : Nat) (m : Model) : Except Bad (List (TaskDesc × TaskDesc)) :=
  m.grids.foldlM (fun acc g => do
    let bs ← readVa d cr (some mi) (fld g.q2 0 48) 64
    pure (acc ++ [(g, descOf bs)])) []

/-- The tasks of a model's grids for a product of `rows` rows. -/
def modelTasks (cr : RecNo) (step : Nat) (gs : List (TaskDesc × TaskDesc)) (rows : Nat) : List Work :=
  gs.flatMap (fun p => gridTasks cr step p.1 p.2 rows)

/-! ## The buffer table (R213) -/

/-- Piece of a row: `n` bytes at an address, then zeros to the buffer's row length. -/
def rowPiece (va n len : Nat) : List (Option Word64 × Nat) := [(some (BitVec.ofNat 64 va), n), (none, len - n)]

/-- The element rows of block `b` over chunk `c` of an operand of `total` rows; rows past the operand's last are zero (R211). -/
def elemPieces (g : TaskDesc) (va fmt rows total b c : Nat) : List (Option Word64 × Nat) :=
  let k := chunkPos g c
  (List.range rows).flatMap (fun i =>
    if total ≤ b * rows + i then [(none, rowBytes fmt k)]
    else rowPiece (va + (b * rows + i) * rowBytes fmt (gK g) + c * gChunk g * fmtWidth fmt / 8) (cdiv (k * fmtWidth fmt) 8) (rowBytes fmt k))

/-- The scale rows of block `b` over chunk `c` (R43). -/
def scalePieces (g : TaskDesc) (va sm rows total b c : Nat) : List (Option Word64 × Nat) :=
  let k := chunkPos g c
  let sb := scaleBytes (smFmt sm)
  if smFmt sm = 0 then []
  else if smDir sm then
    (List.range (cdiv rows (smBlock sm))).flatMap (fun i =>
      let r := b * rows / smBlock sm + i
      if total ≤ r * smBlock sm then [(none, scaleRow sm k)]
      else rowPiece (va + r * scaleRow sm (gK g) + c * gChunk g * sb) (k * sb) (scaleRow sm k))
  else
    let n := cdiv k (smBlock sm)
    (List.range rows).flatMap (fun i =>
      if total ≤ b * rows + i then [(none, scaleRow sm n)]
      else rowPiece (va + (b * rows + i) * scaleRow sm (cdiv (gK g) (smBlock sm)) + c * gChunk g / smBlock sm * sb) (n * sb) (scaleRow sm n))

/-- The entry of one operand's block and chunk: rows, a W2 table, scales. -/
def gridBuf (cr : RecNo) (g : TaskDesc) (weight : Bool) (rows b c : Nat) : Buf :=
  let fmt := if weight then gWfmt g else gAfmt g
  let sm := if weight then gWsm g else gAsm g
  let n := if weight then gNt g else gMt g
  let total := if weight then gN g else rows
  let va := if weight then fld g.q6 0 48 else fld g.q4 0 48
  let sva := if weight then fld g.q7 0 48 else fld g.q5 0 48
  let tab : List (Option Word64 × Nat) := if fmt = 8 then [(some (BitVec.ofNat 64 sva), 8)] else []
  { Buf.init with
    pier := true, cr := cr, words := bufWords g fmt sm n c
    pieces := elemPieces g va fmt n total b c ++ tab ++ scalePieces g (if fmt = 8 then sva + 8 else sva) sm n total b c }

/-- Fill the entries of a grid (R213). -/
def fillGrid (d : Dev) (tbl : Nat) (cr : RecNo) (g : TaskDesc) (rows : Nat) : Dev :=
  let put := fun (weight : Bool) (base nb : Nat) (d : Dev) =>
    (List.range nb).foldl (fun d b => (List.range (gChunks g)).foldl (fun d c =>
      setBuf d tbl (base + b * gChunks g + c) (gridBuf cr g weight rows b c)) d) d
  put true (gWbuf g) (gNb g) (put false (gAbuf g) (gMb g rows) d)

/-! ## Attention tasks (R264, R266, R287, R309) -/

/-- Key parts of a prefill of `o` positions: parts that query block `m` needs (R264). -/
def partsFor (kpp c t m : Nat) : Nat := min (c + 128 * m + 127) (c + t - 1) / (128 * kpp) + 1

/-- The prefill attention tasks of one layer of a slot's rows, their indices from `base` up. -/
def prefillLayer (cr : RecNo) (step base e seq : Nat) (a : AttnSrc) (kpp c t : Nat) : List Work :=
  let mb := cdiv t 128
  let nb := a.qHeads
  let idx := fun (m n p : Nat) => base + (p * nb + n) * mb + m
  (List.range mb).flatMap (fun m =>
    let ps := partsFor kpp c t m
    (List.range nb).flatMap (fun n => (List.range ps).map (fun p =>
      let arg := BitVec.ofNat 64 (seq + m * 2 ^ 24 + n * 2 ^ 36 + p * 2 ^ 44 + b2n (p + 1 = ps) * 2 ^ 52)
      { plainWork cr step (fillDesc a.prefill (idx m n p) arg) with
        taskBase := base, excl := some e
        waits := if p = 0 then .nothing else .tasks [idx m n (p - 1)], chain := if p = 0 then none else some (idx m n (p - 1)) })))

/-- Task indices that one layer of a slot's prefill attention spans. -/
def prefillSpan (a : AttnSrc) (kpp c t : Nat) : Nat := partsFor kpp c t (cdiv t 128 - 1) * a.qHeads * cdiv t 128

/-- The split and merge tasks of one layer and KV head: `s0` splits as built, of which those below `s` are still to run; the merge
waits for them (R266, R288). -/
def splitHead (cr : RecNo) (step base e seq : Nat) (a : AttnSrc) (s0 s : Nat) : List Work :=
  let arg := BitVec.ofNat 64 seq
  let kept := List.range (min s0 s)
  (kept.map (fun i =>
    { plainWork cr step (fillDesc a.split (base + i) arg) with excl := some e, split := some i })) ++
  [{ plainWork cr step (fillDesc a.merge (base + s0) arg) with excl := some e, waits := .tasks (kept.map (fun i => base + i)) }]

/-- The attention tasks of an admitted slot, from index `base` up, and the next free index: prefill attention, split and merge
tasks, and a tree's compaction task. The spec gives no index base, and the templates are the model's (log 20). -/
def attnTasks (m : Model) (run : Nat) (cr : RecNo) (step base e : Nat) (a : AttnSrc) (x : Admitted) : List Work × Nat :=
  let seq := seqOf step e
  if x.kind = 1 then
    let n := prefillSpan a m.kpp x.c x.t
    ((List.range m.layers).flatMap (fun y => prefillLayer cr step (base + y * n) e seq a m.kpp x.c x.t), base + m.layers * n)
  else
    let s := (splitsOf (x.c + x.t) m.splitLen run).1
    let n := x.splits0 + 1
    let k := m.layers * m.heads
    let l := (List.range k).flatMap (fun j => splitHead cr step (base + j * n) e seq a x.splits0 s)
    if x.nodes = 0 then (l, base + k * n)
    else (l ++ [{ plainWork cr step (fillDesc a.compact (base + k * n) (BitVec.ofNat 64 seq)) with excl := some e }], base + k * n + 1)

/-- One above the highest index of a list of tasks. -/
def nextIndex (l : List Work) : Nat := (l.map (fun w => taskIndex w + 1)).foldl max 0

/-- The attention tasks of slots with their entry indices, from index `base` up, and the next free index. -/
def allAttn (m : Model) (cr : RecNo) (step base : Nat) (l : List (Admitted × Nat)) : List Work × Nat :=
  match m.attn with
  | none => ([], base)
  | some a =>
    l.foldl (fun (acc : List Work × Nat) p =>
      let r := attnTasks m (modelRun m) cr step acc.2 p.2 a p.1
      (acc.1 ++ r.1, r.2)) ([], base)

/-! ## The draft model's rows (R264, R266, R282, R301) -/

/-- Whether a slot's step runs draft-model rows: the same positions of a PREFILL, or `k` rows in sequence. -/
def hasDraft (a : Admitted) : Bool := if a.kind = 1 then a.entry.getD 6 0 ≠ 0 else decide (0 < a.depth)

/-- What a slot runs on the draft model in round `j`: a PREFILL's positions in round 1, otherwise its `j`-th DECODE row, at position
C + j − 1. -/
def draftPart (q : Model) (j : Nat) (a : Admitted) : Option Admitted :=
  if !hasDraft a then none
  else if a.kind = 1 then (if j = 1 then some a else none)
  else if j ≤ a.depth then
    some { a with c := a.c + (j - 1), t := 1, nodes := 0, splits0 := (splitsOf (a.c + j) q.splitLen (modelRun q)).1 }
  else none

/-- The slots of round `j` with their entry indices. -/
def draftSlots (q : Model) (st : Step) (j : Nat) : List (Admitted × Nat) :=
  st.admitted.zipIdx.filterMap (fun p => (draftPart q j p.1).map (fun a => (a, p.2)))

/-- Rows of round `j`. -/
def roundRows (q : Model) (st : Step) (j : Nat) : Nat := ((draftSlots q st j).map (fun p => p.1.t)).sum

/-- A grid whose tasks have their indices from another base. -/
def withBase (g : TaskDesc) (x : Nat) : TaskDesc := { g with q3 := setFld g.q3 35 24 x }

/-- Hold what opens a round until every task of the round before has its record (log 35). -/
def afterRound (before : List Nat) (w : Work) : Work :=
  match w.waits with
  | .nothing => if before.isEmpty then w else { w with waits := .tasks before }
  | _ => w

/-- The tasks of one round, with what the rounds before it gave: all tasks so far, the indices of the last round, and the next free
index. Round 1 has the grids' own indices. -/
def draftRound (cr : RecNo) (q : Model) (gs : List (TaskDesc × TaskDesc)) (st : Step) (acc : List Work × List Nat × Nat) (j : Nat) :
    List Work × List Nat × Nat :=
  let rows := roundRows q st j
  if rows = 0 then acc
  else
    let grids := gs.foldl (fun (l : List Work × Nat) p =>
      if j = 1 then (l.1 ++ gridTasks cr st.num p.1 p.2 rows, l.2)
      else (l.1 ++ gridTasks cr st.num (withBase p.1 l.2) p.2 rows, l.2 + gMb p.1 rows * gNb p.1 * gParts p.1)) ([], acc.2.2)
    let attn := allAttn q cr st.num grids.2 (draftSlots q st j)
    let new := (grids.1 ++ attn.1).map (afterRound acc.2.1)
    (acc.1 ++ new, new.map taskIndex, attn.2)

/-- The draft model's tasks of a step, indices past the grids' own from `base` up: its rows run in sequence, one round after
another (R282, R301). -/
def draftTasks (cr : RecNo) (q : Model) (gs : List (TaskDesc × TaskDesc)) (st : Step) (base : Nat) : List Work :=
  ((List.range 8).foldl (fun acc j => draftRound cr q gs st acc (j + 1)) ([], [], base)).1

/-! ## Sampling tasks (R585) -/

/-- Whether a slot's step emits or tests tokens. -/
def samples (a : Admitted) : Bool := a.kind ≠ 1 || a.lastChunk

/-- The sampling and acceptance task of entry `e`; `x` is one above every other index of the step. -/
def sampleTask (cr : RecNo) (step x e : Nat) (t : TaskDesc) : Work :=
  { plainWork cr step { fillDesc t (x + e) (BitVec.ofNat 64 (seqOf step e)) with q6 := setFld t.q6 0 48 (descComplVa t + 32 * e) } with
    excl := some e, waits := .allOthers, sampling := true }

/-- The sampling tasks of a step. -/
def sampleTasks (d : Dev) (cr : Nat) (st : Step) (m : Model) (x : Nat) : Except Bad (List Work) :=
  if !st.admitted.any samples then pure []
  else do
    let bs ← readVa d cr (some st.model) m.sampleVa.toNat 64
    pure ((st.admitted.zipIdx.filter (fun p => samples p.1)).map (fun p => sampleTask (BitVec.ofNat 12 cr) st.num x p.2 (descOf bs)))

/-! ## STEP_DELIVERY_START (R285, R557) -/

/-- Draft-model rows of a step. -/
def stepDraftRows (st : Step) : Nat :=
  (st.admitted.map (fun a => if !hasDraft a then 0 else if a.kind = 1 then a.t else a.depth)).sum

/-- The draft model of a step, when the step has draft rows. -/
def stepDraft (d : Dev) (st : Step) (m : Model) : Option (Nat × Model) :=
  if stepDraftRows st = 0 then none else m.draft.bind (fun q => (getModel d q).map (fun x => (q, x)))

/-- The tasks of a step in ascending TASK_INDEX; cancelled entries bring none of their own (R287). -/
def stepTasks (d : Dev) (cr : Nat) (st : Step) (m : Model) : Except Bad (List Work) := do
  let rc : RecNo := BitVec.ofNat 12 cr
  let main := modelTasks rc st.num (← modelGrids d cr st.model m) st.rows
  let others ← match stepDraft d st m with
    | none => pure (main ++ (allAttn m rc st.num (nextIndex main) st.admitted.zipIdx).1)
    | some (_, q) => do
      let gs ← modelGrids d cr st.model q
      let attn := allAttn m rc st.num (nextIndex (main ++ modelTasks rc st.num gs (roundRows q st 1))) st.admitted.zipIdx
      pure (main ++ attn.1 ++ draftTasks rc q gs st attn.2)
  let samp ← sampleTasks d cr st m (nextIndex others)
  let live := fun (w : Work) => match w.excl with
    | none => true
    | some e => match st.admitted[e]? with | some a => !a.cancelled | none => true
  pure (sortBy (fun a b => decide (taskIndex a < taskIndex b)) ((others ++ samp).filter live))

/-- The buffer table entries of a step's grids. -/
def fillBufs (d : Dev) (cr : Nat) (st : Step) (m : Model) : Dev :=
  let tbl := bufTable (getCtx d cr).part.toNat st.num
  let d1 := m.grids.foldl (fun d g => fillGrid d tbl (BitVec.ofNat 12 cr) g st.rows) d
  match stepDraft d st m with
  | some (_, q) => q.grids.foldl (fun d g => fillGrid d tbl (BitVec.ofNat 12 cr) g (roundRows q st 1)) d1
  | none => d1

/-- Whether the Catch dispatcher has received the last task of a step. -/
def allReceived (st : Step) : Bool := st.phase ≠ .built && st.todo.isEmpty

/-- The step of a context that may begin delivery: the running one, or the next once the running one's tasks are received and it
shares no slot with it (R285). -/
def startable (d : Dev) (cr : Nat) : Option Step :=
  let sc := getSteps d cr
  match sc.cur, sc.nxt with
  | some st, nx =>
    if st.phase = .built then some st
    else
      (match nx with
       | some n =>
         if n.phase = .built && allReceived st && !n.admitted.any (fun a => st.admitted.any (fun b => b.slot = a.slot)) then some n else none
       | none => none)
  | none, _ => none

/-- Whether the weights of a step are resident. -/
def stepResident (d : Dev) (st : Step) (m : Model) : Bool :=
  m.resident && (match stepDraft d st m with | some (_, q) => q.resident | none => true)

/-- The context whose steps a partition may begin to deliver: the RUNNING one, until its slice has ended (R446). -/
def deliversFor (d : Dev) (p : Nat) : Option Nat := if (getPart d p).sliceOver.isSome then none else buildsFor d p

/-- Pull the weights of a built step again that were lost since its build: with their context's teardown, or a deck-direct
model's at a context switch (R284, R378). -/
def repull (d : Dev) (p cr : Nat) (st : Step) (m : Model) : Dev :=
  let ms := match stepDraft d st m with | some (q, _) => [st.model, q] | none => [st.model]
  let be := !st.admitted.any (fun a => !(getSlot d a.slot.toNat).be)
  match roomForAll d ms (ms ++ modelsInUse d p) with
  | (d1, true) => ms.foldl (fun d i => startPull d cr i be) d1
  | (_, false) => d

/-- The template descriptors that Cox reads for a step's tasks (R456). -/
def templateVas (d : Dev) (st : Step) (m : Model) : List Nat :=
  m.grids.map (fun g => fld g.q2 0 48) ++
    (match stepDraft d st m with | some (_, q) => q.grids.map (fun g => fld g.q2 0 48) | none => []) ++
    (if st.admitted.any samples then [m.sampleVa.toNat] else [])

/-- STEP_DELIVERY_START. -/
def deliveryStartD (p : Nat) (d : Dev) : Dev :=
  match deliversFor d p with
  | none => d
  | some cr =>
    match startable d cr with
    | none => d
    | some st =>
      match getModel d st.model with
      | none => d
      | some m =>
        if d.clk.delay then d
        else if !stepResident d st m then repull d p cr st m
        else
          match stepTasks d cr st m with
          | .error b => accessFault d cr b { unit := 3, step := st.num }
          | .ok ws =>
            let d0 := (templateVas d st m).foldl (fun d va => chargeRead d cr va 64) d
            let d1 := putStep (fillBufs d0 cr st m) cr { st with phase := .delivering, todo := ws, startTs := d.now }
            if ws.isEmpty then endStep d1 (BitVec.ofNat 12 cr) st.num else d1

/-- STEP_DELIVERY_START (R285). -/
def execStepDeliveryStart (p : PartId) (s : State) : Answer := onDev s (deliveryStartD p.toNat)

/-! ## RESULT_BATCH_WRITTEN (R276) -/

/-- The blocks of a slot that its step ran as PREFILL whole and whose pages it completed (R334): block and tokens. -/
def insertBlocks (m : Model) (a : Admitted) : List (Nat × List Word32) :=
  let b0 := cdiv a.c 64
  let run := modelRun m
  let whole := fun (b : Nat) => decide (64 * (b + 1) ≤ a.c + a.t) && (blockPages run b).all (fun g => decide ((g + 1) * run ≤ a.c + a.t))
  ((List.range ((a.c + a.t) / 64 - b0)).map (fun j => b0 + j)).filterMap (fun b =>
    if whole b then some (b, (a.inputs.drop (64 * b - a.c)).take 64) else none)

/-- Queue the inserts of a slot's step, one operation a block (R331, R334). -/
def queueInserts (d : Dev) (i : Nat) (a : Admitted) : Dev :=
  let s := getSlot d i
  match getModel d s.model with
  | none => d
  | some m =>
    if a.kind ≠ 1 then d
    else
      let p := s.part.toNat
      let new := (insertBlocks m a).map (fun b => KeyOp.insert (BitVec.ofNat 16 i) s.gen b.1 b.2)
      { d with key := { d.key with ops := tset d.key.ops p (tget d.key.ops p [] ++ new) } }

/-- Depth adaptation after a VERIFY step that was neither deferred nor cancelled (R307). -/
def adaptSlot (s : Slot) (a : Admitted) (limit : Nat) : Slot :=
  match adaptOf s a limit with
  | some x => { s with depth := x.depth, rejects := x.rejects, goods := x.goods }
  | none => s

/-- A slot after a step that kept its positions: position and pending token; a slot that is in the next step leaves its pending token to
that step (R276, R306). -/
def keepSlot (s : Slot) (a : Admitted) (inNext : Bool) : Slot :=
  { s with pos := endPos a, pendTok := if inNext then s.pendTok else match (emitted a).getLast? with | some w => some w | none => s.pendTok }

/-- Give a dropped step's positions, tokens and pages back to its slot, which is IDLE unless it is CANCELLING (R298). -/
def restoreSlot (d : Dev) (i : Nat) (a : Admitted) : Dev :=
  let s := getSlot d i
  match getModel d s.model with
  | none => d
  | some m =>
    let cut : Except Bad (Dev × PageList × PageList × List Nat) := do
      let (d1, l, fs) ← cutPageList d s.cr.toNat m s.list a.pages
      match m.draft.bind (getModel d) with
      | none => pure (d1, l, s.draft, fs)
      | some q => do
        let (d2, g, gs) ← cutPageList d1 s.cr.toNat q s.draft a.dpages
        pure (d2, l, g, fs ++ gs)
    match cut with
    | .error b => accessFault d s.cr.toNat b { unit := 3, handle := viewHandle d s.fn.toNat (slotHandle d i) }
    | .ok (d1, l, g, fs) =>
      freeFrames (setSlot d1 i { s with
        st := if s.st = .active then .idle else s.st, pos := a.c, segs := a.taken ++ s.segs, pendTok := a.pendBefore, list := l, draft := g
        tree := match a.tree with | some t => some t | none => s.tree }) s.part.toNat fs

/-- What a dropped step gives back is left to the next step of the same slot, which is dropped with it (R288, R298). -/
def handOn (d : Dev) (cr num e : Nat) (a b : Admitted) : Dev :=
  match stepOf d cr num with
  | none => d
  | some nx =>
    putStep d cr (setEntry nx e { b with
      c := a.c, taken := a.taken ++ b.taken, pendBefore := a.pendBefore, pages := a.pages, dpages := a.dpages
      tree := match a.tree with | some t => some t | none => b.tree })

/-- The state of a slot after its last built step: freed, parked, READY or IDLE (R276, R277). A retired slot whose blocks are still to be
inserted is freed after the last of them (R334; log 91). -/
def leaveActive (d : Dev) (i : Nat) : Dev :=
  let s := getSlot d i
  if s.st = .cancelling then releaseSlot d i false
  else if s.retirePend then (if insertsLeft d i then setSlot d i { s with leaving := true } else releaseSlot d i false)
  else
    match s.parkPend with
    | some q => parkSlot d i q
    | none => if s.st = .active then (if hasWork s then readySlot d i else setSlot d i { s with st := .idle }) else d

/-- What a written batch brings about for one admitted slot of a step (R276, R298, R299, R334, R366). -/
def settleAdmitted (cr num : Nat) (d : Dev) (a : Admitted) : Dev :=
  let i := a.slot.toNat
  if !sameSlot d a.slot a.handle || ctxDead d cr then d
  else
    let nx := (stepOf d cr (num + 1)).bind (fun n => findEntry d n i)
    let last := fun (d : Dev) => if nx.isSome then d else leaveActive d i
    let d0 := setSlot d i (adaptSlot (getSlot d i) a (getSteps d cr).policy.allRej)
    if a.dropped then
      (match nx with
       | some (e, b) => handOn d0 cr (num + 1) e a b
       | none => leaveActive (restoreSlot d0 i a) i)
    else if a.cancelled then last d0
    else
      let d1 := compactTree (setSlot d0 i (keepSlot (getSlot d0 i) a nx.isSome)) i a
      let d2 := pushSlot d1 i a.c (kept a)
      last (if (getSlot d2 i).st = .cancelling then d2 else queueInserts d2 i a)

/-- The step whose batch a partition has next: the RUNNING context's first. -/
def batchCtx (d : Dev) (p : Nat) : Option Nat :=
  let cs := ((getPart d p).running.map (fun r => r.toNat)).toList ++ (ctxsIn d p).map (fun q => q.1)
  cs.find? (fun cr => match (getSteps d cr).cur with | some st => st.phase = .recorded || st.phase = .written | none => false)

/-- After its batch is written a step is over: its slots settle, those that become READY doing so in one cycle (R273), and the next step
becomes the running one. -/
def closeStep (d : Dev) (cr : Nat) (st : Step) : Dev :=
  let d1 := nextReady (st.admitted.foldl (settleAdmitted cr st.num) d)
  let sc := getSteps d1 cr
  let d2 := { d1 with cat := { d1.cat with done := d1.cat.done.filter (fun r => !(r.cr.toNat = cr && r.step = st.num)) } }
  coxSettle (fencesOf (setSteps d2 cr { sc with cur := sc.nxt, nxt := none }) cr)

/-- RESULT_BATCH_WRITTEN: a batch that found no room is written first (R483). -/
def batchWrittenD (p : Nat) (d : Dev) : Dev :=
  match batchCtx d p with
  | none => d
  | some cr =>
    match (getSteps d cr).cur with
    | none => d
    | some st0 =>
      let d1 := if st0.phase = .recorded && alive d && !ctxDead d cr then writeBatch d cr st0 else d
      match (getSteps d1 cr).cur with
      | none => d1
      | some st => if st.phase = .written then closeStep d1 cr st else d1

/-- RESULT_BATCH_WRITTEN (R276). -/
def execResultBatchWritten (p : PartId) (s : State) : Answer := onDev s (batchWrittenD p.toNat)

/-! ## DEADLINE_PASS (R297) -/

/-- Patch the built step for a slot whose deadline passed in the running one. -/
def deadlinePatch (d : Dev) (cr i : Nat) (st : Step) : Dev :=
  match findEntry d st i, stepOf d cr (st.num + 1) with
  | some (_, a), some nx =>
    (match findEntry d nx i with
     | some (e, b) =>
       if !a.dropLate || a.deadline = 0 || d.now.toNat ≤ a.deadline.toNat || b.cancelled then d
       else
         let nx1 := dropTodo nx (fun w => w.excl = some e)
         cancelEntry (putStep d cr nx1) cr nx1 e b true
     | none => d)
  | _, _ => d

/-- DEADLINE_PASS. -/
def deadlineD (i : Nat) (d : Dev) : Dev :=
  let s := getSlot d i
  let cr := s.cr.toNat
  match (getSteps d cr).cur with
  | some st => if s.st = .active && alive d && (st.phase = .built || st.phase = .delivering) then deadlinePatch d cr i st else d
  | none => d

/-- DEADLINE_PASS (R297). -/
def execDeadlinePass (slot : SlotNo) (s : State) : Answer := onDev s (deadlineD slot.toNat)

/-! ## Registers (R314, R315) -/

/-- Whether a slot window meets another function's. -/
def winMeets (d : Dev) (n : Nat) (base size : Nat) : Bool :=
  (List.range 64).any (fun k => k ≠ n && runsMeet (base, size) (vfWin d k))

/-- COX_VFWIN_WRITE. -/
def vfwinD (n : Nat) (v : Word64) (d : Dev) : Dev :=
  let base := fld v 0 16
  let size := fld v 16 17
  if !pfOpen d 0x0400800 || (d.hif.vfEnable && n ≠ 0) || 65536 < base + size || winMeets d n base size then d
  else setReg d (0x0400800 + 8 * n) (BitVec.ofNat 64 (fld v 0 33))

/-- COX_VFWIN_WRITE (R314). -/
def execCoxVfwinWrite (n : Func) (value : Word64) (s : State) : Answer := onDev s (vfwinD n.toNat value)

/-- The code of a slot state (R275). -/
def slotCode (s : SlotState) : Nat :=
  match s with
  | .free => 0
  | .idle => 1
  | .ready => 2
  | .active => 3
  | .cancelling => 4
  | .parked => 5
  | .recalling => 6
  | .quarantined => 7

/-- What COX_SLOT_INFO shows of a slot; a FREE slot shows its generation alone (R315). -/
def slotInfo (d : Dev) (i : Nat) : Word64 :=
  let s := getSlot d i
  let own := if s.st = .free then 0
    else ctxNo d s.cr.toNat * 2 ^ 20 + s.part.toNat * 2 ^ 27 + s.model * 2 ^ 31 + b2n s.be * 2 ^ 45 + b2n s.hot * 2 ^ 46
      + s.depth * 2 ^ 47 + b2n s.tree.isSome * 2 ^ 51 + b2n s.remote * 2 ^ 52
  BitVec.ofNat 64 (s.gen.toNat + slotCode s.st * 2 ^ 16 + own)

/-- COX_SLOT_SEL_WRITE. -/
def slotSelD (v : Word64) (d : Dev) : Dev :=
  let i := fld v 0 16
  if pfOpen d 0x0400100 then
    let d1 := setReg d 0x0400100 (BitVec.ofNat 64 i)
    { d1 with cox := { d1.cox with slotInfo := slotInfo d i } }
  else d

/-- COX_SLOT_SEL_WRITE (R315). -/
def execCoxSlotSelWrite (value : Word64) (s : State) : Answer := onDev s (slotSelD value)

end Sys2Proof.Machine
end

