-- ==== Sys2Proof/Machine/Walker.lean ====
section
/-! DEFINITION. The operations of the Keystone walkers, the time-to-live sweepers, and the controllers and links of pier
(R312, R317, R319, R331 to R339, R345, R383). -/

namespace Sys2Proof.Machine

open Sys2Proof

/-! ## KEYSTONE_LOOKUP (R332, R333, R383) -/

/-- The list entries of the pages of block `b`: page by page, layer by layer (R330). -/
def blockEntries (m : Model) (b : Nat) : List Nat :=
  (blockPages (modelRun m) b).flatMap (fun g => (List.range m.layers).map (fun y => g * m.layers + y))

/-- A node is matched: a reference more, LAST_USE, COLD cleared, and out of the eviction list (R333, R337). -/
def matchNode (d : Dev) (i : Nat) : Dev :=
  let d1 := lruRemove d i
  let n := getNode d1 i
  setNode d1 i { n with refs := n.refs + 1, lastUse := d.now, cold := false }

/-- Copy the segment of the node that matched block `b` into a page list, SHARED (R333). -/
def copySegment (d0 : Dev) (cr gen : Nat) (m : Model) (l : PageList) (b node : Nat) : Except Bad Dev :=
  let n := getNode d0 node
  let d := chargeCtx d0 cr 0 (8 * n.segN.toNat)
  ((blockEntries m b).zipIdx.filter (fun p => p.2 < n.segN.toNat)).foldlM (fun (d : Dev) p =>
    putEntry d cr l p.1 (listEntry (fld (segEntry d n p.2) 0 20) (p.1 % m.layers) gen true true false false)) d

/-- Copy the segments of the matched nodes, blocks from `b` up. -/
def copySegments (d : Dev) (cr gen : Nat) (m : Model) (l : PageList) (b : Nat) (nodes : List Nat) : Except Bad Dev :=
  match nodes with
  | [] => .ok d
  | i :: r =>
    match copySegment (matchNode d i) cr gen m l b i with
    | .error e => .error e
    | .ok d1 => copySegments d1 cr gen m l (b + 1) r

/-- The pull of blocks `[m, k)` of a slot's prefix object into new frames (R383): none when the frames are not free, and
CW_GROUP_INVALID when the tier group is not valid (R369). -/
def startPrefixPull (d : Dev) (i : Nat) (mo : Model) (obj : Word64) (m k : Nat) : Dev :=
  let s := getSlot d i
  let g := s.tierGroup.toNat
  let es := (List.range (k - m)).flatMap (fun j => blockEntries mo (m + j))
  if !groupBase d s.part.toNat g then cwEvent d s.cr.toNat 0x0206 (slotHandle d i) 0
  else
    match takeFrames d s.part.toNat es.length with
    | none => d
    | some (fs, d1) =>
      let pg := modelPage mo
      let t := slotXfer d1 .prefixPull i s g (i % groupSize (groupWord d1 g))
      let lo := 64 * m / modelRun mo * mo.layers * pg
      let d2 := addXfer (cleanFrames d1 s.cr.toNat fs) (withFlows { t with
        pieces := fs.map (fun f => (65536 * f, pg)), entries := es, offset := lo, total := lo + es.length * pg, object := obj
        posFirst := 64 * m, posCount := 64 * (k - m) })
      setSlot d2 i { s with lookup := true }

/-- The slot after its lookup matched nodes: position, references, and the prefix pull that may follow. -/
def matchSlot (d : Dev) (i : Nat) (mo : Model) (l : PageList) (nodes : List Nat) (b : Nat) : Dev :=
  let s := getSlot d i
  let m := nodes.length
  let d1 := setSlot d i { s with
    lookup := false, pos := 64 * m, segs := dropSegs s.segs (64 * m), hit := m, refs := nodes
    chainNode := nodes.getLast?, chainLen := m, list := { l with pages := max l.pages (pagesFor mo (64 * m)) } }
  match s.pullObj with
  | some (obj, n) => if m < min n b then startPrefixPull d1 i mo obj m (min n b) else d1
  | none => d1

/-- The blocks that a slot's lookup considers: none unless it was added with PREFIX (R332). -/
def lookupTokens (d : Dev) (s : Slot) (b : Nat) : Except Bad (List Word32) :=
  if !s.usePrefix then .ok []
  else (takeSegs s.segs (64 * b)).foldlM (fun acc g => do
    let ts ← readTokens d s.cr.toNat g.va.toNat g.count
    pure (acc ++ ts)) []

/-- The run of a slot's list for the positions that its lookup may give it; a list that does not fit matches nothing. -/
def lookupList (d : Dev) (s : Slot) (mo : Model) (n : Nat) : Option (Nat × Nat) :=
  growList (getSteps d s.cr.toNat).policy (scratchRuns d s.cr.toNat) mo s.list (pagesFor mo (64 * n))

/-- The prompt tokens that a lookup read are the context's traffic (R456). -/
def chargeTokens (d : Dev) (s : Slot) (b : Nat) : Dev :=
  if !s.usePrefix then d else (takeSegs s.segs (64 * b)).foldl (fun d g => chargeRead d s.cr.toNat g.va.toNat (4 * g.count)) d

/-- Run the lookup of a slot: the walk, then the list for the blocks matched and those of its prefix object, the segments and the
slot. A lookup that matches nothing changes nothing (R333). -/
def runLookup (d : Dev) (i : Nat) : Dev :=
  let s := getSlot d i
  let cr := s.cr.toNat
  let b := blocksOf (promptLen s)
  let bad := fun (d : Dev) (e : Bad) => accessFault d cr e { unit := 3, handle := viewHandle d s.fn.toNat (slotHandle d i) }
  match getModel d s.model, lookupTokens d s b with
  | none, _ => d
  | _, .error e => bad d e
  | some mo, .ok ts =>
    let w := walkRoot (chargeTokens d s b) cr true s.model (blockList ts (ts.length / 64))
    let n := match s.pullObj with | some (_, k) => max w.2.length (min k b) | none => w.2.length
    if n = 0 then lookupOver w.1 i
    else
      match lookupList w.1 s mo n with
      | none => lookupOver w.1 i
      | some r =>
        match moveList w.1 cr s.list r.1 r.2 with
        | .error e => bad w.1 e
        | .ok (d1, l) =>
          match copySegments d1 cr s.gen.toNat mo l 0 w.2 with
          | .error e => bad d1 e
          | .ok d2 => matchSlot d2 i mo l w.2 b

/-- KEYSTONE_LOOKUP: the lookup of a slot, when it is the partition's operation in front. -/
def keyLookupD (i : Nat) (d : Dev) : Dev :=
  let p := (getSlot d i).part.toNat
  match frontOp d p with
  | some (.lookup k g) =>
    if k.toNat ≠ i || !alive d then d
    else
      let d1 := popOp d p
      let s := getSlot d1 i
      coxSettle (walksOf (if g = s.gen && s.lookup && !ctxDead d1 s.cr.toNat then
        fwRead d1 (modelEntryAt s.model) 1024 (fun d => runLookup d i) else d1) p)
  | _ => d

/-- KEYSTONE_LOOKUP (R333). -/
def execKeystoneLookup (slot : SlotNo) (s : State) : Answer := onDev s (keyLookupD slot.toNat)

/-! ## KEYSTONE_INSERT (R334 to R336) -/

/-- A model's root, allocated at its first insert (R329). -/
def rootOf (d : Dev) (p m : Nat) : Dev × Option Nat :=
  match tfind d.key.roots m with
  | some r => (d, some r)
  | none =>
    match takeNode d p { Node.init with kind := .root, model := BitVec.ofNat 14 m, part := BitVec.ofNat 4 p } with
    | (d1, none) => (d1, none)
    | (d1, some r) => ({ d1 with key := { d1.key with roots := tset d1.key.roots m r } }, some r)

/-- The table and entry for a new child of a node. When the chain is full a DIRECTORY is taken and linked, unless the eviction that
made room for it has cleared an entry (R328, R335). -/
def childSpot (d : Dev) (p m node : Nat) : Dev × Option (Nat × Nat) :=
  match childPlace d node chainFuel with
  | .entry t i => (d, some (t, i))
  | .directory t _ =>
    match takeNode d p { Node.init with kind := .directory, model := BitVec.ofNat 14 m, part := BitVec.ofNat 4 p, parent := t } with
    | (d1, none) => (d1, none)
    | (d1, some q) =>
      match childPlace d1 node chainFuel with
      | .entry t2 i2 => (freeNode d1 q, some (t2, i2))
      | .directory t2 i2 =>
        let n := getNode d1 q
        (setChild (setNode d1 q { n with parent := t2 }) t2 i2 { hash := 0, node := q, dir := true }, some (q, 0))

/-- The slot holds one more node: the last of its chain. -/
def chainOn (d : Dev) (i node : Nat) : Dev :=
  let s := getSlot d i
  setSlot d i { s with refs := s.refs ++ [node], chainNode := some node, chainLen := s.chainLen + 1 }

/-- The entries of a slot's list for the pages of a block, as they are stored. -/
def entriesOf (d : Dev) (s : Slot) (es : List Nat) : Except Bad (List Word64) := es.mapM (readEntry d s.cr.toNat s.list)

/-- Write a segment into pier. -/
def putSegment (d : Dev) (pa : Nat) (ws : List Word64) : Dev := pierPut d pa (ws.flatMap (fun w => toLe 8 w.toNat))

/-- An insert found no node or segment frame: the batch will say KEY_FULL, and the slot's further inserts are dropped (R335). -/
def keyFullFor (d : Dev) (i cr : Nat) : Dev :=
  let other := fun (o : KeyOp) => match o with
    | .insert k _ _ _ => k.toNat ≠ i
    | _ => true
  let d1 := setSteps d cr { getSteps d cr with keyFull := true }
  { d1 with key := { d1.key with ops := tmap d1.key.ops (fun _ l => l.filter other) } }

/-- A node is taken as the slot's last one by an insert that finds its block there: a reference more, and out of the eviction list
(R335, R337). -/
def refNode (d : Dev) (i : Nat) : Dev :=
  let d1 := lruRemove d i
  setNode d1 i { getNode d1 i with refs := (getNode d1 i).refs + 1 }

/-- An insert that could take no node, DIRECTORY or segment: what it had taken is free again, evictions stand, and its parent goes back to the
list if it belongs there (R335, R337). -/
def insertFull (d : Dev) (i cr parent : Nat) (taken : List Nat) : Dev :=
  let d1 := taken.foldl freeNode d
  let d2 := (dirsOf d1 parent chainFuel).reverse.foldl (fun d t => freeEmptyDir d t 1) d1
  keyFullFor (settle d2 parent false) i cr

/-- The commit of an insert: node, segment, child entry, SHARED on the slot's entries (R335, steps 3 to 5). -/
def commitNode (d : Dev) (i p n parent : Nat) (tokens : List Word32) (spot : Nat × Nat) (pa : Nat) (es : List Nat) (ws : List Word64) :
    Except Bad Dev :=
  let s := getSlot d i
  let d1 := setNode (putSegment d pa ws) n { getNode d n with segPa := BitVec.ofNat 36 pa, segN := BitVec.ofNat 12 es.length }
  let d2 := chainOn (setChild d1 spot.1 spot.2 { hash := crc32c (tokenBytes tokens), node := n, dir := false }) i n
  let s1 := getSlot (lruRemove d2 parent) i
  let d3 := setSlot (debit (lruRemove d2 parent) p 0 (1024 + 8 * es.length)) i
    { s1 with list := { s1.list with frames := s1.list.frames.filter (fun q => !es.contains q.1) } }
  mapEntries d3 s.cr.toNat s.list (fun w => setFld w 45 1 1) es

/-- An insert that found no equal child: a node and, if it is needed, a DIRECTORY are taken, then a segment, and the block is committed;
without them the batch says KEY_FULL (R335). The parent stays out of the eviction list meanwhile. -/
def commitInsert (d : Dev) (i p m parent depth : Nat) (tokens : List Word32) (es : List Nat) (ws : List Word64) : Except Bad Dev :=
  let cr := (getSlot d i).cr.toNat
  match takeNode (lruRemove d parent) p
      { Node.init with tokens := tokens, model := BitVec.ofNat 14 m, part := BitVec.ofNat 4 p, kind := .block, depth := BitVec.ofNat 16 depth
                       parent := parent, hash := crc32c (tokenBytes tokens), refs := 1, lastUse := d.now } with
  | (d1, none) => .ok (insertFull d1 i cr parent [])
  | (d1, some n) =>
    match childSpot d1 p m parent with
    | (d2, none) => .ok (insertFull d2 i cr parent [n])
    | (d2, some spot) =>
      match takeSegment d2 p es.length with
      | none => .ok (insertFull d2 i cr parent [n])
      | some (pa, d3) => commitNode d3 i p n parent tokens spot pa es ws

/-- Insert one block of a slot. -/
def runInsert (d : Dev) (i b : Nat) (tokens : List Word32) : Dev :=
  let s := getSlot d i
  let cr := s.cr.toNat
  let p := s.part.toNat
  let bad := fun (d : Dev) (e : Bad) => accessFault d cr e { unit := 3, handle := viewHandle d s.fn.toNat (slotHandle d i) }
  match getModel d s.model with
  | none => d
  | some mo =>
    if s.chainLen ≠ b then d
    else
      match (match s.chainNode with | some n => (d, some n) | none => rootOf d p s.model) with
      | (d1, none) => keyFullFor d1 i cr
      | (d1, some parent) =>
        if nodeBad d1 parent then poisonNode d1 parent
        else
          match findChild d1 cr true s.model parent tokens with
          | (d2, some n) => chainOn (refNode d2 n) i n
          | (d2, none) =>
            let es := blockEntries mo b
            match entriesOf d2 s es with
            | .error e => bad d2 e
            | .ok ws =>
              match commitInsert d2 i p s.model parent b tokens es ws with
              | .error e => bad d2 e
              | .ok d3 => d3

/-- A retired slot is freed once its last insert is done (R277, R334). -/
def leaveDone (d : Dev) (i : Nat) : Dev :=
  if (getSlot d i).leaving && !insertsLeft d i then releaseSlot d i false else d

/-- KEYSTONE_INSERT: the insert of a slot's block, when it is the partition's operation in front. -/
def keyInsertD (i : Nat) (d : Dev) : Dev :=
  let p := (getSlot d i).part.toNat
  match frontOp d p with
  | some (.insert k g b ts) =>
    if k.toNat ≠ i || !alive d then d
    else
      let d1 := popOp d p
      let s := getSlot d1 i
      coxSettle (walksOf (leaveDone (if g = s.gen && s.st ≠ .cancelling && !ctxDead d1 s.cr.toNat then
        fwRead d1 (modelEntryAt s.model) 1024 (fun d => runInsert d i b ts) else d1) i) p)
  | _ => d

/-- KEYSTONE_INSERT (R335). -/
def execKeystoneInsert (slot : SlotNo) (s : State) : Answer := onDev s (keyInsertD slot.toNat)

/-! ## KEY_FLUSH and KEYSTONE_FLUSH (R345) -/

/-- KEY_FLUSH: queue a flush, unless one of the partition is queued or running. -/
def keyFlushD (v : Word32) (d : Dev) : Dev :=
  let p := fld v 0 4
  if !pfOpen d 0x0600000 || !bitOf v 4 || bitOf d.key.flushBusy p then d
  else queueOp { d with key := { d.key with flushBusy := setFld d.key.flushBusy p 1 1 } } p .flush

/-- KEY_FLUSH (R345). -/
def execKeyFlush (value : Word32) (s : State) : Answer := onDev s (keyFlushD value)

/-- KEYSTONE_FLUSH: the flush that is in front evicts every node of the list, and each that enters it meanwhile. -/
def keystoneFlushD (p : Nat) (d : Dev) : Dev :=
  match frontOp d p with
  | some .flush =>
    if !alive d then d
    else
      let d1 := evictWhile (popOp d p) p (fun _ => false) nodeCount
      coxSettle (walksOf { d1 with key := { d1.key with flushBusy := setFld d1.key.flushBusy p 1 0 } } p)
  | _ => d

/-- KEYSTONE_FLUSH (R345). -/
def execKeystoneFlush (p : PartId) (s : State) : Answer := onDev s (keystoneFlushD p.toNat)

/-! ## The sweepers (R312, R338, R339) -/

/-- Whether a PARKED slot's time to live has expired. -/
def expired (d : Dev) (i : Nat) : Bool :=
  let s := getSlot d i
  match s.park with
  | some q => s.st = .parked && decide (q.expiry.toNat ≤ d.now.toNat)
  | none => false

/-- TTL_SWEEP: the sweeper of a stack reads the expiry of every parked slot whose record lies there, and reports those that are due. A
record that cannot be read is fatal (R320, R338). -/
def ttlSweepD (st : Nat) (d : Dev) : Dev :=
  if !alive d then d
  else
    let mine := d.key.parked.filter (fun i => stackOf (slotRecordAt i) = st)
    match mine.findSome? (fun i => pierPoison d (slotRecordAt i) 256) with
    | some _ => deviceFatal d 2 st { unit := 5 }
    | none =>
      let due := mine.filter (fun i => expired d i && !d.key.reports.contains i)
      { d with key := { d.key with reports := d.key.reports ++ sortBy (fun a b => decide (a < b)) due } }

/-- TTL_SWEEP (R338). -/
def execTtlSweep (stack : StackId) (s : State) : Answer := onDev s (ttlSweepD stack.toNat)

/-- EXPIRY_REPORT: Cox takes a report; a slot whose time to live has expired is freed, its nodes are COLD, and PARK_EXPIRED is
recorded. -/
def expiryReportD (i : Nat) (d : Dev) : Dev :=
  if !alive d || !d.key.reports.contains i then d
  else
    fwRead { d with key := { d.key with reports := d.key.reports.filter (· ≠ i) } } (slotRecordAt i) 256 (fun d1 =>
      if !expired d1 i then d1
      else
        let s := getSlot d1 i
        coxSettle (releaseSlot (ctxEvent d1 s.cr.toNat 0x0102 { unit := 3, handle := viewHandle d1 s.fn.toNat (slotHandle d1 i) }) i true))

/-- EXPIRY_REPORT (R339). -/
def execExpiryReport (slot : SlotNo) (s : State) : Answer := onDev s (expiryReportD slot.toNat)

/-! ## Controllers and stack links (R317, R319) -/

/-- PIER_CRC_RETRY: a transfer of a stack link failed its CRC and is retried; 8 failures in a row are counted. -/
def crcRetryD (k : Nat) (d : Dev) : Dev :=
  let x := getLink d k
  if x.held then d else setLink d k { x with fails := min 8 (x.fails + 1) }

/-- PIER_CRC_RETRY (R319). -/
def execPierCrcRetry (stack : StackId) (s : State) : Answer := onDev s (crcRetryD stack.toNat)

/-- PIER_LINK_RETRAIN: after 8 failures in a row the link's traffic is held while the link retrains. -/
def linkRetrainD (k : Nat) (d : Dev) : Dev :=
  let x := getLink d k
  if x.fails < 8 then d else setLink d k { x with held := true }

/-- PIER_LINK_RETRAIN (R319). -/
def execPierLinkRetrain (stack : StackId) (s : State) : Answer := onDev s (linkRetrainD stack.toNat)

/-- STACK_LINK_RETRAIN_DONE: the held traffic goes on, or a failed retrain is fatal. -/
def retrainDoneD (k : Nat) (ok : Bool) (d : Dev) : Dev :=
  if !(getLink d k).held then d
  else
    let d1 := setLink d k { fails := 0, held := false }
    if ok then d1 else deviceFatal d1 1 k { unit := 5 }

/-- STACK_LINK_RETRAIN_DONE (R319). -/
def execStackLinkRetrainDone (stack : StackId) (ok : Bool) (s : State) : Answer := onDev s (retrainDoneD stack.toNat ok)

/-- PIER_REFRESH: a die's refresh, twice while the die is above 85 °C. -/
def refreshD (stack die : Nat) (above : Bool) (d : Dev) : Dev :=
  let k := 16 * stack + die
  let others := d.pier.hot.filter (· ≠ k)
  { d with pier := { d.pier with
      hot := if above then k :: others else others
      refreshes := d.pier.refreshes + (if above then 2 else 1) } }

/-- PIER_REFRESH (R317). -/
def execPierRefresh (stack : StackId) (die : BitVec 4) (above85 : Bool) (s : State) : Answer :=
  onDev s (refreshD stack.toNat die.toNat above85)

end Sys2Proof.Machine
end

