-- ==== Sys2Proof/Machine/Xlate.lean ====
section
/-! DEFINITION. Commits to a context's page tables and its table frames (R411, R415 to R421). -/

namespace Sys2Proof.Machine

open Sys2Proof

/-! ## Page tables (R415, R421) -/

/-- Whether a table that covers an address is still needed by some leaf: a level-3 table by a 64 KiB one (R415). -/
def tabNeeded (ls : List Leaf) (t : TabSpot) : Bool :=
  ls.any (fun l => l.va / 2 ^ tabShift t.level = t.idx && !(t.level = 3 && l.large))

/-- The spaces in use among the first `n` of a context's (R421). -/
def spaceUsed (m : Maps) (s : Nat) : Bool := m.tables.any (fun t => t.space = s)

/-- Level-2 tables in a space; a space with none of them has no place for another (R421). -/
def tabsIn (m : Maps) (s : Nat) : List Nat := (m.tables.filter (fun t => t.level = 2 && t.space = s)).map (fun t => t.place)

/-- The place of a new table of a level among the first `n` spaces: for a level-2 table the first free place of the lowest space that
holds some, otherwise the lowest free space (R421; the order of places is the model's, log 90). -/
def newSpot (m : Maps) (n level idx : Nat) : Option TabSpot :=
  let shared := if level = 2 then findFrom (fun s => (tabsIn m s) ≠ [] && decide ((tabsIn m s).length < 16)) 0 n else none
  match shared with
  | some s => (findFrom (fun p => !(tabsIn m s).contains p) 0 16).map (fun p => { level := level, idx := idx, space := s, place := p })
  | none => (findFrom (fun s => !spaceUsed m s) 0 n).map (fun s => { level := level, idx := idx, space := s, place := 0 })

/-- The page tables with the tables of the given levels that an address needs and has not; none when no space or place is left
(R421). -/
def addTabs (m : Maps) (n va : Nat) (levels : List Nat) : Option Maps :=
  match levels with
  | [] => some m
  | v :: r =>
    if (tabOf m v va).isSome then addTabs m n va r
    else
      match newSpot m n v (va / 2 ^ tabShift v) with
      | none => none
      | some t => addTabs { m with tables := m.tables ++ [t] } n va r

/-- The page tables with a leaf added, in `n` spaces (R415, R421). -/
def addLeaf (m : Maps) (n : Nat) (l : Leaf) : Option Maps :=
  (addTabs m n l.va (List.range (leafLevel l + 1))).map (fun m => { m with leaves := l :: m.leaves })

/-- The page tables with a leaf removed: a table that is empty gives its place back, a space with no table is free (R421). -/
def dropLeaf (m : Maps) (va : Nat) : Maps :=
  let ls := m.leaves.filter (fun l => l.va ≠ va)
  { leaves := ls, tables := m.tables.filter (tabNeeded ls) }

/-- A table entry (R416): VALID, LEAF, READ, WRITE and bits 59 to 8 of the address. -/
def entryWord (leaf read write : Bool) (a : Nat) : Nat :=
  1 + 2 * b2n leaf + 4 * b2n read + 8 * b2n write + a / 256 % 2 ^ 52 * 256

/-- The pier address of the entry of a table that covers an address (R415, R416). -/
def entryAddr (w : Word64) (t : TabSpot) (va : Nat) : Nat := tabAddr w t + 8 * (va / 2 ^ entShift t.level % tabEntries t.level)

/-- Write the entry for an address in the table of a level, if there is one (R416). -/
def putTabEntry (d : Dev) (cr : Nat) (m : Maps) (level va v : Nat) : Dev :=
  match tabOf m level va with
  | none => d
  | some t => chargeCtx (pierPut d (entryAddr (tblOf d cr) t va) (toLe 8 v)) cr 0 8

/-- A new table in pier: no entry valid, and named by the table above it (R415, R416). -/
def putTab (d : Dev) (cr : Nat) (m : Maps) (t : TabSpot) : Dev :=
  let va := t.idx * 2 ^ tabShift t.level
  let n := 8 * tabEntries t.level
  let d1 := chargeCtx (pierPut d (tabAddr (tblOf d cr) t) (List.replicate n 0)) cr 0 n
  if t.level = 0 then d1
  else putTabEntry d1 cr m (t.level - 1) va (entryWord false false false (tabAddr (tblOf d cr) t))

/-- The page tables of a context become `m`, in State and in pier: new tables are written, then the leaf's entry, and the entries that
named tables no longer there are cleared (R416, R421). -/
def putMaps (d : Dev) (cr : Nat) (m : Maps) (level va v : Nat) : Dev :=
  let old := getMaps d cr
  let d1 := ((m.tables.filter (fun t => !old.tables.contains t))).foldl (fun d t => putTab d cr m t) d
  let d2 := putTabEntry d1 cr (if v = 0 then old else m) level va v
  let gone := old.tables.filter (fun t => !m.tables.contains t)
  setMaps (gone.foldl (fun d t => if t.level = 0 then d else putTabEntry d cr old (t.level - 1) (t.idx * 2 ^ tabShift t.level) 0) d2) cr m

/-! ## XLT_CTX_TBL (R420) -/

/-- XLT_CTX_TBL_WRITE. -/
def ctxTblD (c : Nat) (v : Word64) (d : Dev) : Dev :=
  let busy := match recInSlot d c with
    | some cr => !(getMaps d cr).leaves.isEmpty
    | none => false
  if !pfOpen d 0x0B01000 || busy then d else setReg d (0x0B01000 + 8 * c) (BitVec.ofNat 64 (fld v 0 33))

/-- XLT_CTX_TBL_WRITE (R420). -/
def execXltCtxTblWrite (c : CtxNo) (value : Word64) (s : State) : Answer := onDev s (ctxTblD c.toNat value)

/-! ## Commits (R417 to R419) -/

/-- A captured commit: context record, MAP or UNMAP, and the mapping. -/
structure CommitReq where
  cr     : Nat
  unmap  : Bool
  large  : Bool
  read   : Bool
  write  : Bool
deriving DecidableEq, Repr

/-- Whether a page lies in the mapped pier window or the host window (R411). -/
def inWindow (va n : Nat) : Bool :=
  decide (va + n ≤ 0x2000000000) || (decide (0x8000000000 ≤ va) && decide (va + n ≤ 0x1000000000000))

/-- Whether a pier target is the partition's mapped range and no table frame (R411, R418). -/
def targetOk (d : Dev) (p a n : Nat) : Bool :=
  decide (frameBase d p ≤ a / 65536) && decide ((a + n - 1) / 65536 < poolBase d p) &&
    (List.range (n / 65536)).all (fun i => !isTableFrame d p (a / 65536 + i))

/-- Whether a page meets a mapping of either size. -/
def meetsLeaf (m : Maps) (va n : Nat) : Bool :=
  m.leaves.any (fun l => decide (l.va < va + n) && decide (va < l.va + pageSize l.large))

/-- One page of a commit: the new tables, or the result that it fails with, in the order of R418. -/
def commitPage (d : Dev) (q : CommitReq) (va target : Nat) : Except Nat Maps :=
  let n := pageSize q.large
  let m := getMaps d q.cr
  if va % n ≠ 0 || target % n ≠ 0 then .error 1
  else if !inWindow va n then .error 2
  else if va < 0x2000000000 && !targetOk d (getCtx d q.cr).part.toNat target n then .error 3
  else if q.unmap then
    if m.leaves.any (fun l => l.va = va && l.large = q.large) then .ok (dropLeaf m va) else .error 5
  else if meetsLeaf m va n then .error 6
  else
    match addLeaf m (16 * tblFrames (tblOf d q.cr)) { va := va, large := q.large, target := target % 2 ^ 60, read := q.read, write := q.write } with
    | none => .error 4
    | some m1 => .ok m1

/-- A page of a commit takes effect: its entries are written in pier and no cache holds what they were (R416, R419). -/
def takePage (d : Dev) (q : CommitReq) (va target : Nat) (m : Maps) : Dev :=
  dropPageEnts (putMaps d q.cr m (if q.large then 2 else 3) va
    (if q.unmap then 0 else entryWord true q.read q.write target)) q.cr va (pageSize q.large)

/-- The pages of a commit in ascending order, `k` of them left: the device, RESULT and the pages committed. -/
def commitPages (d : Dev) (q : CommitReq) (va target done k : Nat) : Dev × Nat × Nat :=
  match k with
  | 0 => (d, 0, done)
  | j + 1 =>
    match commitPage d q va target with
    | .error e => (d, e, done)
    | .ok m => commitPages (takePage d q va target m) q (va + pageSize q.large) (target + pageSize q.large) (done + 1) j

/-- The commit registers of a function. -/
def getCommit (d : Dev) (fn : Nat) : Commit := tget d.xlt.commits fn { busy := false, result := 0, done := 0, cr := 0 }
/-- Replace the commit registers of a function. -/
def setCommit (d : Dev) (fn : Nat) (c : Commit) : Dev := { d with xlt := { d.xlt with commits := tset d.xlt.commits fn c } }

/-- Run-ahead pages of a context's transfers are squashed, and its engines show it (R419, R425, R428; log 86). -/
def squash (d : Dev) (cr : Nat) : Dev :=
  { d with
    xfers := tmap d.xfers (fun _ x => if x.cr.toNat = cr then { x with ahead := [] } else x)
    engines := tmap d.engines (fun _ e => if e.st = .active && e.ctx.toNat = ctxNo d cr && e.ahead ≠ 0 then { e with st := .squashing, ahead := 0 } else e) }

/-- The leaves of a context from before a commit, kept for its records until it is re-armed, if it is FAULTED (R419, R432). -/
def freezeMaps (d : Dev) (cr : Nat) : Dev :=
  if (getCtx d cr).st = .faulted && (tfind d.xlt.frozen cr).isNone then
    { d with xlt := { d.xlt with frozen := tset d.xlt.frozen cr (getMaps d cr).leaves } }
  else d

/-- A FAULTED context's commits take effect (R419). -/
def thawMaps (d : Dev) (cr : Nat) : Dev := { d with xlt := { d.xlt with frozen := tdel d.xlt.frozen cr } }

/-- A write of XLT_MAP_CMD with OP `op` starts a commit (R417, R418). Its context is checked once, before the first page. -/
def commitD (op fn : Nat) (v : Word64) (d : Dev) : Dev :=
  if !fnOpen d fn 0x0B00000 || (getCommit d fn).busy || fld v 0 2 ≠ op then d
  else
    let va := fnReg d fn 0x0B00000 0x1000
    let target := fld (fnReg d fn 0x0B00008 0x1008) 0 60
    let cr := (ctxOf d fn (fld va 48 7)).filter (fun cr => tblOn (tblOf d cr))
    match cr with
    | none => setCommit d fn { busy := true, result := 7, done := 0, cr := 0 }
    | some cr =>
      let q : CommitReq := { cr := cr, unmap := op = 1, large := bitOf v 2, read := bitOf v 3, write := bitOf v 4 }
      let r := commitPages (freezeMaps d cr) q (fld va 0 48) target 0 (fld v 5 8 + 1)
      setCommit (squash r.1 cr) fn { busy := true, result := BitVec.ofNat 8 r.2.1, done := BitVec.ofNat 9 r.2.2, cr := BitVec.ofNat 12 cr }

/-- MAP (R418). -/
def execMap (fn : Func) (value : Word64) (s : State) : Answer := onDev s (commitD 0 fn.toNat value)
/-- UNMAP (R418). -/
def execUnmap (fn : Func) (value : Word64) (s : State) : Answer := onDev s (commitD 1 fn.toNat value)

/-- COMMIT_END: BUSY falls (R419). -/
def commitEndD (fn : Nat) (d : Dev) : Dev := if (getCommit d fn).busy then setCommit d fn { getCommit d fn with busy := false } else d

/-- COMMIT_END (R419). -/
def execCommitEnd (fn : Func) (s : State) : Answer := onDev s (commitEndD fn.toNat)

end Sys2Proof.Machine
end

