-- ==== Sys2Proof/Machine/Teardown.lean ====
section
/-! DEFINITION. PCIe errors of the device's own requests, and the teardown of a context (R414, R432 to R435, R470, R500). -/

namespace Sys2Proof.Machine

open Sys2Proof

/-! ## Teardown (R433, R434) -/

/-- The transfers of a context. -/
def ctxXfers (d : Dev) (cr : Nat) : List Nat := (d.cwy.xfers.filter (fun p => p.2.cr.toNat = cr)).map (fun p => p.1)

/-- End a transfer of a context ABORTED: a pull leaves its model without weights, frames reserved by a recall or prefix pull
return (R372, R382, R433). -/
def abortXfer (d : Dev) (x : Nat) : Dev :=
  match getXfer d x with
  | none => d
  | some t => if t.type = .weightPull then dropPull d x else dropTier d x

/-- Every slot of a context that is not FREE is freed, without quarantine since no flow is left (R279, R433). -/
def freeSlots (d : Dev) (cr : Nat) : Dev :=
  let mine := (d.cox.slots.filter (fun p => p.2.st ≠ .free && p.2.cr.toNat = cr)).map (fun p => p.1)
  mine.foldl (fun d i => if (getSlot d i).st = .quarantined then settleSlot d i else releaseSlot d i false) d

/-- The live ranges that a context left on tiles are zeroed (R146, R433). -/
def zeroOwed (d : Dev) (cr : Nat) : Dev :=
  { d with tiles := tmap d.tiles (fun _ x =>
    let mine := x.zeroing.filter (fun z => z.1.toNat = cr)
    { (mine.foldl (fun x z => zeroRange x z.2.1 z.2.2) x) with zeroing := x.zeroing.filter (fun z => z.1.toNat ≠ cr) }) }

/-- What Cox and the Keystone still hold for a context: fences, completions that wait, walks, scratch runs. -/
def clearCox (d : Dev) (cr : Nat) : Dev :=
  let sc := getSteps d cr
  let other := fun (o : KeyOp) => match o with
    | .walk c _ _ _ _ _ _ => c.toNat ≠ cr
    | _ => true
  setSteps { d with
    cox := { d.cox with fences := tdel d.cox.fences cr }
    key := { d.key with ops := tmap d.key.ops (fun _ l => l.filter other) } } cr
    { sc with cur := none, nxt := none, deficit := [], scratch := [], keyFull := false, owed := [], holdBuild := false }

/-- A context slot is free again. -/
def dropCslot (d : Dev) (cr : Nat) : Dev :=
  let c := getCtx d cr
  match c.cslot with
  | none => d
  | some n =>
    let d1 := setCtx d cr { c with cslot := none }
    { d1 with pmg := { d1.pmg with cslots := tdel d1.pmg.cslots n.toNat } }

/-- A context leaves its slot: its XLT_CTX_TBL value moves into its record (R452). -/
def leaveCslot (d : Dev) (cr : Nat) : Dev :=
  let c := getCtx d cr
  match c.cslot with
  | none => d
  | some n =>
    let o := 0x0B01000 + 8 * n.toNat
    dropCslot (setReg (setCtx d cr { c with tblValue := reg d o }) o 0) cr

/-! ## The end of a partition reset (R455) -/

/-- Deck-direct models of a partition become non-resident at a context switch (R378). -/
def dropDeckModels (d : Dev) (p : Nat) : Dev :=
  ((d.cox.models.filter (fun m => m.2.part.toNat = p && m.2.deck ≠ [] && (m.2.resident || m.2.pull.isSome))).map (fun m => m.1)).foldl evictModel d

/-- A tile whose deck and accumulator words are zero and that holds nothing of a task; gating and remaps stay (R146, R562).
OWNER and its valid bit are clear then, which R152 does not say (log 64). -/
def freshTile (x : Tile) : Tile := { Tile.init with gates := x.gates, remap := x.remap }

/-- The state of a context that holds a slot, or not, and is ready for a choice: WAITING, or SWAPPED_OUT when no context slot of
its partition is free (R454, R466). -/
def seatCtx (d : Dev) (cr : Nat) : Dev :=
  let c := getCtx d cr
  match c.cslot with
  | some _ => setCtx d cr { c with st := .waiting }
  | none =>
    match freeCslot d c.part.toNat with
    | some n => setReg (giveCslot d cr n .waiting) (0x0B01000 + 8 * n) c.tblValue
    | none => setCtx d cr { c with st := .swappedOut }

/-- The resource of a partition's bucket `i`: pier, two directions of the bridge, causeway egress, two directions of PCIe. -/
def bucketRes (i : Nat) : Nat := if i = 0 then 0 else if i ≤ 2 then 1 else if i = 3 then 2 else 3

/-- LC_RATE × 1,000 B and the depth of a bucket. -/
def bucketRate (d : Dev) (p i : Nat) : Nat := fld (partReg d p (bucketRes i)) 0 16 * 1000
def bucketDepth (d : Dev) (p i : Nat) : Nat := bucketRate d p i * fld (partReg d p (bucketRes i)) 16 6

/-- Replace every bucket of a partition. -/
def mapBuckets (d : Dev) (p : Nat) (f : Nat → Int → Int) : Dev :=
  { d with pmg := { d.pmg with
      buckets := (List.range 6).foldl (fun b i => tset b (8 * p + i) (f i (tget b (8 * p + i) 0))) d.pmg.buckets } }

/-- Fill a partition's buckets (R455). -/
def refillBuckets (d : Dev) (p : Nat) : Dev := mapBuckets d p (fun i _ => (bucketDepth d p i : Int))

/-- A partition reset ends once no context of the partition is being torn down: its contexts are WAITING again, its tiles are zeroed and its
buckets are filled (R455). -/
def settleReset (d : Dev) (p : Nat) : Dev :=
  if (getPart d p).phase ≠ .resetting || (ctxsIn d p).any (fun q => q.2.tearing) then d
  else
    let crs := ((ctxsIn d p).filter (fun q => q.2.st = .faulted)).map (fun q => q.1)
    let d1 := dropDeckModels d p
    let d2 := (partTiles d1 p).foldl (fun d t => setTile d t (freshTile (getTile d t))) d1
    let d3 := crs.foldl (fun d cr => seatCtx (thawMaps (setCtx d cr { getCtx d cr with tornDown := false, blockedAt := d.now }) cr) cr) d2
    coxSettle (setPart (refillBuckets d3 p) p { getPart d3 p with phase := .idle })

/-- Bytes that went out between `d` and `e` as traffic ahead of all regulated traffic are debited from the LC bucket whatever the class
(R458). -/
def lcTraffic (d e : Dev) (p i n : Nat) : Dev :=
  if tget d.pmg.buckets (8 * p + i) 0 = tget e.pmg.buckets (8 * p + i) 0 then debit e p i n else e

/-- Steps 4 to 8 of a teardown: transfers end, slots and frames are freed, live ranges are zeroed, and TEARDOWN_DONE is written, to
the context's ring when `own` is set and to the device event ring in any case (R430, R433). A context that was being swapped
gives its slot back (R452). -/
def finishTeardown (d : Dev) (cr : Nat) (own : Bool) : Dev :=
  let rc : RecNo := BitVec.ofNat 12 cr
  let d1 := (ctxXfers d cr).foldl abortXfer d
  let d2 := zeroOwed (clearCox (freeSlots d1 cr) cr) cr
  let d3 := { d2 with
    engines := tmap d2.engines (fun _ e => if e.st = .draining && e.ctx.toNat = ctxNo d cr then Engine.init else e)
    flt := { d2.flt with engines := d2.flt.engines.erase rc, waiting := d2.flt.waiting.erase rc }
    pmg := { d2.pmg with parts := tmap d2.pmg.parts (fun _ p => if p.outgoing = some rc then { p with outgoing := none } else p) } }
  let d3 := dropCtxEnts ((List.range 32).foldl syncEngine d3) cr
  let d4 := if (getCtx d3 cr).dropSlot then leaveCslot d3 cr else d3
  let d5 := setCtx d4 cr { getCtx d4 cr with tearing := false, tornDown := true, dropSlot := false, runnable := false, debt := 0 }
  let p := (getCtx d5 cr).part.toNat
  let r := ctxRecord d5 cr 0x0101 3 own true { unit := 6 }
  let d6 := match r.2 with
    | none => lcTraffic d5 r.1 p 4 64
    | some b => accessFault r.1 cr b { unit := 8 }
  settleReset (coxSettle d6) p

/-- TEARDOWN_START: the context that has waited longest is taken by a free engine of the four (R433, R435). -/
def teardownStartD (cr : Nat) (d : Dev) : Dev :=
  match d.flt.waiting with
  | [] => d
  | w :: r =>
    if w.toNat = cr && decide (d.flt.engines.length < 4) && !d.clk.stopped then
      { d with flt := { d.flt with engines := d.flt.engines ++ [w], waiting := r } }
    else d

/-- TEARDOWN_START (R433). -/
def execTeardownStart (rec : RecNo) (s : State) : Answer := onDev s (teardownStartD rec.toNat)

/-- Whether a commit of a context still runs (R433, R448). -/
def commitRuns (d : Dev) (cr : Nat) : Bool := d.xlt.commits.any (fun p => p.2.busy && p.2.result ≠ 7 && p.2.cr.toNat = cr)

/-- TEARDOWN_DONE. -/
def teardownDoneD (cr : Nat) (d : Dev) : Dev :=
  if d.flt.engines.any (fun r => r.toNat = cr) && !commitRuns d cr && !d.clk.stopped then finishTeardown d cr true else d

/-- TEARDOWN_DONE (R433). -/
def execTeardownDone (rec : RecNo) (s : State) : Answer := onDev s (teardownDoneD rec.toNat)

/-- A context torn down at once, as a reset of its function or partition does (R455, R495). -/
def tearNow (d : Dev) (cr : Nat) (own : Bool) : Dev :=
  finishTeardown (if (getCtx d cr).st = .faulted then d else beginTeardown d cr) cr own

/-! ## PCIe errors (R414, R470, R500, R510, R529, R548) -/

/-- A read of an image at boot ends with DMA_ERROR (R499, R500): the firmware's goes back to WAIT_IMAGE, the structure's waits for
LOAD_SI. -/
def bootReadFails (d : Dev) : Dev :=
  if d.boot.stage = 2 then { d with boot := { d.boot with stage := 1, error := 7 } }
  else if d.boot.stage = 6 && !d.boot.siRefused then { d with boot := { d.boot with siRefused := true, error := 7 } }
  else d

/-- The tollhouse's mailbox as function `fn` sees it. -/
def getMbx (d : Dev) (fn : Nat) : TollMbx := tget d.toll.mbx fn { busy := false, result := 0, respLen := 0 }

/-- The command of a function in front of the tollhouse's queue ends with RESULT `r` and `n` response bytes (R542, R548). -/
def endMbx (d : Dev) (fn r n : Nat) : Dev :=
  { d with toll := { d.toll with
      queue := d.toll.queue.tail
      mbx := tset d.toll.mbx fn { busy := false, result := BitVec.ofNat 8 r, respLen := BitVec.ofNat 16 n } } }

/-- A non-posted request of the device ends without data. -/
def requestFails (q : HostReq) (d : Dev) : Dev :=
  match q with
  | .context cr => if d.clk.stopped then d else ctxFault d cr.toNat fXlatePerm { unit := 8 }
  | .bootRead => bootReadFails d
  | .truMailbox => { d with tru := { d.tru with result := 10, respLen := 0 } }
  | .tollMailbox fn =>
    (match d.toll.queue with
     | (f, _) :: _ => if f = fn then endMbx d fn.toNat 6 0 else d
     | [] => d)
  | .partitionImage =>
    if d.boot.piBusy && !(getPart d d.boot.piPart.toNat).reload then
      { d with boot := { d.boot with piBusy := false, piResult := 7 } } else d

/-- PCIE_ERROR_COMPLETION (R414). -/
def execPcieErrorCompletion (req : HostReq) (s : State) : Answer := onDev s (requestFails req)

/-- PCIE_COMPLETION_TIMEOUT (R470): it ends as R414 states. -/
def execPcieCompletionTimeout (req : HostReq) (s : State) : Answer := onDev s (fun d => requestFails req d)

end Sys2Proof.Machine
end

