-- ==== Sys2Proof/Machine/Preempt.lean ====
section
/-! DEFINITION. What a pre-emption saves of a partition's context and what it brings back when the context runs again (R246, R247,
R427, R449, R450). -/

namespace Sys2Proof.Machine

open Sys2Proof

/-! ## When a partition is quiet enough to be saved -/

/-- Whether a tile is ready for the save: nothing in delivery, no record owed, and its sequencer stopped with no pass or
conversion in progress; under PRE_TILE no task at all (R449, R450). -/
def tileReady (preTile : Bool) (x : Tile) : Bool :=
  x.inbox.isNone && x.ended.isNone &&
    (match x.run with
     | none => true
     | some k => !preTile && x.stopped && k.passes.isEmpty && k.convs.isEmpty)

/-- The buffer table entries of a context. -/
def ctxBufs (d : Dev) (rc : RecNo) : List (Nat × Buf) := d.bufs.filter (fun q => q.2.cr = rc && decide (q.1 < 2 ^ 24))

/-- Whether a partition can be saved: every tile is ready, and every multicast and late SUB that is sourced from a holder's range has
completed, so that the holders can be released (R217). -/
def saveReady (d : Dev) (p : Nat) (rc : RecNo) : Bool :=
  (partTiles d p).all (fun t => tileReady (partPreTile d p) (getTile d t)) && (ctxBufs d rc).all (fun q => q.2.sending.isEmpty) &&
    !d.xfers.any (fun q => q.2.cr = rc && q.2.kind = .lateSub)

/-! ## The save -/

/-- The byte ranges of a tile's window that its kept items occupy. -/
def keptRanges (k : Kept) : List (Nat × Nat) :=
  k.slots.map (fun p => (0xC0000 + p.2 * 0x10000, 0x10000)) ++ k.regions.map (fun p => (4 * p.2.1, 4 * p.2.2))

/-- The first uncorrectable word that the save of a tile reads (R142). -/
def tileSaveBad (x : Tile) : Option Nat :=
  match x.run.bind (saveBad x) with
  | some w => some w
  | none =>
    match x.kept with
    | some k => (keptRanges k).findSome? (fun r => tileBad x r.1 r.2)
    | none => none

/-- The first tile and word that a save cannot read. -/
def saveFault (d : Dev) (p : Nat) : Option (Nat × Nat) :=
  (partTiles d p).findSome? (fun t => (tileSaveBad (getTile d t)).map (fun w => (t, w)))

/-- Whether a held range stays with its tile's kept items. -/
def inKept (d : Dev) (h : BufRange) : Bool :=
  match (getTile d h.tile.toNat).kept with
  | some k => k.regions.any (fun p => decide (p.2.1 ≤ h.word) && decide (h.word < p.2.1 + p.2.2))
  | none => false

/-- An entry while its context is saved: subscriptions are resolved again at the resume; the ranges of saved tasks are released, and
an entry of pier without a holder returns to IDLE; ranges of kept items stay (R217). -/
def saveBuf (d : Dev) (b : Buf) : Buf :=
  let ours := fun (h : BufRange) => match (getTile d h.tile.toNat).run with
    | some k => inRegions k h.word
    | none => false
  let stay := b.holders.filter (fun h => inKept d h && !ours h)
  { b with subs := [], src := none, data := [], holders := stay, st := if b.pier && stay.isEmpty then .idle else b.st }

/-- The key of an entry while context record `cr` is saved. -/
def parkKey (cr k : Nat) : Nat := k + (cr + 1) * 2 ^ 24

/-- Put a stalled task back in front of the tasks that its step is still to deliver. -/
def unstall (d : Dev) (p : Nat) : Dev :=
  match tfind d.cat.stalled p with
  | none => d
  | some w =>
    let d1 := { d with cat := { d.cat with stalled := tdel d.cat.stalled p } }
    match stepOf d1 w.cr.toNat w.step with
    | none => d1
    | some st => putStep d1 w.cr.toNat { st with todo := w :: st.todo }

/-- The bytes that the save of one task moves: its ranges or the whole window, its registers and its sequencer record (R440). -/
def savedBytes (t : SavedTask) : Nat :=
  slotsAt t.ranges + 0x10000 * t.slots.length + 2432 + 256

/-- The bytes that a context's save or resume moves: tasks, kept items, and 64 B for each task of a deque or the hold list (R440, R458;
log 92). -/
def contextBytes (v : Saved) : Nat :=
  (v.tasks.map savedBytes).sum + (v.kept.map (fun q => ((keptRanges q.2).map (fun r => r.2)).sum)).sum
    + 64 * ((v.deques.map (fun q => q.2.length)).sum + v.hold.length)

/-- The first `n` blocks of a context's save area that no saved task still on a deque occupies (R247, R440; log 92). -/
def freeBlocks (d : Dev) (cr n : Nat) : List Nat :=
  let used := (tget d.cat.resume cr []).map (fun sv => sv.place / saveBlock)
  ((List.range (n + used.length)).filter (fun b => !used.contains b)).take n

/-- The cells of a tile's kept items for the place `a` in pier: its slots, then its regions. -/
def keptCells (x : Tile) (k : Kept) (a : Nat) : List Host.Cell :=
  ((keptRanges k).foldl (fun (acc : List Host.Cell × Nat) r => (acc.1 ++ moveCells x.mem r.1 r.2 acc.2, acc.2 + r.2)) ([], a)).1

/-- A task's save in its block of pier: items, registers, and a sequencer record whose layout the spec does not give (R197, R440, R449; free
values, log 6). -/
def storeTask (area : Nat) (d : Dev) (q : Nat × Task × Nat) : Dev :=
  let x := getTile d q.1
  let a := area + q.2.2
  let n := slotsAt (saveRanges x q.2.1) + 0x10000 * (saveSlots x q.2.1).length
  let d1 := pierImage d a n (saveItems x q.2.1 a)
  pierPut { d1 with fresh := d.fresh + 64 } (a + saveRegsAt) (regBytes (saveRegs x q.2.1) ++ freeBytes d.fresh 64)

/-- A tile's kept items in their block of pier (R246). -/
def storeKept (area : Nat) (d : Dev) (q : Nat × Kept × Nat) : Dev :=
  let a := area + q.2.2
  pierImage d a ((keptRanges q.2.1).map (fun r => r.2)).sum (keptCells (getTile d q.1) q.2.1 a)

/-- Save a context's tile state, deques, hold list, kept items and buffer entries, tile state in the save area of its slot; its tiles are
then free (R246, R247, R449, R450). -/
def saveContext (d0 : Dev) (p cr : Nat) : Dev :=
  let d := unstall d0 p
  let rc : RecNo := BitVec.ofNat 12 cr
  let ts := partTiles d p
  let running := ts.filterMap (fun t => (getTile d t).run.map (fun k => (t, k)))
  let kept := ts.filterMap (fun t => ((getTile d t).kept.filter (fun k => k.cr = rc)).map (fun k => (t, k)))
  let blocks := (freeBlocks d cr (running.length + kept.length)).map (fun b => b * saveBlock)
  let runAt := (running.zip blocks).map (fun q => (q.1.1, q.1.2, q.2))
  let keptAt := (kept.zip (blocks.drop running.length)).map (fun q => (q.1.1, q.1.2, q.2))
  let v : Saved :=
    { deques := (ts.map (fun t => (t, getDeque d t))).filter (fun q => q.2 ≠ [])
      hold := d.cat.hold.filter (fun w => w.cr = rc)
      tasks := runAt.map (fun q => saveTask d q.1 (getTile d q.1) q.2.1 q.2.2)
      kept := kept
      keptAt := keptAt.map (fun q => (q.1, q.2.2))
      keptSat := kept.map (fun q => (q.1, (getTile d q.1).sat)) }
  let area := saveArea d cr
  let d := keptAt.foldl (storeKept area) (runAt.foldl (storeTask area) d)
  let bufs := d.bufs.map (fun q => if q.2.cr = rc && q.1 < 2 ^ 24 then (parkKey cr q.1, saveBuf d q.2) else q)
  let d1 := running.foldl (fun d q => unplaceTask d q.1) d
  let d2 := kept.foldl (fun d q => setTile d q.1 { getTile d q.1 with kept := none }) d1
  let d3 := { d2 with
    bufs := bufs.foldl (fun m q => tset m q.1 q.2) []
    cat := { d2.cat with
      deques := ts.foldl (fun m t => tdel m t) d2.cat.deques
      hold := d2.cat.hold.filter (fun w => w.cr ≠ rc) } }
  setCtx (debit d3 p 0 (contextBytes v)) cr { getCtx d3 cr with saved := some v }

/-! ## The resume -/

/-- A kept item returns to the tile that kept it, with its memory and the SAT bits of its slots (R137, R246). -/
def returnKept (v : Saved) (area : Nat) (d : Dev) (q : Nat × Kept) : Dev :=
  let a := area + tget v.keptAt q.1 0
  let x := getTile d q.1
  let x1 := ((keptRanges q.2).foldl (fun (acc : Tile × Nat) r => (putSaved acc.1 d.pier.mem acc.2 r.2 r.1, acc.2 + r.2)) (x, a)).1
  let sat := q.2.slots.foldl (fun s p => setFld s p.2 1 (b2n (bitOf (tget v.keptSat q.1 0) p.2))) x1.sat
  setTile d q.1 { x1 with sat := sat, kept := some q.2 }

/-- The first uncorrectable word that a context's resume reads of its kept items (R320). -/
def keptPoison (d : Dev) (v : Saved) (area : Nat) : Option Nat :=
  v.kept.findSome? (fun q => pierPoison d (area + tget v.keptAt q.1 0) ((keptRanges q.2).map (fun r => r.2)).sum)

/-- A saved task goes to the tail of its tile's deque, or of the fitting tile with the fewest entries (R247); one that fits none
faults its context, and nothing more of a context that is torn down returns (R249). -/
def returnTask (d : Dev) (sv : SavedTask) : Dev :=
  let w := sv.task.work
  let t := sv.tile.toNat
  let tail := fun (d : Dev) (t : Nat) => setDeque d t (getDeque d t ++ [w])
  if ctxDead d w.cr.toNat then d
  else if fitsTile d w t then tail d t
  else
    match fewestTile d w with
    | some u => tail d u
    | none => catchFault d w ⟨fAccCapacity, 0, 0⟩

/-- Bring back what a context's save holds, from its slot's save area; saved tasks that were still on a deque when it was saved stay saved tasks (R246,
R247). -/
def restoreContext (d : Dev) (cr : Nat) : Dev :=
  let c := getCtx d cr
  match c.saved with
  | none => d
  | some v =>
    let lo := parkKey cr 0
    let back := d.bufs.map (fun q => if lo ≤ q.1 && q.1 < lo + 2 ^ 24 then (q.1 - lo, q.2) else q)
    let d1 := { setCtx d cr { c with saved := none } with
      bufs := back.foldl (fun m q => tset m q.1 q.2) []
      cat := { d.cat with
        deques := v.deques.foldl (fun m q => tset m q.1 q.2) d.cat.deques
        hold := d.cat.hold ++ v.hold
        resume := if v.tasks = [] then d.cat.resume else tset d.cat.resume cr (tget d.cat.resume cr [] ++ v.tasks) } }
    let d2 := debit d1 c.part.toNat 0 (contextBytes v)
    let area := saveArea d cr
    match keptPoison d2 v area with
    | some w => accessFault d2 cr ⟨fEccPier, 0, w / 4096⟩ { unit := 6 }
    | none => v.tasks.foldl returnTask (v.kept.foldl (returnKept v area) d2)

end Sys2Proof.Machine
end

