-- ==== Sys2Proof/Machine/Partitions.lean ====
section
/-! DEFINITION. Time slices, pre-emption, the choice of the next context, and swaps (R445 to R453). -/

namespace Sys2Proof.Machine

open Sys2Proof

/-! ## Slices (R445 to R447) -/

/-- Whether a context has a step delivering tasks (R446). -/
def delivering (d : Dev) (cr : Nat) : Bool :=
  ([(getSteps d cr).cur, (getSteps d cr).nxt].filterMap id).any (fun st => st.phase = .delivering)

/-- The µs from a time until now. -/
def usSince (d : Dev) (t : Word64) : Nat := (d.now - t).toNat / 100

/-- The WAITING contexts with RUNNABLE set of a partition, other than `out`. -/
def waitingCtxs (d : Dev) (p : Nat) (out : Option Nat) : List (Nat × Ctx) :=
  (ctxsIn d p).filter (fun q => q.2.st = .waiting && q.2.runnable && some q.1 ≠ out)

/-- How far a context number lies after the last one to run, wrapping (R447). -/
def turnDist (last c : Nat) : Nat := (c + 255 - last) % 128

/-- A class's contexts in turn. -/
def inTurn (d : Dev) (l : List (Nat × Ctx)) (be : Bool) (last : Nat) : List Nat :=
  (sortBy (fun (a b : Nat × Nat) => decide (a.1 < b.1))
    ((l.filter (fun q => q.2.be = be)).map (fun q => (turnDist last (ctxNo d q.1), q.1)))).map (fun q => q.2)

/-- The contexts of a partition in the order in which they are considered: BE contexts that stayed RUNNABLE through 8 LC slices,
LC, BE, and the outgoing context last (R447). -/
def turnOrder (d : Dev) (p : Nat) (out : Option Nat) : List Nat :=
  let x := getPart d p
  let l := waitingCtxs d p out
  let be := inTurn d l true x.lastBe
  let starved := be.filter (fun c => decide (8 ≤ tget x.lcSlices c 0))
  let again := match out with
    | some o => if (getCtx d o).runnable && ((getCtx d o).st = .waiting || (getCtx d o).st = .running) then [o] else []
    | none => []
  starved ++ inTurn d l false x.lastLc ++ be.filter (fun c => !starved.contains c) ++ again

/-- One round of turns: a context whose DEBT is at least SLICE is passed over and its DEBT falls by SLICE (R445). -/
def oneRound (d : Dev) (slice : Nat) (l : List Nat) : Dev × Option Nat :=
  match l with
  | [] => (d, none)
  | c :: r =>
    let x := getCtx d c
    if 0 < slice && slice ≤ x.debt then oneRound (setCtx d c { x with debt := x.debt - slice }) slice r else (d, some c)

/-- Rounds until a context is chosen, `k` at most. -/
def rounds (d : Dev) (slice : Nat) (l : List Nat) (k : Nat) : Dev × Option Nat :=
  match k with
  | 0 => (d, none)
  | j + 1 =>
    match oneRound d slice l with
    | (d1, some c) => (d1, some c)
    | (d1, none) => if l = [] then (d1, none) else rounds d1 slice l j

/-- The next context of a partition (R445, R447). -/
def pickNext (d : Dev) (p : Nat) (out : Option Nat) : Dev × Option Nat :=
  let l := turnOrder d p out
  rounds d (partSlice d p) l ((l.map (fun c => (getCtx d c).debt)).sum + 1)

/-- An LC slice is over: BE contexts that were RUNNABLE through it count it, others start again (R447). -/
def countLc (d : Dev) (p : Nat) : Dev :=
  let x := getPart d p
  match x.ran with
  | some false =>
    let bes := (ctxsIn d p).filter (fun q => q.2.be && q.2.st = .waiting && q.2.runnable && decide (q.2.runnableAt.toNat ≤ x.sliceStart.toNat))
    setPart d p { x with ran := none, lcSlices := bes.map (fun q => (q.1, tget x.lcSlices q.1 0 + 1)) }
  | some true => setPart d p { x with ran := none, lcSlices := [] }
  | none => d

/-- A context becomes RUNNING with a slice of SLICE − DEBT µs; its DEBT becomes 0 (R445). -/
def startSlice (d : Dev) (p cr : Nat) : Dev :=
  let c := getCtx d cr
  let x := getPart d p
  let n := ctxNo d cr
  let d1 := setCtx d cr { c with st := .running, debt := 0 }
  setPart d1 p { x with
    running := some (BitVec.ofNat 12 cr), phase := .running, sliceStart := d.now
    sliceEnd := d.now + BitVec.ofNat 64 (100 * (partSlice d p - c.debt)), sliceOver := none, noGrace := false, leaving := none
    ran := some c.be
    lastLc := if c.be then x.lastLc else n, lastBe := if c.be then n else x.lastBe }

/-- Whether a partition's regulators leave a resource that could carry no traffic (R460). -/
def regulatorBad (d : Dev) (p : Nat) : Bool :=
  (List.range 4).any (fun r => fld (partReg d p r) 0 16 = 0 && fld (partReg d p r) 22 8 = 0)

/-- The outgoing context gives the tiles up; the time since the end of its slice is added to its DEBT (R446). -/
def handOver (d : Dev) (p : Nat) (out : Option Nat) : Dev :=
  let x := getPart d p
  let d1 := match out with
    | none => d
    | some o =>
      let c := getCtx d o
      let late := match x.sliceOver with
        | some t => usSince d t
        | none => 0
      setCtx d o { c with st := if c.st = .running then .waiting else c.st, debt := c.debt + late }
  setPart d1 p { x with running := none, leaving := none, sliceOver := none, noGrace := false, phase := .switching }

/-- The partition passes to the next context, or is idle; none is chosen while the device is quiesced (R447, R460, R516). -/
def nextContext (d : Dev) (p : Nat) (out : Option Nat) : Dev :=
  let d0 := countLc d p
  let idle := fun (d : Dev) => coxSettle (setPart d p { getPart d p with phase := .idle })
  if d.boot.quiesce then idle (dropDeckModels d0 p)
  else
    match pickNext d0 p out with
    | (d1, none) => idle (dropDeckModels d1 p)
    | (d1, some c) =>
      let d2 := if some c = out then d1 else dropDeckModels d1 p
      if regulatorBad d2 p then coxSettle (ctxFault d2 c fRegulatorConfig { unit := 6 })
      else restoreContext (startSlice d2 p c) c

/-- Where a partition can pass on: `some` of the outgoing context, once no save and no teardown is awaited, the slice of a RUNNING
context has ended with no step delivering, and no commit of it runs (R446, R448, R453). -/
def switchPoint (d : Dev) (p : Nat) : Option (Option Nat) :=
  let x := getPart d p
  if x.saving.isSome || x.outgoing.isSome then none
  else
    match x.running with
    | none => some (x.leaving.map (fun r => r.toNat))
    | some cr => if x.sliceOver.isSome && !delivering d cr.toNat && !commitRuns d cr.toNat then some (some cr.toNat) else none

/-- CONTEXT_SWITCH. A checked partition image takes the switch point instead (R510). -/
def contextSwitchD (p : Nat) (d : Dev) : Dev :=
  if !alive d || !partEnabled d p || (getPart d p).reload || (getPart d p).phase = .resetting then d
  else
    match switchPoint d p with
    | none => d
    | some out => nextContext (handOver d p out) p out

/-- CONTEXT_SWITCH (R447). -/
def execContextSwitch (p : PartId) (s : State) : Answer := onDev s (contextSwitchD p.toNat)

/-- Whether a RUNNING context goes on with a new slice: it has work, no other context has, and nothing else wants the partition
(R447). -/
def goesOn (d : Dev) (p cr : Nat) : Bool :=
  (waitingCtxs d p (some cr)).isEmpty && (getCtx d cr).runnable && !d.boot.quiesce && !(getPart d p).reload

/-- A new slice for the context that runs on (R445, R447). -/
def renew (d : Dev) (p cr : Nat) : Dev :=
  match pickNext (countLc d p) p (some cr) with
  | (d1, some c) => startSlice d1 p c
  | (d1, none) => d1

/-- The slice of a RUNNING context ends (R446). -/
def endSlice (d : Dev) (p : Nat) (noGrace : Bool) : Dev :=
  let x := getPart d p
  if x.running.isNone then d else setPart d p { x with sliceOver := some (x.sliceOver.getD d.now), noGrace := noGrace }

/-- Whether the slice of a RUNNING context is over: at its last microsecond, or as soon as the context is BLOCKED with no step
delivering tasks (R446). -/
def sliceDue (d : Dev) (p cr : Nat) : Bool :=
  decide ((getPart d p).sliceEnd.toNat ≤ d.now.toNat) || (!(getCtx d cr).runnable && !delivering d cr)

/-- SLICE_END. A slice that ends during a commit waits for it, though the context then goes on (R448). -/
def sliceEndD (p : Nat) (d : Dev) : Dev :=
  let x := getPart d p
  match x.running, x.sliceOver with
  | some cr, none =>
    if !alive d || !sliceDue d p cr.toNat then d
    else if goesOn d p cr.toNat && !commitRuns d cr.toNat then renew d p cr.toNat
    else endSlice d p false
  | _, _ => d

/-- SLICE_END (R446). -/
def execSliceEnd (p : PartId) (s : State) : Answer := onDev s (sliceEndD p.toNat)

/-! ## Pre-emption (R449, R450) -/

/-- The pre-emption request: the context is SAVING, no pop or steal is served, and under PRE_INSTR every sequencer is asked to
stop. -/
def requestSave (d : Dev) (p cr : Nat) : Dev :=
  let x := getPart d p
  let rc : RecNo := BitVec.ofNat 12 cr
  let d1 := setCtx d cr { getCtx d cr with st := .saving }
  let d2 := setPart d1 p { x with running := none, saving := some rc, leaving := some rc, phase := .switching }
  let d3 := { d2 with cat := { d2.cat with stopServe := p :: d2.cat.stopServe.filter (· ≠ p) } }
  if partPreTile d p then d3
  else (partTiles d p).foldl (fun d t => setTile d t { getTile d t with preReq := true, windowOver := false }) d3

/-- GRACE_EXPIRY: GRACE has passed since the end of the slice with a step still delivering. -/
def graceD (p : Nat) (d : Dev) : Dev :=
  let x := getPart d p
  match x.running, x.sliceOver with
  | some cr, some t =>
    if !alive d || x.noGrace || !delivering d cr.toNat || usSince d t < partGrace d p then d
    else if goesOn d p cr.toNat then
      let c := getCtx d cr.toNat
      renew (setCtx d cr.toNat { c with debt := c.debt + usSince d t }) p cr.toNat
    else requestSave d p cr.toNat
  | _, _ => d

/-- GRACE_EXPIRY (R446). -/
def execGraceExpiry (p : PartId) (s : State) : Answer := onDev s (graceD p.toNat)

/-- PREEMPT_SAVE_DONE: the save is made, unless it meets an uncorrectable word, and the context is WAITING (R142, R449, R450,
R453). -/
def saveDoneD (p : Nat) (d : Dev) : Dev :=
  let x := getPart d p
  match x.saving with
  | none => d
  | some rc =>
    let cr := rc.toNat
    if !alive d || !saveReady d p rc || commitRuns d cr then d
    else
      match saveFault d p with
      | some (t, w) => ctxFault d cr fEccDeck { unit := 6, tile := t, detail := eccDetail w }
      | none =>
        let d1 := dropRequest (saveContext d p cr) p
        let d2 := setPart d1 p { getPart d1 p with saving := none }
        coxSettle (setCtx d2 cr { getCtx d2 cr with st := .waiting })

/-- PREEMPT_SAVE_DONE (R449). -/
def execPreemptSaveDone (p : PartId) (s : State) : Answer := onDev s (saveDoneD p.toNat)

/-- Whether the Keystone insert of one of a context's slots is in progress: it is its walker's operation (R331, R335, R448). -/
def insertRuns (d : Dev) (cr : Nat) : Option Nat :=
  match frontOp d (getCtx d cr).part.toNat with
  | some (.insert i _ _ _) => if (getSlot d i.toNat).cr.toNat = cr then some i.toNat else none
  | _ => none

/-- NONPREEMPT_OVERRUN: the commit or insert of the context completes, and the context faults. A context record that is FREE owns no
command: the one that ran too long is then firmware's own, and that is fatal (R436, R448; log 93). -/
def overrunD (cr : Nat) (d : Dev) : Dev :=
  if d.clk.stopped then d
  else if (getCtx d cr).st = .free then deviceFatal d 6 0 { unit := 6 }
  else if commitRuns d cr then
    let d1 := { d with xlt := { d.xlt with commits := tmap d.xlt.commits (fun _ c => if c.cr.toNat = cr && c.result ≠ 7 then { c with busy := false } else c) } }
    ctxFault d1 cr fNonpreemptOverrun { unit := 6 }
  else
    match insertRuns d cr with
    | some i => ctxFault (keyInsertD i d) cr fNonpreemptOverrun { unit := 6 }
    | none => d

/-- NONPREEMPT_OVERRUN (R448). -/
def execNonpreemptOverrun (rec : RecNo) (s : State) : Answer := onDev s (overrunD rec.toNat)

/-! ## Swaps (R451, R452) -/

/-- Bytes of a context's header in its swap region (R452). -/
def headerBytes4K : Nat := 0x1000

/-- SWAP_OUT_DONE: the victim's header, in a layout that the spec does not give (free values, log 6), and its saved state are in host memory
at SWAP_BA, no cache holds a translation of it, and its slot is free. The copy is BE traffic, which no bucket counts (R452, R457). -/
def swapOutD (cr : Nat) (d : Dev) : Dev :=
  let c := getCtx d cr
  match c.st, c.cslot with
  | .swappingOut, some _ =>
    if !alive d then d
    else
      let a := saveArea d cr
      let n := saveAreaLen d cr
      match pierPoison d a n with
      | some w => accessFault d cr ⟨fEccPier, 0, w / 4096⟩ { unit := 6 }
      | none =>
        match hostPut d c.fn.toNat c.swapBa.toNat (freeBytes d.fresh (headerBytes4K / 4)) with
        | none => ctxFault d cr fXlatePerm { unit := 6 }
        | some d1 =>
          let b := c.swapBa.toNat + headerBytes4K
          let d2 := { d1 with
            fresh := d.fresh + headerBytes4K / 4
            host := memCells (memZero d1.host b n) (moveCells d.pier.mem a n b) }
          let d3 := dropCtxEnts (leaveCslot (charge d2 c.part.toNat 4 (headerBytes4K + n) true) cr) cr
          coxSettle (setCtx d3 cr { getCtx d3 cr with st := .swappedOut })
  | _, _ => d

/-- SWAP_OUT_DONE (R452). -/
def execSwapOutDone (rec : RecNo) (s : State) : Answer := onDev s (swapOutD rec.toNat)

/-- SWAP_IN_DONE: the state is back in the save area of the context's new slot, and the context is WAITING (R452). -/
def swapInD (cr : Nat) (d : Dev) : Dev :=
  let c := getCtx d cr
  match c.st with
  | .swappingIn =>
    if !alive d then d
    else if !(getFn d c.fn.toNat).master then ctxFault d cr fXlatePerm { unit := 6 }
    else
      let n := saveAreaLen d cr
      let a := saveArea d cr
      let d1 := pierImage d a n (moveCells d.host (c.swapBa.toNat + headerBytes4K) n a)
      coxSettle (charge (setCtx d1 cr { c with st := .waiting }) c.part.toNat 5 (headerBytes4K + n) true)
  | _ => d

/-- SWAP_IN_DONE (R452). -/
def execSwapInDone (rec : RecNo) (s : State) : Answer := onDev s (swapInD rec.toNat)

end Sys2Proof.Machine
end

