-- ==== Sys2Proof/Machine/Contexts.lean ====
section
/-! DEFINITION. Context records and their commands, partition reset, and the regulators' buckets (R442 to R444, R454 to R456, R463,
R466 to R468). -/

namespace Sys2Proof.Machine

open Sys2Proof

/-! ## Records (R442, R466) -/

/-- The PMG_CTX_ARG and PMG_CTX_SWAP of a function (R466). -/
def ctxArg (d : Dev) (fn : Nat) : Word64 := fnReg d fn 0x0201000 0x2000
def ctxSwap (d : Dev) (fn : Nat) : Word64 := fnReg d fn 0x0201008 0x2008

/-- Set PMG_CTX_STATUS of a function (R466). -/
def setCtxStatus (d : Dev) (fn r cr : Nat) : Dev :=
  { d with pmg := { d.pmg with status := tset d.pmg.status fn { result := BitVec.ofNat 8 r, record := BitVec.ofNat 12 cr } } }

/-- The function that a context command names: FUNC for the PF, its own for a VF (R467). -/
def argFn (d : Dev) (fn : Nat) : Nat := if fn = 0 then fld (ctxArg d fn) 0 6 else fn

/-- The context that a context command names. -/
def argCtx (d : Dev) (fn : Nat) : Option Nat := ctxOf d (argFn d fn) (fld (ctxArg d fn) 6 7)

/-- The result of a CREATE in the order of R467's codes, or the free record that it takes. -/
def createCheck (d : Dev) (fn vctx p swap : Nat) : Except Nat Nat :=
  if (ctxOf d fn vctx).isSome then .error 1
  else
    match findFrom (fun r => (getCtx d r).st = .free) 0 4096 with
    | none => .error 2
    | some r =>
      if !partEnabled d p || (fn ≠ 0 && !((bindOf d fn).bound && (bindOf d fn).part.toNat = p)) then .error 3
      else if regulatorBad d p then .error 5
      else if swap % 4096 ≠ 0 then .error 6
      else .ok r

/-- A new record. Page tables and Cox's state of an earlier context with the record number are gone. -/
def createCtx (d : Dev) (r fn vctx p : Nat) (be : Bool) (swap : Word64) : Dev :=
  let c : Ctx := { Ctx.init with
    fn := BitVec.ofNat 6 fn, vctx := BitVec.ofNat 7 vctx, part := BitVec.ofNat 4 p, be := be, swapBa := swap
    blockedAt := d.now, runnableAt := d.now, st := .waiting }
  let d1 := setSteps (setCtx d r c) r CtxSteps.init
  match freeCslot d p with
  | some n => giveCslot d1 r n .waiting
  | none => setCtx d1 r { c with st := .swappedOut }

/-- CREATE: PF only (R466, R467). -/
def createD (fn : Nat) (d : Dev) : Dev :=
  if !fnOpen d fn 0x0201000 then d
  else if fn ≠ 0 then setCtxStatus d fn 8 0
  else
    let w := ctxArg d fn
    let f := argFn d fn
    match createCheck d f (fld w 6 7) (fld w 13 4) (ctxSwap d fn).toNat with
    | .error e => setCtxStatus d fn e 0
    | .ok r => coxSettle (setCtxStatus (createCtx d r f (fld w 6 7) (fld w 13 4) (bitOf w 17) (ctxSwap d fn)) fn 0 r)

/-- CREATE (R466). -/
def execCreate (fn : Func) (s : State) : Answer := onDev s (createD fn.toNat)

/-- Whether every slot of a context is FREE. -/
def slotsFree (d : Dev) (cr : Nat) : Bool := !d.cox.slots.any (fun p => p.2.st ≠ .free && p.2.cr.toNat = cr)

/-- Whether DESTROY is valid: WAITING, SWAPPED_OUT or FAULTED, with every slot FREE (R466). -/
def mayDestroy (d : Dev) (cr : Nat) : Bool :=
  slotsFree d cr && (match (getCtx d cr).st with
    | .waiting => true
    | .swappedOut => true
    | .faulted => true
    | _ => false)

/-- Free a record and its context slot: a teardown that still runs ends, its page tables are gone, its saved state is abandoned, and
slots that it last owned have no owner (R365, R466, R495; log 93). -/
def destroyCtx (d0 : Dev) (cr : Nat) : Dev :=
  let rc : RecNo := BitVec.ofNat 12 cr
  let d := if (getCtx d0 cr).tearing then finishTeardown d0 cr true else d0
  let d1 := dropCtxEnts (dropCslot (clearCox (zeroOwed (catchDrop d cr) cr) cr) cr) cr
  let d2 := (ctxXfers d1 cr).foldl abortXfer d1
  { d2 with
    xlt := { d2.xlt with maps := tdel d2.xlt.maps cr, frozen := tdel d2.xlt.frozen cr }
    cox := { d2.cox with
      steps := tdel d2.cox.steps cr
      slots := tmap d2.cox.slots (fun _ s => if s.owner = some rc then { s with owner := none } else s) }
    pmg := { d2.pmg with
      ctxs := tdel d2.pmg.ctxs cr
      parts := tmap d2.pmg.parts (fun _ p => { p with leaving := if p.leaving = some rc then none else p.leaving }) } }

/-- DESTROY: PF only (R466, R467). -/
def destroyD (fn : Nat) (d : Dev) : Dev :=
  if !fnOpen d fn 0x0201000 then d
  else if fn ≠ 0 then setCtxStatus d fn 8 ((argCtx d fn).getD 0)
  else
    match argCtx d fn with
    | none => setCtxStatus d fn 7 0
    | some cr => if mayDestroy d cr then coxSettle (setCtxStatus (destroyCtx d cr) fn 0 cr) else setCtxStatus d fn 4 cr

/-- DESTROY (R466). -/
def execDestroy (fn : Func) (s : State) : Answer := onDev s (destroyD fn.toNat)

/-- ARM: a FAULTED context whose TEARDOWN_DONE is written returns to WAITING (R454). -/
def armD (fn : Nat) (d : Dev) : Dev :=
  if !fnOpen d fn 0x0201000 then d
  else
    match argCtx d fn with
    | none => setCtxStatus d fn 7 0
    | some cr =>
      let c := getCtx d cr
      if c.st = .faulted && c.tornDown then
        coxSettle (setCtxStatus (seatCtx (thawMaps (setCtx d cr { c with tornDown := false, blockedAt := d.now }) cr) cr) fn 0 cr)
      else setCtxStatus d fn 4 cr

/-- ARM (R454). -/
def execArm (fn : Func) (s : State) : Answer := onDev s (armD fn.toNat)

/-- SET_CLASS: PF only (R444, R467). -/
def setClassD (fn : Nat) (d : Dev) : Dev :=
  if !fnOpen d fn 0x0201000 then d
  else if fn ≠ 0 then setCtxStatus d fn 8 ((argCtx d fn).getD 0)
  else
    match argCtx d fn with
    | none => setCtxStatus d fn 7 0
    | some cr => setCtxStatus (setCtx d cr { getCtx d cr with be := bitOf (ctxArg d fn) 17 }) fn 0 cr

/-- SET_CLASS (R444). -/
def execSetClass (fn : Func) (s : State) : Answer := onDev s (setClassD fn.toNat)

/-! ## PMG_CTX_SEL (R468) -/

/-- The code of a context state (R443). -/
def ctxCode (st : CtxState) : Nat :=
  match st with
  | .free => 0
  | .waiting => 1
  | .running => 2
  | .saving => 3
  | .swappingOut => 4
  | .swappedOut => 5
  | .swappingIn => 6
  | .faulted => 7

/-- PMG_CTX_INFO of a record; a VF is not shown its context number (R468, R478). -/
def ctxInfo (d : Dev) (cr : Nat) (vf : Bool) : Word64 :=
  let c := getCtx d cr
  BitVec.ofNat 64 (ctxCode c.st + b2n c.runnable * 2 ^ 4 + b2n c.be * 2 ^ 5 + c.part.toNat * 2 ^ 6
    + (if vf then 0 else ctxNo d cr) * 2 ^ 10 + b2n c.cslot.isSome * 2 ^ 17 + min c.debt 0x1FFFF * 2 ^ 18 + cr * 2 ^ 35 + b2n c.tearing * 2 ^ 47)

/-- PMG_CTX_SEL_WRITE: the snapshot of the selected record; zero for none. -/
def ctxSelD (fn : Nat) (v : Word64) (d : Dev) : Dev :=
  if !fnOpen d fn 0x0201020 then d
  else
    let f := if fn = 0 then fld v 0 6 else fn
    let info := match ctxOf d f (fld v 6 7) with
      | some cr => ctxInfo d cr (fn ≠ 0)
      | none => 0
    let d1 := setFnReg d fn 0x0201020 0x2020 (BitVec.ofNat 64 (fld v 0 13))
    { d1 with pmg := { d1.pmg with info := tset d1.pmg.info fn info } }

/-- PMG_CTX_SEL_WRITE (R468). -/
def execPmgCtxSelWrite (fn : Func) (value : Word64) (s : State) : Answer := onDev s (ctxSelD fn.toNat value)

/-! ## Buckets (R456, R463) -/

/-- Limit a partition's buckets to their depth (R510). -/
def limitBuckets (d : Dev) (p : Nat) : Dev := mapBuckets d p (fun i b => min b (bucketDepth d p i : Int))

/-- REGULATOR_PERIOD: every bucket gains its rate, up to its depth. -/
def regulatorD (d : Dev) : Dev :=
  if !alive d then d
  else
    ((List.range 16).filter (partEnabled d)).foldl (fun d p =>
      mapBuckets d p (fun i b => min (b + (bucketRate d p i : Int)) (bucketDepth d p i : Int))) d

/-- REGULATOR_PERIOD (R456). -/
def execRegulatorPeriod (s : State) : Answer := onDev s regulatorD

/-! ## PARTITION_RESET (R455) -/

/-- Begin the reset of a partition: every context is torn down, without a fault record, and the reset ends with the last teardown; at once
when no context is there (R455). -/
def resetPartition (d : Dev) (p : Nat) : Dev :=
  let crs := ((ctxsIn d p).filter (fun q => !q.2.tearing)).map (fun q => q.1)
  let d1 := crs.foldl beginTeardown (dropRequest d p)
  settleReset (setPart d1 p { getPart d1 p with
    running := none, phase := .resetting, sliceOver := none, saving := none, leaving := none, outgoing := none, resetWait := false }) p

/-- PARTITION_RESET: a second GO while the reset runs has no effect, and one during a reload of the partition waits until the reload
ends (R455, R512). -/
def partResetD (v : Word32) (d : Dev) : Dev :=
  let p := fld v 0 4
  if !pfOpen d 0x0201030 || !alive d || !bitOf v 4 || !partEnabled d p || (getPart d p).phase = .resetting then d
  else if d.boot.piBusy && d.boot.piPart.toNat = p then setPart d p { getPart d p with resetWait := true }
  else resetPartition d p

/-- PARTITION_RESET (R455). -/
def execPartitionReset (value : Word32) (s : State) : Answer := onDev s (partResetD value)

end Sys2Proof.Machine
end

