-- ==== Sys2Proof/Machine/Host.lean ====
section
/-! DEFINITION. The host interface: ring indices, MSI-X messages held back, configuration space, and function-level resets
(R470, R473, R479 to R485, R495, R496, R498). -/

namespace Sys2Proof.Machine

open Sys2Proof

/-! ## Rings (R479 to R481) -/

/-- The key of a ring, and whether a write of its registers is taken. -/
def ringIdKey (r : RingId) : Nat :=
  match r with
  | .ctx fn vctx r => ringKey fn.toNat vctx.toNat r.toNat
  | .device => devRing
def ringIdOpen (d : Dev) (r : RingId) : Bool :=
  match r with
  | .ctx fn _ _ => pageOpen d fn.toNat
  | .device => pfOpen d 0x1000

/-- Fields of RING_CFG: LOG2, ENABLE, VECTOR, MOD_US and IRQ_EN (R479). -/
def ringCfgMask : Word64 := 0xFFFFF3F

/-- A refused index write: BAD_INDEX is set and the ring stops until it is enabled again (R481). -/
def refuseIndex (x : Ring) : Ring := { x with badIndex := true, broken := true }

/-- A write of PROD on a command ring: refused when it would pass the ring's size or move backward (R481). -/
def writeProd (x : Ring) (n : Word32) : Ring :=
  if ringSize x < (n - x.cons).toNat || (n - x.cons).toNat < ringUsed x then refuseIndex x else { x with prod := n }

/-- A write of CONS on a device-written ring (R481). -/
def writeCons (x : Ring) (n : Word32) : Ring :=
  if ringSize x < (x.prod - n).toNat || ringUsed x < (x.prod - n).toNat then refuseIndex x else { x with cons := n }

/-- COMMAND_DOORBELL. -/
def doorbellD (fn vctx : Nat) (v : Word64) (d : Dev) : Dev :=
  if !pageOpen d fn then d
  else setRing d (ringKey fn vctx 0) (writeProd (getRing d (ringKey fn vctx 0)) (v.setWidth 32))

/-- COMMAND_DOORBELL (R480). -/
def execCommandDoorbell (fn : Func) (vctx : VCtx) (value : Word64) (s : State) : Answer := onDev s (doorbellD fn.toNat vctx.toNat value)

/-- Completions that waited for a free entry of a completion ring are written (R483). -/
def ringFreed (d : Dev) (r : RingId) : Dev :=
  match r with
  | .ctx fn vctx 1 =>
    (match ctxOf d fn.toNat vctx.toNat with
     | some cr => if alive d then coxSettle (flushOwed d cr (getSteps d cr).owed.length) else d
     | none => d)
  | _ => d

/-- RING_CONS_WRITE: CONS of ring 0 is the device's own. -/
def ringConsD (r : RingId) (v : Word64) (d : Dev) : Dev :=
  if !ringIdOpen d r then d
  else
    match r with
    | .ctx _ _ 0 => d
    | _ => ringFreed (setRing d (ringIdKey r) (writeCons (getRing d (ringIdKey r)) (v.setWidth 32))) r

/-- RING_CONS_WRITE (R481). -/
def execRingConsWrite (r : RingId) (value : Word64) (s : State) : Answer := onDev s (ringConsD r value)

/-- RING_ENABLE: ENABLE goes from 0 to 1, with the other fields of the write. -/
def ringEnableD (r : RingId) (v : Word64) (d : Dev) : Dev :=
  let x := getRing d (ringIdKey r)
  if !ringIdOpen d r || ringEnabled x || !bitOf v 5 then d
  else ringFreed (setRing d (ringIdKey r) { x with cfg := v &&& ringCfgMask, prod := 0, cons := 0, broken := false }) r

/-- RING_ENABLE (R479). -/
def execRingEnable (r : RingId) (value : Word64) (s : State) : Answer := onDev s (ringEnableD r value)

/-- MSIX_MODERATION_EXPIRY: the message that moderation held back, once MOD_US has elapsed. -/
def moderationD (r : RingId) (d : Dev) : Dev :=
  let k := ringIdKey r
  let x := getRing d k
  if d.clk.stopped || !x.owed || !modDue d x then d
  else if !bitOf x.cfg 27 then setRing d k { x with owed := false }
  else sendMsix (setRing d k { x with owed := false, sentAt := some d.now }) (ringFn k) (fld x.cfg 8 11)

/-- MSIX_MODERATION_EXPIRY (R485). -/
def execMsixModerationExpiry (r : RingId) (s : State) : Answer := onDev s (moderationD r)

/-! ## Function-level resets (R495, R496) -/

/-- The context records of a function. -/
def fnCtxs (d : Dev) (fn : Nat) : List Nat := (d.pmg.ctxs.filter (fun p => p.2.st ≠ .free && p.2.fn.toNat = fn)).map (fun p => p.1)

/-- The registered models of a function. -/
def fnModels (d : Dev) (fn : Nat) : List Nat := (d.cox.models.filter (fun p => p.2.fn.toNat = fn)).map (fun p => p.1)

/-- A function's contexts are torn down and its records freed, and its models are unregistered (R329, R495). -/
def dropFn (d : Dev) (fn : Nat) : Dev :=
  let d1 := (fnCtxs d fn).foldl (fun d cr => destroyCtx (tearNow d cr false) cr) d
  (fnModels d1 fn).foldl forgetModel d1

/-- A function's rings, commit and context registers and its view of the tollhouse are at their reset values. A tollhouse command
that runs goes on (R532). -/
def resetFnRegs (d : Dev) (fn : Nat) : Dev :=
  let m := getMbx d fn
  { d with
    vfRegs := d.vfRegs.filter (fun p => p.1 / 0x100000 ≠ fn)
    hif := { d.hif with
      rings := d.hif.rings.filter (fun p => p.1 / 512 ≠ fn)
      pend := d.hif.pend.filter (fun p => p.1 ≠ fn) }
    xlt := { d.xlt with commits := tdel d.xlt.commits fn }
    pmg := { d.pmg with status := tdel d.pmg.status fn, info := tdel d.pmg.info fn }
    toll := { d.toll with mbx := tset d.toll.mbx fn { m with result := 0, respLen := 0 } } }

/-- R495: a VF's contexts, slots, models and registers. Its Memory Space Enable, a field of the PF's SR-IOV capability, stays
(log 12). -/
def resetVf (d : Dev) (fn : Nat) : Dev :=
  let d1 := resetFnRegs (dropFn d fn) fn
  coxSettle (setFn d1 fn { Fn.init with mse := (getFn d fn).mse })

/-- VF_FLR. -/
def vfFlrD (fn : Nat) (d : Dev) : Dev := if fn = 0 || !fnPresent d fn || d.clk.stopped then d else resetVf d fn

/-- VF_FLR (R495). -/
def execVfFlr (fn : Func) (s : State) : Answer := onDev s (vfFlrD fn.toNat)

/-- R495 applied to every VF, as a clear of VF Enable does (R496). -/
def resetVfs (d : Dev) : Dev := ((List.range 64).filter (fun n => n ≠ 0)).foldl resetVf d

/-- Registers of PF BAR0 that a reset of the PF keeps: what the structure image set, the slot windows, the ports and the pier
(R495, R496). -/
def keptByFlr (off : Nat) : Bool :=
  (decide (0x0200000 ≤ off) && decide (off < 0x0200C00)) || (decide (0x0400800 ≤ off) && decide (off < 0x0400A00)) ||
    (decide (0x0600000 ≤ off) && decide (off < 0x0600080)) || decide (off = 0x0800000) ||
    decide (off = 0x0A00000) ||
    (decide (0x0C00000 ≤ off) && decide (off < 0x0E00000)) || (decide (0x1000000 ≤ off) && decide (off < 0x2000000))

/-- PF_FLR: VF Enable is cleared and every function is reset; the structure, the ports, the tollhouse and GLB_FATAL stay. -/
def pfFlrD (d : Dev) : Dev :=
  if d.clk.stopped then d
  else
    let d1 := resetFnRegs (dropFn (resetVfs { d with hif := { d.hif with vfEnable := false } }) 0) 0
    coxSettle { d1 with
      regs := d1.regs.filter (fun p => keptByFlr p.1)
      hif := { d1.hif with fns := [], numVFs := 0, ari := false, rings := tdel d1.hif.rings devRing }
      cox := { d1.cox with slotInfo := 1 }
      boot := { d1.boot with quiesce := false }
      tru := { d1.tru with result := 0, respLen := 0 } }

/-- PF_FLR (R496). -/
def execPfFlr (s : State) : Answer := onDev s pfFlrD

/-! ## Configuration space (R470, R473, R485, R498) -/

/-- Messages of a function that a mask held back and that nothing holds back now are sent (R485). -/
def flushPend (d : Dev) (fn : Nat) : Dev :=
  let mine := d.hif.pend.filter (fun p => p.1 = fn)
  let others := d.hif.pend.filter (fun p => p.1 ≠ fn)
  mine.reverse.foldl (fun d p => sendMsix d p.1 p.2) { d with hif := { d.hif with pend := others } }

/-- Completion Timeout Value codes of the default and of ranges A and B (R470). -/
def ctoOk (c : BitVec 4) : Bool := c = 0 || c = 1 || c = 2 || c = 5 || c = 6

/-- CONFIG_SPACE_WRITE. NumVFs and ARI Capable Hierarchy are fields of the PF's SR-IOV capability and change while VF Enable is
clear (log 12). -/
def configD (fn : Nat) (f : CfgField) (d : Dev) : Dev :=
  let x := getFn d fn
  if d.clk.stopped || d.boot.stage = 0 || !fnPresent d fn then d
  else
    match f with
    | .busMaster on => setFn d fn { x with bme := on }
    | .memorySpace on => setFn d fn { x with mse := on }
    | .msixEnable on => setFn d fn { x with msixEn := on }
    | .msixMask on => let d1 := setFn d fn { x with msixMask := on }
      if on then d1 else flushPend d1 fn
    | .completionTimeout c => if ctoOk c then setFn d fn { x with ctoCode := c } else d
    | .powerState on => setFn d fn { x with d3hot := on }
    | .vfEnable on =>
      if fn ≠ 0 then d
      else if on then { d with hif := { d.hif with vfEnable := true } }
      else if d.hif.vfEnable then resetVfs { d with hif := { d.hif with vfEnable := false } } else d
    | .numVFs n => if fn ≠ 0 || d.hif.vfEnable || 63 < n.toNat then d else { d with hif := { d.hif with numVFs := n } }
    | .ariHierarchy on => if fn ≠ 0 || d.hif.vfEnable then d else { d with hif := { d.hif with ari := on } }

/-- CONFIG_SPACE_WRITE (R498). -/
def execConfigSpaceWrite (fn : Func) (field : CfgField) (s : State) : Answer := onDev s (configD fn.toNat field)

end Sys2Proof.Machine
end

