-- ==== Sys2Proof/Machine/Image.lean ====
section
/-! DEFINITION. OTP records, and the checks of firmware, structure and partition images (R143, R144, R324, R336, R403, R440, R460,
R503 to R507, R509, R513 to R515). -/

namespace Sys2Proof.Machine

open Sys2Proof

/-! ## OTP (R513 to R515): records 0 VENDOR_KEY_HASH, 1 OWNER_KEY_HASH, 2 IDENTITY_SEED, 3 TILE_MAP, 4 DECK_REMAP, 5 LIFECYCLE,
6 SECURITY_VERSION -/

/-- A digest as 64 bytes: byte `k` is bits `8k` to `8k + 7`, as quadword `j` holds bytes `8j` to `8j + 7` (R527). -/
def digestBytes (h : BitVec 512) : List Byte := toLe 64 h.toNat

/-- Generation `i` of an OTP record; one never written is blank. -/
def otpGen (d : Dev) (r i : Nat) : Gen := (tget d.tru.otp r []).getD i { written := false, retired := false, data := [], crcOk := false }

/-- Whether a generation can be the active one: write-once records need a matching CRC (R514). -/
def genLive (r : Nat) (g : Gen) : Bool := g.written && !g.retired && (g.crcOk || decide (5 ≤ r))

/-- The active generation of a record: the highest-numbered live one (R514). -/
def otpActive (d : Dev) (r : Nat) : Option Nat := ([3, 2, 1, 0] : List Nat).find? (fun i => genLive r (otpGen d r i))

/-- The data of the active generation. -/
def otpData (d : Dev) (r : Nat) : Option (List Byte) := (otpActive d r).map (fun i => (otpGen d r i).data)

/-- The value of an incremental generation: a bit is set when either copy is (R514). -/
def incOf (bs : List Byte) : Word64 := BitVec.ofNat 64 (leAt bs 0 8) ||| BitVec.ofNat 64 (leAt bs 8 8)

/-- The bytes of an incremental generation with a value in both copies. -/
def incBytes (v : Word64) : List Byte := toLe 8 v.toNat ++ toLe 8 v.toNat

/-- The value of an incremental record; zero with no active generation (log 1). -/
def incValue (d : Dev) (r : Nat) : Word64 :=
  match otpData d r with
  | some bs => incOf bs
  | none => 0

/-- Replace generation `i` of a record. -/
def setGen (d : Dev) (r i : Nat) (g : Gen) : Dev :=
  { d with tru := { d.tru with otp := tset d.tru.otp r ((List.range 4).map (fun j => if j = i then g else otpGen d r j)) } }

/-- Retire generation `i` of a record. -/
def retireGen (d : Dev) (r i : Nat) : Dev := setGen d r i { otpGen d r i with retired := true }

/-- A rollover of a record to new data, with whether it reads back: result 0, 6 OTP_EXHAUSTED or 7 OTP_FAILED (R515, R529). -/
def rollover (d : Dev) (r : Nat) (data : List Byte) (readBack : Bool) : Dev × Nat :=
  match findFrom (fun i => !(otpGen d r i).written) 0 4 with
  | none => (d, 6)
  | some i =>
    let d1 := setGen d r i { written := true, retired := !readBack, data := data, crcOk := true }
    if !readBack then (d1, 7)
    else
      match otpActive d r with
      | some a => (retireGen d1 r a, 0)
      | none => (d1, 0)

/-- Set bits of an incremental record in its active generation, both copies, with whether it reads back; a record with no active
generation rolls over to one (R515). -/
def setBits (d : Dev) (r : Nat) (v : Word64) (readBack : Bool) : Dev × Nat :=
  match otpActive d r with
  | none => rollover d r (incBytes v) readBack
  | some i =>
    if readBack then (setGen d r i { otpGen d r i with data := incBytes (incValue d r ||| v) }, 0) else (d, 7)

/-- The version of a SECURITY_VERSION thermometer: its highest set bit plus 1 (R522). -/
def svnOf (v : Word64) : Nat := if v = 0 then 0 else Nat.log2 v.toNat + 1
/-- The thermometer of a version. -/
def svnBits (n : Nat) : Word64 := BitVec.ofNat 64 (2 ^ n - 1)
/-- The current SECURITY_VERSION (R522). -/
def svn (d : Dev) : Nat := svnOf (incValue d 6)

/-- Extend measurement register `i` with a digest (R518). -/
def extendM (d : Dev) (i : Nat) (h : BitVec 512) : Dev :=
  let m := tget d.tru.m i 0
  { d with tru := { d.tru with m := tset d.tru.m i (Config.sha3 (digestBytes m ++ digestBytes h)) } }

/-! ## Images (R503 to R505) -/

/-- Offset of an image's signature, and its digest D (R504). -/
def sigOff (bs : List Byte) : Nat := bs.length - 4627
def imgDigest (bs : List Byte) : BitVec 512 := Config.sha3 (bs.take (sigOff bs))

/-- A section: TYPE and body. -/
structure Section where
  type : Nat
  body : List Byte
deriving DecidableEq, Repr

/-- The sections of an image, or none when their framing is broken; `k` bounds their number (R503). -/
def sections (bs : List Byte) (k : Nat) : Option (List Section) :=
  match k with
  | 0 => if bs = [] then some [] else none
  | j + 1 =>
    if bs = [] then some []
    else
      let n := leAt bs 4 4
      let padded := alignUp n 8
      if bs.length < 8 + padded || leAt bs 2 2 ≠ 0 || !allZero (sub bs (8 + n) (padded - n)) then none
      else (sections (bs.drop (8 + padded)) j).map (fun l => { type := leAt bs 0 2, body := sub bs 8 n } :: l)

/-- The sections of a structure or partition image. -/
def imgSections (bs : List Byte) : Option (List Section) :=
  sections ((bs.take (sigOff bs)).drop 2848) (bs.length / 8)

/-- The header's format tests for an image of a kind (R503). -/
def headerOk (bs : List Byte) (kind : Nat) : Bool :=
  decide (2848 + 4627 ≤ bs.length) && decide (leAt bs 0 4 = 0x44485657) && decide (leAt bs 4 1 = kind) && decide (leAt bs 5 1 = 1) &&
    decide (leAt bs 6 1 ≤ (if kind = 3 then 15 else 0)) && decide (leAt bs 7 1 ≤ (if kind = 1 then 1 else 0)) &&
    decide (leAt bs 12 1 ≤ (if kind = 1 then 64 else 0)) && allZero (sub bs 13 3) && allZero (sub bs 80 176)

/-- The hash that the signer key of a kind of image must have (R505). -/
def signerHash (d : Dev) (kind : Nat) : Option (List Byte) :=
  if kind = 1 then otpData d 0 else if (otpActive d 1).isSome then otpData d 1 else otpData d 0

/-- The tests of R505 after the format, in order: the first result code, or none. `most` is the largest length. -/
def imgRefused (d : Dev) (bs : List Byte) (kind most : Nat) : Option Nat :=
  let key := sub bs 256 2592
  let bind := sub bs 16 64
  if leAt bs 8 4 ≠ bs.length || most < bs.length then some 6
  else if signerHash d kind ≠ some (digestBytes (Config.sha3 key)) then some 3
  else if !Config.mldsaVerify key (digestBytes (imgDigest bs)) (bs.drop (sigOff bs)) then some 2
  else if !allZero bind && bind ≠ digestBytes d.tru.deviceId then some 4
  else if kind = 1 && decide (leAt bs 12 1 < svn d) then some 5
  else if kind = 1 && bitOf (incValue d 5) 1 then some 19
  else none

/-- A firmware image's result code (R505). -/
def fwCode (d : Dev) (bs : List Byte) : Option Nat := if !headerOk bs 1 then some 1 else imgRefused d bs 1 0x1000000

/-! ## Sections (R506) -/

/-- A PARTITION section: partition, tiles, the register values, GATE, and the values of its context slots. -/
structure PartSec where
  p      : Nat
  tiles  : BitVec 256
  cfg    : Word64
  regs   : List Word64
  frames : Word64
  quota  : Word64
  gate   : BitVec 10
  slots  : List Word64
deriving DecidableEq, Repr

/-- RES_BASE and RES_COUNT of a section. -/
def secBase (x : PartSec) : Nat := fld x.cfg 41 7
def secCount (x : PartSec) : Nat := fld x.cfg 48 8
/-- Whether a section has a tile or a context slot. -/
def secTile (x : PartSec) (t : Nat) : Bool := bitOf x.tiles t
def secSlot (x : PartSec) (c : Nat) : Bool := decide (secBase x ≤ c) && decide (c < secBase x + secCount x)
/-- The number of a section's tiles. -/
def secTiles (x : PartSec) : Nat := ((List.range 256).filter (secTile x)).length

/-- Word `i` of a body. -/
def word (b : List Byte) (i : Nat) : Word64 := BitVec.ofNat 64 (leAt b (8 * i) 8)

/-- Read a PARTITION section; register values keep their defined fields only (R15). -/
def partSec (b : List Byte) : Option PartSec :=
  let cfg := word b 5 &&& 0xFFFFFFFFFFFFFF
  let n := fld cfg 48 8
  if 16 ≤ leAt b 0 8 || b.length ≠ 104 + 8 * n || 1024 ≤ leAt b 96 8 then none
  else some {
    p := leAt b 0 8
    tiles := BitVec.ofNat 256 (leAt b 8 32)
    cfg := cfg
    regs := (List.range 4).map (fun r => word b (6 + r) &&& 0x3FFFFFFF)
    frames := word b 10 &&& 0x8FFFFFFFFFFFFFFF
    quota := word b 11 &&& 0x3FFFFF
    gate := BitVec.ofNat 10 (leAt b 96 8)
    slots := (List.range n).map (fun i => word b (13 + i) &&& 0x1FFFFFFFF) }

/-- A structure image's contents. -/
structure Img where
  parts  : List PartSec
  mapOut : BitVec 256
  remap  : List Word32
  cfgs   : List Word64
  lanes  : List Word64
  cwy    : Word64
  clocks : List Nat
  binds  : List Byte
  dma    : Word64
deriving DecidableEq, Repr

/-- The bodies of the sections of a type. -/
def bodies (l : List Section) (t : Nat) : List (List Byte) := (l.filter (fun s => s.type = t)).map (fun s => s.body)

/-- Remap entries of a list of bytes (R143). -/
def remapWords (b : List Byte) : List Word32 := (List.range (b.length / 4)).map (fun i => BitVec.ofNat 32 (leAt b (4 * i) 4))

/-- A REMAP body's entries. -/
def remapBody (b : List Byte) : Option (List Word32) :=
  if leAt b 0 8 ≤ 1024 && decide (b.length = 8 + 4 * leAt b 0 8) then some (remapWords (b.drop 8)) else none

/-- A VF_BIND body whose reserved bits are zero; a bound VF's partition number is judged by BINDING (R507). -/
def bindBodyOk (b : List Byte) : Bool :=
  decide (b.length = 64) && decide (leAt b 0 1 = 0) && b.all (fun x => bitOf x 7 || decide (x.toNat < 16))

/-- The contents of a structure image, or none for BAD_FORMAT: types, counts and sizes (R506). -/
def imgOf (l : List Section) : Option Img :=
  let ps := (bodies l 1).map partSec
  match bodies l 2, bodies l 3, bodies l 4, bodies l 5, bodies l 6, bodies l 7 with
  | m, r, [ports], [clocks], [binds], [dma] =>
    let remap := match r with
      | [] => some []
      | [b] => remapBody b
      | _ => none
    let ok := l.all (fun s => decide (1 ≤ s.type) && decide (s.type ≤ 7)) && decide (ps.length ≤ 16) && ps.all (fun x => x.isSome) &&
      decide ((ps.filterMap id).map (fun x => x.p)).Nodup && decide (m.length ≤ 1) && m.all (fun b => decide (b.length = 32)) &&
      decide (ports.length = 328) && decide (clocks.length = 8) && allZero (clocks.drop 4) && bindBodyOk binds && decide (dma.length = 8)
    match remap with
    | none => none
    | some es =>
      if ok then some {
        parts := ps.filterMap id
        mapOut := BitVec.ofNat 256 (leAt (m.headD []) 0 32)
        remap := es
        cfgs := (List.range 20).map (fun i => word ports (2 * i) &&& 0x1FFF)
        lanes := (List.range 20).map (fun i => word ports (2 * i + 1))
        cwy := word ports 40 &&& 0xFFFFFFFF
        clocks := (List.range 4).map (fun i => leAt clocks i 1)
        binds := binds
        dma := word dma 0 &&& 0x1F }
      else none
  | _, _, _, _, _, _ => none

/-! ## Remaps (R143, R144) -/

/-- Fields of a remap entry. -/
def remapTile (w : Word32) : Nat := fld w 0 8
def remapBank (w : Word32) : Nat := fld w 8 6
def remapRow (w : Word32) : Nat := fld w 14 8
def remapUsed (w : Word32) : Bool := bitOf w 31

/-- The entries in use of OTP DECK_REMAP and an image, each once (R144). -/
def mergedRemap (d : Dev) (es : List Word32) : List Word32 :=
  (remapWords ((otpData d 4).getD []) ++ es).filter remapUsed |>.eraseDups

/-- Whether remap entries are refused: a reserved field, more than two failing rows of a bank, or a spare row claimed twice. An entry
with BANK 48 to 63, which names no bank, is not refused and remaps nothing: R143 states no refusal of it (log 63). -/
def remapBad (d : Dev) (es : List Word32) : Bool :=
  let all := mergedRemap d es
  let same := fun (a b : Word32) => decide (remapTile a = remapTile b) && decide (remapBank a = remapBank b)
  (remapWords ((otpData d 4).getD []) ++ es).any (fun w => fld w 23 8 ≠ 0) ||
    all.any (fun a => decide (2 < ((all.filter (same a)).map remapRow).eraseDups.length)) ||
    all.any (fun a => all.any (fun b => same a b && bitOf a 22 == bitOf b 22 && decide (remapRow a ≠ remapRow b)))

/-! ## The checks of R507 -/

/-- The pier range of a section: FRAME_BASE, POOL_BASE and FRAME_LIMIT. -/
def secFrames (x : PartSec) : Nat × Nat × Nat := (fld x.frames 0 20, fld x.frames 20 20, fld x.frames 40 20)
/-- Whether a section's range is in force. -/
def secRange (x : PartSec) : Bool := bitOf x.frames 63

/-- FRAMES: alignment, the partition region and the pool of every range that is in force or whose partition is enabled, and overlaps of
those in force (R324). -/
def framesBad (l : List PartSec) : Bool :=
  let on := l.filter secRange
  (l.filter (fun x => secRange x || bitOf x.cfg 0)).any (fun x =>
    let (b, q, e) := secFrames x
    b % 512 ≠ 0 || q % 512 ≠ 0 || (e + 1) % 512 ≠ 0 || decide (b < 0x800) || decide (0xFBFFF < e) || decide (q < b) || decide (e + 1 < q)) ||
  on.any (fun x => on.any (fun y => x.p ≠ y.p &&
    decide ((secFrames x).1 ≤ (secFrames y).2.2) && decide ((secFrames y).1 ≤ (secFrames x).2.2)))

/-- Whether a lane map of eight 3-bit fields is a permutation (R403). -/
def lanesOk (w : Word64) (lo : Nat) : Bool := decide ((List.range 8).map (fun i => fld w (lo + 3 * i) 3)).Nodup

/-- Capacities of the four resources, GB/s (R456). -/
def capacities : List Nat := [6400, 768, 4000, 64]

/-- REGULATOR: the LC_RATEs of enabled partitions against the capacities, and a BURST of 0 (R460). `rates` are the PMG_REG values
of each enabled partition, `given` those of the image. -/
def regulatorsBad (rates given : List (List Word64)) : Bool :=
  (capacities.zipIdx).any (fun c => decide (c.1 < (rates.map (fun l => fld (l.getD c.2 0) 0 16)).sum)) ||
    given.any (fun l => l.any (fun w => fld w 16 6 = 0))

/-- SAVE_AREA of one section: its slots pass 127, or a save area is too small or outside the host-managed frames (R440, R507). -/
def saveAreaBad (x : PartSec) : Bool :=
  decide (128 < secBase x + secCount x) || x.slots.any (fun s =>
    decide (fld s 20 13 < 17 * secTiles x + 32) || decide (fld s 0 20 < (secFrames x).1) || decide ((secFrames x).2.1 < fld s 0 20 + fld s 20 13))

/-- TILES of one section: a mapped-out tile, or a GATE that leaves a tile without an ON slot or an ON bank group (R507). -/
def tilesBad (x : PartSec) (out : BitVec 256) : Bool :=
  x.tiles &&& out ≠ 0 || (x.tiles ≠ 0 && (decide (fld x.gate 0 6 = 63) || decide (fld x.gate 6 4 = 15)))

/-- The tiles that a structure image leaves mapped out, with OTP TILE_MAP (R506). -/
def outOf (d : Dev) (i : Img) : BitVec 256 := i.mapOut ||| BitVec.ofNat 256 (leAt ((otpData d 3).getD []) 0 32)

/-- The result code of a structure image's checks in the order of R507's codes, or none. -/
def siCode (d : Dev) (i : Img) : Option Nat :=
  let two := fun (f : PartSec → PartSec → Bool) => i.parts.any (fun x => i.parts.any (fun y => x.p ≠ y.p && f x y))
  if remapBad d i.remap then some 8
  else if framesBad i.parts then some 9
  else if i.lanes.any (fun w => !lanesOk w 16 || !lanesOk w 40) then some 10
  else if regulatorsBad ((i.parts.filter (fun x => bitOf x.cfg 0)).map (fun x => x.regs)) (i.parts.map (fun x => x.regs)) then some 11
  else if decide (2097152 < (i.parts.map (fun x => x.quota.toNat)).sum) then some 12
  else if i.parts.any saveAreaBad || two (fun x y => (List.range 128).any (fun c => secSlot x c && secSlot y c)) then some 13
  else if i.parts.any (fun x => tilesBad x (outOf d i)) || two (fun x y => x.tiles &&& y.tiles ≠ 0) then some 14
  else if i.clocks.any (fun c => decide (16 < c)) then some 15
  else if i.binds.any (fun b => decide (15 < fld b 0 7)) then some 16
  else none

/-- A structure image, accepted or refused with a code (R505 to R507). -/
def readSi (d : Dev) (bs : List Byte) : Except Nat Img :=
  if !headerOk bs 2 then .error 1
  else
    match (imgSections bs).bind imgOf with
    | none => .error 1
    | some i =>
      match imgRefused d bs 2 0x100000 with
      | some c => .error c
      | none =>
        match siCode d i with
        | some c => .error c
        | none => .ok i

/-! ## Partition images (R509) -/

/-- A partition image holds exactly one section, for its PARTITION. -/
def piOf (bs : List Byte) : Option PartSec :=
  match imgSections bs with
  | some [s] => if s.type = 1 then (partSec s.body).filter (fun x => x.p = leAt bs 6 1) else none
  | _ => none

/-- The tiles of a partition in force. -/
def tilesOf (d : Dev) (p : Nat) : BitVec 256 :=
  BitVec.ofNat 256 (((List.range 256).map (fun t => if tileIn d p t then 2 ^ t else 0)).sum)

/-- Whether a context slot is a partition's. -/
def slotOfPart (d : Dev) (p c : Nat) : Bool := decide (partResBase d p ≤ c) && decide (c < partResBase d p + partResCount d p)

/-- The result code of a partition image's section against the registers in force, or none (R507, R509). -/
def piCode (d : Dev) (x : PartSec) : Option Nat :=
  let others := (List.range 16).filter (fun q => q ≠ x.p)
  let regsOf := fun q => (List.range 4).map (partReg d q)
  let on := (others.filter (partEnabled d)).map regsOf ++ (if bitOf x.cfg 0 then [x.regs] else [])
  let added := x.tiles &&& ~~~(tilesOf d x.p)
  if !bitOf (partFrames d x.p) 63 then some 20
  else if x.frames ≠ partFrames d x.p || x.quota ≠ reg d (0x0600000 + 8 * x.p) then some 17
  else if regulatorsBad on [x.regs] then some 11
  else if saveAreaBad x || (List.range 128).any (fun c => secSlot x c && others.any (fun q => slotOfPart d q c)) ||
      (List.range 128).any (fun c => slotOfPart d x.p c && !secSlot x c && (recInSlot d c).isSome) then some 13
  else if tilesBad x d.boot.mapOut || others.any (fun q => added &&& tilesOf d q ≠ 0) then some 14
  else none

/-- A partition image for partition `p`, accepted or refused with a code (R505, R507, R509, R510). -/
def readPi (d : Dev) (p : Nat) (bs : List Byte) : Except Nat PartSec :=
  if !headerOk bs 3 then .error 1
  else
    match (piOf bs).filter (fun x => x.p = p) with
    | none => .error 1
    | some x =>
      match imgRefused d bs 3 0x10000 with
      | some c => .error c
      | none =>
        match piCode d x with
        | some c => .error c
        | none => .ok x

end Sys2Proof.Machine
end

