-- ==== Sys2Proof/Machine/Ports.lean ====
section
/-! DEFINITION. The logical ports: link bring-up (R404 to R406), loss of a link or of the port reference (R398, R552), and the
MACsec registers (R400, R402, R410). -/

namespace Sys2Proof.Machine

open Sys2Proof

/-- Where a logical port starts: AN for MEDIA CR, TRAINING for C2M (R405). -/
def portStart (d : Dev) (l : Nat) : PortState := if bitOf (portCfg d l) 3 then .an else .training

/-- Whether a logical port is to be brought up: it exists, its port is enabled, and the reference is present (R404, R405). -/
def portWanted (d : Dev) (l : Nat) : Bool := lportExists d l && bitOf (portCfg d l) 12 && d.clk.portRef

/-- A logical port changes state. Into or out of UP it records an event; out of UP it sets LOST (R405). Reaching FAILED ends
its first attempt, if that has not ended (R406). -/
def portGo (d : Dev) (l : Nat) (st : PortState) : Dev :=
  let p := getPort d l
  let p1 := { p with st := st, lost := p.lost || (p.st = .up && st ≠ .up), tried := p.tried || st = .failed }
  let d1 := setPort d l p1
  if st = .up && p.st ≠ .up then devRecord d1 0x0301 0 0 { unit := 7, detail := l }
  else if p.st = .up && st ≠ .up then devRecord d1 0x0302 0 0 { unit := 7, detail := l }
  else d1

/-- The logical ports that exist. -/
def allPorts (d : Dev) : List Nat := (List.range 160).filter (lportExists d)

/-- Every enabled logical port in DISABLED starts (R404, R406). -/
def portsStart (d : Dev) : Dev :=
  (allPorts d).foldl (fun d l => if (getPort d l).st = .disabled && portWanted d l then portGo d l (portStart d l) else d) d

/-- Every logical port goes to DISABLED (R404, R552). -/
def portsDisable (d : Dev) : Dev :=
  (allPorts d).foldl (fun d l => if (getPort d l).st = .disabled then d else portGo d l .disabled) d

/-- A bring-up event of a logical port in state `st`: the port goes to `st2`. -/
def portEvent (l : Nat) (st : PortState) (st2 : Dev → PortState) (d : Dev) : Dev :=
  if alive d && (getPort d l).st = st then portGo d l (st2 d) else d

/-- A bring-up state reaches its limit (R405). -/
def portTimeoutD (l : Nat) (d : Dev) : Dev :=
  match (getPort d l).st with
  | .an => portEvent l .an (fun _ => .failed) d
  | .training => portEvent l .training (fun _ => .failed) d
  | .aligning => portEvent l .aligning (fun _ => .failed) d
  | _ => d

/-- The port reference is lost (R404, R552). -/
def portRefLossD (d : Dev) : Dev :=
  portsDisable { d with clk := { d.clk with portRef := false } }

/-- The port reference returns. Ports start by themselves once firmware has enabled them, after the structure image is applied (R404 to
R406). -/
def portRefReturnD (d : Dev) : Dev :=
  let d1 := { d with clk := { d.clk with portRef := true } }
  if alive d && decide (7 ≤ d.boot.stage) then portsStart d1 else d1

/-- MSEC_CTRL of a logical port (R410). -/
def msecCtrlD (l : Nat) (v : Word64) (d : Dev) : Dev :=
  if pfOpen d 0x0C10000 then setPort d l { getPort d l with ctrl := v &&& 0x7FFFFFFFFFFFF } else d

/-- An SA slot after a write of its register `r` (offset `8 * r` in the slot): key material of a VALID slot is kept (R402,
R410). -/
def saWrite (a : SaSlot) (r : Nat) (v : Word64) : SaSlot :=
  if r < 6 && a.valid then a
  else
    match r with
    | 0 => { a with key0 := v }
    | 1 => { a with key1 := v }
    | 2 => { a with key2 := v }
    | 3 => { a with key3 := v }
    | 4 => { a with saltLo := v }
    | 5 => { a with saltHi := v.setWidth 32, ssci := (v >>> 32).setWidth 32 }
    | 6 => { a with nextPn := v }
    | _ => { a with an := v.setWidth 2, valid := bitOf v 2 }

/-- A write to an SA slot of a logical port: slots 0 and 1 transmit, 2 and 3 receive (R410). -/
def saSlotD (l s r : Nat) (v : Word64) (d : Dev) : Dev :=
  if pfOpen d 0x0C10000 then
    let p := getPort d l
    setPort d l { p with sa := tset p.sa s (saWrite (getSa p s) r v) }
  else d

/-- PORT_AN_DONE (R405): another result than the configured PHY is a failure. -/
def execPortAnDone (lport : Nat) (ok : Bool) (s : State) : Answer :=
  onObj lport 160 s (portEvent lport .an (fun _ => if ok then .training else .failed))
/-- PORT_TRAINING_DONE (R405). -/
def execPortTrainingDone (lport : Nat) (s : State) : Answer := onObj lport 160 s (portEvent lport .training (fun _ => .aligning))
/-- PORT_ALIGNED (R405). -/
def execPortAligned (lport : Nat) (s : State) : Answer := onObj lport 160 s (portEvent lport .aligning (fun _ => .up))
/-- PORT_STATE_TIMEOUT (R405). -/
def execPortStateTimeout (lport : Nat) (s : State) : Answer := onObj lport 160 s (portTimeoutD lport)
/-- PORT_FAILED_HOLD_END (R405): bring-up restarts. -/
def execPortFailedHoldEnd (lport : Nat) (s : State) : Answer :=
  onObj lport 160 s (portEvent lport .failed (fun d => portStart d lport))
/-- PORT_LINK_DOWN (R398, R405). -/
def execPortLinkDown (lport : Nat) (s : State) : Answer := onObj lport 160 s (portEvent lport .up (fun d => portStart d lport))
/-- PORT_REFERENCE_LOSS (R404, R552). -/
def execPortReferenceLoss (s : State) : Answer := onDev s portRefLossD
/-- PORT_REFERENCE_RETURN (R404). -/
def execPortReferenceReturn (s : State) : Answer := onDev s portRefReturnD
/-- MSEC_CTRL_WRITE (R400, R410). -/
def execMsecCtrlWrite (lport : Nat) (value : Word64) (s : State) : Answer := onObj lport 160 s (msecCtrlD lport value)
/-- SA_SLOT_WRITE (R402, R410). -/
def execSaSlotWrite (lport : Nat) (sa : BitVec 2) (reg : BitVec 3) (value : Word64) (s : State) : Answer :=
  onObj lport 160 s (saSlotD lport sa.toNat reg.toNat value)

end Sys2Proof.Machine
end

