-- ==== Sys2Proof/Machine/Boot.lean ====
section
/-! DEFINITION. The boot sequence and the structure image (R406, R472, R499 to R508, R517, R518, R581), quiesce (R516), and the reload
of a partition (R509 to R512). -/

namespace Sys2Proof.Machine

open Sys2Proof

/-- Set the boot stage. -/
def setStage (d : Dev) (n : Nat) : Dev := { d with boot := { d.boot with stage := BitVec.ofNat 4 n } }
/-- A stage fails with an error and goes on in stage `n` (R499). -/
def bootFail (d : Dev) (n code : Nat) : Dev :=
  { d with boot := { d.boot with stage := BitVec.ofNat 4 n, error := BitVec.ofNat 8 code } }

/-! ## ROM_INIT (R472, R499, R514, R517, R518, R581) -/

/-- ASCII labels of R517. -/
def dikLabel : List Byte := [0x57, 0x45, 0x48, 0x4F, 0x52, 0x4E, 0x2D, 0x44, 0x49, 0x4B]
def akLabel : List Byte := [0x57, 0x45, 0x48, 0x4F, 0x52, 0x4E, 0x2D, 0x41, 0x4B]

/-- Bytes 0 to 31 of a digest, as a seed. -/
def seedOf (h : BitVec 512) : BitVec 256 := h.setWidth 256

/-- The 2,592 bytes of a public key. -/
def pubKey (k : BitVec 256) : List Byte := sub (Config.mldsaPublic k) 0 2592

/-- Generations written, per OTP record (R533). -/
def gensWritten (d : Dev) : Tbl Word32 :=
  (List.range 7).map (fun r => (r, BitVec.ofNat 32 ((List.range 4).filter (fun i => (otpGen d r i).written)).length))

/-- Retire every live generation below a record's active one, as the ROM does after power was lost in a rollover (R515). -/
def retireOlder (d : Dev) (r : Nat) : Dev :=
  match otpActive d r with
  | none => d
  | some a => (List.range a).foldl (fun d i => if genLive r (otpGen d r i) then retireGen d r i else d) d

/-- ROM_INIT ends: the tollhouse is told of the OTP, and the ROM waits for LOAD (R499, R533). -/
def romDone (d : Dev) (vid sid : Nat) : Dev :=
  pushTap { d with
    hif := { d.hif with subVid := BitVec.ofNat 16 vid, subId := BitVec.ofNat 16 sid }
    boot := { d.boot with stage := 1, fruDone := true } } (.otpState (gensWritten d))

/-- One attempt to read the FRU EEPROM; after 20 retries, or with a bad MAGIC or CRC, the default IDs are used (R581). -/
def fruRead (d : Dev) (f : FruRead) : Dev :=
  match f with
  | .busy =>
    let n := d.boot.fruTries + 1
    let d1 := { d with boot := { d.boot with fruTries := n } }
    if 21 ≤ n then romDone d1 0x1EE9 0 else d1
  | .data bs =>
    if leAt bs 0 4 = 0x55524657 && crc32c (sub bs 0 0xFC) = BitVec.ofNat 32 (leAt bs 0xFC 4) then romDone d (leAt bs 6 2) (leAt bs 8 2)
    else romDone d 0x1EE9 0

/-- Whether the ROM runs: power is good, both resets are high and nothing has stopped the device (R558, R577). -/
def romRuns (d : Dev) : Bool :=
  d.clk.pwrGood && d.clk.resetN && d.clk.perstN && !d.clk.stopped && !d.clk.tripped && d.boot.stage = 0 && !d.boot.fruDone

/-- ROM_INIT. A device without an active IDENTITY_SEED has no identity to derive, which is taken as a failed OTP read (log 21). -/
def romInitD (selfTest : Bool) (f : FruRead) (d : Dev) : Dev :=
  if !romRuns d || d.boot.fruTries ≠ 0 then d
  else
    let d1 := (List.range 7).foldl retireOlder d
    match otpData d1 2 with
    | none => bootFail d 15 0x20
    | some seed =>
      if !selfTest then bootFail d 15 0x20
      else
        let k := seedOf (Config.sha3 (seed ++ dikLabel))
        let d2 := { d1 with
          boot := { d1.boot with mapOut := BitVec.ofNat 256 (leAt ((otpData d1 3).getD []) 0 32) }
          tru := { d1.tru with m := tset d1.tru.m 0 Config.romDigest, dik := k, deviceId := Config.sha3 (pubKey k) } }
        fruRead d2 f

/-- ROM_INIT (R499). -/
def execRomInit (selfTest : Bool) (fru : FruRead) (s : State) : Answer := onDev s (romInitD selfTest fru)

/-- FRU_EEPROM_RETRY (R581). -/
def execFruEepromRetry (fru : FruRead) (s : State) : Answer :=
  onDev s (fun d => if romRuns d && decide (d.boot.fruTries ≠ 0) then fruRead d fru else d)

/-! ## The firmware image (R500, R504, R505, R522) -/

/-- Whether the address and the length of an image may be loaded (R526). -/
def imageArgsOk (ba len most : Nat) : Bool := decide (ba % 4096 = 0) && decide (0 < len) && decide (len ≤ most)

/-- LOAD. -/
def bootLoadD (d : Dev) : Dev :=
  if !pfOpen d 0x0100000 || d.boot.stage ≠ 1 then d
  else if !imageArgsOk (reg d 0x0100008).toNat (reg d 0x0100010).toNat 0x1000000 then bootFail d 1 6
  else setStage d 2

/-- LOAD (R500). -/
def execLoad (s : State) : Answer := onDev s bootLoadD

/-- FW_START's work on SECURITY_VERSION: a gap in the thermometer is filled by a rollover, and ADVANCE_SVN sets the bits of the
image's version (R522). Result as of `setBits`. -/
def startSvn (d : Dev) (bs : List Byte) (readBack : Bool) : Dev × Nat :=
  let v := incValue d 6
  let gap := if v = svnBits (svnOf v) then (d, 0) else rollover d 6 (incBytes (svnBits (svnOf v))) readBack
  if gap.2 ≠ 0 then gap
  else if (leAt bs 7 1).testBit 0 && decide (svn gap.1 < leAt bs 12 1) then setBits gap.1 6 (svnBits (leAt bs 12 1)) readBack
  else gap

/-- The attestation key of this boot (R517). -/
def deriveAk (d : Dev) : Dev :=
  let seed := (otpData d 2).getD []
  { d with tru := { d.tru with ak := seedOf (Config.sha3 (seed ++ akLabel ++ digestBytes (tget d.tru.m 1 0) ++ toLe 1 (svn d))) } }

/-- The firmware starts: the security version, then pier bring-up, with every stack in progress (R342, R499). -/
def startFw (d : Dev) (bs : List Byte) (readBack : Bool) : Dev :=
  let r := startSvn { d with boot := { d.boot with fwStarted := true } } bs readBack
  if r.2 ≠ 0 then bootFail r.1 15 0x22 else setReg (setStage (deriveAk r.1) 5) 0x1000100 0x1111

/-- FIRMWARE_IMAGE_LOADED: the image is read, verified and measured, and the firmware starts. -/
def fwLoadedD (readBack : Bool) (d : Dev) : Dev :=
  if d.boot.stage ≠ 2 || d.clk.stopped then d
  else
    match hostGet d 0 (reg d 0x0100008).toNat (reg d 0x0100010).toNat with
    | none => bootFail d 1 7
    | some bs =>
      match fwCode d bs with
      | some c => bootFail d 1 c
      | none => startFw (extendM d 1 (imgDigest bs)) bs readBack

/-- FIRMWARE_IMAGE_LOADED (R505). -/
def execFirmwareImageLoaded (readBack : Bool) (s : State) : Answer := onDev s (fwLoadedD readBack)

/-! ## Pier (R340 to R342) -/

/-- PIER_BRINGUP_DONE: each stack is DONE, DONE_REPAIRED or FAILED. -/
def pierDoneD (codes : BitVec 16) (d : Dev) : Dev :=
  let st := (List.range 4).map (fun i => fld codes (4 * i) 4)
  if d.boot.stage ≠ 5 || d.clk.stopped || st.any (fun c => decide (c < 2) || decide (4 < c)) then d
  else if st.any (fun c => c = 4) then bootFail (setReg d 0x1000100 (codes.setWidth 64)) 15 0x21
  else setReg (setStage { d with pier := { d.pier with mem := [], poison := [] } } 6) 0x1000100 (codes.setWidth 64 ||| 0x10000)

/-- PIER_BRINGUP_DONE (R340). -/
def execPierBringupDone (codes : BitVec 16) (s : State) : Answer := onDev s (pierDoneD codes)

/-! ## The structure image (R506 to R508) -/

/-- The remap registers of a tile (R143, R144). -/
def remapsOf (l : List Word32) (t : Nat) : List Remap :=
  (l.filter (fun w => remapTile w = t)).map (fun w => { bank := BitVec.ofNat 6 (remapBank w), row := BitVec.ofNat 8 (remapRow w), spare := bitOf w 22 })

/-- The gate units of a tile under GATE after boot: gated units are OFF (R508). -/
def bootGates (gate : BitVec 10) : Tbl GateUnit :=
  ((List.range 10).filter (fun u => bitOf gate u)).map (fun u => (u, { st := .off, gated := true, dma := 0 }))

/-- Write a partition's registers: tiles, configuration, regulators, save areas (R461 to R465). -/
def writePart (d : Dev) (x : PartSec) : Dev :=
  let d1 := (List.range 4).foldl (fun d q =>
    setReg d (0x0200100 + 32 * x.p + 8 * q) ((x.tiles >>> (64 * q)).setWidth 64)) (setReg d (0x0200000 + 8 * x.p) x.cfg)
  let d2 := (x.regs.zipIdx).foldl (fun d w => setReg d (0x0200400 + 32 * x.p + 8 * w.2) w.1) d1
  (x.slots.zipIdx).foldl (fun d w => setReg d (0x0200800 + 8 * (secBase x + w.2)) w.1) d2

/-- The section of a tile. -/
def secOfTile (i : Img) (t : Nat) : Option PartSec := i.parts.find? (fun x => secTile x t)

/-- Apply an accepted structure image (R508): registers, gates, zeroed tiles with their remaps. -/
def applySi (d : Dev) (i : Img) : Dev :=
  let es := mergedRemap d i.remap
  let d1 := i.parts.foldl (fun d x => setReg (setReg (writePart d x) (0x1000000 + 8 * x.p) x.frames) (0x0600000 + 8 * x.p) x.quota) d
  let d2 := (List.range 20).foldl (fun d n =>
    setReg (setReg d (0x0C00000 + 16 * n) (i.cfgs.getD n 0)) (0x0C00008 + 16 * n) (i.lanes.getD n 0)) d1
  let d3 := setReg (setReg d2 0x0800000 i.cwy) 0x0A00000 i.dma
  { d3 with
    tiles := (List.range 256).map (fun t => (t, { Tile.init with
      remap := remapsOf es t
      gates := match secOfTile i t with | some x => bootGates x.gate | none => [] }))
    boot := { d3.boot with
      mapOut := outOf d i
      ceilings := i.clocks.zipIdx.map (fun c => (c.2, c.1))
      binds := (List.range 64).map (fun n => let b := i.binds.getD n 0
        (n, { part := BitVec.ofNat 4 (fld b 0 4), bound := bitOf b 7 }))
      lock := true, stage := 7 } }

/-- A refused structure image changes nothing but ERROR; STRUCTURE waits for LOAD_SI (R508). -/
def siRefuse (d : Dev) (code : Nat) : Dev := { d with boot := { d.boot with siRefused := true, error := BitVec.ofNat 8 code } }

/-- STRUCTURE_IMAGE_APPLY: the image is read, checked, applied and measured, and the ports are brought up (R406). -/
def siApplyD (d : Dev) : Dev :=
  let ba := (reg d 0x0100018).toNat
  let len := (reg d 0x0100020).toNat
  if d.boot.stage ≠ 6 || d.boot.siRefused || d.clk.stopped then d
  else if !imageArgsOk ba len 0x100000 then siRefuse d 6
  else
    match hostGet d 0 ba len with
    | none => siRefuse d 7
    | some bs =>
      match readSi d bs with
      | .error c => siRefuse d c
      | .ok i => portsStart (extendM (applySi d i) 2 (imgDigest bs))

/-- STRUCTURE_IMAGE_APPLY (R508). -/
def execStructureImageApply (s : State) : Answer := onDev s siApplyD

/-- LOAD_SI: a refused image is read again. -/
def loadSiD (d : Dev) : Dev :=
  if !pfOpen d 0x0100000 || d.boot.stage ≠ 6 || !d.boot.siRefused then d
  else if !imageArgsOk (reg d 0x0100018).toNat (reg d 0x0100020).toNat 0x100000 then siRefuse d 6
  else { d with boot := { d.boot with siRefused := false } }

/-- LOAD_SI (R508). -/
def execLoadSi (s : State) : Answer := onDev s loadSiD

/-- Whether every enabled logical port is UP or has ended its first attempt in FAILED (R406). -/
def portsTried (d : Dev) : Bool :=
  (allPorts d).all (fun l => !bitOf (portCfg d l) 12 || (getPort d l).st = .up || (getPort d l).tried)

/-- BOOT_READY. -/
def bootReadyD (d : Dev) : Dev := if d.boot.stage = 7 && portsTried d && alive d then setStage d 8 else d

/-- BOOT_READY (R406). -/
def execBootReady (s : State) : Answer := onDev s bootReadyD

/-! ## Quiesce (R516) -/

/-- QUIESCE_SET: every running context's slice ends and no context becomes RUNNING. -/
def quiesceSetD (d : Dev) : Dev :=
  if !pfOpen d 0x0100000 then d
  else (List.range 16).foldl (fun d p => endSlice d p (getPart d p).noGrace) { d with boot := { d.boot with quiesce := true } }

/-- QUIESCE_SET (R516). -/
def execQuiesceSet (s : State) : Answer := onDev s quiesceSetD

/-- QUIESCE_CLEAR: the choice of contexts resumes. -/
def quiesceClearD (d : Dev) : Dev :=
  if !pfOpen d 0x0100000 then d else coxSettle { d with boot := { d.boot with quiesce := false } }

/-- QUIESCE_CLEAR (R516). -/
def execQuiesceClear (s : State) : Answer := onDev s quiesceClearD

/-- STR_BOOT.QUIESCED (R516). -/
def quiesced (d : Dev) : Bool :=
  d.boot.quiesce && d.pmg.ctxs.all (fun p => match p.2.st with
    | .running => false
    | .saving => false
    | .swappingOut => false
    | .swappingIn => false
    | _ => true)

/-! ## Partition images (R509 to R512) -/

/-- The end of a reload with a result. -/
def endReload (d : Dev) (code : Nat) : Dev := { d with boot := { d.boot with piBusy := false, piResult := BitVec.ofNat 8 code } }

/-- PARTITION_RELOAD: the image is read and checked, and the partition is to come to a switch point: at the end of the running
step, with grace and pre-emption when the tile set stays (R510). -/
def reloadD (v : Word32) (d : Dev) : Dev :=
  let p := fld v 0 4
  let ba := (reg d 0x0100030).toNat
  let len := (reg d 0x0100038).toNat
  if !pfOpen d 0x0100040 || !alive d || !isReady d || !bitOf v 4 || d.boot.piBusy then d
  else
    let d1 := { d with boot := { d.boot with piBusy := true, piPart := BitVec.ofNat 4 p } }
    if !imageArgsOk ba len 0x10000 then endReload d1 6
    else
      match hostGet d 0 ba len with
      | none => endReload d1 7
      | some bs =>
        match readPi d p bs with
        | .error c => endReload d1 c
        | .ok x =>
          let d2 := setPart { d1 with boot := { d1.boot with piImage := bs } } p { getPart d1 p with reload := true }
          endSlice d2 p (x.tiles ≠ tilesOf d p || (getPart d p).noGrace)

/-- PARTITION_RELOAD (R510). -/
def execPartitionReload (value : Word32) (s : State) : Answer := onDev s (reloadD value)

/-- A gateable unit after an image that gates it or not (R148). -/
def gateUnit (g : GateUnit) (gated : Bool) : GateUnit :=
  if g.gated = gated then g
  else if gated then { g with gated := true, st := if g.st = .on then .draining else g.st }
  else unitDrained { g with gated := false, st := if g.st = .off then .waking else g.st }

/-- A tile after a GATE value. -/
def gateTile (x : Tile) (gate : BitVec 10) : Tile :=
  (List.range 10).foldl (fun (x : Tile) u => { x with gates := tset x.gates u (gateUnit (gateOf x u) (bitOf gate u)) }) x

/-- The registers, gates, removed tiles and loader results of a reload (R510 steps 3 and 4). -/
def applyPi (d : Dev) (p : Nat) (x : PartSec) (bs : List Byte) : Dev :=
  let gone := (partTiles d p).filter (fun t => !secTile x t)
  let old := (List.range 128).filter (slotOfPart d p)
  let d1 := writePart (old.foldl (fun d c => setReg d (0x0200800 + 8 * c) 0) d) x
  let d2 := gone.foldl (fun d t => setTile d t (freshTile (getTile d t))) d1
  let d3 := (partTiles d2 p).foldl (fun d t => setTile d t (gateTile (getTile d t) x.gate)) d2
  let d3 := (ctxsIn d3 p).foldl (fun d q => dropCtxEnts d q.1) d3
  let d4 := { d3 with cat := { d3.cat with checked := d3.cat.checked.filter (fun c => (getCtx d3 c.1.toNat).part.toNat ≠ p) } }
  extendM (limitBuckets d4 p) (3 + p) (imgDigest bs)

/-- The partition passes on after a reload, or is idle when the image disables it; a partition reset that waited runs (R455,
R512). -/
def afterReload (d : Dev) (p : Nat) (out : Option Nat) : Dev :=
  if (getPart d p).resetWait then resetPartition d p
  else if partEnabled d p then nextContext d p out
  else coxSettle (setPart (dropDeckModels d p) p { getPart d p with phase := .idle })

/-- PARTITION_RELOAD_APPLY: at the switch point a changed tile set is refused when a context has saved tile state (R511);
otherwise the new values are applied. -/
def reloadApplyD (d : Dev) : Dev :=
  let p := d.boot.piPart.toNat
  if !alive d || !d.boot.piBusy || !(getPart d p).reload then d
  else
    match switchPoint d p, piOf d.boot.piImage with
    | some out, some x =>
      let d1 := handOver (setPart d p { getPart d p with reload := false }) p out
      let changed := x.tiles ≠ tilesOf d p
      if changed && (ctxsIn d p).any (fun q => q.2.saved.isSome) then afterReload (endReload d1 18) p out
      else
        let d2 := if changed then dropDeckModels d1 p else d1
        let d3 := applyPi d2 p x d.boot.piImage
        afterReload (endReload { d3 with boot := { d3.boot with piCount := d3.boot.piCount + 1, piImage := [] } } 0) p out
    | _, _ => d

/-- PARTITION_RELOAD_APPLY (R510). -/
def execPartitionReloadApply (s : State) : Answer := onDev s reloadApplyD

end Sys2Proof.Machine
end

