-- ==== Sys2Proof/Machine/Trust.lean ====
section
/-! DEFINITION. The root of trust: its mailbox, identity, attestation, challenges, OTP commands and the debug unlock (R516 to R529). -/

namespace Sys2Proof.Machine

open Sys2Proof

/-! ## The mailbox (R528, R529) -/

/-- The mailbox's status after a command. -/
def truDone (d : Dev) (code n : Nat) : Dev :=
  { d with tru := { d.tru with result := BitVec.ofNat 8 code, respLen := BitVec.ofNat 16 n } }

/-- The mailbox buffer, TRU_MBX_BA. -/
def truBa (d : Dev) : Nat := (reg d 0x0F00008).toNat

/-- A signature's 4,627 bytes over a message by a private key (R7). -/
def signed (key : BitVec 256) (msg : List Byte) : List Byte := sub (Config.mldsaSign key (digestBytes (Config.sha3 msg))) 0 4627

/-- Write a response at BA + 16,384 and end the command, DMA_ERROR when the write fails. -/
def truRespond (d : Dev) (bs : List Byte) : Dev :=
  match hostPut d 0 (truBa d + 0x4000) bs with
  | none => truDone d 10 0
  | some d1 => truDone d1 0 bs.length

/-- Whether the mailbox takes GET_IDENTITY, ATTEST and CHALLENGE: from FW_START onward (R528). -/
def truOpen (d : Dev) : Bool := pfOpen d 0x0F00010 && d.boot.fwStarted

/-- The request's `n` bytes, or DMA_ERROR. -/
def truRequest (d : Dev) (n : Nat) (act : List Byte → Dev) : Dev :=
  match hostGet d 0 (truBa d) n with
  | none => truDone d 10 0
  | some bs => act bs

/-- The LIFECYCLE byte of a report (R519). -/
def lifecycle (d : Dev) : List Byte := toLe 1 (fld (incValue d 5) 0 3)

/-- GET_IDENTITY (R520). -/
def getIdentityD (d : Dev) : Dev :=
  if !truOpen d then d
  else if d.tru.keysErased then truDone d 8 0
  else
    let ak := pubKey d.tru.ak
    let st := digestBytes (tget d.tru.m 0 0) ++ digestBytes (tget d.tru.m 1 0) ++ toLe 1 (svn d) ++ lifecycle d ++ List.replicate 6 0
    truRespond d (pubKey d.tru.dik ++ ak ++ st ++ signed d.tru.dik (ak ++ st))

/-- GET_IDENTITY (R520). -/
def execGetIdentity (s : State) : Answer := onDev s getIdentityD

/-- LIFECYCLE generations with DEBUG_OPENED set (R519). -/
def debugHistory (d : Dev) : Nat :=
  ((List.range 4).filter (fun i => (otpGen d 5 i).written && bitOf (incOf (otpGen d 5 i).data) 2)).length

/-- The first 1,440 bytes of an attestation report (R519). -/
def attestBody (d : Dev) (nonce : List Byte) : List Byte :=
  let gens := ((List.range 7).map (fun r => ((otpActive d r).getD 0) * 4 ^ r)).sum
  toLe 2 1 ++ toLe 2 0 ++ toLe 4 6067 ++ nonce ++ digestBytes d.tru.deviceId ++ toLe 8 d.now.toNat
    ++ toLe 1 (svn d) ++ lifecycle d ++ toLe 1 (debugHistory d) ++ toLe 2 gens ++ toLe 1 (b2n (otpActive d 1).isNone)
    ++ toLe 2 0 ++ (List.range 20).flatMap (fun i => digestBytes (tget d.tru.m i 0)) ++ toLe 8 0

/-- ATTEST. -/
def attestD (d : Dev) : Dev :=
  if !truOpen d then d
  else if d.tru.keysErased then truDone d 8 0
  else truRequest d 64 (fun nonce =>
    let b := attestBody d nonce
    truRespond d (b ++ signed d.tru.ak b))

/-- ATTEST (R519). -/
def execAttest (s : State) : Answer := onDev s attestD

/-- CHALLENGE: a fresh value from the TRNG takes the place of an earlier one (R521). -/
def challengeD (d : Dev) : Dev :=
  if !truOpen d then d
  else
    let c := Config.trng d.tru.trng
    let d1 := { d with tru := { d.tru with trng := d.tru.trng + 1 } }
    match hostPut d1 0 (truBa d + 0x4000) (digestBytes c ++ digestBytes d.tru.deviceId ++ toLe 8 d.now.toNat) with
    | none => truDone d1 10 0
    | some d2 => truDone { d2 with tru := { d2.tru with challenge := some c } } 0 136

/-- CHALLENGE (R521). -/
def execChallenge (s : State) : Answer := onDev s challengeD

/-- CHALLENGE_LAPSE (R521). -/
def execChallengeLapse (s : State) : Answer := onDev s (fun d => { d with tru := { d.tru with challenge := none } })

/-! ## Signed commands (R516, R521) -/

/-- A signed request: its argument, signer key and signature. -/
structure SignedReq where
  arg : List Byte
  key : List Byte
  sig : List Byte
deriving DecidableEq, Repr

/-- Split a request whose argument has `n` bytes. -/
def splitReq (n : Nat) (bs : List Byte) : SignedReq := { arg := sub bs 0 n, key := sub bs n 2592, sig := sub bs (n + 2592) 4627 }

/-- The bytes that a command's signature is over: OP, CHALLENGE, DEVICE_ID and ARG (R521). -/
def signedBytes (d : Dev) (op : Nat) (c : BitVec 512) (arg : List Byte) : List Byte :=
  toLe 1 op ++ digestBytes c ++ digestBytes d.tru.deviceId ++ arg

/-- The checks of a signed command, in the order format, quiesce, `busy`, challenge, key, signature; then the challenge is used
and `act` runs on the bytes signed (R521, R524, R529). `hash` is the hash that the signer key must have. -/
def signedCmd (d : Dev) (op : Nat) (q : SignedReq) (argOk busy : Bool) (hash : Option (List Byte)) (act : Dev → List Byte → Dev) : Dev :=
  if !argOk then truDone d 1 0
  else if !quiesced d then truDone d 4 0
  else if busy then truDone d 5 0
  else
    match d.tru.challenge with
    | none => truDone d 9 0
    | some c =>
      let m := signedBytes d op c q.arg
      if hash ≠ some (digestBytes (Config.sha3 q.key)) then truDone d 3 0
      else if !Config.mldsaVerify q.key (digestBytes (Config.sha3 m)) q.sig then truDone d 2 0
      else act { d with tru := { d.tru with challenge := none } } m

/-- A signed command of READY with an argument of `n` bytes (R528). -/
def truSigned (d : Dev) (n : Nat) (act : SignedReq → Dev) : Dev :=
  if !pfOpen d 0x0F00010 || !isReady d then d else truRequest d (n + 2592 + 4627) (fun bs => act (splitReq n bs))

/-- An OTP command that succeeded: M19 is extended and the tollhouse is told (R518, R533). -/
def otpDone (m : List Byte) (r : Dev × Nat) : Dev :=
  if r.2 ≠ 0 then truDone r.1 r.2 0
  else
    let d1 := extendM r.1 19 (Config.sha3 m)
    truDone (pushTap d1 (.otpState (gensWritten d1))) 0 0

/-- The hash that KEY_SEL selects: the vendor's or the active owner's (R524, R528). -/
def keyHash (d : Dev) (sel : Nat) : Option (List Byte) := if sel = 0 then otpData d 0 else otpData d 1

/-- OTP_OWNER: KEY_SEL 0 only while no owner generation is active (R528). -/
def otpOwnerD (readBack : Bool) (d : Dev) : Dev :=
  truSigned d 72 (fun q =>
    let sel := leAt q.arg 0 1
    let hash := if sel = 0 && (otpActive d 1).isSome then none else keyHash d sel
    signedCmd d 0x11 q (decide (sel ≤ 1) && allZero (sub q.arg 1 7)) false hash (fun d m =>
      otpDone m (rollover d 1 (sub q.arg 8 64) readBack)))

/-- OTP_OWNER (R528). -/
def execOtpOwner (readBack : Bool) (s : State) : Answer := onDev s (otpOwnerD readBack)

/-- OTP_SVN: the version never falls (R522). -/
def otpSvnD (readBack : Bool) (d : Dev) : Dev :=
  truSigned d 8 (fun q =>
    let n := leAt q.arg 0 1
    signedCmd d 0x12 q (decide (n ≤ 64) && allZero (sub q.arg 1 7)) false (otpData d 0) (fun d m =>
      if n ≤ svn d then truDone d 11 0 else otpDone m (setBits d 6 (svnBits n) readBack)))

/-- OTP_SVN (R522). -/
def execOtpSvn (readBack : Bool) (s : State) : Answer := onDev s (otpSvnD readBack)

/-- REFURBISH: a new IDENTITY_SEED from the TRNG, then a LIFECYCLE generation with SHIPPED alone (R523). -/
def refurbish (d : Dev) (readBack : Bool) : Dev × Nat :=
  let r := rollover { d with tru := { d.tru with trng := d.tru.trng + 1 } } 2 (digestBytes (Config.trng d.tru.trng)) readBack
  if r.2 ≠ 0 then r else rollover r.1 5 (incBytes 1) readBack

/-- OTP_LIFECYCLE: 1 SHIP, 2 DECOMMISSION, 3 REFURBISH (R523). -/
def otpLifecycleD (readBack : Bool) (d : Dev) : Dev :=
  truSigned d 8 (fun q =>
    let op := leAt q.arg 0 1
    signedCmd d 0x13 q (decide (1 ≤ op) && decide (op ≤ 3) && allZero (sub q.arg 1 7)) false (otpData d 0) (fun d m =>
      if op = 1 && bitOf (incValue d 5) 0 then truDone d 11 0
      else otpDone m (if op = 1 then setBits d 5 1 readBack else if op = 2 then setBits d 5 2 readBack else refurbish d readBack)))

/-- OTP_LIFECYCLE (R523). -/
def execOtpLifecycle (readBack : Bool) (s : State) : Answer := onDev s (otpLifecycleD readBack)

/-! ## DEBUG_UNLOCK (R524, R525) -/

/-- Clear an SA slot: key material and VALID (R525). -/
def clearSa (a : SaSlot) : SaSlot := { a with key0 := 0, key1 := 0, key2 := 0, key3 := 0, saltLo := 0, saltHi := 0, valid := false }

/-- Steps 1 to 3: keys, SA slots, pier outside the firmware region and every tile's memory (R525). -/
def eraseAll (d : Dev) : Dev :=
  { d with
    tru := { d.tru with dik := 0, ak := 0, keysErased := true }
    ports := tmap d.ports (fun _ p => { p with sa := tmap p.sa (fun _ a => clearSa a) })
    pier := { d.pier with
      mem := d.pier.mem.filter (fun c => decide (c.1 < 0x8000000))
      poison := d.pier.poison.filter (fun w => decide (16 * w < 0x8000000))
      used := [], limbo := [], zeroed := [] }
    key := { d.key with nodes := [], lru := [], parked := [], reports := [], segFrames := [] }
    tiles := tmap d.tiles (fun _ x => { x with mem := [], bad := [], fixups := [] }) }

/-- Step 4: DEBUG_OPENED in the active LIFECYCLE generation, or by a rollover when that does not read back (R525). -/
def recordOpening (d : Dev) (inPlace roll : Bool) : Dev × Nat :=
  let r := setBits d 5 4 inPlace
  if r.2 = 0 then r
  else
    let r2 := rollover d 5 (incBytes (incValue d 5 ||| 4)) roll
    if r2.2 = 0 then r2 else (r2.1, 7)

/-- Steps 1 to 6: everything is erased, the opening is recorded, and the ports of SCOPE open (R525). -/
def openDebug (d : Dev) (m : List Byte) (scope : Nat) (inPlace roll : Bool) : Dev :=
  let r := recordOpening (eraseAll d) inPlace roll
  if r.2 ≠ 0 then truDone r.1 7 0
  else
    let d1 := extendM r.1 19 (Config.sha3 m)
    truDone { d1 with tru := { d1.tru with
      jtagOpen := d1.tru.jtagOpen || scope.testBit 0, dbgOpen := d1.tru.dbgOpen || scope.testBit 1 } } 0 0

/-- DEBUG_UNLOCK: SCOPE [0] JTAG, [1] debug port. -/
def debugUnlockD (inPlace roll : Bool) (d : Dev) : Dev :=
  truSigned d 8 (fun q =>
    let scope := leAt q.arg 0 1
    let sel := leAt q.arg 1 1
    let busy := d.pmg.ctxs.any (fun p => p.2.st ≠ .free) || !d.cox.models.isEmpty
    signedCmd d 0x10 q (decide (1 ≤ scope) && decide (scope ≤ 3) && decide (sel ≤ 1) && allZero (sub q.arg 2 6)) busy (keyHash d sel)
      (fun d m => openDebug d m scope inPlace roll))

/-- DEBUG_UNLOCK (R525). -/
def execDebugUnlock (inPlace rollover : Bool) (s : State) : Answer := onDev s (debugUnlockD inPlace rollover)

end Sys2Proof.Machine
end

