-- ==== Sys2Proof/Machine/Toll.lean ====
section
/-! DEFINITION. The tollhouse: taps, counters, its mailbox and reports, calendar time, the ledger (R530 to R548). -/

namespace Sys2Proof.Machine

open Sys2Proof

/-! ## Counter sets (R536, R538): key 0 the device, 1 + p partition p, 32 + f function f -/

/-- A counter set. -/
def getSet (d : Dev) (k : Nat) : CSet := tget d.toll.sets k CSet.init

/-- The counters of a set in R536's order. -/
def counters (s : CSet) : List (BitVec 96) := [s.prompt, s.verify, s.generated, s.kvBytes, s.wBytes, s.tileTime]

/-- A counter after an addition, and whether it passed its end (R538). -/
def addCtr (c : BitVec 96) (n : Nat) : BitVec 96 × Bool :=
  if 2 ^ 96 ≤ c.toNat + n then (BitVec.allOnes 96, true) else (c + BitVec.ofNat 96 n, false)

/-- What an event adds: the six counters in R536's order. -/
structure Adds where
  prompt    : Nat := 0
  verify    : Nat := 0
  generated : Nat := 0
  kvBytes   : Nat := 0
  wBytes    : Nat := 0
  tileTime  : Nat := 0
deriving DecidableEq, Repr

/-- A set after an event. -/
def addSet (s : CSet) (a : Adds) : CSet :=
  let p := addCtr s.prompt a.prompt
  let v := addCtr s.verify a.verify
  let g := addCtr s.generated a.generated
  let k := addCtr s.kvBytes a.kvBytes
  let w := addCtr s.wBytes a.wBytes
  let t := addCtr s.tileTime a.tileTime
  { prompt := p.1, verify := v.1, generated := g.1, kvBytes := k.1, wBytes := w.1, tileTime := t.1
    sat := s.sat ||| BitVec.ofNat 6 (b2n p.2 + 2 * b2n v.2 + 4 * b2n g.2 + 8 * b2n k.2 + 16 * b2n w.2 + 32 * b2n t.2) }

/-- The first saturation of a set: EVENT, and a record in the device event ring (R538). -/
def noteSat (d : Dev) (before after : CSet) : Dev :=
  if before.sat = 0 && after.sat ≠ 0 then
    let d1 := { d with toll := { d.toll with event := true } }
    if d1.clk.stopped then d1 else devRecord d1 0x0401 0 0 { unit := 8 }
  else d

/-- Add to a set. -/
def addTo (d : Dev) (a : Adds) (k : Nat) : Dev :=
  let s := getSet d k
  noteSat { d with toll := { d.toll with sets := tset d.toll.sets k (addSet s a) } } s (addSet s a)

/-- The entry of a model, which takes an event's names when it has none (R537). -/
def getEntry (d : Dev) (p : PartId) (fn : Func) (m vid : BitVec 14) : MEntry :=
  tget d.toll.models m.toNat { model := m, fn := fn, part := p, vid := vid, regSeq := 0, set := CSet.init }

/-- An event is added to the device set, its partition's, its function's and its model's entry (R536). -/
def count (d : Dev) (p : PartId) (fn : Func) (m vid : BitVec 14) (a : Adds) : Dev :=
  let d1 := [0, 1 + p.toNat, 32 + fn.toNat].foldl (fun d k => addTo d a k) d
  let e := getEntry d1 p fn m vid
  noteSat { d1 with toll := { d1.toll with models := tset d1.toll.models m.toNat { e with set := addSet e.set a } } } e.set (addSet e.set a)

/-- Whether a set holds counts. -/
def holdsCounts (s : CSet) : Bool := (counters s).any (fun c => c ≠ 0)

/-- A REGISTER event: an entry that holds counts moves to the closed list, and the entry restarts (R537). -/
def register (d : Dev) (p : PartId) (fn : Func) (m vid : BitVec 14) : Dev :=
  let t := d.toll
  let n := t.regSeq + 1
  let old := match tfind t.models m.toNat with
    | some e => if holdsCounts e.set then [e] else []
    | none => []
  let l := t.closed ++ old
  let lost := l.length - 4096
  { d with toll := { t with
      regSeq := n, closed := l.drop lost, closedLost := t.closedLost + BitVec.ofNat 32 lost
      models := tset t.models m.toNat { model := m, fn := fn, part := p, vid := vid, regSeq := n, set := CSet.init } } }

/-! ## Taking tap events (R533, R535) -/

/-- Take the front event off the tap link; one that follows a gap in the sequence counts an error. -/
def popTap (d : Dev) : Dev :=
  let t := d.toll
  let n := t.tapSeqOut - BitVec.ofNat 16 t.taps.length
  { d with toll := { t with taps := t.taps.tail, tapSeqIn := n + 1, tapErrors := if n = t.tapSeqIn then t.tapErrors else t.tapErrors + 1 } }

/-- Events at the front that fail their CRC are errors and are not counted; `k` of them at most. -/
def dropBad (d : Dev) (k : Nat) : Dev :=
  match k with
  | 0 => d
  | j + 1 =>
    match d.toll.taps with
    | .bad :: _ =>
      let d1 := popTap d
      dropBad { d1 with toll := { d1.toll with tapErrors := d1.toll.tapErrors + 1 } } j
    | _ => d

/-- Take the front event when `f` knows it. -/
def takeTap (d : Dev) (f : TapEvent → Option (Dev → Dev)) : Dev :=
  match d.toll.taps with
  | [] => d
  | e :: _ =>
    match f e with
    | none => d
    | some g => if !d.toll.ready then d else (fun (d : Dev) => dropBad d d.toll.taps.length) (g (popTap d))

/-- TAP_STEP of a partition. -/
def tapStepD (p : Nat) (d : Dev) : Dev :=
  takeTap d (fun e => match e with
    | .step q fn m vid a b c t => if q.toNat = p then some (fun d => count d q fn m vid { prompt := a, verify := b, generated := c, tileTime := t }) else none
    | _ => none)
/-- TAP_STEP (R534). -/
def execTapStep (p : PartId) (s : State) : Answer := onDev s (tapStepD p.toNat)

/-- TAP_EGRESS. -/
def tapEgressD (d : Dev) : Dev :=
  takeTap d (fun e => match e with
    | .egress q fn m vid n => some (fun d => count d q fn m vid { kvBytes := n })
    | _ => none)
/-- TAP_EGRESS (R533). -/
def execTapEgress (s : State) : Answer := onDev s tapEgressD

/-- TAP_INGRESS. -/
def tapIngressD (d : Dev) : Dev :=
  takeTap d (fun e => match e with
    | .ingress q fn m vid n => some (fun d => count d q fn m vid { wBytes := n })
    | _ => none)
/-- TAP_INGRESS (R533). -/
def execTapIngress (s : State) : Answer := onDev s tapIngressD

/-- TAP_REGISTER of a model. -/
def tapRegisterD (model : Nat) (d : Dev) : Dev :=
  takeTap d (fun e => match e with
    | .register q fn m vid => if m.toNat = model then some (fun d => register d q fn m vid) else none
    | _ => none)
/-- TAP_REGISTER (R537). -/
def execTapRegister (model : BitVec 14) (s : State) : Answer := onDev s (tapRegisterD model.toNat)

/-- TAP_OTP_STATE: the ledger's OTP_GENERATIONS (R545). -/
def tapOtpD (d : Dev) : Dev :=
  takeTap d (fun e => match e with
    | .otpState g => some (fun d => { d with toll := { d.toll with ledger := { d.toll.ledger with otpGens := g } } })
    | _ => none)
/-- TAP_OTP_STATE (R533). -/
def execTapOtpState (s : State) : Answer := onDev s tapOtpD

/-- TAP_ACCUMULATOR_SEND, with whether the event's CRC32C will match at the tollhouse. -/
def accSendD (k : Nat) (crcOk : Bool) (d : Dev) : Dev :=
  if d.clk.stopped || (tfind d.cwy.acc k).isNone then d
  else if crcOk then sendAcc d k
  else
    let d1 := pushTap { d with cwy := { d.cwy with acc := tdel d.cwy.acc k } } .bad
    if d1.toll.ready then dropBad d1 d1.toll.taps.length else d1
/-- TAP_ACCUMULATOR_SEND (R535). -/
def execTapAccumulatorSend (acc : BitVec 6) (crcOk : Bool) (s : State) : Answer := onDev s (accSendD acc.toNat crcOk)

/-! ## The ledger (R532, R545, R546) -/

/-- Write a ledger record with the device and partition sets as its checkpoint; the 128 places are written in rotation, so the oldest
record gives way (R546). -/
def writeLedger (d : Dev) : Dev :=
  let l := { d.toll.ledger with checkpoint := (List.range 17).map (fun k => (k, getSet d k)) }
  { d with toll := { d.toll with ledger := l, nvm := (l :: d.toll.nvm).take 128 } }

/-- TOLL_POWER_ON: a new epoch. The last record in force becomes CARRY; with none, or a failed self-test, the seal is broken. -/
def tollOnD (selfTest : Bool) (d : Dev) : Dev :=
  if !d.clk.railsUp || d.toll.ready then d
  else
    let old := d.toll.nvm.headD Ledger.init
    let l := { old with bootCount := old.bootCount + 1, sealBroken := old.sealBroken || d.toll.nvm.isEmpty || !selfTest }
    let d1 := writeLedger { d with toll := { d.toll with
      ready := true, epoch := l.bootCount, ledger := l, carry := old.checkpoint, carryS := old.poweredS
      timeState := if l.timeSet then 2 else 0
      sets := [], models := [], closed := [], closedLost := 0, tapErrors := 0, regSeq := 0, reportSeq := 0 } }
    dropBad d1 d1.toll.taps.length
/-- TOLL_POWER_ON (R532). -/
def execTollPowerOn (selfTest : Bool) (s : State) : Answer := onDev s (tollOnD selfTest)

/-- LEDGER_WRITE (R546). -/
def execLedgerWrite (s : State) : Answer := onDev s (fun d => if d.toll.ready then writeLedger d else d)

/-- POWERED_SECOND (R545). -/
def execPoweredSecond (s : State) : Answer :=
  onDev s (fun d => if d.toll.ready then
    { d with toll := { d.toll with ledger := { d.toll.ledger with poweredS := d.toll.ledger.poweredS + 1 } } } else d)

/-! ## The mailbox (R539, R542, R548) -/

/-- Whether the tollhouse knows an opcode (R539). -/
def tollOp (op : Nat) : Bool := op = 1 || op = 2 || op = 3 || op = 0x10 || op = 0x11

/-- Commands with an unknown opcode end BAD_REQUEST when their turn comes; `k` of them at most. -/
def dropUnknown (d : Dev) (k : Nat) : Dev :=
  match k with
  | 0 => d
  | j + 1 =>
    match d.toll.queue with
    | (fn, op) :: _ => if tollOp op.toNat then d else dropUnknown (endMbx d fn.toNat 1 0) j
    | [] => d

/-- The end of a command: RESULT and response bytes, and the next command's turn. -/
def tollDone (d : Dev) (fn code n : Nat) : Dev :=
  let d1 := endMbx d fn code n
  dropUnknown d1 d1.toll.queue.length

/-- A write of TOL_MBX_CMD: ignored while BUSY; otherwise the command waits its turn (R548). -/
def tollPost (d : Dev) (fn : Nat) (op : BitVec 8) : Dev :=
  let m := getMbx d fn
  if m.busy then d
  else
    let d1 := { d with toll := { d.toll with
      queue := d.toll.queue ++ [(BitVec.ofNat 6 fn, op)], mbx := tset d.toll.mbx fn { m with busy := true } } }
    if d1.toll.ready then dropUnknown d1 d1.toll.queue.length else d1

/-- Whether function `fn`'s command `op` is the one to be served. -/
def tollTurn (d : Dev) (fn op : Nat) : Bool :=
  d.toll.ready && !d.clk.stopped && (match d.toll.queue with
    | (f, o) :: _ => decide (f.toNat = fn) && decide (o.toNat = op)
    | [] => false)

/-- TOL_MBX_BA of a function. -/
def tollBa (d : Dev) (fn : Nat) : Nat := (fnReg d fn 0x0E00000 0x3000).toNat

/-- Write a response and end the command; DMA_ERROR when the write fails. -/
def tollRespond (d : Dev) (fn : Nat) (bs : List Byte) : Dev :=
  match hostPut d fn (tollBa d fn + 0x4000) bs with
  | none => tollDone d fn 6 0
  | some d1 => tollDone d1 fn 0 bs.length

/-- The request's `n` bytes, or DMA_ERROR. -/
def tollRequest (d : Dev) (fn n : Nat) (act : List Byte → Dev) : Dev :=
  match hostGet d fn (tollBa d fn) n with
  | none => tollDone d fn 6 0
  | some bs => act bs

/-- TOLL_ID, SHA3-512 of the tollhouse's public key (R539). -/
def tollId : List Byte := digestBytes (Config.sha3 (pubKey Config.tollSeed))

/-- GET_KEY. -/
def getKeyD (fn : Nat) (d : Dev) : Dev := if tollTurn d fn 1 then tollRespond d fn (pubKey Config.tollSeed ++ tollId) else d
/-- GET_KEY (R539). -/
def execGetKey (fn : Func) (s : State) : Answer := onDev s (getKeyD fn.toNat)

/-- The body of an entry (R541). -/
def entryBytes (model vid fn part kind regSeq : Nat) (s : CSet) : List Byte :=
  toLe 2 model ++ toLe 2 vid ++ toLe 1 fn ++ toLe 1 part ++ toLe 1 s.sat.toNat ++ toLe 1 kind ++ toLe 4 regSeq ++ toLe 4 0
    ++ (counters s).flatMap (fun c => toLe 12 c.toNat)

/-- A model or closed entry; a VF is not shown device model IDs (R478, R541). -/
def modelBytes (vf : Bool) (kind : Nat) (e : MEntry) : List Byte :=
  entryBytes (if vf then 0 else e.model.toNat) e.vid.toNat e.fn.toNat e.part.toNat kind e.regSeq.toNat e.set

/-- The model entries that a function sees in an ID range, in ascending ID order (R540). -/
def seenEntries (d : Dev) (fn first n : Nat) : List MEntry :=
  let id := fun (e : MEntry) => if fn = 0 then e.model.toNat else e.vid.toNat
  let l := (d.toll.models.map (fun p => p.2)).filter (fun e => (fn = 0 || decide (e.fn.toNat = fn)) && decide (first ≤ id e) && decide (id e < first + n))
  (sortBy (fun (a b : Nat × MEntry) => decide (a.1 < b.1)) (l.map (fun e => (id e * 16384 + e.model.toNat, e)))).map (fun p => p.2)

/-- The ledger as a report's body (R545). -/
def ledgerBytes (t : Toll) : List Byte :=
  let l := t.ledger
  toLe 8 l.poweredS.toNat ++ toLe 4 l.bootCount.toNat ++ (List.range 7).flatMap (fun r => toLe 4 (tget l.otpGens r 0).toNat)
    ++ toLe 8 l.trustedTime.toNat ++ toLe 8 l.trustedAt.toNat ++ toLe 1 (b2n l.sealBroken) ++ toLe 1 l.refurbs.toNat ++ toLe 6 0
    ++ (List.range 17).flatMap (fun k => (counters (tget t.carry k CSet.init)).flatMap (fun c => toLe 12 c.toNat)) ++ toLe 8 t.carryS.toNat

/-- The entries of a report's body, or the ledger: bytes and ENTRIES (R540). -/
def reportBody (d : Dev) (fn scope first n : Nat) : List Byte × Nat :=
  match scope with
  | 0 => (entryBytes 0 0 0 0x80 0 0 (getSet d 0) ++ (List.range 16).flatMap (fun p => entryBytes 0 0 0 p 1 0 (getSet d (1 + p))), 17)
  | 1 => (entryBytes 0 0 fn 0 2 0 (getSet d (32 + fn)), 1)
  | 2 => let l := (seenEntries d fn first n).take 128
    (l.flatMap (modelBytes (fn ≠ 0) 3), l.length)
  | 3 => let l := (d.toll.closed.drop first).take n
    (l.flatMap (modelBytes false 4), l.length)
  | _ => (ledgerBytes d.toll, 0)

/-- CALENDAR (R544). -/
def calendar (t : Toll) : Word64 := if t.timeState = 0 then 0 else t.ledger.trustedTime + (t.ledger.poweredS - t.ledger.trustedAt)

/-- A report without its signature (R540). -/
def reportBytes (d : Dev) (fn scope : Nat) (nonce : List Byte) (first n : Nat) : List Byte :=
  let t := d.toll
  let b := reportBody d fn scope first n
  toLe 2 1 ++ toLe 1 scope ++ toLe 1 t.timeState.toNat ++ toLe 4 (192 + b.1.length + 4627) ++ nonce ++ tollId
    ++ toLe 4 t.epoch.toNat ++ toLe 4 t.reportSeq.toNat ++ toLe 8 t.ledger.poweredS.toNat ++ toLe 8 (calendar t).toNat
    ++ toLe 4 t.tapErrors.toNat ++ toLe 4 t.closedLost.toNat ++ toLe 1 (b2n t.ledger.sealBroken) ++ toLe 1 t.ledger.refurbs.toNat
    ++ toLe 2 b.2 ++ toLe 4 fn ++ List.replicate 48 0 ++ b.1

/-- REPORT: a signed snapshot. COUNT is judged where it is used (log 22). -/
def tollReportD (fn : Nat) (d : Dev) : Dev :=
  if !tollTurn d fn 2 then d
  else tollRequest d fn 44 (fun q =>
    let scope := leAt q 0 1
    let n := leAt q 42 2
    if 4 < scope || !allZero (sub q 1 7) || ((scope = 2 || scope = 3) && (n = 0 || decide (128 < n))) then tollDone d fn 1 0
    else if fn ≠ 0 && scope ≠ 1 && scope ≠ 2 then tollDone d fn 5 0
    else
      let d1 := { d with toll := { d.toll with reportSeq := d.toll.reportSeq + 1 } }
      let b := reportBytes d1 fn scope (sub q 8 32) (leAt q 40 2) n
      tollRespond d1 fn (b ++ signed Config.tollSeed b))
/-- TOLL_REPORT (R540). -/
def execTollReport (fn : Func) (s : State) : Answer := onDev s (tollReportD fn.toNat)

/-- CHALLENGE of the tollhouse: a fresh value takes the place of an earlier one. -/
def tollChallengeD (fn : Nat) (d : Dev) : Dev :=
  if !tollTurn d fn 3 then d
  else
    let c : BitVec 256 := (Config.trng d.tru.trng).setWidth 256
    let d1 := { d with tru := { d.tru with trng := d.tru.trng + 1 } }
    match hostPut d1 fn (tollBa d fn + 0x4000) (toLe 32 c.toNat) with
    | none => tollDone d1 fn 6 0
    | some d2 => tollDone { d2 with toll := { d2.toll with challenge := some c } } fn 0 32
/-- TOLL_CHALLENGE (R539). -/
def execTollChallenge (fn : Func) (s : State) : Answer := onDev s (tollChallengeD fn.toNat)

/-- TOLL_CHALLENGE_LAPSE (R539). -/
def execTollChallengeLapse (s : State) : Answer := onDev s (fun d => { d with toll := { d.toll with challenge := none } })

/-- A signed request of the tollhouse: the result code of its checks, in the order of R543, or none. -/
def tollSigned (d : Dev) (hash : BitVec 512) (key msg sig id chal : List Byte) : Option Nat :=
  if Config.sha3 key ≠ hash || !Config.mldsaVerify key (digestBytes (Config.sha3 msg)) sig then some 2
  else if id ≠ tollId then some 1
  else
    match d.toll.challenge with
    | none => some 3
    | some c => if chal = toLe 32 c.toNat then none else some 3

/-- TIME_TOKEN: PF only. -/
def timeTokenD (fn : Nat) (d : Dev) : Dev :=
  if !tollTurn d fn 0x10 then d
  else if fn ≠ 0 then tollDone d fn 5 0
  else tollRequest d fn 7323 (fun q =>
    match tollSigned d Config.timeHash (sub q 104 2592) (sub q 0 104) (sub q 2696 4627) (sub q 8 64) (sub q 72 32) with
    | some c => tollDone d fn c 0
    | none =>
      if leAt q 0 8 < d.toll.ledger.trustedTime.toNat then tollDone d fn 4 0
      else
        let l := { d.toll.ledger with trustedTime := BitVec.ofNat 64 (leAt q 0 8), trustedAt := d.toll.ledger.poweredS, timeSet := true }
        tollDone (writeLedger { d with toll := { d.toll with ledger := l, timeState := 1 } }) fn 0 0)
/-- TIME_TOKEN (R543). -/
def execTimeToken (fn : Func) (s : State) : Answer := onDev s (timeTokenD fn.toNat)

/-- REFURB_RESET: PF only. -/
def refurbD (fn : Nat) (d : Dev) : Dev :=
  if !tollTurn d fn 0x11 then d
  else if fn ≠ 0 then tollDone d fn 5 0
  else tollRequest d fn 7315 (fun q =>
    match tollSigned d Config.vendorHash (sub q 96 2592) (toLe 1 0x11 ++ sub q 0 96) (sub q 2688 4627) (sub q 32 64) (sub q 0 32) with
    | some c => tollDone d fn c 0
    | none =>
      let l := { d.toll.ledger with trustedTime := 0, trustedAt := 0, timeSet := false, sealBroken := false, refurbs := d.toll.ledger.refurbs + 1 }
      tollDone (writeLedger { d with toll := { d.toll with
        ledger := l, timeState := 0, sets := [], closed := [], carry := []
        models := tmap d.toll.models (fun _ e => { e with set := CSet.init }) } }) fn 0 0)
/-- REFURB_RESET (R547). -/
def execRefurbReset (fn : Func) (s : State) : Answer := onDev s (refurbD fn.toNat)

end Sys2Proof.Machine
end

