-- ==== Sys2Proof/Machine/Power.lean ====
section
/-! DEFINITION. Clocks, the power cap, power-up and power-down, and the resets of the whole device (R497, R549 to R564, R570,
R577). -/

namespace Sys2Proof.Machine

open Sys2Proof

/-! ## Resets of the device (R497, R558, R559, R562) -/

/-- The device after a reset that returns it to its boot ROM: what the reset does not reach stays (R532, R562). OTP, the
tollhouse, host memory, the pins, what was sent, the counters of free values and of random draws, and the pier contents, which
the next boot zeroes (R340), stay. -/
def resetDevice (d : Dev) (now : Word64) (cause : BitVec 3) (toll : Toll) (clk : Clk) : Dev :=
  { Dev.init with
    now := now
    fresh := d.fresh
    host := d.host
    hif := { HostIf.init with out := d.hif.out }
    pier := { Dev.init.pier with mem := d.pier.mem, poison := d.pier.poison }
    boot := { Boot.init with cause := cause }
    tru := { Tru.init with otp := d.tru.otp, trng := d.tru.trng }
    toll := { toll with mbx := [], queue := [] }
    clk := { Clk.init with
      capPins := clk.capPins, charged := clk.charged, pwrEn := clk.pwrEn, railsUp := clk.railsUp, pwrGood := clk.pwrGood
      resetN := clk.resetN, perstN := clk.perstN, sysRef := clk.sysRef, portRef := clk.portRef, stopped := clk.stopped, tripped := clk.tripped } }

/-- PCIE_CONVENTIONAL_RESET: the timestamp goes on; while RESET_N is low, or the device is stopped, it has no effect of its own
(R552, R562, R577). -/
def convResetD (cause : ConvReset) (d : Dev) : Dev :=
  let clk := match cause with
    | .perstLow => { d.clk with perstN := false }
    | _ => d.clk
  if d.clk.pwrGood && d.clk.resetN && !d.clk.stopped then resetDevice d d.now 4 d.toll clk else { d with clk := clk }

/-- PCIE_CONVENTIONAL_RESET (R497). -/
def execPcieConventionalReset (cause : ConvReset) (s : State) : Answer := onDev s (convResetD cause)

/-- RESET_N_ASSERT: a pulse below 1 µs is ignored; the reset recovers from the loss of the system reference but not from a thermal
trip (R552, R561, R577). -/
def resetAssertD (longEnough : Bool) (d : Dev) : Dev :=
  if !longEnough then d
  else
    let clk := { d.clk with resetN := false }
    if d.clk.pwrGood && !d.clk.tripped then resetDevice d 0 2 d.toll { clk with stopped := false, sysRef := true } else { d with clk := clk }

/-- RESET_N_ASSERT (R577). -/
def execResetNAssert (longEnough : Bool) (s : State) : Answer := onDev s (resetAssertD longEnough)

/-- RESET_N_RISE: with PWR_GOOD high this is power-good, and the ROM may run (R558). -/
def execResetNRise (s : State) : Answer := onDev s (fun d => { d with clk := { d.clk with resetN := true } })

/-- PERSTN_RISE: the ROM that waits in ROM_INIT may go on (R577). -/
def execPerstNRise (s : State) : Answer := onDev s (fun d => { d with clk := { d.clk with perstN := true } })

/-! ## Power (R558, R559, R561, R570) -/

/-- The rails rise once PWR_EN is high and the charged input is above 39 V, in order and with the reaches at step 16 (R558, R570). -/
def railsRise (d : Dev) : Dev :=
  if d.clk.pwrEn && d.clk.charged then { d with clk := { d.clk with railsUp := true } } else d

/-- INRUSH_DONE (R570). -/
def execInrushDone (s : State) : Answer := onDev s (fun d => railsRise { d with clk := { d.clk with charged := true } })

/-- PWR_EN_RISE (R558). -/
def execPwrEnRise (s : State) : Answer := onDev s (fun d => railsRise { d with clk := { d.clk with pwrEn := true } })

/-- PWR_GOOD_RISE: the boot that follows is a power-on's (R558, R564). -/
def pwrGoodD (d : Dev) : Dev :=
  if d.clk.railsUp && !d.clk.pwrGood then
    { d with clk := { d.clk with pwrGood := true }, boot := { d.boot with cause := 1 } }
  else d

/-- PWR_GOOD_RISE (R558). -/
def execPwrGoodRise (s : State) : Answer := onDev s pwrGoodD

/-- POWER_DOWN: the device stops without writing anything; OTP and the ledger's record in force persist (R558, R559, R561). -/
def powerDownD (cause : PowerLoss) (d : Dev) : Dev :=
  let clk := match cause with
    | .pwrEnFalls => { d.clk with pwrEn := false }
    | .inputBelow38 => { d.clk with charged := false }
  let d1 := resetDevice d 0 0 { Toll.init with nvm := d.toll.nvm }
    { clk with railsUp := false, pwrGood := false, stopped := false, tripped := false, sysRef := true }
  { d1 with pier := Dev.init.pier }

/-- POWER_DOWN (R559). -/
def execPowerDown (cause : PowerLoss) (s : State) : Answer := onDev s (powerDownD cause)

/-- THERMAL_TRIP: every domain but the tollhouse stops, and only a power cycle recovers (R561). -/
def execThermalTrip (s : State) : Answer :=
  onDev s (fun d => if d.clk.railsUp then { d with clk := { d.clk with tripped := true, stopped := true } } else d)

/-- SYSTEM_REFERENCE_LOSS: every domain but the tollhouse stops (R552). -/
def execSystemReferenceLoss (s : State) : Answer :=
  onDev s (fun d => if d.clk.pwrGood && d.clk.resetN then { d with clk := { d.clk with sysRef := false, stopped := true } } else d)

/-! ## Reach clocks and the power cap (R553 to R557) -/

/-- The step of a reach; the ceiling that the structure image set, 16 before it is applied. -/
def reachStep (d : Dev) (r : Nat) : Nat := (tget d.clk.steps r 16).toNat
def reachCeiling (d : Dev) (r : Nat) : Nat := tget d.boot.ceilings r 16

/-- The caps of PWR_CAP in W (R555). -/
def capWatts (level : BitVec 3) : Nat := ([600, 750, 900, 1050, 1200, 1300, 1400, 1500] : List Nat).getD level.toNat 600

/-- The sum of the last samples compared with `w` W for each: whether the average exceeds `w`. -/
def averageOver (l : List Nat) (w : Nat) : Bool := decide (w * l.length < l.sum)

/-- A step of a context that delivers tasks is marked CLOCK_STEPPED (R294, R554). -/
def markStep (st : Step) : Step := if st.phase = .delivering then { st with clockStepped := true } else st

/-- Whether a context runs on a partition with a tile in reach `r`. -/
def usesReach (d : Dev) (cr r : Nat) : Bool := (partTiles d (getCtx d cr).part.toNat).any (fun t => t / 64 = r)

/-- Reach `r` runs at step `n` from now on; steps in progress on it are marked. -/
def setReach (d : Dev) (r n : Nat) : Dev :=
  { d with
    clk := { d.clk with steps := tset d.clk.steps r (BitVec.ofNat 5 n), raising := tdel d.clk.raising r }
    cox := { d.cox with steps := tmap d.cox.steps (fun cr x =>
      if usesReach d cr r then { x with cur := x.cur.map markStep, nxt := x.nxt.map markStep } else x) } }

/-- Whether the power loop and the reaches run. -/
def powered (d : Dev) : Bool := d.clk.pwrGood && !d.clk.stopped

/-- The delay of R557: on when every reach is at step 16 and the average has exceeded the cap for 1 ms, off when it falls to the
cap. -/
def setDelay (d : Dev) : Dev :=
  let c := d.clk
  let hot := averageOver c.samples (capWatts c.capForce)
  let on := hot && (c.delay || (decide (100 ≤ c.aboveFor) && (List.range 4).all (fun r => reachStep d r = 16)))
  { d with clk := { c with delay := on } }

/-- POWER_SAMPLE: the last ten samples, and for how many samples the average has been above the cap, or 30 W or more below it. -/
def powerSampleD (w : Nat) (d : Dev) : Dev :=
  if !powered d then d
  else
    let l := (d.clk.samples ++ [w]).drop ((d.clk.samples.length + 1) - 10)
    let cap := capWatts d.clk.capForce
    setDelay { d with clk := { d.clk with
      samples := l
      aboveFor := if averageOver l cap then d.clk.aboveFor + 1 else 0
      belowFor := if averageOver l (cap - 30) then 0 else d.clk.belowFor + 1 } }

/-- POWER_SAMPLE (R556). -/
def execPowerSample (watts : Nat) (s : State) : Answer := onDev s (powerSampleD watts)

/-- The reach to step down: the highest frequency, ties to the lower number; none when all are at step 16. -/
def downReach (d : Dev) : Option Nat :=
  (([0, 1, 2, 3] : List Nat).foldl (fun (b : Option Nat) r => match b with
    | none => some r
    | some q => if reachStep d r < reachStep d q then some r else some q) none).filter (fun r => decide (reachStep d r < 16))

/-- The reach to step up: the lowest frequency of those below their ceilings, ties to the lower number. -/
def upReach (d : Dev) : Option Nat :=
  (([0, 1, 2, 3] : List Nat).filter (fun r => decide (reachCeiling d r < reachStep d r))).foldl (fun (b : Option Nat) r => match b with
    | none => some r
    | some q => if reachStep d q < reachStep d r then some r else some q) none

/-- POWER_CONTROL_LOOP: one step down above the cap, or one step up after 2 ms at least 30 W below it; a step up raises the supply
first (R554, R556). -/
def powerLoopD (d : Dev) : Dev :=
  if !powered d || d.clk.samples.isEmpty then d
  else if averageOver d.clk.samples (capWatts d.clk.capForce) then
    (match downReach d with
     | some r => setDelay (setReach d r (reachStep d r + 1))
     | none => setDelay d)
  else if 200 ≤ d.clk.belowFor then
    (match upReach d with
     | some r => if (tfind d.clk.raising r).isSome then d
       else { d with clk := { d.clk with raising := tset d.clk.raising r (BitVec.ofNat 5 (reachStep d r - 1)) } }
     | none => d)
  else d

/-- POWER_CONTROL_LOOP (R556). -/
def execPowerControlLoop (s : State) : Answer := onDev s powerLoopD

/-- SUPPLY_RAMP_DONE: the raised frequency takes effect (R554). -/
def rampDoneD (r : Nat) (d : Dev) : Dev :=
  match tfind d.clk.raising r with
  | some n => if powered d then setReach d r n.toNat else d
  | none => d

/-- SUPPLY_RAMP_DONE (R554). -/
def execSupplyRampDone (reach : ReachId) (s : State) : Answer := onDev s (rampDoneD reach.toNat)

/-- PWR_CAP_CHANGE: the level on the pins (R555). -/
def execPwrCapChange (level : BitVec 3) (s : State) : Answer := onDev s (fun d => { d with clk := { d.clk with capPins := level } })

/-- PWR_CAP_IN_FORCE (R555). -/
def execPwrCapInForce (s : State) : Answer :=
  onDev s (fun d => if powered d then { d with clk := { d.clk with capForce := d.clk.capPins } } else d)

end Sys2Proof.Machine
end

