-- ==== Sys2Proof/Machine/Registers.lean ====
section
/-! DEFINITION. REGISTER_WRITE: the host writes that have no command of their own (R13 to R17, R407 to R410, R417, R466, R475,
R476, R479, R485, R526 to R528, R548). -/

namespace Sys2Proof.Machine

open Sys2Proof

/-! ## Plain registers -/

/-- The fields of a mask of `n` bits. -/
def low (n : Nat) : Word64 := BitVec.ofNat 64 (2 ^ n - 1)

/-- The writable fields of a 64-bit register of PF BAR0 that only holds what was written; none for another offset (R15, R17). -/
def pfMask (off : Nat) : Option Word64 :=
  if off = 0x0100008 || off = 0x0100018 || off = 0x0100030 || off = 0x0F00008 || off = 0x0201008 then some (low 64)
  else if off = 0x0100010 || off = 0x0100020 || off = 0x0100038 then some (low 25)
  else if off = 0x0201000 then some (low 18)
  else if off = 0x0800010 then some (low 29)
  else if 0x0801000 ≤ off ∧ off < 0x0801000 + 8 * 256 then some (low 42)
  else if 0x0804000 ≤ off ∧ off < 0x0804000 + 32 * 160 then
    some (if off % 32 = 0 then low 32 else if off % 32 = 24 then 0 else low 64)
  else if 0x0810000 ≤ off ∧ off < 0x0810000 + 32 * 4096 then some (if off % 32 = 8 then low 38 else low 64)
  else if off = 0x0B00000 then some (low 55)
  else if off = 0x0B00008 then some (low 60)
  else if 0x0C01000 ≤ off ∧ off < 0x0C01000 + 8 * 160 then some (low 48)
  else if off = 0x0E00000 then some (low 48)
  else none

/-- The same for VF BAR0 (R476). -/
def vfMask (off : Nat) : Option Word64 :=
  if off = 0x1000 then some (low 55)
  else if off = 0x1008 then some (low 60)
  else if off = 0x2000 then some (low 18)
  else if off = 0x2008 then some (low 64)
  else if off = 0x3000 then some (low 48)
  else none

/-- CWY_TIMERS after a write: a value outside its range is replaced by the nearer bound (R386). -/
def timersOf (v : Word64) : Word64 :=
  BitVec.ofNat 64 (max 100 (min 100000 (fld v 0 17)) + max 8 (min 1024 (fld v 17 11)) * 2 ^ 17 + fld v 28 4 * 2 ^ 28
    + max 16 (min 1023 (fld v 32 10)) * 2 ^ 32)

/-! ## MSI-X tables (R475, R476, R485) -/

/-- The writable bits of an MSI-X table word: message address and data, and the mask bit of the vector control. -/
def msixMaskOf (off : Nat) : Word64 := if off % 16 = 0 then 0xFFFFFFFFFFFFFFFC else 0x1FFFFFFFF

/-- A word of an MSI-X table of a function; `voff` is its offset from the table. Vectors are masked after reset (R485). -/
def msixWord (d : Dev) (fn voff : Nat) : Word64 :=
  let dflt : Word64 := if voff % 16 = 8 then 0x100000000 else 0
  if fn = 0 then tget d.regs (0x8000 + voff) dflt else tget d.vfRegs (fn * 0x100000 + 0x4000 + voff) dflt

/-- Replace a word of an MSI-X table; a message that its mask held back is sent. -/
def setMsix (d : Dev) (fn voff : Nat) (v : Word64) : Dev :=
  flushPend (setFnReg d fn (0x8000 + voff) (0x4000 + voff) (v &&& msixMaskOf voff)) fn

/-- A 4 B or 8 B write of an MSI-X table. -/
def msixWrite (d : Dev) (fn voff : Nat) (w : AccWidth) (v : Word64) : Dev :=
  match w with
  | .w64 => setMsix d fn voff v
  | .w32 =>
    let o := voff / 8 * 8
    setMsix d fn o (setFld (msixWord d fn o) (if voff % 8 = 4 then 32 else 0) 32 (fld v 0 32))

/-! ## Ring pages (R479) -/

/-- A write of a ring register other than PROD and CONS; `r` is its offset in the ring. ENABLE from 0 to 1 is RING_ENABLE. -/
def ringWrite (x : Ring) (r : Nat) (v : Word64) : Ring :=
  if r = 0 then (if ringEnabled x then x else { x with ba := v.setWidth 48 })
  else if r = 8 then
    (if !ringEnabled x && bitOf v 5 then x
     else if ringEnabled x then { x with cfg := (v &&& ringCfgMask &&& ~~~0x1F) ||| (x.cfg &&& 0x1F) }
     else { x with cfg := v &&& ringCfgMask })
  else if r = 0x20 then { x with wb := v.setWidth 48 }
  else if r = 0x28 then
    { x with badIndex := x.badIndex && !bitOf v 0, fault := x.fault && !bitOf v 1, lost := x.lost && !bitOf v 2 }
  else x

/-- A write to a function's context pages; `off` is the offset from the first page. -/
def pageWrite (d : Dev) (fn off : Nat) (v : Word64) : Dev :=
  if off % 4096 < 0x100 && off % 8 = 0 then
    let k := ringKey fn (off / 4096) (off % 4096 / 0x40)
    setRing d k (ringWrite (getRing d k) (off % 0x40) v)
  else d

/-! ## Whole registers -/

/-- Whether a mailbox opcode has a command of its own (R528). -/
def truOp (op : Nat) : Bool := op = 1 || op = 2 || op = 3 || op = 0x10 || op = 0x11 || op = 0x12 || op = 0x13

/-- A 64-bit write of a register of PF BAR0. -/
def pfWrite (d : Dev) (off : Nat) (v : Word64) : Dev :=
  if !pfOpen d off then d
  else if off = 0x0800008 then setReg d off (timersOf v)
  else if 0x0C02000 ≤ off ∧ off < 0x0C02000 + 8 * 160 then
    (if bitOf v 3 then setPort d ((off - 0x0C02000) / 8) { getPort d ((off - 0x0C02000) / 8) with lost := false } else d)
  else if off = 0x0E00010 then (if bitOf v 2 then { d with toll := { d.toll with event := false } } else d)
  else if off = 0x0E00008 then tollPost d 0 (v.setWidth 8)
  else if off = 0x0F00010 then (if truOpen d && !truOp (fld v 0 8) then truDone d 1 0 else d)
  else if 0x1000 ≤ off ∧ off < 0x1040 then setRing d devRing (ringWrite (getRing d devRing) (off - 0x1000) v)
  else if 0x3000000 ≤ off ∧ off < 0x3080000 then pageWrite d 0 (off - 0x3000000) v
  else
    match pfMask off with
    | some m => setReg d off (v &&& m)
    | none => d

/-- A 64-bit write of a register of a VF's BAR0. -/
def vfWrite (d : Dev) (fn off : Nat) (v : Word64) : Dev :=
  if !vfOpen d fn then d
  else if off = 0x3008 then tollPost d fn (v.setWidth 8)
  else if 0x80000 ≤ off then pageWrite d fn (off - 0x80000) v
  else
    match vfMask off with
    | some m => setFnReg d fn off off (v &&& m)
    | none => d

/-- Whether an access writes: every byte enabled and aligned to its width (R14). -/
def accessOk (off : Nat) (w : AccWidth) (be : BitVec 8) : Bool :=
  match w with
  | .w32 => decide (off % 4 = 0) && decide (fld be 0 4 = 15)
  | .w64 => decide (off % 8 = 0) && decide (be.toNat = 255)

/-- The offset in a function's MSI-X table, if an address lies there. -/
def msixOff (fn off : Nat) : Option Nat :=
  if fn = 0 then (if 0x8000 ≤ off ∧ off < 0x10000 then some (off - 0x8000) else none)
  else if 0x4000 ≤ off ∧ off < 0x4200 then some (off - 0x4000)
  else none

/-- REGISTER_WRITE. A 32-bit write of a 64-bit register is discarded (R13); every 32-bit register that takes writes has a command
of its own. -/
def registerWriteD (fn off : Nat) (w : AccWidth) (v : Word64) (be : BitVec 8) (d : Dev) : Dev :=
  if !accessOk off w be then d
  else
    match msixOff fn off, w with
    | some o, w => if fnOpen d fn 0x8000 then msixWrite d fn o w v else d
    | none, .w32 => d
    | none, .w64 => if fn = 0 then pfWrite d off v else if off < 0x100000 then vfWrite d fn off v else d

/-- REGISTER_WRITE (R17). -/
def execRegisterWrite (fn : Func) (off : BitVec 26) (width : AccWidth) (value : Word64) (be : BitVec 8) (s : State) : Answer :=
  onDev s (registerWriteD fn.toNat off.toNat width value be)

end Sys2Proof.Machine
end

