-- ==== Sys2Proof/Machine/Dispatch.lean ====
section
/-! DEFINITION. The one match that sends each command to its meaning. -/

namespace Sys2Proof.Machine

open Sys2Proof

/-- The effect of a command on the device, everything but the queue. -/
def exec (i : Instr) (s : State) : Host.Outcome State Fault Refusal :=
  match i with
  | .registerWrite fn off width value be => Sys2Proof.Machine.execRegisterWrite fn off width value be s
  | .nop f => Sys2Proof.Machine.execNop f s
  | .jmp f => Sys2Proof.Machine.execJmp f s
  | .br f => Sys2Proof.Machine.execBr f s
  | .loop f => Sys2Proof.Machine.execLoop f s
  | .wait f => Sys2Proof.Machine.execWait f s
  | .endTask f => Sys2Proof.Machine.execEnd f s
  | .taskEnd t => Sys2Proof.Machine.execTaskEnd t s
  | .li f => Sys2Proof.Machine.execLi f s
  | .lih f => Sys2Proof.Machine.execLih f s
  | .add f => Sys2Proof.Machine.execAdd f s
  | .sub f => Sys2Proof.Machine.execSub f s
  | .and f => Sys2Proof.Machine.execAnd f s
  | .or f => Sys2Proof.Machine.execOr f s
  | .xor f => Sys2Proof.Machine.execXor f s
  | .shl f => Sys2Proof.Machine.execShl f s
  | .shr f => Sys2Proof.Machine.execShr f s
  | .mul f => Sys2Proof.Machine.execMul f s
  | .ldw f => Sys2Proof.Machine.execLdw f s
  | .ldd f => Sys2Proof.Machine.execLdd f s
  | .stw f => Sys2Proof.Machine.execStw f s
  | .std f => Sys2Proof.Machine.execStd f s
  | .movda f => Sys2Proof.Machine.execMovda f s
  | .movad f => Sys2Proof.Machine.execMovad f s
  | .aclr f => Sys2Proof.Machine.execAclr f s
  | .mmcfg f => Sys2Proof.Machine.execMmcfg f s
  | .matmul f => Sys2Proof.Machine.execMatmul f s
  | .scull f => Sys2Proof.Machine.execScull f s
  | .scorr f => Sys2Proof.Machine.execScorr f s
  | .stageOperands t ecc => Sys2Proof.Machine.execStageOperands t ecc s
  | .stagingDone t range => Sys2Proof.Machine.execStagingDone t range s
  | .passIssue t => Sys2Proof.Machine.execPassIssue t s
  | .passDrain t => Sys2Proof.Machine.execPassDrain t s
  | .scullResultsWritten t => Sys2Proof.Machine.execScullResultsWritten t s
  | .vadd f => Sys2Proof.Machine.execVadd f s
  | .vsub f => Sys2Proof.Machine.execVsub f s
  | .vmul f => Sys2Proof.Machine.execVmul f s
  | .vfma f => Sys2Proof.Machine.execVfma f s
  | .vmax f => Sys2Proof.Machine.execVmax f s
  | .vmin f => Sys2Proof.Machine.execVmin f s
  | .vcmp f => Sys2Proof.Machine.execVcmp f s
  | .vcvt f => Sys2Proof.Machine.execVcvt f s
  | .vfunc f => Sys2Proof.Machine.execVfunc f s
  | .vred f => Sys2Proof.Machine.execVred f s
  | .vld f => Sys2Proof.Machine.execVld f s
  | .vst f => Sys2Proof.Machine.execVst f s
  | .vlda f => Sys2Proof.Machine.execVlda f s
  | .vsta f => Sys2Proof.Machine.execVsta f s
  | .ocfg f => Sys2Proof.Machine.execOcfg f s
  | .cvt f => Sys2Proof.Machine.execCvt f s
  | .cvts f => Sys2Proof.Machine.execCvts f s
  | .conversionDone t => Sys2Proof.Machine.execConversionDone t s
  | .hstend f => Sys2Proof.Machine.execHstend f s
  | .flagrd f => Sys2Proof.Machine.execFlagrd f s
  | .flagclr f => Sys2Proof.Machine.execFlagclr f s
  | .dma f => Sys2Proof.Machine.execDma f s
  | .pgather f => Sys2Proof.Machine.execPgather f s
  | .pscatter f => Sys2Proof.Machine.execPscatter f s
  | .slidePageRunahead x ecc => Sys2Proof.Machine.execSlidePageRunahead x ecc s
  | .slidePageDemand x ecc => Sys2Proof.Machine.execSlidePageDemand x ecc s
  | .dmaTransferDone x => Sys2Proof.Machine.execDmaTransferDone x s
  | .fetch f => Sys2Proof.Machine.execFetch f s
  | .put f => Sys2Proof.Machine.execPut f s
  | .trestleSub f => Sys2Proof.Machine.execTrestleSub f s
  | .mcast f => Sys2Proof.Machine.execMcast f s
  | .trestleTransferDone x => Sys2Proof.Machine.execTrestleTransferDone x s
  | .bufferFillDone p buf ecc => Sys2Proof.Machine.execBufferFillDone p buf ecc s
  | .multicastDeliveryDone p buf t => Sys2Proof.Machine.execMulticastDeliveryDone p buf t s
  | .holderRelease p buf t => Sys2Proof.Machine.execHolderRelease p buf t s
  | .remoteRead x ecc => Sys2Proof.Machine.execRemoteRead x ecc s
  | .remoteWrite x => Sys2Proof.Machine.execRemoteWrite x s
  | .sbwait f => Sys2Proof.Machine.execSbwait f s
  | .sbdrain f => Sys2Proof.Machine.execSbdrain f s
  | .sbcount f => Sys2Proof.Machine.execSbcount f s
  | .report f => Sys2Proof.Machine.execReport f s
  | .savePoint f => Sys2Proof.Machine.execSavePoint f s
  | .holdWindowEnd p => Sys2Proof.Machine.execHoldWindowEnd p s
  | .eccWriteBack t word => Sys2Proof.Machine.execEccWriteBack t word s
  | .unitOff t u => Sys2Proof.Machine.execUnitOff t u s
  | .unitWakeDone t u => Sys2Proof.Machine.execUnitWakeDone t u s
  | .taskIntake p => Sys2Proof.Machine.execTaskIntake p s
  | .intakeResume p => Sys2Proof.Machine.execIntakeResume p s
  | .taskPop t => Sys2Proof.Machine.execTaskPop t s
  | .taskSteal t => Sys2Proof.Machine.execTaskSteal t s
  | .taskStart t => Sys2Proof.Machine.execTaskStart t s
  | .completionRecordWritten t => Sys2Proof.Machine.execCompletionRecordWritten t s
  | .taskWatchdogExpiry t => Sys2Proof.Machine.execTaskWatchdogExpiry t s
  | .modelRegister fn vctx => Sys2Proof.Machine.execModelRegister fn vctx s
  | .modelUnregister fn vctx => Sys2Proof.Machine.execModelUnregister fn vctx s
  | .seqAdd fn vctx => Sys2Proof.Machine.execSeqAdd fn vctx s
  | .seqAppend fn vctx => Sys2Proof.Machine.execSeqAppend fn vctx s
  | .seqPark fn vctx => Sys2Proof.Machine.execSeqPark fn vctx s
  | .seqResume fn vctx => Sys2Proof.Machine.execSeqResume fn vctx s
  | .seqCancel fn vctx => Sys2Proof.Machine.execSeqCancel fn vctx s
  | .seqRetire fn vctx => Sys2Proof.Machine.execSeqRetire fn vctx s
  | .stepPolicy fn vctx => Sys2Proof.Machine.execStepPolicy fn vctx s
  | .prefixLookup fn vctx => Sys2Proof.Machine.execPrefixLookup fn vctx s
  | .fence fn vctx => Sys2Proof.Machine.execFence fn vctx s
  | .stepBuild p => Sys2Proof.Machine.execStepBuild p s
  | .stepDeliveryStart p => Sys2Proof.Machine.execStepDeliveryStart p s
  | .resultBatchWritten p => Sys2Proof.Machine.execResultBatchWritten p s
  | .deadlinePass slot => Sys2Proof.Machine.execDeadlinePass slot s
  | .coxVfwinWrite n value => Sys2Proof.Machine.execCoxVfwinWrite n value s
  | .coxSlotSelWrite value => Sys2Proof.Machine.execCoxSlotSelWrite value s
  | .keystoneLookup slot => Sys2Proof.Machine.execKeystoneLookup slot s
  | .keystoneInsert slot => Sys2Proof.Machine.execKeystoneInsert slot s
  | .keyFlush value => Sys2Proof.Machine.execKeyFlush value s
  | .keystoneFlush p => Sys2Proof.Machine.execKeystoneFlush p s
  | .ttlSweep stack => Sys2Proof.Machine.execTtlSweep stack s
  | .expiryReport slot => Sys2Proof.Machine.execExpiryReport slot s
  | .frameZero frame => Sys2Proof.Machine.execFrameZero frame s
  | .pierCrcRetry stack => Sys2Proof.Machine.execPierCrcRetry stack s
  | .pierLinkRetrain stack => Sys2Proof.Machine.execPierLinkRetrain stack s
  | .pierRefresh stack die above85 => Sys2Proof.Machine.execPierRefresh stack die above85 s
  | .flowCreate x stripe => Sys2Proof.Machine.execFlowCreate x stripe s
  | .chunkSend flow ecc => Sys2Proof.Machine.execChunkSend flow ecc s
  | .ackFrameArrival lport frame => Sys2Proof.Machine.execAckFrameArrival lport frame s
  | .dataFrameArrival lport frame => Sys2Proof.Machine.execDataFrameArrival lport frame s
  | .abortFrameArrival lport frame => Sys2Proof.Machine.execAbortFrameArrival lport frame s
  | .requestFrameArrival lport frame => Sys2Proof.Machine.execRequestFrameArrival lport frame s
  | .frameDiscard lport frame => Sys2Proof.Machine.execFrameDiscard lport frame s
  | .ackTimerExpiry flow => Sys2Proof.Machine.execAckTimerExpiry flow s
  | .rtoExpiry flow => Sys2Proof.Machine.execRtoExpiry flow s
  | .requestRetransmit flow => Sys2Proof.Machine.execRequestRetransmit flow s
  | .flowTimeout flow => Sys2Proof.Machine.execFlowTimeout flow s
  | .rateIncrease flow => Sys2Proof.Machine.execRateIncrease flow s
  | .map fn value => Sys2Proof.Machine.execMap fn value s
  | .unmap fn value => Sys2Proof.Machine.execUnmap fn value s
  | .commitEnd fn => Sys2Proof.Machine.execCommitEnd fn s
  | .xltCtxTblWrite c value => Sys2Proof.Machine.execXltCtxTblWrite c value s
  | .pcieErrorCompletion req => Sys2Proof.Machine.execPcieErrorCompletion req s
  | .pcieCompletionTimeout req => Sys2Proof.Machine.execPcieCompletionTimeout req s
  | .teardownStart rec => Sys2Proof.Machine.execTeardownStart rec s
  | .teardownDone rec => Sys2Proof.Machine.execTeardownDone rec s
  | .sliceEnd p => Sys2Proof.Machine.execSliceEnd p s
  | .graceExpiry p => Sys2Proof.Machine.execGraceExpiry p s
  | .preemptSaveDone p => Sys2Proof.Machine.execPreemptSaveDone p s
  | .contextSwitch p => Sys2Proof.Machine.execContextSwitch p s
  | .nonpreemptOverrun rec => Sys2Proof.Machine.execNonpreemptOverrun rec s
  | .swapOutDone rec => Sys2Proof.Machine.execSwapOutDone rec s
  | .swapInDone rec => Sys2Proof.Machine.execSwapInDone rec s
  | .create fn => Sys2Proof.Machine.execCreate fn s
  | .destroy fn => Sys2Proof.Machine.execDestroy fn s
  | .arm fn => Sys2Proof.Machine.execArm fn s
  | .setClass fn => Sys2Proof.Machine.execSetClass fn s
  | .pmgCtxSelWrite fn value => Sys2Proof.Machine.execPmgCtxSelWrite fn value s
  | .partitionReset value => Sys2Proof.Machine.execPartitionReset value s
  | .regulatorPeriod => Sys2Proof.Machine.execRegulatorPeriod s
  | .commandDoorbell fn vctx value => Sys2Proof.Machine.execCommandDoorbell fn vctx value s
  | .ringConsWrite r value => Sys2Proof.Machine.execRingConsWrite r value s
  | .ringEnable r value => Sys2Proof.Machine.execRingEnable r value s
  | .msixModerationExpiry r => Sys2Proof.Machine.execMsixModerationExpiry r s
  | .vfFlr fn => Sys2Proof.Machine.execVfFlr fn s
  | .pfFlr => Sys2Proof.Machine.execPfFlr s
  | .pcieConventionalReset cause => Sys2Proof.Machine.execPcieConventionalReset cause s
  | .romInit selfTest fru => Sys2Proof.Machine.execRomInit selfTest fru s
  | .fruEepromRetry fru => Sys2Proof.Machine.execFruEepromRetry fru s
  | .load => Sys2Proof.Machine.execLoad s
  | .firmwareImageLoaded readBack => Sys2Proof.Machine.execFirmwareImageLoaded readBack s
  | .pierBringupDone codes => Sys2Proof.Machine.execPierBringupDone codes s
  | .structureImageApply => Sys2Proof.Machine.execStructureImageApply s
  | .loadSi => Sys2Proof.Machine.execLoadSi s
  | .bootReady => Sys2Proof.Machine.execBootReady s
  | .quiesceSet => Sys2Proof.Machine.execQuiesceSet s
  | .quiesceClear => Sys2Proof.Machine.execQuiesceClear s
  | .partitionReload value => Sys2Proof.Machine.execPartitionReload value s
  | .partitionReloadApply => Sys2Proof.Machine.execPartitionReloadApply s
  | .getIdentity => Sys2Proof.Machine.execGetIdentity s
  | .attest => Sys2Proof.Machine.execAttest s
  | .challenge => Sys2Proof.Machine.execChallenge s
  | .challengeLapse => Sys2Proof.Machine.execChallengeLapse s
  | .debugUnlock inPlace rollover => Sys2Proof.Machine.execDebugUnlock inPlace rollover s
  | .otpOwner readBack => Sys2Proof.Machine.execOtpOwner readBack s
  | .otpSvn readBack => Sys2Proof.Machine.execOtpSvn readBack s
  | .otpLifecycle readBack => Sys2Proof.Machine.execOtpLifecycle readBack s
  | .tollPowerOn selfTest => Sys2Proof.Machine.execTollPowerOn selfTest s
  | .tapStep p => Sys2Proof.Machine.execTapStep p s
  | .tapEgress => Sys2Proof.Machine.execTapEgress s
  | .tapIngress => Sys2Proof.Machine.execTapIngress s
  | .tapRegister model => Sys2Proof.Machine.execTapRegister model s
  | .tapOtpState => Sys2Proof.Machine.execTapOtpState s
  | .tapAccumulatorSend acc crcOk => Sys2Proof.Machine.execTapAccumulatorSend acc crcOk s
  | .getKey fn => Sys2Proof.Machine.execGetKey fn s
  | .tollReport fn => Sys2Proof.Machine.execTollReport fn s
  | .tollChallenge fn => Sys2Proof.Machine.execTollChallenge fn s
  | .tollChallengeLapse => Sys2Proof.Machine.execTollChallengeLapse s
  | .timeToken fn => Sys2Proof.Machine.execTimeToken fn s
  | .refurbReset fn => Sys2Proof.Machine.execRefurbReset fn s
  | .ledgerWrite => Sys2Proof.Machine.execLedgerWrite s
  | .poweredSecond => Sys2Proof.Machine.execPoweredSecond s
  | .msecCtrlWrite lport value => Sys2Proof.Machine.execMsecCtrlWrite lport value s
  | .saSlotWrite lport sa reg value => Sys2Proof.Machine.execSaSlotWrite lport sa reg value s
  | .portAnDone lport ok => Sys2Proof.Machine.execPortAnDone lport ok s
  | .portTrainingDone lport => Sys2Proof.Machine.execPortTrainingDone lport s
  | .portAligned lport => Sys2Proof.Machine.execPortAligned lport s
  | .portStateTimeout lport => Sys2Proof.Machine.execPortStateTimeout lport s
  | .portFailedHoldEnd lport => Sys2Proof.Machine.execPortFailedHoldEnd lport s
  | .portLinkDown lport => Sys2Proof.Machine.execPortLinkDown lport s
  | .portReferenceLoss => Sys2Proof.Machine.execPortReferenceLoss s
  | .portReferenceReturn => Sys2Proof.Machine.execPortReferenceReturn s
  | .systemReferenceLoss => Sys2Proof.Machine.execSystemReferenceLoss s
  | .powerSample watts => Sys2Proof.Machine.execPowerSample watts s
  | .powerControlLoop => Sys2Proof.Machine.execPowerControlLoop s
  | .supplyRampDone reach => Sys2Proof.Machine.execSupplyRampDone reach s
  | .pwrCapChange level => Sys2Proof.Machine.execPwrCapChange level s
  | .pwrCapInForce => Sys2Proof.Machine.execPwrCapInForce s
  | .inrushDone => Sys2Proof.Machine.execInrushDone s
  | .pwrEnRise => Sys2Proof.Machine.execPwrEnRise s
  | .pwrGoodRise => Sys2Proof.Machine.execPwrGoodRise s
  | .powerDown cause => Sys2Proof.Machine.execPowerDown cause s
  | .resetNAssert longEnough => Sys2Proof.Machine.execResetNAssert longEnough s
  | .resetNRise => Sys2Proof.Machine.execResetNRise s
  | .perstNRise => Sys2Proof.Machine.execPerstNRise s
  | .thermalTrip => Sys2Proof.Machine.execThermalTrip s
  | .stackLinkRetrainDone stack ok => Sys2Proof.Machine.execStackLinkRetrainDone stack ok s
  | .configSpaceWrite fn field => Sys2Proof.Machine.execConfigSpaceWrite fn field s

end Sys2Proof.Machine
end

