-- ==== Sys2Proof/Machine/Step.lean ====
section
/-! DEFINITION. One step: the command at the front of the queue runs with the queue's rest; on an empty queue the CD_REF
time advances (log 3). -/

namespace Sys2Proof.Machine

open Sys2Proof

/-- One tick of CD_REF while no command waits: the timestamp counts from power-good on, unless the device is stopped (R11, R552,
R558; log 3). -/
def idle (s : State) : State :=
  if s.dev.clk.pwrGood && s.dev.clk.resetN && !s.dev.clk.stopped then { s with dev := { s.dev with now := s.dev.now + 1 } } else s

/-- One step of the block. -/
def step (s : State) : Host.Outcome State Fault Refusal :=
  match s.pending with
  | [] => .next (idle s)
  | c :: rest => exec c { s with pending := rest }

/-- The state with the command that a word spells at the front of its queue. -/
def State.withFetchWord (s : State) (nbits w : Nat) : State :=
  match decodeTableWord nbits w with
  | none => s
  | some c => { s with pending := c :: s.pending }

end Sys2Proof.Machine
end

