-- ==== Sys2Proof/WellFormed.lean ====
section
/-! DEFINITION. Which commands name objects that exist: the ranges of R8, R91, R147, R356 and R391, and the sizes of what a
command carries (R350, R581). -/

namespace Sys2Proof

/-- A logical port: 8 × port + sub-port, 0 to 159 (R391). -/
def lportOk (l : Nat) : Bool := decide (l < 160)

/-- A flow record: 16,384 egress and 4,096 ingress records (R356). -/
def flowOk (f : BitVec 15) : Bool := decide (f.toNat < 20480)

/-- A gateable unit of a tile: six bank groups and four slots (R147). -/
def unitOk (u : BitVec 4) : Bool := decide (u.toNat < 10)

/-- A frame carries header bytes 32 to 59 and as many payload bytes as PAYLOAD_LEN says (R350). -/
def frameOk (f : Frame) : Bool := decide (f.body.length = 28) && decide (f.payload.length = f.payLen.toNat)

/-- An EEPROM read delivers 256 bytes (R581). -/
def fruOk (r : FruRead) : Bool :=
  match r with
  | .busy => true
  | .data bs => decide (bs.length = 256)

/-- A well-formed command. -/
def Instr.wf (i : Instr) : Bool :=
  match i with
  | .unitOff _ u => unitOk u
  | .unitWakeDone _ u => unitOk u
  | .chunkSend f _ => flowOk f
  | .ackTimerExpiry f => flowOk f
  | .rtoExpiry f => flowOk f
  | .requestRetransmit f => flowOk f
  | .flowTimeout f => flowOk f
  | .rateIncrease f => flowOk f
  | .ackFrameArrival l f => lportOk l && frameOk f
  | .dataFrameArrival l f => lportOk l && frameOk f
  | .abortFrameArrival l f => lportOk l && frameOk f
  | .requestFrameArrival l f => lportOk l && frameOk f
  | .frameDiscard l f => lportOk l && frameOk f
  | .msecCtrlWrite l _ => lportOk l
  | .saSlotWrite l _ _ _ => lportOk l
  | .portAnDone l _ => lportOk l
  | .portTrainingDone l => lportOk l
  | .portAligned l => lportOk l
  | .portStateTimeout l => lportOk l
  | .portFailedHoldEnd l => lportOk l
  | .portLinkDown l => lportOk l
  | .romInit _ f => fruOk f
  | .fruEepromRetry f => fruOk f
  | _ => true

end Sys2Proof
end

