-- ==== Sys2Proof/Safety.lean ====
section
/-! DEFINITION. What counts as a safe state, and the terms in which claims speak of one issue of a tile's sequencer. -/

namespace Sys2Proof.Machine

open Sys2Proof

/-- The memories of the block are in canonical form: host memory, pier and every tile's window. -/
def State.safe (s : State) : Bool :=
  Memory.wf s.dev.host && Memory.wf s.dev.pier.mem && s.dev.tiles.all (fun p => Memory.wf p.2.mem)

/-- Every command that waits is well-formed. -/
def State.queueWf (s : State) : Bool := s.pending.all Instr.wf

/-- The instruction that tile `f.tile` issues next, when its opcode is `op` after a prefix of opcode `pre` if one is given: the
tile with the ECC report of the fetch, the task with its PC past the instruction, the word and its prefix. -/
def atInstr (d : Dev) (f : Fetch) (op : Nat) (pre : Option Nat) : Option (Tile × Task × Word64 × Word64) :=
  match issuing (getTile d f.tile.toNat) with
  | none => none
  | some k =>
    match nextInstr (applyEcc (getTile d f.tile.toNat) f.ecc) k op pre with
    | .ok (some (w, p, n)) => some (applyEcc (getTile d f.tile.toNat) f.ecc, { k with pc := BitVec.ofNat 32 n }, w, p)
    | _ => none

/-- The state after an instruction of tile `t` that leaves the tile as `x` and its task as `k`, and nothing else changed. -/
def State.withTask (s : State) (t : TileId) (x : Tile) (k : Task) : State :=
  { s with dev := setTile s.dev t.toNat { x with run := some k } }

/-- RD of an instruction word, bits [55:50] (R158). -/
def rdOf (w : Word64) : Nat := fld w 50 6

/-- The command `mk f` completes with the value `v` in RD, every other register, everything else of the task, and the rest of
the state as it was; the PC stands past the instruction. -/
def writesRd (s : State) (mk : Fetch → Instr) (op : Nat) (v : Task → Word64 → Word64) : Prop :=
  ∀ f x k w p, atInstr s.dev f op none = some (x, k, w, p) →
    ∃ k', exec (mk f) s = .next (s.withTask f.tile x k') ∧ getR k' (rdOf w) = v k w ∧
      (∀ n, n ≠ rdOf w → getR k' n = getR k n) ∧ { k' with r := k.r } = k

/-- `n` words of deck from physical word `a` can be read now: no write in progress, no unit off or waking, no bad word (R130,
R142, R150, R151). -/
def deckReadable (x : Tile) (a n : Nat) : Bool :=
  !readHeld x a n && !anyGate x (4 * a) (4 * n) .waking && !anyGate x (4 * a) (4 * n) .off && (tileBad x (4 * a) (4 * n)).isNone

/-- `n` words of deck from physical word `a` can be written now (R130, R150, R151). -/
def deckWritable (x : Tile) (a n : Nat) : Bool :=
  !writeHeld x a n && !anyGate x (4 * a) (4 * n) .waking && !anyGate x (4 * a) (4 * n) .off
    && !anyGate x (4 * a) (4 * n) .draining

/-- Tile `y` is tile `x` with `bs` written at byte `off` of its window: those bytes read as written, every other byte of the
window as before, and nothing else but the error marks differs (R140, R141). -/
def tileStored (x y : Tile) (off : Nat) (bs : List Byte) : Prop :=
  memGets y.mem off bs.length = bs ∧ (∀ i, i < off ∨ off + bs.length ≤ i → memGet y.mem i = memGet x.mem i) ∧
    { y with mem := x.mem, bad := x.bad, fixups := x.fixups } = x

/-- `n` bytes of a tile's window from byte `off` can be read now (R142, R150, R151). -/
def winReadable (x : Tile) (off n : Nat) : Bool :=
  !anyGate x off n .waking && !anyGate x off n .off && (tileBad x off n).isNone

/-- `n` bytes of a tile's window from byte `off` can be written now (R150, R151). -/
def winWritable (x : Tile) (off n : Nat) : Bool :=
  !anyGate x off n .waking && !anyGate x off n .off && !anyGate x off n .draining

/-- Operand b of a vector instruction at lane `i`: V[VB] lane by lane, one lane of it, or the low word of S[RS] (R176). -/
def laneB (k : Task) (w : Word64) (i : Nat) : Word32 :=
  if fld w 42 2 = 0 then getV k (fld w 47 3) i
  else if fld w 42 2 = 1 then getV k (fld w 47 3) (fld w 36 6)
  else BitVec.ofNat 32 (fld (getS k (fld w 32 4)) 0 32)

/-- The command `mk f` completes with lane `i` of VD holding `v k w i` for each lane; every other vector register, everything
else of the task and the rest of the state stay. It runs when no queued SCULL still reads VD (R203). -/
def writesVd (s : State) (mk : Fetch → Instr) (op : Nat) (v : Task → Word64 → Nat → Word32) : Prop :=
  ∀ f x k w p, atInstr s.dev f op none = some (x, k, w, p) → vHeld k (fld w 53 3) = false →
    ∃ k', exec (mk f) s = .next (s.withTask f.tile x k') ∧ (∀ i, i < 64 → getV k' (fld w 53 3) i = v k w i) ∧
      (∀ n i, n ≠ fld w 53 3 → i < 64 → getV k' n i = getV k n i) ∧ { k' with v := k.v } = k

/-- The window offset of output element `(m, n)` of a pass (R90, R105). -/
def passOff (k : Task) (q : QEntry) (mn : Nat × Nat) : Nat :=
  elemOff k (elemIdx (qThin q) (qSlot q) (passWidth (qWfmt q)) (qM0 q + mn.1) mn.2).1
    (elemIdx (qThin q) (qSlot q) (passWidth (qWfmt q)) (qM0 q + mn.1) mn.2).2

/-- Whether a pass can write its results now: its slots are ON, its elements lie apart, and no element that it adds to is
uncorrectable (R142, R150, R151). -/
def passReady (x : Tile) (k : Task) (p : Pass) : Bool :=
  (passSlots p.q).all (fun j => winWritable x (elemOff k j 0) 65536) && decide ((passCells p.q).map (passOff k p.q)).Nodup &&
    (qInit p.q || x.bad.all (fun b => !((passCells p.q).map (fun mn => passOff k p.q mn / 4)).contains b))

/-- A pass without escapes to correct or of another kind leaves tile `y` from tile `x`: each output element is the old one
accumulated with its products, and every byte outside the output elements stays (R50 to R54, R76, R90, R175). -/
def passWrote (x y : Tile) (k : Task) (p : Pass) : Prop :=
  (∀ mn, mn ∈ passCells p.q → mem32 y.mem (passOff k p.q mn) =
    (accumulate (intPair (qAfmt p.q)) (taskExact k) (qInit p.q) (qShift p.q) (mem32 x.mem (passOff k p.q mn))
      (products x p mn.1 mn.2)).1) ∧
  (∀ i, (∀ mn, mn ∈ passCells p.q → i < passOff k p.q mn ∨ passOff k p.q mn + 4 ≤ i) → memGet y.mem i = memGet x.mem i)

/-- Everything that a WAIT names is idle: the DMA and trestle tags of its masks, the passes, the conversions (R162). -/
def waitIdle (k : Task) (w : Word64) : Prop :=
  (∀ i, i < 16 → bitOf w i = true → tget k.dmaTag i 0 = 0) ∧ (∀ i, i < 8 → bitOf w (16 + i) = true → tget k.trTag i 0 = 0) ∧
    (bitOf w 24 = true → k.queue = [] ∧ k.passes = []) ∧ (bitOf w 26 = true → k.convs = [])

/-- Some entry of a kind that an SBWAIT names overlaps `n` words from physical word `a` (R128, R192). -/
def sbNamed (x : Tile) (w : Word64) (a n : Nat) : Prop :=
  ∃ e, e ∈ x.sb ∧ (if e.write then bitOf w 36 else bitOf w 35) = true ∧ sbOverlap e a n = true

/-- The ranges of an operand fill an activation buffer: rows or scales of activations (R91). -/
def fillsAct (rs : List Rng) : Bool := rs.any (fun r => decide (r.num < 2))

/-- One of two feed buffers is not in use (R85). -/
def someFree (busy : List Nat) : Bool := (List.range 2).any (fun b => !busy.contains b)

/-- Staging of queue entry `q` over the ranges `rs` can run now: no WRITE entry overlaps them, the scoreboard has room, the feed
buffers that it fills are free, every row can be read, and the value table of a W2 weight is exact (R36, R85, R91, R130, R131,
R142). -/
def stageReady (x : Tile) (k : Task) (q : QEntry) (rs : List Rng) : Bool :=
  someFree (wtBusy k) && (qReuse q || !fillsAct rs || someFree (actBusy k)) &&
  rs.all (fun r => !readHeld x r.phys (rngSpan r) &&
    (List.range r.rows).all (fun i => winReadable x (4 * (r.phys + r.extra + i * r.stride)) (4 * r.words)) &&
    (!(decide (r.num = 3) && decide (qWfmt q = 8)) || (winReadable x (4 * r.phys) 8 && w2TableOk q (memGets x.mem (4 * r.phys) 8))))
  && decide (x.sb.length + rs.length ≤ 16) && (decide (qWfmt q ≠ 8) || rs.any (fun r => decide (r.num = 3)))

/-- The rows of a deck range as they stand. -/
def rowsNow (x : Tile) (r : Rng) : List (List Byte) :=
  (List.range r.rows).map (fun i => memGets x.mem (4 * (r.phys + r.extra + i * r.stride)) (4 * r.words))

/-- The state after tile `t`'s task `k` has put transfer `xf` in flight, with the tile left as `y` and its Slide engine showing
its work (R428). -/
def State.withXfer (s : State) (t : TileId) (y : Tile) (k : Task) (xf : Xfer) : State :=
  { s with dev := syncEngine { setTile s.dev t.toNat { y with run := some k } with
      xfers := tset s.dev.xfers s.dev.nextX xf, nextX := s.dev.nextX + 1 } t.toNat }

/-- A range of deck is free for a transfer: no entry in its way, and room for `m` more entries, unless the transfer is unscored
(R129 to R131). -/
def scoreFree (x : Tile) (unscb write : Bool) (rs : List (Nat × Nat)) : Bool :=
  unscb || (rs.all (fun r => if write then !writeHeld x r.1 r.2 else !readHeld x r.1 r.2) &&
    (!write || decide (x.sb.length + rs.length ≤ 16)))

/-- The WRITE entries of transfer `i` over ranges of deck, none for an unscored transfer or a read (R129). -/
def scoreOf (i : Nat) (unscb write : Bool) (rs : List (Nat × Nat)) : List SbEntry :=
  if write && !unscb then rs.map (fun r => { first := r.1 / 16, last := (r.1 + r.2 - 1) / 16, write := true, owner := .xfer i })
  else []

/-- The deck ranges of a PGATHER or PSCATTER: elements, and scales with SCALES set (R188, R260). -/
def moveRanges (k : Task) (w : Word64) (write : Bool) : Eff (List (Nat × Nat)) :=
  ((moveTens (geoOf (getR k (fld w 46 5 + 1))) (bitOf w 18) (bitOf w 17)).zipIdx).mapM (fun p => do
    let a ← deckOperand k (fld w 51 5 + p.2) 0 (tDeckBytes p.1 (fld w 32 10 + 1) / 4) write
    pure (a, tDeckBytes p.1 (fld w 32 10 + 1) / 4))

/-- Everything of a device's memories but the window of tile `t` is as in another. -/
def sameMemBut (d d' : Dev) (t : Nat) : Prop :=
  d'.host = d.host ∧ d'.pier.mem = d.pier.mem ∧ ∀ u, u ≠ t → (getTile d' u).mem = (getTile d u).mem

/-- Every memory of a device is as in another. -/
def sameMem (d d' : Dev) : Prop :=
  d'.host = d.host ∧ d'.pier.mem = d.pier.mem ∧ ∀ u, (getTile d' u).mem = (getTile d u).mem

/-- What Cox takes from a context's command ring when its front entry is a listed command that `want` accepts with its reserved
bits zero: the device with CONS advanced, and the taken entry (R480, R486, R493). -/
def takes (d : Dev) (fn vctx : Nat) (want : List Byte → Bool) : Option (Dev × Taken) :=
  match ctxOf d fn vctx with
  | none => none
  | some cr =>
    match mayTake d cr (ringKey fn vctx 0), readVa d cr none ((getRing d (ringKey fn vctx 0)).ba.toNat
        + 64 * ((getRing d (ringKey fn vctx 0)).cons.toNat % ringSize (getRing d (ringKey fn vctx 0)))) 64 with
    | true, .ok e =>
      if knownOps.contains (leAt e 0 1) && want e && reservedOk e then
        match advanceCons (chargeRead d cr (getRing d (ringKey fn vctx 0)).ba.toNat 64) (ringKey fn vctx 0) cr with
        | (d1, none) => some (d1, { cr := cr, fn := fn, e := e })
        | (_, some _) => none
      else none
    | _, _ => none

/-- The state after a taken command left the device as `d` and then what follows every change of slots and contexts (R273, R443,
R451). -/
def State.settled (s : State) (d : Dev) : State := { s with dev := coxSettle d }

/-- The device after a frame that a port and the causeway accept, with the live flow that it names (R364, R365, R396). -/
def reaches (d : Dev) (l : Nat) (f : Frame) : Option (Dev × Nat × Flow) :=
  match portIn d l f with
  | none => none
  | some d1 =>
    if causewayOk d1 f then
      match liveFlow d1 f with
      | some (i, r) =>
        if r.use.toNat = flowUse f ∧ r.handle = f.handle then some ({ d1 with cwy := { d1.cwy with lastStale := none } }, i, r) else none
      | none => none
    else none

end Sys2Proof.Machine
end

