-- ==== Sys2Proof/Certificates/Slice0/Obligations.lean ====
section
/-! DEFINITION. The statements for the provers. -/

open Sys2Proof Sys2Proof.Machine

/-! ## The queue and the step -/

/-- A step on a queue whose front is `c` answers what `c` does to the device with the rest of the queue waiting. -/
def Obligations.StepRunsFrontCommand : Prop :=
  ∀ (c : Instr) (rest : List Instr) (d : Dev), step { pending := c :: rest, dev := d } = exec c { pending := rest, dev := d }

/-! ## Scalar instructions -/

/-- R158 to R160: LI, LIH and the eight operations of RD ← RS1 op (RS2 or IMM32).
R159, R161: NOP goes on; JMP goes to B + 2 × IMM32, where B is the word offset of the branch; BR goes there when its
condition holds of RD; LOOP lowers RD by one and goes there unless the result is zero. Nothing else changes. -/
def Obligations.ScalarAndBranchResults : Prop :=
  (∀ s : State,
      writesRd s .li 0x06 (fun _ w => (w.extractLsb' 0 32).signExtend 64) ∧
      writesRd s .lih 0x07 (fun k w => w.extractLsb' 0 32 ++ (getR k (rdOf w)).extractLsb' 0 32) ∧
      writesRd s .add 0x08 (fun k w => getR k (fld w 44 6) + src2 k w) ∧
      writesRd s .sub 0x09 (fun k w => getR k (fld w 44 6) - src2 k w) ∧
      writesRd s .and 0x0A (fun k w => getR k (fld w 44 6) &&& src2 k w) ∧
      writesRd s .or 0x0B (fun k w => getR k (fld w 44 6) ||| src2 k w) ∧
      writesRd s .xor 0x0C (fun k w => getR k (fld w 44 6) ^^^ src2 k w) ∧
      writesRd s .shl 0x0D (fun k w => getR k (fld w 44 6) <<< ((src2 k w).toNat % 64)) ∧
      writesRd s .shr 0x0E (fun k w => getR k (fld w 44 6) >>> ((src2 k w).toNat % 64)) ∧
      writesRd s .mul 0x0F (fun k w => getR k (fld w 44 6) * src2 k w)) ∧
  (∀ (s : State) (f : Fetch) (x : Tile) (k : Task) (w p : Word64),
      (atInstr s.dev f 0x00 none = some (x, k, w, p) → exec (.nop f) s = .next (s.withTask f.tile x k)) ∧
      (atInstr s.dev f 0x01 none = some (x, k, w, p) →
        exec (.jmp f) s = .next (s.withTask f.tile x { k with pc := k.pc - 2 + 2 * w.extractLsb' 0 32 })) ∧
      (atInstr s.dev f 0x02 none = some (x, k, w, p) →
        exec (.br f) s = .next (s.withTask f.tile x
          { k with pc := if brCond (fld w 32 3) (getR k (rdOf w)) then k.pc - 2 + 2 * w.extractLsb' 0 32 else k.pc })) ∧
      (atInstr s.dev f 0x03 none = some (x, k, w, p) →
        ∃ k', exec (.loop f) s = .next (s.withTask f.tile x k') ∧ getR k' (rdOf w) = getR k (rdOf w) - 1 ∧
          (∀ n, n ≠ rdOf w → getR k' n = getR k n) ∧
          { k' with r := k.r } = { k with pc := if getR k (rdOf w) = 1 then k.pc else k.pc - 2 + 2 * w.extractLsb' 0 32 }))

/-- R164: LDW reads one word, zero-extended, and LDD two. STW stores the low 32 bits of RD, STD all 64, at the operand's physical
words; the register file, the other tiles and every other byte of the tile stay. An LDD or STD at an odd physical word faults its
context with F_DECK_BOUND, and nothing is read or written. -/
def Obligations.ScalarMemory : Prop :=
  (∀ (s : State) (f : Fetch) (x : Tile) (k : Task) (w p : Word64) (a : Nat),
      (atInstr s.dev f 0x10 none = some (x, k, w, p) → deckOperand k (fld w 45 5) (offOf w) 1 false = .ok a →
        deckReadable x a 1 = true →
        ∃ k', exec (.ldw f) s = .next (s.withTask f.tile x k') ∧ getR k' (rdOf w) = (mem32 x.mem (4 * a)).setWidth 64 ∧
          (∀ n, n ≠ rdOf w → getR k' n = getR k n) ∧ { k' with r := k.r } = k) ∧
      (atInstr s.dev f 0x11 none = some (x, k, w, p) → deckOperand k (fld w 45 5) (offOf w) 2 false = .ok a → a % 2 = 0 →
        deckReadable x a 2 = true →
        ∃ k', exec (.ldd f) s = .next (s.withTask f.tile x k') ∧ getR k' (rdOf w) = mem64 x.mem (4 * a) ∧
          (∀ n, n ≠ rdOf w → getR k' n = getR k n) ∧ { k' with r := k.r } = k) ∧
      (∀ store : Bool, atInstr s.dev f (if store then 0x13 else 0x11) none = some (x, k, w, p) →
        deckOperand k (fld w 45 5) (offOf w) 2 store = .ok a → a % 2 = 1 →
        ∃ k0, (getTile s.dev f.tile.toNat).run = some k0 ∧ exec (if store then .std f else .ldd f) s = .next { s with
          dev := tileFault (setTile s.dev f.tile.toNat x) f.tile.toNat k0 k0.pc 0x0003 0 })) ∧
  (∀ (s : State) (f : Fetch) (x : Tile) (k : Task) (w p : Word64) (a : Nat), s.safe = true →
      (atInstr s.dev f 0x12 none = some (x, k, w, p) → deckOperand k (fld w 45 5) (offOf w) 1 true = .ok a →
        deckWritable x a 1 = true →
        ∃ y, exec (.stw f) s = .next (s.withTask f.tile y k) ∧ tileStored x y (4 * a) (toLe 4 (getR k (rdOf w)).toNat)) ∧
      (atInstr s.dev f 0x13 none = some (x, k, w, p) → deckOperand k (fld w 45 5) (offOf w) 2 true = .ok a → a % 2 = 0 →
        deckWritable x a 2 = true →
        ∃ y, exec (.std f) s = .next (s.withTask f.tile y k) ∧ tileStored x y (4 * a) (toLe 8 (getR k (rdOf w)).toNat)))

/-! ## Deck, accumulator and configuration -/

/-- R105, R165: MOVDA copies NROW + 1 runs of 128 words of deck into slot rows; MOVAD copies slot rows to deck, or element
(m, n) of the THIN result to word m × (N + 1) + n; every byte outside the destination stays.
R165: ACLR sets every element of the slots in SMASK to +0 and clears their SAT bits; every other byte and SAT bit stays. -/
def Obligations.SlotAccess : Prop :=
  (∀ (s : State) (f : Fetch) (x : Tile) (k : Task) (w p : Word64) (a : Nat), s.safe = true →
      passHeld k [fld w 54 2] = false →
      (atInstr s.dev f 0x14 none = some (x, k, w, p) →
        deckOperand k (fld w 34 5) (offOf w) (128 * (fld w 39 7 + 1)) true = .ok a →
        deckReadable x a (128 * (fld w 39 7 + 1)) = true →
        winWritable x (elemOff k (fld w 54 2) (128 * fld w 46 7)) (512 * (fld w 39 7 + 1)) = true →
        ∃ y, exec (.movda f) s = .next (s.withTask f.tile y k) ∧
          tileStored x y (elemOff k (fld w 54 2) (128 * fld w 46 7)) (memGets x.mem (4 * a) (512 * (fld w 39 7 + 1)))) ∧
      (atInstr s.dev f 0x15 none = some (x, k, w, p) → bitOf w 53 = false →
        deckOperand k (fld w 34 5) (offOf w) (128 * (fld w 39 7 + 1)) true = .ok a →
        deckWritable x a (128 * (fld w 39 7 + 1)) = true →
        winReadable x (elemOff k (fld w 54 2) (128 * fld w 46 7)) (512 * (fld w 39 7 + 1)) = true →
        ∃ y, exec (.movad f) s = .next (s.withTask f.tile y k) ∧
          tileStored x y (4 * a) (memGets x.mem (elemOff k (fld w 54 2) (128 * fld w 46 7)) (512 * (fld w 39 7 + 1)))) ∧
      (atInstr s.dev f 0x15 none = some (x, k, w, p) → bitOf w 53 = true →
        deckOperand k (fld w 34 5) (offOf w) ((fld w 50 3 + 1) * (fld w 39 11 + 1)) true = .ok a →
        deckWritable x a ((fld w 50 3 + 1) * (fld w 39 11 + 1)) = true →
        (∀ i, i < (fld w 50 3 + 1) * (fld w 39 11 + 1) →
          winReadable x (elemOff k (fld w 54 2) (i % (fld w 39 11 + 1) * 8 + i / (fld w 39 11 + 1))) 4 = true) →
        ∃ y, exec (.movad f) s = .next (s.withTask f.tile y k) ∧
          tileStored x y (4 * a) (((List.range ((fld w 50 3 + 1) * (fld w 39 11 + 1))).map (fun i =>
            toLe 4 (mem32 x.mem (elemOff k (fld w 54 2) (i % (fld w 39 11 + 1) * 8 + i / (fld w 39 11 + 1)))).toNat)).flatten))) ∧
  (∀ (s : State) (f : Fetch) (x : Tile) (k : Task) (w p : Word64),
      atInstr s.dev f 0x16 none = some (x, k, w, p) →
      (∀ j, j < 4 → bitOf w (52 + j) = true → passHeld k [j] = false ∧ winWritable x (elemOff k j 0) 65536 = true) →
      ∃ y, exec (.aclr f) s = .next (s.withTask f.tile y k) ∧
        (∀ j i, j < 4 → bitOf w (52 + j) = true → elemOff k j 0 ≤ i → i < elemOff k j 0 + 65536 → memGet y.mem i = 0) ∧
        (∀ j, j < 4 → bitOf w (52 + j) = true → physSlot k j < 4 → bitOf y.sat (physSlot k j) = false) ∧
        (∀ i, (∀ j, j < 4 → bitOf w (52 + j) = true → i < elemOff k j 0 ∨ elemOff k j 0 + 65536 ≤ i) →
          memGet y.mem i = memGet x.mem i) ∧
        (∀ b, b < 4 → (∀ j, j < 4 → bitOf w (52 + j) = true → physSlot k j ≠ b) → bitOf y.sat b = bitOf x.sat b) ∧
        { y with mem := x.mem, bad := x.bad, fixups := x.fixups, sat := x.sat } = x)

/-- R167, R180, R186, R195, R192: MMCFG and OCFG set their strides; FLAGRD reads the flag word and FLAGCLR clears the flags of
its mask once every conversion is done; SBCOUNT counts the scoreboard's entries; SAVE_POINT sets the entry in force and, where
CHEAP meets a pending request, stops the sequencer.
R162, R163, R192: WAIT completes when every tag count and unit that it names is idle, SBWAIT when no entry of the kinds it
names overlaps its range, SBDRAIN when the scoreboard is empty; otherwise each is held and nothing changes. END stops the
sequencer's issue. -/
def Obligations.ConfigFlagsAndWaits : Prop :=
  (∀ (s : State) (f : Fetch) (x : Tile) (k : Task) (w p : Word64),
      (atInstr s.dev f 0x21 none = some (x, k, w, p) →
        exec (.mmcfg f) s = .next (s.withTask f.tile x { k with mm :=
          { aStride := w.extractLsb' 42 14, asStride := w.extractLsb' 28 14, wStride := w.extractLsb' 14 14,
            wsStride := w.extractLsb' 0 14 } })) ∧
      (atInstr s.dev f 0x52 none = some (x, k, w, p) →
        exec (.ocfg f) s = .next (s.withTask f.tile x { k with oc :=
          { eStride := w.extractLsb' 42 14, sStride := w.extractLsb' 28 14, xStride := w.extractLsb' 14 14 } })) ∧
      (k.convs = [] → atInstr s.dev f 0x55 none = some (x, k, w, p) →
        exec (.flagclr f) s = .next (s.withTask f.tile x { k with flags := k.flags &&& ~~~ w.extractLsb' 0 8 })) ∧
      (atInstr s.dev f 0xF0 none = some (x, k, w, p) →
        exec (.savePoint f) s = .next (s.withTask f.tile { x with stopped := x.stopped || (x.preReq && bitOf w 45) }
          { k with lrt := fld w 46 10 })) ∧
      (k.convs = [] → atInstr s.dev f 0x54 none = some (x, k, w, p) →
        ∃ k', exec (.flagrd f) s = .next (s.withTask f.tile x k') ∧ getR k' (rdOf w) = k.flags.zeroExtend 64 ∧
          (∀ n, n ≠ rdOf w → getR k' n = getR k n) ∧ { k' with r := k.r } = k) ∧
      (atInstr s.dev f 0x82 none = some (x, k, w, p) →
        ∃ k', exec (.sbcount f) s = .next (s.withTask f.tile x k') ∧ getR k' (rdOf w) = BitVec.ofNat 64 x.sb.length ∧
          (∀ n, n ≠ rdOf w → getR k' n = getR k n) ∧ { k' with r := k.r } = k)) ∧
  (∀ (s : State) (f : Fetch) (x : Tile) (k : Task) (w p : Word64) (a : Nat),
      (atInstr s.dev f 0x04 none = some (x, k, w, p) → waitIdle k w → exec (.wait f) s = .next (s.withTask f.tile x k)) ∧
      (atInstr s.dev f 0x04 none = some (x, k, w, p) → ¬ waitIdle k w → exec (.wait f) s = .next s) ∧
      (atInstr s.dev f 0x80 none = some (x, k, w, p) → deckOperand k (fld w 51 5) (offOf w) (fld w 37 14) false = .ok a →
        ¬ sbNamed x w a (fld w 37 14) → exec (.sbwait f) s = .next (s.withTask f.tile x k)) ∧
      (atInstr s.dev f 0x80 none = some (x, k, w, p) → deckOperand k (fld w 51 5) (offOf w) (fld w 37 14) false = .ok a →
        sbNamed x w a (fld w 37 14) → exec (.sbwait f) s = .next s) ∧
      (atInstr s.dev f 0x81 none = some (x, k, w, p) → x.sb = [] → exec (.sbdrain f) s = .next (s.withTask f.tile x k)) ∧
      (atInstr s.dev f 0x81 none = some (x, k, w, p) → x.sb ≠ [] → exec (.sbdrain f) s = .next s) ∧
      (atInstr s.dev f 0x05 none = some (x, k, w, p) →
        exec (.endTask f) s = .next (s.withTask f.tile x { k with ending := true })))

/-! ## Rigger -/

/-- R61, R62, R107 to R110, R176 to R178: the ten vector operations, lane by lane; VRED reduces V[VA] into one lane. -/
def Obligations.VectorResults : Prop :=
  ∀ s : State,
    writesVd s .vadd 0x40 (fun k w i => add32 (getV k (fld w 50 3) i) (laneB k w i)) ∧
    writesVd s .vsub 0x41 (fun k w i => sub32 (getV k (fld w 50 3) i) (laneB k w i)) ∧
    writesVd s .vmul 0x42 (fun k w i => mul32 (getV k (fld w 50 3) i) (laneB k w i)) ∧
    writesVd s .vfma 0x43 (fun k w i => fma32 (getV k (fld w 50 3) i) (laneB k w i) (getV k (fld w 44 3) i)) ∧
    writesVd s .vmax 0x44 (fun k w i => max32 (getV k (fld w 50 3) i) (laneB k w i)) ∧
    writesVd s .vmin 0x45 (fun k w i => min32 (getV k (fld w 50 3) i) (laneB k w i)) ∧
    writesVd s .vcmp 0x46 (fun k w i => cmp32 (fld w 29 3) (getV k (fld w 50 3) i) (laneB k w i)) ∧
    writesVd s .vcvt 0x47 (fun k w i => if fld w 29 3 = 0 then f2i32 (getV k (fld w 50 3) i) else i2f32 (getV k (fld w 50 3) i)) ∧
    writesVd s .vfunc 0x48 (fun k w i => vfunc (fld w 29 3) (getV k (fld w 50 3) i)) ∧
    writesVd s .vred 0x49 (fun k w i => if i = fld w 36 6 then treeOf (redOp (fld w 29 3)) 6 (lanes k (fld w 50 3))
      else getV k (fld w 53 3) i)

/-- R179: VLD and VLDA load the 64 lanes of VD from deck or from half an accumulator row; VST and VSTA store those of VS; no
value is changed and every other byte stays. -/
def Obligations.VectorMoves : Prop :=
  ∀ (s : State) (f : Fetch) (x : Tile) (k : Task) (w p : Word64) (a : Nat), s.safe = true →
    (atInstr s.dev f 0x4C none = some (x, k, w, p) → deckOperand k (fld w 45 5) (offOf w) 64 false = .ok a →
      deckReadable x a 64 = true → vHeld k (fld w 53 3) = false →
      ∃ k', exec (.vld f) s = .next (s.withTask f.tile x k') ∧
        (∀ i, i < 64 → getV k' (fld w 53 3) i = mem32 x.mem (4 * a + 4 * i)) ∧
        (∀ n i, n ≠ fld w 53 3 → i < 64 → getV k' n i = getV k n i) ∧ { k' with v := k.v } = k) ∧
    (atInstr s.dev f 0x4E none = some (x, k, w, p) → passHeld k [fld w 51 2] = false → vHeld k (fld w 53 3) = false →
      winReadable x (elemOff k (fld w 51 2) (halfRow w)) 256 = true →
      ∃ k', exec (.vlda f) s = .next (s.withTask f.tile x k') ∧
        (∀ i, i < 64 → getV k' (fld w 53 3) i = mem32 x.mem (elemOff k (fld w 51 2) (halfRow w) + 4 * i)) ∧
        (∀ n i, n ≠ fld w 53 3 → i < 64 → getV k' n i = getV k n i) ∧ { k' with v := k.v } = k) ∧
    (atInstr s.dev f 0x4D none = some (x, k, w, p) → deckOperand k (fld w 45 5) (offOf w) 64 true = .ok a →
      deckWritable x a 64 = true →
      ∃ y, exec (.vst f) s = .next (s.withTask f.tile y k) ∧ tileStored x y (4 * a) (vBytes k (fld w 53 3))) ∧
    (atInstr s.dev f 0x4F none = some (x, k, w, p) → passHeld k [fld w 51 2] = false →
      winWritable x (elemOff k (fld w 51 2) (halfRow w)) 256 = true →
      ∃ y, exec (.vsta f) s = .next (s.withTask f.tile y k) ∧
        tileStored x y (elemOff k (fld w 51 2) (halfRow w)) (vBytes k (fld w 53 3)))

/-! ## Passes -/

/-- R92, R95, R168, R171, R174, R202: MATMUL, SCULL and SCORR take the next place of the staging queue with their address
registers and truss configuration captured, nothing staged yet; the deck and the accumulator stay.
R93, R96, R202: the head of the staging queue issues once it is staged, the other path has drained, no conversion reads its
slots and no earlier DMA has pages left on them; a SCULL reads its vector registers then. -/
def Obligations.QueueAndIssue : Prop :=
  (∀ (s : State) (f : Fetch) (x : Tile) (k : Task) (w p : Word64) (kind : QKind) (q : QEntry) (rs : List Rng),
      k.queue.length < 2 → opRanges k q = .ok rs →
      q = { id := k.nextId, kind := kind, word := w, pre := p, aAddr := getR k (4 * qAb kind w), asAddr := getR k (4 * qAb kind w + 1),
            wAddr := getR k (4 * qAb kind w + 2), wsAddr := getR k (4 * qAb kind w + 3), mm := k.mm,
            pc := k.pc - (if kind = .scull then 4 else 2), ranges := [], data := none } →
      (kind = .matmul → atInstr s.dev f 0x20 none = some (x, k, w, p) → (bitOf w 12 = true → k.shape = some (shapeOf w)) →
        exec (.matmul f) s = .next (s.withTask f.tile x
          { k with queue := k.queue ++ [q], nextId := k.nextId + 1, shape := some (shapeOf w) })) ∧
      (kind = .scull → atInstr s.dev f 0x30 (some 0x31) = some (x, k, w, p) →
        exec (.scull f) s = .next (s.withTask f.tile x { k with queue := k.queue ++ [q], nextId := k.nextId + 1 })) ∧
      (kind = .scorr → atInstr s.dev f 0x32 none = some (x, k, w, p) →
        exec (.scorr f) s = .next (s.withTask f.tile x { k with queue := k.queue ++ [q], nextId := k.nextId + 1 }))) ∧
  (∀ (s : State) (t : TileId) (k : Task) (q : QEntry) (rest : List QEntry) (st : Staged),
      (getTile s.dev t.toNat).run = some k → (getTile s.dev t.toNat).stopped = false → k.queue = q :: rest → q.data = some st →
      q.ranges = [] → (∀ p, p ∈ k.passes → (p.q.kind = .matmul ↔ q.kind = .matmul)) →
      (∀ c, c ∈ k.convs → ∀ j, j ∈ c.slots → j ∉ entrySlots q) → dmaHolds s.dev t.toNat k q = false →
      exec (.passIssue t) s = .next (s.withTask t (getTile s.dev t.toNat)
        { k with queue := rest, passes := k.passes ++ [{ q := q, data := st, vec := if q.kind = .scull then vecRows k q else [] }]
                 held := if q.kind = .matmul then st.act else k.held }))

/-- R85, R91, R95, R129: staging captures the rows of every operand range of the first queued instruction not yet staged in feed
buffers that nothing uses, the other buffers staying, and registers a STAGE entry for each range; a REUSE pass takes the
activation buffer of the pass before it. STAGING_DONE removes the entry of one range of the oldest instruction that still stages
it. The deck, the registers and the other tiles stay. -/
def Obligations.Staging : Prop :=
  ∀ (s : State) (t : TileId) (ecc : Ecc) (x : Tile) (k : Task) (q : QEntry),
    (getTile s.dev t.toNat).run = some k →
    (∀ (i : Nat) (rs : List Rng), (getTile s.dev t.toNat).stopped = false → x = applyEcc (getTile s.dev t.toNat) ecc →
      unstaged k = some (i, q) → opRanges k q = .ok rs → stageReady x k q rs = true →
      ∃ st y, exec (.stageOperands t ecc) s = .next (s.withTask t y
          { k with queue := k.queue.set i { q with data := some st, ranges := rs.map (fun r => r.num) } }) ∧
        { y with actBuf := x.actBuf, wtBuf := x.wtBuf } =
          { x with sb := x.sb ++ rs.map (fun r => { first := r.phys / 16, last := (r.phys + rngSpan r - 1) / 16, write := false,
                                                    owner := .stage q.id r.num }) } ∧
        st.wt < 2 ∧ st.wt ∉ wtBusy k ∧
        (∀ b, b ≠ st.wt → tget y.wtBuf b FeedBuf.init = tget x.wtBuf b FeedBuf.init) ∧
        (∀ r, rs.find? (fun r => r.num = 2) = some r → (tget y.wtBuf st.wt FeedBuf.init).rows = rowsNow x r) ∧
        (∀ r, rs.find? (fun r => r.num = 3) = some r → (tget y.wtBuf st.wt FeedBuf.init).scales = rowsNow x r ∧
          (qWfmt q = 8 → (tget y.wtBuf st.wt FeedBuf.init).table = memGets x.mem (4 * r.phys) 8)) ∧
        (qReuse q = true → st.act = prevAct k i) ∧ (fillsAct rs = false → y.actBuf = x.actBuf) ∧
        (qReuse q = false → fillsAct rs = true → ∃ a, st.act = some a ∧ a < 2 ∧ a ∉ actBusy k ∧
          (∀ b, b ≠ a → tget y.actBuf b FeedBuf.init = tget x.actBuf b FeedBuf.init) ∧
          (∀ r, rs.find? (fun r => r.num = 0) = some r → (tget y.actBuf a FeedBuf.init).rows = rowsNow x r) ∧
          (∀ r, rs.find? (fun r => r.num = 1) = some r → (tget y.actBuf a FeedBuf.init).scales = rowsNow x r))) ∧
    (∀ (r : BitVec 2) (before after : List QEntry), k.queue = before ++ q :: after →
      (∀ e, e ∈ before → r.toNat ∉ e.ranges) → r.toNat ∈ q.ranges →
      exec (.stagingDone t r) s = .next (s.withTask t
        { getTile s.dev t.toNat with sb := (getTile s.dev t.toNat).sb.filter (fun e => e.owner ≠ .stage q.id r.toNat) }
        { k with queue := before ++ { q with ranges := q.ranges.erase r.toNat } :: after }))

/-- R50 to R54, R90, R98, R105, R106, R175: when a pass completes, each output element is accumulated with its products and every
byte outside its output elements stays; a SCORR without escapes leaves the slot as it was. PASS_DRAIN ends a MATMUL,
SCULL_RESULTS_WRITTEN a SCULL or SCORR. -/
def Obligations.PassResults : Prop :=
  ∀ (s : State) (t : TileId) (x : Tile) (k : Task) (p : Pass) (rest : List Pass), s.safe = true →
    x = getTile s.dev t.toNat → x.run = some k → k.passes = p :: rest → passReady x k p = true →
    ∃ y, (p.q.kind = .matmul → exec (.passDrain t) s = .next (s.withTask t y { k with passes := rest })) ∧
      (p.q.kind ≠ .matmul → exec (.scullResultsWritten t) s = .next (s.withTask t y { k with passes := rest })) ∧
      (p.q.kind ≠ .scorr ∨ hasEscape x p = true → passWrote x y k p) ∧
      (p.q.kind = .scorr → hasEscape x p = false → y = x) ∧
      { y with mem := x.mem, bad := x.bad, fixups := x.fixups, sat := x.sat } = x

/-! ## Output stage -/

/-- R63, R181: a CVT whose slots are free of passes and whose destinations are free registers them as WRITE entries and joins the
conversions in progress: it will write the elements, the scales when its scale mode has them, and the escapes when ESC is not 0;
without block scales the elements are those of its values one by one. The deck and the flag word do not change yet.
R77, R78, R185: a CVTS registers the ranges of its two or three planes as WRITE entries and joins the conversions in
progress. That its flags hold ACC_SAT and HIST_SAT too is the model's choice (log 89). -/
def Obligations.ConversionIssue : Prop :=
  (∀ (s : State) (f : Fetch) (x x1 : Tile) (k : Task) (w p : Word64) (m n sm : Nat) (cm : CvtMode) (e : Rng) (sr xr : List Rng)
    (zs : List (List Machine.Num)) (o : CvtOut),
      atInstr s.dev f 0x50 (some 0x56) = some (x, k, w, p) → passHeld k (cvtSlots w) = false → m = fld w 47 9 + 1 →
      n = fld w 36 11 + 1 → sm = fld w 19 8 → cm = { tfmt := fld w 27 4, clip := bitOf w 18, flush := taskFlush k } →
      mkRng k 0 (getR k (4 * fld w 6 3)) 0 m k.oc.eStride.toNat (rowBytes (fld w 27 4) n / 4) true = .ok e →
      (if smFmt sm = 0 then sr = [] else ∃ r, sr = [r] ∧ mkRng k 1 (getR k (4 * fld w 6 3 + 1)) 0 (scaleShape sm m n).1
        k.oc.sStride.toNat (cdiv ((scaleShape sm m n).2 * scaleBytes (smFmt sm)) 4) true = .ok r) →
      (if fld w 16 2 = 0 then xr = [] else ∃ r, xr = [r] ∧ mkRng k 2 (getR k (4 * fld w 6 3 + 2)) 0 m k.oc.xStride.toNat
        (cdiv n 32) true = .ok r) →
      cvtValues x k w p = .ok zs → claimRanges x (e :: (sr ++ xr)) k.nextId = .ok x1 →
      o = (if smFmt sm = 0 then cvtPlain cm zs
        else if smDir sm then cvtDir1 cm sm n zs else cvtDir0 cm sm (fld w 16 2) zs) →
      exec (.cvt f) s = .next (s.withTask f.tile (cvtCount x1 k w zs).1 { k with
        convs := k.convs ++ [{ id := k.nextId
                               writes := rowCells e (fmtWidth (fld w 27 4)) o.rows
                                 ++ sr.flatMap (fun r => rowCells r (8 * scaleBytes (smFmt sm)) o.scales)
                                 ++ xr.flatMap (fun r => rowCells r 32 o.escs)
                               flags := (cvtCount x1 k w zs).2 ||| o.flags, slots := cvtSlots w }]
        nextId := k.nextId + 1 }) ∧
      (smFmt sm = 0 → o.rows = zs.map (fun r => r.map (fun z => (cvtElem cm z).1))) ∧
      { (cvtCount x1 k w zs).1 with hist := x1.hist, histSat := x1.histSat } = x1 ∧ x1.mem = x.mem) ∧
  (∀ (s : State) (f : Fetch) (x x1 : Tile) (k : Task) (w p : Word64) (rs : List Rng) (zs : List (List Machine.Num)),
      atInstr s.dev f 0x51 (some 0x56) = some (x, k, w, p) → passHeld k (cvtSlots w) = false →
      (List.range (if bitOf w 4 then 2 else 3)).mapM (fun i => mkRng k i (getR k (4 * fld w 6 3 + i)) 0 (fld w 47 9 + 1)
        k.oc.eStride.toNat (alignUp (cdiv ((fld w 36 11 + 1) * (if bitOf w 4 then 8 else 16)) 8) 4 / 4) true) = .ok rs →
      cvtValues x k w p = .ok zs → claimRanges x rs k.nextId = .ok x1 →
      ∃ c y, exec (.cvts f) s = .next (s.withTask f.tile y { k with convs := k.convs ++ [c], nextId := k.nextId + 1 }) ∧
        c.id = k.nextId ∧ c.slots = cvtSlots w ∧
        c.writes = rs.flatMap (fun r => rowCells r (if bitOf w 4 then 8 else 16)
          (zs.map (fun row => row.map (fun z => (if bitOf w 4 then (split2 (bitOf w 18) z).1 else split3 z).getD r.num 0)))) ∧
        { y with hist := x1.hist, histSat := x1.histSat } = x1 ∧ y.mem = x.mem)

/-- R68, R129: the oldest conversion writes its bytes, sets its flags and leaves the scoreboard; every byte that it does not write
stays. R81 to R84: HSTEND writes the histogram record, after every conversion, and clears the counters. -/
def Obligations.ConversionEnd : Prop :=
  ∀ (s : State), s.safe = true →
    (∀ (t : TileId) (k : Task) (c : Conv) (rest : List Conv), (getTile s.dev t.toNat).run = some k → k.convs = c :: rest →
      (c.writes.map (fun b => b.1)).Nodup →
      ∃ y, exec (.conversionDone t) s = .next (s.withTask t y { k with convs := rest, flags := k.flags ||| c.flags }) ∧
        (∀ i b, (i, b) ∈ c.writes → memGet y.mem i = b) ∧
        (∀ i, (∀ b, (i, b) ∉ c.writes) → memGet y.mem i = memGet (getTile s.dev t.toNat).mem i) ∧
        y.sb = (getTile s.dev t.toNat).sb.filter (fun e => e.owner ≠ .conv c.id)) ∧
    (∀ (f : Fetch) (x : Tile) (k : Task) (w p : Word64) (a : Nat), atInstr s.dev f 0x53 none = some (x, k, w, p) →
      deckOperand k (fld w 51 5) (offOf w) 66 true = .ok a → deckWritable x a 66 = true → k.convs = [] →
      ∃ y, exec (.hstend f) s = .next (s.withTask f.tile { y with hist := [], histSat := false } k) ∧
        tileStored x y (4 * a) (((List.range 64).map (fun i => toLe 4 (tget x.hist i 0).toNat)).flatten
          ++ toLe 4 (b2n x.histSat) ++ toLe 4 0))

/-! ## Transfers -/

/-- R129 to R131, R187, R190: a DMA with aligned addresses, a free deck range and fewer than 16 DMA transfers in flight on its
tile goes into flight: its tag count rises, a transfer into deck that is scored registers its range, and no data moves yet.
R188, R189, R257, R260: a PGATHER or PSCATTER whose geometry passes the checks and whose deck ranges are free goes into
flight over the pages that its positions touch. -/
def Obligations.SlideIssue : Prop :=
  (∀ (s : State) (f : Fetch) (x : Tile) (k : Task) (w p : Word64) (a : Nat),
      atInstr s.dev f 0x60 none = some (x, k, w, p) →
      (getR k (fld w 44 5)).toNat % 4 = 0 → (getR k (fld w 44 5)).toNat < 2 ^ 48 → (getR k (fld w 44 5 + 1)).toNat % 4 = 0 →
      deckOperand k (fld w 49 5) 0 ((fld w 26 13 + 1) * fld w 12 14) (fld w 54 2 = 0) = .ok a →
      inFlight (setTile s.dev f.tile.toNat x) f.tile.toNat dmaClass < 16 →
      scoreFree x (bitOf w 39) (fld w 54 2 = 0) [(a, (fld w 26 13 + 1) * fld w 12 14)] = true →
      ∃ xf, exec (.dma f) s = .next (s.withXfer f.tile
          { x with sb := x.sb ++ scoreOf s.dev.nextX (bitOf w 39) (fld w 54 2 = 0) [(a, (fld w 26 13 + 1) * fld w 12 14)] }
          { k with dmaTag := tset k.dmaTag (fld w 40 4) (tget k.dmaTag (fld w 40 4) 0 + 1) } xf) ∧
        xf.id = s.dev.nextX ∧ xf.kind = (if fld w 54 2 = 0 then .dmaIn else .dmaOut) ∧ xf.tile = f.tile ∧ xf.cr = k.work.cr ∧
        xf.tag = fld w 40 4 ∧ xf.word = w ∧ xf.a0 = getR k (fld w 49 5) ∧ xf.a2 = getR k (fld w 44 5) ∧
        xf.a3 = getR k (fld w 44 5 + 1) ∧ xf.next = 0 ∧ xf.ahead = [] ∧
        xf.pages = (groupPages (dmaSegs w (getR k (fld w 44 5)) (getR k (fld w 44 5 + 1)))).length) ∧
  (∀ (s : State) (f : Fetch) (x : Tile) (k : Task) (w p : Word64) (gather : Bool) (rs : List (Nat × Nat)),
      atInstr s.dev f (if gather then 0x61 else 0x62) none = some (x, k, w, p) → (getR k (fld w 46 5)).toNat < 2 ^ 48 →
      geoFault (geoOf (getR k (fld w 46 5 + 1))) (fld w 24 8) (getR k (fld w 46 5)).toNat (getS k (fld w 42 4)).toNat (bitOf w 18)
        = none →
      moveRanges k w gather = .ok rs → inFlight (setTile s.dev f.tile.toNat x) f.tile.toNat dmaClass < 16 →
      scoreFree x (bitOf w 19) gather rs = true →
      ∃ xf, exec (if gather then .pgather f else .pscatter f) s = .next (s.withXfer f.tile
          { x with sb := x.sb ++ scoreOf s.dev.nextX (bitOf w 19) gather rs }
          { k with dmaTag := tset k.dmaTag (fld w 20 4) (tget k.dmaTag (fld w 20 4) 0 + 1) } xf) ∧
        xf.id = s.dev.nextX ∧ xf.kind = (if gather then .gather else .scatter) ∧ xf.tile = f.tile ∧ xf.cr = k.work.cr ∧
        xf.tag = fld w 20 4 ∧ xf.word = w ∧ xf.a0 = getR k (fld w 51 5) ∧ xf.a1 = getR k (fld w 51 5 + 1) ∧
        xf.a2 = getR k (fld w 46 5) ∧ xf.a3 = getR k (fld w 46 5 + 1) ∧ xf.a4 = getS k (fld w 42 4) ∧ xf.next = 0 ∧
        xf.pages = ((getS k (fld w 42 4)).toNat + fld w 32 10) / gRun (geoOf (getR k (fld w 46 5 + 1))) + 1
          - (getS k (fld w 42 4)).toNat / gRun (geoOf (getR k (fld w 46 5 + 1))))

/-- R149, R191, R227: FETCH and PUT go into flight to a tile that is not mapped out; a FETCH counts the units of its own range and
registers it.
R134 to R136, R142, R229: a remote read is served with the bytes that stand at the target, when the issuing context owns
the target tile; a remote write stores the source's bytes into a range that the target registered. Either faults a context that
does not own the target. -/
def Obligations.RemoteAccess : Prop :=
  (∀ (s : State) (f : Fetch) (x : Tile) (k : Task) (w p : Word64) (isFetch : Bool) (a : Nat),
      atInstr s.dev f (if isFetch then 0x70 else 0x71) none = some (x, k, w, p) → (getR k (fld w 46 5)).toNat < 2 ^ 48 →
      mappedOut s.dev (fld (getS k (fld w 42 4)) 0 8) = false →
      deckOperand k (fld w 51 5) 0 (fld w 28 14) isFetch = .ok a →
      inFlight (setTile s.dev f.tile.toNat x) f.tile.toNat trestleClass < 16 →
      scoreFree x (bitOf w 24) isFetch [(a, fld w 28 14)] = true →
      ∃ xf y, exec (if isFetch then .fetch f else .put f) s = .next (s.withXfer f.tile y
          { k with trTag := tset k.trTag (fld w 25 3) (tget k.trTag (fld w 25 3) 0 + 1) } xf) ∧
        { y with gates := x.gates } = { x with sb := x.sb ++ scoreOf s.dev.nextX (bitOf w 24) isFetch [(a, fld w 28 14)] } ∧
        (∀ u, (gateOf y u).st = (gateOf x u).st) ∧ (isFetch = false → y.gates = x.gates) ∧
        xf.id = s.dev.nextX ∧ xf.kind = (if isFetch then .fetch else .put) ∧ xf.tile = f.tile ∧ xf.cr = k.work.cr ∧
        xf.tag = fld w 25 3 ∧ xf.pages = fld w 28 14 ∧ xf.a0 = getR k (fld w 51 5) ∧
        xf.a1.toNat = fld (getR k (fld w 46 5)) 0 18 ∧ xf.peer.toNat = fld (getS k (fld w 42 4)) 0 8 ∧ xf.remote = .waiting) ∧
  (∀ (s : State) (i : Nat) (xf : Xfer) (y : Tile), s.safe = true → tfind s.dev.xfers i = some xf → xf.remote = .waiting →
      y = getTile s.dev xf.peer.toNat →
      (isRemoteRead xf.kind = true → earlierUnserved s.dev xf isRemoteRead = false → ownsTarget y xf = true →
        xf.a1.toNat + xf.pages ≤ 196608 → deckReadable y xf.a1.toNat xf.pages = true →
        ∃ u, exec (.remoteRead i .ok) s = .next u ∧ u.pending = s.pending ∧ sameMem s.dev u.dev ∧
          tfind u.dev.xfers i = some { xf with remote := .served (memGets y.mem (4 * xf.a1.toNat) (4 * xf.pages)) }) ∧
      (∀ k us, xf.kind = .put → earlierWrite s.dev xf.tile xf.peer xf.id = false → ownsTarget y xf = true →
        (getTile s.dev xf.tile.toNat).run = some k → inFetchRange s.dev y xf.a1.toNat xf.pages = some us →
        gateCheck y { xf with counted := us } (4 * xf.a1.toNat) (4 * xf.pages) true = .ok () →
        winReadable (getTile s.dev xf.tile.toNat) (deckByte k xf 0 0) (4 * xf.pages) = true →
        ∃ u, exec (.remoteWrite i) s = .next u ∧ u.pending = s.pending ∧ sameMemBut s.dev u.dev xf.peer.toNat ∧
          tfind u.dev.xfers i = some { xf with remote := .served [] } ∧
          memGets (getTile u.dev xf.peer.toNat).mem (4 * xf.a1.toNat) (4 * xf.pages) =
            memGets (getTile s.dev xf.tile.toNat).mem (deckByte k xf 0 0) (4 * xf.pages) ∧
          (∀ j, j < 4 * xf.a1.toNat ∨ 4 * xf.a1.toNat + 4 * xf.pages ≤ j →
            memGet (getTile u.dev xf.peer.toNat).mem j = memGet y.mem j)) ∧
      (ownsTarget y xf = false →
        (isRemoteRead xf.kind = true → earlierUnserved s.dev xf isRemoteRead = false →
          exec (.remoteRead i .ok) s = .next { s with dev := trestleFault s.dev xf 0x0002 0 }) ∧
        (xf.kind = .put → earlierWrite s.dev xf.tile xf.peer xf.id = false → (getTile s.dev xf.tile.toNat).run.isSome = true →
          exec (.remoteWrite i) s = .next { s with dev := trestleFault s.dev xf 0x0002 0 })))

/-- R213 to R218: a SUB on an IDLE pier-backed entry starts its fill from the issuing tile's range; on a FILLING entry, or on a
PRODUCED entry that has not been sent, it joins the subscribers; on a HELD entry it becomes a remote read of the nearest holder,
or, on a pier-backed one without holders, a fill. A tile that already holds the range completes at once.
R205, R218: an MCAST on a PRODUCED entry not yet sent makes its tile the holder and sends the range's bytes to the subscribers
named so far. -/
def Obligations.Distribution : Prop :=
  (∀ (s : State) (f : Fetch) (x : Tile) (k : Task) (w p : Word64) (a bt : Nat) (b : Buf),
      atInstr s.dev f 0x72 none = some (x, k, w, p) → deckOperand k (fld w 51 5) 0 (fld w 28 14) true = .ok a →
      bt = bufTable (getCtx s.dev k.work.cr.toNat).part.toNat k.work.step →
      sizeBuf (getBuf s.dev bt (fld w 0 16)) (fld w 28 14) k.work.cr = .ok b →
      ((∃ h, h ∈ b.holders ∧ h.tile = f.tile ∧ h.word = a) →
        exec (.trestleSub f) s = .next (s.withTask f.tile x k)) ∧
      ((∀ h, h ∈ b.holders → ¬ (h.tile = f.tile ∧ h.word = a)) →
        inFlight (setTile s.dev f.tile.toNat x) f.tile.toNat trestleClass < 16 → scoreFree x false true [(a, fld w 28 14)] = true →
        (b.pier = false → b.produced = true → b.holders ≠ []) →
        ∃ u, exec (.trestleSub f) s = .next u ∧ u.pending = s.pending ∧ sameMem s.dev u.dev ∧
          (∃ xf, tfind u.dev.xfers s.dev.nextX = some xf ∧ xf.tag = fld w 25 3 ∧ xf.tile = f.tile ∧
            if b.holders ≠ [] ∧ ((b.pier = true ∧ b.st = .held) ∨ (b.pier = false ∧ b.produced = true)) then
              ∃ h, nearestHolder f.tile.toNat b.holders = some h ∧ xf.kind = .lateSub ∧ xf.peer = h.tile ∧
                xf.a1 = BitVec.ofNat 64 h.word
            else xf.kind = .sub) ∧
          (b.pier = true → b.st = .idle ∨ (b.st = .held ∧ b.holders = []) → (getBuf u.dev bt (fld w 0 16)).st = .filling ∧
            (getBuf u.dev bt (fld w 0 16)).src = some { tile := f.tile, word := a, xfer := s.dev.nextX, rel := false }) ∧
          ((b.pier = true ∧ b.st = .filling) ∨ (b.pier = false ∧ b.produced = false) → (getBuf u.dev bt (fld w 0 16)).subs =
            b.subs ++ [{ tile := f.tile, word := a, xfer := s.dev.nextX, rel := false }]))) ∧
  (∀ (s : State) (f : Fetch) (x : Tile) (k : Task) (w p : Word64) (a bt : Nat) (b : Buf),
      atInstr s.dev f 0x73 none = some (x, k, w, p) → deckOperand k (fld w 51 5) 0 (fld w 28 14) false = .ok a →
      bt = bufTable (getCtx s.dev k.work.cr.toNat).part.toNat k.work.step →
      (getBuf s.dev bt (fld w 0 16)).pier = false → (getBuf s.dev bt (fld w 0 16)).produced = false →
      sizeBuf (getBuf s.dev bt (fld w 0 16)) (fld w 28 14) k.work.cr = .ok b →
      inFlight (setTile s.dev f.tile.toNat x) f.tile.toNat trestleClass < 16 → deckReadable x a (fld w 28 14) = true →
      ∃ u, exec (.mcast f) s = .next u ∧ u.pending = s.pending ∧ sameMem s.dev u.dev ∧
        (∃ xf, tfind u.dev.xfers s.dev.nextX = some xf ∧ xf.kind = .mcast ∧ xf.tag = fld w 25 3 ∧ xf.tile = f.tile) ∧
        getBuf u.dev bt (fld w 0 16) = { b with
          produced := true, st := .held, sending := b.subs, subs := []
          holders := [{ tile := f.tile, word := a, xfer := s.dev.nextX, rel := false }]
          src := some { tile := f.tile, word := a, xfer := s.dev.nextX, rel := false }, sentAt := s.dev.nextX
          data := memGets x.mem (4 * a) (4 * fld w 28 14) })

/-- R149, R425, R427: a demanded page of a DMA moves its bytes: into deck from virtual memory, or from deck into pier; the
transfer goes on to its next page, and every other byte stays.
R259, R425: a page run ahead is only noted on its transfer: no byte of any memory changes, and whether it passed its checks
faults nothing. R190, R129: the end of a transfer lowers its tag count, removes its entries and takes it out of flight. -/
def Obligations.SlidePages : Prop :=
  (∀ (s : State) (i : Nat) (xf xf1 : Xfer) (k : Task) (y : Tile) (o va n : Nat), s.safe = true →
      tfind s.dev.xfers i = some xf → xf.id = i → (getTile s.dev xf.tile.toNat).run = some k → mayMove s.dev xf = true →
      pageHeld k xf = false →
      (groupPages (dmaSegs xf.word xf.a2 xf.a3)).getD xf.next [] = [(o, va, n)] →
      (∀ bs, xf.kind = .dmaIn → countPage (getTile s.dev xf.tile.toNat) k xf xf.next = (y, xf1) →
        readVa (setTile s.dev xf.tile.toNat y) xf.cr.toNat (stepModel s.dev xf.cr.toNat k.work.step) va n
          (.cache (engineOf xf.tile.toNat)) = .ok bs →
        gateCheck y xf1 (deckByte k xf 0 o) n true = .ok () →
        ∃ u, exec (.slidePageDemand i .ok) s = .next u ∧ u.pending = s.pending ∧ sameMemBut s.dev u.dev xf.tile.toNat ∧
          (∃ z, tfind u.dev.xfers i = some z ∧ z.next = xf.next + 1) ∧
          memGets (getTile u.dev xf.tile.toNat).mem (deckByte k xf 0 o) bs.length = bs ∧
          (∀ j, j < deckByte k xf 0 o ∨ deckByte k xf 0 o + bs.length ≤ j →
            memGet (getTile u.dev xf.tile.toNat).mem j = memGet (getTile s.dev xf.tile.toNat).mem j)) ∧
      (∀ a, xf.kind = .dmaOut → winReadable (getTile s.dev xf.tile.toNat) (deckByte k xf 0 o) n = true → 0 < n →
        va % 0x10000 + n ≤ 0x10000 →
        xlate s.dev xf.cr.toNat (stepModel s.dev xf.cr.toNat k.work.step) va true (.cache (engineOf xf.tile.toNat))
          = .ok (.pier a) → linkHeld s.dev a n = false →
        ∃ u, exec (.slidePageDemand i .ok) s = .next u ∧ u.pending = s.pending ∧ u.dev.host = s.dev.host ∧
          (∀ t, (getTile u.dev t).mem = (getTile s.dev t).mem) ∧ (∃ z, tfind u.dev.xfers i = some z ∧ z.next = xf.next + 1) ∧
          memGets u.dev.pier.mem a n = memGets (getTile s.dev xf.tile.toNat).mem (deckByte k xf 0 o) n ∧
          (∀ j, j < a ∨ a + n ≤ j → memGet u.dev.pier.mem j = memGet s.dev.pier.mem j))) ∧
  (∀ (s : State) (i : Nat) (xf : Xfer) (k : Task), tfind s.dev.xfers i = some xf → (getTile s.dev xf.tile.toNat).run = some k →
      (∀ ecc, mayMove s.dev xf = true → pageHeld k { xf with next := xf.next + 1 + xf.ahead.length } = false →
        xf.next + 1 + xf.ahead.length < xf.pages → xf.ahead.length < runAhead s.dev →
        ∃ u ok z, exec (.slidePageRunahead i ecc) s = .next u ∧ u.pending = s.pending ∧ sameMem s.dev u.dev ∧
          u.dev.flt = s.dev.flt ∧ u.dev.pmg.ctxs = s.dev.pmg.ctxs ∧ tfind u.dev.xfers i = some z ∧ z.next = xf.next ∧
          z.ahead = xf.ahead ++ [(xf.next + 1 + xf.ahead.length, ok)]) ∧
      (dmaClass xf.kind = true → xf.pages ≤ xf.next → xf.id = i →
        ∃ u k', exec (.dmaTransferDone i) s = .next u ∧ u.pending = s.pending ∧ sameMem s.dev u.dev ∧ tfind u.dev.xfers i = none ∧
          (getTile u.dev xf.tile.toNat).run = some k' ∧ { k' with dmaTag := k.dmaTag } = k ∧
          (∀ n, tget k'.dmaTag n 0 = if n = xf.tag then tget k.dmaTag n 0 - 1 else tget k.dmaTag n 0) ∧
          (getTile u.dev xf.tile.toNat).sb = (getTile s.dev xf.tile.toNat).sb.filter (fun e => e.owner ≠ .xfer i)))

/-- R149, R191, R216, R229: a served FETCH is written to its range at its end, a late SUB as well, and its tile becomes a holder; a
served PUT, and an MCAST with no member left, ends without a write. The tag count falls and the transfer is out of flight.
R211, R213, R215, R225, R226: a fill that reads without error is written to its source's range, and its entry is HELD by it with the
subscribers so far due a delivery; a delivery with no earlier remote write of its source to the subscriber writes the entry's bytes
to the subscriber's range, which becomes a holder. -/
def Obligations.TrestleDelivery : Prop :=
  (∀ (s : State) (i : Nat) (xf : Xfer) (k : Task) (bs : List Byte), s.safe = true → tfind s.dev.xfers i = some xf → xf.id = i →
      (getTile s.dev xf.tile.toNat).run = some k →
      (xf.kind = .put → xf.remote = .served bs →
        ∃ u k', exec (.trestleTransferDone i) s = .next u ∧ u.pending = s.pending ∧ sameMem s.dev u.dev ∧
          tfind u.dev.xfers i = none ∧ (getTile u.dev xf.tile.toNat).run = some k' ∧ { k' with trTag := k.trTag } = k ∧
          (∀ n, tget k'.trTag n 0 = if n = xf.tag then tget k.trTag n 0 - 1 else tget k.trTag n 0)) ∧
      (xf.kind = .mcast → (getBuf s.dev (xferPart s.dev xf k) xf.buf.toNat).sending = [] →
        ∃ u, exec (.trestleTransferDone i) s = .next u ∧ u.pending = s.pending ∧ sameMem s.dev u.dev ∧ tfind u.dev.xfers i = none) ∧
      ((xf.kind = .fetch ∨ xf.kind = .lateSub) → xf.remote = .served bs →
        gateCheck (getTile s.dev xf.tile.toNat) xf (deckByte k xf 0 0) bs.length true = .ok () →
        ∃ u k', exec (.trestleTransferDone i) s = .next u ∧ u.pending = s.pending ∧ sameMemBut s.dev u.dev xf.tile.toNat ∧
          tfind u.dev.xfers i = none ∧ (getTile u.dev xf.tile.toNat).run = some k' ∧ { k' with trTag := k.trTag } = k ∧
          (∀ n, tget k'.trTag n 0 = if n = xf.tag then tget k.trTag n 0 - 1 else tget k.trTag n 0) ∧
          memGets (getTile u.dev xf.tile.toNat).mem (deckByte k xf 0 0) bs.length = bs ∧
          (∀ j, j < deckByte k xf 0 0 ∨ deckByte k xf 0 0 + bs.length ≤ j →
            memGet (getTile u.dev xf.tile.toNat).mem j = memGet (getTile s.dev xf.tile.toNat).mem j) ∧
          (xf.kind = .lateSub → (getBuf u.dev (xferPart s.dev xf k) xf.buf.toNat).holders =
            (getBuf s.dev (xferPart s.dev xf k) xf.buf.toNat).holders ++
              [{ tile := xf.tile, word := deckByte k xf 0 0 / 4, xfer := i, rel := false }]))) ∧
  (∀ (s : State) (p : PartId) (bn : BitVec 16) (r : BufRange) (xf : Xfer) (k : Task) (b : Buf), s.safe = true →
      tfind s.dev.xfers r.xfer = some xf → xf.id = r.xfer → xf.tile = r.tile → (getTile s.dev r.tile.toNat).run = some k →
      b = getBuf s.dev p.toNat bn.toNat →
      (∀ bs, b.pier = true → b.st = .filling → b.src = some r → fillBytes s.dev b k r.tile.toNat = .ok bs →
        gateCheck (getTile s.dev r.tile.toNat) xf (deckByte k xf 0 0) bs.length true = .ok () →
        ∃ u, exec (.bufferFillDone p bn .ok) s = .next u ∧ u.pending = s.pending ∧ sameMemBut s.dev u.dev r.tile.toNat ∧
          tfind u.dev.xfers r.xfer = none ∧
          getBuf u.dev p.toNat bn.toNat =
            { b with st := .held, holders := [r], sending := b.subs, subs := [], data := bs, sentAt := s.dev.nextX } ∧
          memGets (getTile u.dev r.tile.toNat).mem (deckByte k xf 0 0) bs.length = bs ∧
          (∀ j, j < deckByte k xf 0 0 ∨ deckByte k xf 0 0 + bs.length ≤ j →
            memGet (getTile u.dev r.tile.toNat).mem j = memGet (getTile s.dev r.tile.toNat).mem j)) ∧
      (b.sending.find? (fun q => q.tile.toNat = r.tile.toNat) = some r →
        (∀ h, b.src = some h → earlierWrite s.dev h.tile r.tile b.sentAt = false) →
        gateCheck (getTile s.dev r.tile.toNat) xf (deckByte k xf 0 0) b.data.length true = .ok () →
        ∃ u, exec (.multicastDeliveryDone p bn r.tile) s = .next u ∧ u.pending = s.pending ∧
          sameMemBut s.dev u.dev r.tile.toNat ∧ tfind u.dev.xfers r.xfer = none ∧
          getBuf u.dev p.toNat bn.toNat =
            { b with sending := b.sending.filter (fun q => q.xfer ≠ r.xfer), holders := b.holders ++ [r] } ∧
          memGets (getTile u.dev r.tile.toNat).mem (deckByte k xf 0 0) b.data.length = b.data ∧
          (∀ j, j < deckByte k xf 0 0 ∨ deckByte k xf 0 0 + b.data.length ≤ j →
            memGet (getTile u.dev r.tile.toNat).mem j = memGet (getTile s.dev r.tile.toNat).mem j)))

/-- R217: a range due for release is released once nothing is sourced from it; when it was the last holder of a pier-backed entry,
the entry is IDLE again. While a multicast or a remote read is sourced from it, it stays.
R199: at the end of a hold window every tile of the partition with a pending request stops; the others stay. R141: a pending
write-back stores its corrected word and is no longer pending.
R148: a gated unit that drains goes OFF once no counted transfer is left, and not before; a waking unit has every word zero and
is ON, or DRAINING when it has been gated again. Words outside the unit stay. The WITHDRAWN records that waited for it are written
then, and nothing else changes when none did (R151). -/
def Obligations.GatingAndRelease : Prop :=
  ((∀ (s : State) (p : PartId) (bn : BitVec 16) (t : TileId) (h : BufRange) (b : Buf),
        b = getBuf s.dev p.toNat bn.toNat → b.holders.find? (fun g => g.tile.toNat = t.toNat && g.rel) = some h →
        (sourcing s.dev b h = false →
          ∃ u, exec (.holderRelease p bn t) s = .next u ∧ u.pending = s.pending ∧ sameMem s.dev u.dev ∧ u.dev.tiles = s.dev.tiles ∧
            u.dev.xfers = s.dev.xfers ∧
            getBuf u.dev p.toNat bn.toNat = { b with
              holders := b.holders.filter (fun g => g ≠ h)
              st := if b.pier = true ∧ b.holders.filter (fun g => g ≠ h) = [] then .idle else b.st }) ∧
        (sourcing s.dev b h = true → exec (.holderRelease p bn t) s = .next s)) ∧
    ((∀ (s : State) (p : PartId),
        ∃ u, exec (.holdWindowEnd p) s = .next u ∧ u.pending = s.pending ∧ { u.dev with tiles := s.dev.tiles } = s.dev ∧
          ∀ t, getTile u.dev t = if tileIn s.dev p.toNat t = true ∧ (getTile s.dev t).preReq = true
            then { getTile s.dev t with windowOver := true, stopped := true } else getTile s.dev t) ∧
      (∀ (s : State) (t : TileId) (w : BitVec 18) (v : Word32), s.safe = true →
        tfind (getTile s.dev t.toNat).fixups w.toNat = some v →
        ∃ y, exec (.eccWriteBack t w) s = .next { s with dev := setTile s.dev t.toNat y } ∧
          memGets y.mem (4 * w.toNat) 4 = toLe 4 v.toNat ∧ tfind y.fixups w.toNat = none ∧
          (∀ i, i < 4 * w.toNat ∨ 4 * w.toNat + 4 ≤ i → memGet y.mem i = memGet (getTile s.dev t.toNat).mem i) ∧
          { y with mem := (getTile s.dev t.toNat).mem, fixups := (getTile s.dev t.toNat).fixups } = getTile s.dev t.toNat))) ∧
  (∀ (s : State) (t : TileId) (u : BitVec 4) (g : GateUnit), u.toNat < 10 → gateOf (getTile s.dev t.toNat) u.toNat = g →
      (g.st = .draining → g.gated = true → g.dma = 0 →
        exec (.unitOff t u) s = .next { s with
          dev := setTile s.dev t.toNat
            { getTile s.dev t.toNat with gates := tset (getTile s.dev t.toNat).gates u.toNat { g with st := .off } } }) ∧
      (g.st ≠ .draining ∨ g.gated = false ∨ 0 < g.dma → exec (.unitOff t u) s = .next s) ∧
      (g.st = .waking →
        ∃ y, exec (.unitWakeDone t u) s = .next { s with dev := payOwed (setTile s.dev t.toNat y) } ∧
          (s.dev.cat.owed = [] → payOwed (setTile s.dev t.toNat y) = setTile s.dev t.toNat y) ∧
          gateOf y u.toNat = { g with st := if g.gated then .draining else .on } ∧
          (∀ i, memGet y.mem i = if (unitRange u.toNat).1 ≤ i ∧ i < (unitRange u.toNat).1 + (unitRange u.toNat).2 then 0
            else memGet (getTile s.dev t.toNat).mem i) ∧
          (∀ v, v ≠ u.toNat → gateOf y v = gateOf (getTile s.dev t.toNat) v)) ∧
      (g.st ≠ .waking → exec (.unitWakeDone t u) s = .next s))

/-! ## Outcome reports, the end of a task, gating -/

/-- R193, R194, R288: a REPORT whose record passes the checks is taken into its entry of the step, and the outcome of a VERIFY
patches the entry of the same slot in the step built ahead: its position, its first token, and no split task above its last
split stays to be delivered; a record with a stale handle faults the context with F_STALE_HANDLE, and one that breaks another
check with F_ILLEGAL_INSTR.
R163, R217, R234: when END's four conditions hold the task ends with its flag word handed to its record, and the memories and
the other tiles stay; until then nothing changes. -/
def Obligations.ReportAndTaskEnd : Prop :=
  (∀ (s : State) (f : Fetch) (x : Tile) (k : Task) (w p : Word64) (a e : Nat) (st : Step) (adm : Admitted) (h bs : List Byte),
      atInstr s.dev f 0xF1 none = some (x, k, w, p) → deckOperand k (fld w 51 5) (offOf w) 68 false = .ok a →
      deckReadable x a 68 = true → h = memGets x.mem (4 * a) 16 → bs = memGets x.mem (4 * a + 16) (4 * min 64 (leAt h 8 1)) →
      deckReadable x a 4 = true → deckReadable x (a + 4) (min 64 (leAt h 8 1)) = true →
      stepOf s.dev k.work.cr.toNat k.work.step = some st → seqEntry st (leAt h 4 3) = some (e, adm) →
      (∀ o, reportCheck adm k.work.withdrawn h (bytesWords (min 64 (leAt h 8 1)) bs) = .ok o →
        exec (.report f) s = .next { s with
          dev := patchVerify (putStep (s.withTask f.tile x k).dev k.work.cr.toNat
            (setEntry st e { adm with reported := true, outcome := o })) k.work.cr.toNat k.work.step e } ∧
        ((adm.kind ≠ 2 ∨ stepOf s.dev k.work.cr.toNat (k.work.step + 1) = none) →
          exec (.report f) s = .next { s with
            dev := putStep (s.withTask f.tile x k).dev k.work.cr.toNat
              { st with admitted := st.admitted.set e { adm with reported := true, outcome := o } } })) ∧
      (∀ c i, reportCheck adm k.work.withdrawn h (bytesWords (min 64 (leAt h 8 1)) bs) = .error (.fault c i) →
        (c = 0x000A ∨ c = fIllegalInstr) ∧ (c = 0x000A ↔ leAt h 0 4 ≠ adm.handle.toNat) ∧
        ∃ k0, (getTile s.dev f.tile.toNat).run = some k0 ∧
          exec (.report f) s = .next { s with dev := tileFault (setTile s.dev f.tile.toNat x) f.tile.toNat k0 k0.pc c 0 })) ∧
  (∀ (d : Dev) (cr num e e2 : Nat) (st nx : Step) (a b : Admitted) (o : Outcome) (m : Model), stepOf d cr num = some st →
      stepOf d cr (num + 1) = some nx → st.admitted[e]? = some a → a.outcome = some o → a.kind = 2 → b.kind = 2 →
      findEntry d nx a.slot.toNat = some (e2, b) → 4 < b.entry.length → getModel d nx.model = some m →
      ∃ nx1 b1, patchVerify d cr num e = writeEntry (putStep (putStep d cr nx1) cr (setEntry nx1 e2 b1)) cr nx1 e2 b1 ∧
        b1.c = a.c + o.accept + 1 ∧ b1.pendBefore = o.tokens.getLast? ∧ fld (b1.entry.getD 3 0) 0 32 = (a.c + o.accept + 1) % 2 ^ 32 ∧
        nx1.admitted = nx.admitted ∧
        (∀ v, v ∈ nx1.todo → v.excl = some e2 → ∀ j, v.split = some j →
          j < (splitsOf (a.c + o.accept + 1 + b.t) m.splitLen (2 ^ m.runLog2)).1)) ∧
  (∀ (s : State) (t : TileId) (k : Task), (getTile s.dev t.toNat).run = some k →
      (k.ending = true → k.queue = [] → k.passes = [] → k.convs = [] → (∀ n, n < 16 → tget k.dmaTag n 0 = 0) →
        (∀ n, n < 8 → tget k.trTag n 0 = 0) → (getTile s.dev t.toNat).sb = [] →
        ∃ u e, exec (.taskEnd t) s = .next u ∧ u.pending = s.pending ∧ sameMem s.dev u.dev ∧
          (getTile u.dev t.toNat).run = none ∧ (getTile u.dev t.toNat).ended = some e ∧ e.work = k.work ∧ e.flags = k.flags ∧
          e.start = k.start ∧ e.finish = s.dev.now ∧ (∀ v, v ≠ t.toNat → getTile u.dev v = getTile s.dev v)) ∧
      ((k.ending = false ∨ k.queue ≠ [] ∨ k.passes ≠ [] ∨ k.convs ≠ [] ∨ (∃ n, n < 16 ∧ tget k.dmaTag n 0 ≠ 0) ∨
          (∃ n, n < 8 ∧ tget k.trTag n 0 ≠ 0) ∨ (getTile s.dev t.toNat).sb ≠ []) →
        exec (.taskEnd t) s = .next s))

/-! ## Catch dispatcher -/

/-- R230, R231, R242, R586: a delivered task that passes intake is pushed at the head of its target's deque; one that waits joins
the hold list; one that is refused faults its context. A stalled task is placed once its target has room. -/
def Obligations.Intake : Prop :=
  ∀ (s : State) (p : PartId) (cr : Nat), servedCtx s.dev p.toNat = some cr →
    (∀ (st : Step) (w0 w : Work) (rest : List Work) (d1 d2 : Dev), tfind s.dev.cat.stalled p.toNat = none →
      deliveringStep s.dev cr = some st → st.todo = w0 :: rest →
      w = { w0 with ctx := BitVec.ofNat 7 (ctxNo s.dev cr), desc := { w0.desc with q0 := setFld w0.desc.q0 24 7 (ctxNo s.dev cr) } } →
      d1 = putStep s.dev cr { st with todo := rest } → d2 = noteChecked d1 w →
      (∀ t, intakeCheck d1 w = none → waitOver d2 w = true → targetTile d2 w = some t → (getDeque s.dev t).length < 64 →
        ∃ u, exec (.taskIntake p) s = .next u ∧ u.pending = s.pending ∧ u.dev.tiles = s.dev.tiles ∧ sameMem s.dev u.dev ∧
          getDeque u.dev t = w :: getDeque s.dev t ∧ (∀ v, v ≠ t → getDeque u.dev v = getDeque s.dev v) ∧
          u.dev.cox = d1.cox) ∧
      (intakeCheck d1 w = none → waitOver d2 w = false → s.dev.cat.hold.length < 8192 →
        ∃ u, exec (.taskIntake p) s = .next u ∧ u.pending = s.pending ∧ u.dev.tiles = s.dev.tiles ∧
          u.dev.cat.hold = s.dev.cat.hold ++ [w] ∧ u.dev.cat.deques = s.dev.cat.deques ∧ u.dev.cox = d1.cox) ∧
      (∀ r, intakeCheck d1 w = some r → r.code ≠ 0 → exec (.taskIntake p) s = .next { s with dev := catchFault d1 w r })) ∧
    (∀ (w : Work) (t : Nat), s.dev.cat.hold = [] → tfind s.dev.cat.stalled p.toNat = some w → waitOver s.dev w = true →
      targetTile s.dev w = some t → (getDeque s.dev t).length < 64 →
      ∃ u, exec (.intakeResume p) s = .next u ∧ u.pending = s.pending ∧ u.dev.tiles = s.dev.tiles ∧ u.dev.cox = s.dev.cox ∧
        getDeque u.dev t = w :: getDeque s.dev t ∧ (∀ v, v ≠ t → getDeque u.dev v = getDeque s.dev v) ∧
        tfind u.dev.cat.stalled p.toNat = none)

/-- R235, R236: an idle tile takes the tail of its own deque when it fits; with its deque empty it takes the head of the first
deque in its probe order whose head fits it. No other deque and no other tile changes. -/
def Obligations.PopAndSteal : Prop :=
  ∀ (s : State) (t : TileId) (p cr : Nat), partOfTile s.dev t.toNat = some p → servedCtx s.dev p = some cr →
    (getTile s.dev t.toNat).inbox = none → (getTile s.dev t.toNat).run = none → (getTile s.dev t.toNat).ended = none →
    (∀ (w : Work) (rest : List Work) (a : List Nat × Tbl Nat), getDeque s.dev t.toNat = rest ++ [w] →
      (getTile s.dev t.toNat).zeroing = [] → fitOn s.dev w t.toNat = some a →
      ∃ u, exec (.taskPop t) s = .next u ∧ u.pending = s.pending ∧ getDeque u.dev t.toNat = rest ∧
        getTile u.dev t.toNat = { getTile s.dev t.toNat with inbox := some (w, a.1, a.2) } ∧
        (∀ v, v ≠ t.toNat → getDeque u.dev v = getDeque s.dev v ∧ getTile u.dev v = getTile s.dev v)) ∧
    (∀ (rest : List Work) (vs ws : List Nat) (v : Nat) (w : Work) (a : List Nat × Tbl Nat),
      getDeque s.dev t.toNat = [] →
      (probeOrder t.toNat).filter (fun v => tileIn s.dev p v && !mappedOut s.dev v) = vs ++ v :: ws →
      (∀ q, q ∈ vs → getDeque s.dev q = [] ∨ ∃ h r, getDeque s.dev q = h :: r ∧ fitOn s.dev h t.toNat = none) →
      getDeque s.dev v = w :: rest → fitOn s.dev w t.toNat = some a →
      ∃ u, exec (.taskSteal t) s = .next u ∧ u.pending = s.pending ∧ getDeque u.dev v = rest ∧
        getTile u.dev t.toNat = { getTile s.dev t.toNat with inbox := some ({ w with stolen := true }, a.1, a.2) } ∧
        (∀ q, q ≠ v → getDeque u.dev q = getDeque s.dev q) ∧ (∀ q, q ≠ t.toNat → getTile u.dev q = getTile s.dev q))

/-- R111, R112, R134, R201, R217, R237: a task that starts on ranges from which nothing is sourced has S0 = ARG, S1 = TASK_INDEX and every other register zero, its PC at
ENTRY_PC and no flag set, and its context owns the tile; with CODE_LOAD its code is first copied to its CODE region, and without
it no byte changes.
R239, R240, R245: the completion record of an ended task is written at COMPL_VA and the task counts complete, while tasks of its
step are still to come; a watchdog expiry after 1,000,000 ticks faults the context with F_TASK_TIMEOUT, and not before. -/
def Obligations.TaskStartAndCompletion : Prop :=
  (∀ (s : State) (t : TileId) (w : Work) (slots : List Nat) (bases : Tbl Nat), s.safe = true →
      (getTile s.dev t.toNat).inbox = some (w, slots, bases) → savedOf s.dev w = none → startHeld s.dev t.toNat w bases = false →
      ∃ k, getS k 0 = w.desc.q7 ∧ (getS k 1).toNat = taskIndex w ∧ (∀ n, n ≠ 32 → n ≠ 33 → getR k n = 0) ∧
        (∀ n i, getV k n i = 0) ∧ k.pc.toNat = descEntry w.desc % 2 ^ 32 ∧ k.flags = 0 ∧ k.work = w ∧
        (bitOf w.desc.q0 35 = false →
          ∃ u, exec (.taskStart t) s = .next u ∧ u.pending = s.pending ∧ sameMem s.dev u.dev ∧
            (getTile u.dev t.toNat).run = some k ∧ (getTile u.dev t.toNat).owner = w.ctx ∧
            (getTile u.dev t.toNat).ownerValid = true ∧ (getTile u.dev t.toNat).inbox = none) ∧
        (∀ bs, bitOf w.desc.q0 35 = true → readImage (installTask s.dev t.toNat k) w = .ok bs →
          ∃ u, exec (.taskStart t) s = .next u ∧ u.pending = s.pending ∧ sameMemBut s.dev u.dev t.toNat ∧
            (getTile u.dev t.toNat).run = some k ∧ (getTile u.dev t.toNat).owner = w.ctx ∧
            memGets (getTile u.dev t.toNat).mem (4 * tget bases 0 0) bs.length = bs ∧
            (∀ i, i < 4 * tget bases 0 0 ∨ 4 * tget bases 0 0 + bs.length ≤ i →
              memGet (getTile u.dev t.toNat).mem i = memGet (getTile s.dev t.toNat).mem i))) ∧
  (∀ (s : State) (t : TileId),
      (∀ (e : Ended) (st : Step) (bs : List Byte) (d1 : Dev), (getTile s.dev t.toNat).ended = some e → s.dev.cat.hold = [] →
        stepOf s.dev e.work.cr.toNat e.work.step = some st → st.todo ≠ [] →
        bs = complBytes (taskIndex e.work) (getCtx s.dev e.work.cr.toNat).vctx.toNat e.work.stolen t.toNat e.flags.toNat
          (e.flags ||| chainFlags s.dev e.work).toNat 0 e.start.toNat e.finish.toNat (Config.freeCycles s.dev.fresh).toNat
          e.resumes.toNat →
        writeVa s.dev e.work.cr.toNat (stepModel s.dev e.work.cr.toNat e.work.step) (descComplVa e.work.desc) bs = .ok d1 →
        ∃ u r, exec (.completionRecordWritten t) s = .next u ∧ u.pending = s.pending ∧ sameMem d1 u.dev ∧
          (getTile u.dev t.toNat).ended = none ∧ u.dev.cat.done = s.dev.cat.done ++ [r] ∧ r.cr = e.work.cr ∧
          r.step = e.work.step ∧ r.index = taskIndex e.work ∧ r.withdrawn = false) ∧
      (∀ k, (getTile s.dev t.toNat).run = some k →
        (1000000 ≤ watchdogTicks s.dev k →
          exec (.taskWatchdogExpiry t) s = .next { s with dev := tileFault s.dev t.toNat k k.pc 0x000E 0 }) ∧
        (watchdogTicks s.dev k < 1000000 → exec (.taskWatchdogExpiry t) s = .next s)))

/-! ## Command ring -/

/-- R480, R486: taking a command advances CONS of its ring by one and touches no slot, model or step; the entry taken is the 64
bytes at BASE + 64 × (CONS mod size), read through the context's translations. -/
def Obligations.CommandTaken : Prop :=
  ∀ (d d1 : Dev) (fn vctx : Nat) (want : List Byte → Bool) (t : Taken), takes d fn vctx want = some (d1, t) →
    (getRing d1 (ringKey fn vctx 0)).cons = (getRing d (ringKey fn vctx 0)).cons + 1 ∧
    (getRing d1 (ringKey fn vctx 0)).prod = (getRing d (ringKey fn vctx 0)).prod ∧ d1.cox = d.cox ∧ d1.key = d.key ∧
    d1.cwy = d.cwy ∧ d1.cat = d.cat ∧ ctxOf d fn vctx = some t.cr ∧
    readVa d t.cr none ((getRing d (ringKey fn vctx 0)).ba.toNat
      + 64 * ((getRing d (ringKey fn vctx 0)).cons.toNat % ringSize (getRing d (ringKey fn vctx 0)))) 64 = .ok t.e

/-- R280, R488: a MODEL_REGISTER whose descriptor, grid records and deck map break no rule enters the model under the lowest free
device ID, tells the tollhouse, and completes with status 0; one that breaks a rule completes with status 0xA and the rule's
DETAIL. An unregistration of a model that nothing uses ends it; of one in use, completes with status 5. -/
def Obligations.ModelRegistration : Prop :=
  ∀ (s : State) (fn : Func) (vctx : VCtx) (d : Dev) (t : Taken),
    (takes s.dev fn.toNat vctx.toNat (fun e => registerOp false e && !readWaits s.dev fn.toNat vctx.toNat (leAt e 16 8) 128)
        = some (d, t) →
      ∀ (d1 d2 d3 : Dev) (b : List Byte) (gs ds : List (List Byte)) (m : Model), modelOf d t.fn (leAt t.e 12 2) = none →
      d.cox.models.length < 16384 → leAt t.e 16 8 % 64 = 0 → readVaC d t.cr none (leAt t.e 16 8) 128 = .ok (d1, b) →
      descOk b = true → readRecords d1 t.cr (leAt b 64 8) 64 (leAt b 42 2) = .ok (d2, gs) →
      readRecords d2 t.cr (leAt b 72 8) 16 (leAt b 44 2) = .ok (d3, ds) →
      m = modelOfDesc d3 t (leAt t.e 12 2) b (gs.map descOf) (ds.map deckOf) →
      (∀ i, refusal d3 m ((leAt b 41 1).testBit 7) = none → i < 16384 → getModel d i = none → (∀ j, j < i → getModel d j ≠ none) →
        ∃ d4, exec (.modelRegister fn vctx) s = .next (s.settled (reply d4 t 0)) ∧
          getModel d4 i = some { m with attn := some (Config.attn d.fresh) } ∧ (∀ j, j ≠ i → getModel d4 j = getModel d j) ∧
          modelOf d4 t.fn (leAt t.e 12 2) = some i ∧
          d4.toll.taps = d.toll.taps ++ [.register m.part m.fn (BitVec.ofNat 14 i) m.vid]) ∧
      (∀ c, refusal d3 m ((leAt b 41 1).testBit 7) = some c →
        exec (.modelRegister fn vctx) s = .next (s.settled (complete d3 t.cr (cNocpl t) (cId t) 0x01 0xA 0 c 0)))) ∧
    (takes s.dev fn.toNat vctx.toNat (registerOp true) = some (d, t) → ∀ i m, modelOf d t.fn (leAt t.e 12 2) = some i →
      getModel d i = some m →
      (modelInUse d i = false → ∃ d2, exec (.modelUnregister fn vctx) s = .next (s.settled (reply d2 t 0)) ∧ getModel d2 i = none ∧
        modelOf d2 m.fn.toNat m.vid.toNat = none) ∧
      (modelInUse d i = true → exec (.modelUnregister fn vctx) s = .next (s.settled (reply d t 5))))

/-- R277, R314, R489: a SEQ_ADD in its function's window, on a FREE slot, with its parameters in range and a known model, sets the
slot up, READY when it brings tokens, and completes with the slot's handle; a slot outside the window completes with status 2, one
that is not FREE with status 3 or 4. -/
def Obligations.SequenceAdd : Prop :=
  ∀ (s : State) (fn : Func) (vctx : VCtx) (d : Dev) (t : Taken) (i : Nat), takes s.dev fn.toNat vctx.toNat (entryOp 0x10) = some (d, t) →
    i = (vfWin d t.fn).1 + cHandle t % 65536 →
    ((vfWin d t.fn).2 ≤ cHandle t % 65536 → exec (.seqAdd fn vctx) s = .next (s.settled (reply d t 2))) ∧
    (cHandle t % 65536 < (vfWin d t.fn).2 → (getSlot d i).st = .quarantined →
      exec (.seqAdd fn vctx) s = .next (s.settled (reply d t 4))) ∧
    (cHandle t % 65536 < (vfWin d t.fn).2 → (getSlot d i).st ≠ .quarantined → (getSlot d i).st ≠ .free →
      exec (.seqAdd fn vctx) s = .next (s.settled (reply d t 3))) ∧
    (∀ (m : Nat) (mo : Model), cHandle t % 65536 < (vfWin d t.fn).2 → (getSlot d i).st = .free → leAt t.e 40 4 ≤ 262144 →
      leAt t.e 44 1 % 16 ≤ 8 → leAt t.e 44 1 / 16 ≤ 8 → modelOf d t.fn (leAt t.e 12 2) = some m → getModel d m = some mo →
      mo.sampleVa ≠ 0 → groupOk d (getCtx d t.cr).part.toNat (leAt t.e 14 1) mo = true →
      ∃ d2, exec (.seqAdd fn vctx) s = .next (s.settled
          (complete d2 t.cr (cNocpl t) (cId t) 0x10 0 (viewHandle d2 t.fn (slotHandle d2 i)) 0 0)) ∧
        (leAt t.e 40 4 = 0 → getSlot d2 i = newSlot d t (getSlot d i) m mo) ∧
        (leAt t.e 40 4 ≠ 0 → { getSlot d2 i with lookup := false } = { newSlot d t (getSlot d i) m mo with
          st := .ready, readyAt := d.now, readySeq := d.cox.readyCtr }) ∧
        (∀ j, j ≠ i → getSlot d2 j = getSlot d j))

/-- R277, R308, R490: a SEQ_APPEND with its fields in range, and with the token tree that it names a tree, on an IDLE, READY or
ACTIVE slot updates the fields that it selects and adds its tokens; an IDLE slot becomes READY. Of a PARKED, CANCELLING or
RECALLING slot it completes with status 5. -/
def Obligations.SequenceAppend : Prop :=
  ∀ (s : State) (fn : Func) (vctx : VCtx) (d : Dev) (t : Taken) (i : Nat),
    takes s.dev fn.toNat vctx.toNat (fun e => entryOp 0x11 e && !((leAt e 12 1).testBit 5 &&
      readWaits s.dev fn.toNat vctx.toNat (leAt e 48 8) (8 * (leAt e 44 1 - 1)))) = some (d, t) →
    slotOf d t = .ok i →
    ((getSlot d i).st = .idle ∨ (getSlot d i).st = .ready ∨ (getSlot d i).st = .active → appendOk t (getSlot d i) = true →
      ((leAt t.e 12 1).testBit 5 = true → ∃ d1 bs, readVaC d t.cr none (leAt t.e 48 8) (8 * (leAt t.e 44 1 - 1)) = .ok (d1, bs) ∧
        treeOk bs (leAt t.e 44 1) = true) →
      ∃ d2, exec (.seqAppend fn vctx) s = .next (s.settled (reply d2 t 0)) ∧
        ((getSlot d i).st ≠ .idle →
          { getSlot d2 i with lookup := false } = { appendTo t (getSlot d i) with lookup := false }) ∧
        ((getSlot d i).st = .idle → (getSlot d2 i).st = .ready ∧
          (getSlot d2 i).readyAt = d.now ∧ (getSlot d2 i).segs = (appendTo t (getSlot d i)).segs) ∧
        (∀ j, j ≠ i → getSlot d2 j = getSlot d j)) ∧
    ((getSlot d i).st = .parked ∨ (getSlot d i).st = .cancelling ∨ (getSlot d i).st = .recalling →
      exec (.seqAppend fn vctx) s = .next (s.settled (reply d t 5)))

/-- R277, R310, R313: a SEQ_PARK with a time to live parks an IDLE or READY slot whose entries can be marked, waits for an ACTIVE
one, and renews a PARKED one; a SEQ_RESUME of a slot held in pier makes it IDLE. -/
def Obligations.ParkAndResume : Prop :=
  ∀ (s : State) (fn : Func) (vctx : VCtx) (d : Dev) (t : Taken) (i : Nat), slotOf d t = .ok i →
    (takes s.dev fn.toNat vctx.toNat (entryOp 0x12) = some (d, t) → leAt t.e 12 4 ≠ 0 →
      (∀ d1, (getSlot d i).st = .idle ∨ (getSlot d i).st = .ready → setParked d i true = .ok d1 →
        ∃ d2, exec (.seqPark fn vctx) s = .next (s.settled (reply d2 t 0)) ∧ (getSlot d2 i).st = .parked ∧
          (getSlot d2 i).park = some (parkReq d t) ∧ (getSlot d2 i).parkedAt = d.now ∧ i ∈ d2.key.parked) ∧
      ((getSlot d i).st = .active → exec (.seqPark fn vctx) s = .next (s.settled
        (reply (setSlot d i { getSlot d i with parkPend := some (parkReq d t) }) t 0))) ∧
      ((getSlot d i).st = .parked → exec (.seqPark fn vctx) s = .next (s.settled
        (reply (setSlot d i { getSlot d i with park := some (parkReq d t), tierGroup := (parkReq d t).group }) t 0)))) ∧
    (takes s.dev fn.toNat vctx.toNat (entryOp 0x13) = some (d, t) →
      (∀ d1, (getSlot d i).st = .parked → (getSlot d i).remote = false → setParked d i false = .ok d1 →
        ∃ d2, exec (.seqResume fn vctx) s = .next (s.settled (reply d2 t 0)) ∧ (getSlot d2 i).st = .idle ∧
          (getSlot d2 i).park = none ∧ i ∉ d2.key.parked) ∧
      ((getSlot d i).st ≠ .parked → exec (.seqResume fn vctx) s = .next (s.settled (reply d t 5))))

/-- R274, R277, R279, R299: a SEQ_CANCEL or SEQ_RETIRE of an IDLE, READY or PARKED slot frees it: FREE with the next generation,
or QUARANTINED with its own while a push of it is open. Of an ACTIVE slot, SEQ_RETIRE waits for its step and SEQ_CANCEL makes it
CANCELLING, or frees it when only its inserts were left to it (R334). Of a CANCELLING slot SEQ_CANCEL completes and SEQ_RETIRE
ends with status 5; of a RECALLING one SEQ_RETIRE ends with status 5 and SEQ_CANCEL frees it, abandoning the recall, whose command
completes with a status that the spec does not give (log 6). A handle that names no slot ends both with the status of its check. -/
def Obligations.CancelAndRetire : Prop :=
  (∀ (s : State) (fn : Func) (vctx : VCtx) (d : Dev) (t : Taken) (i : Nat) (retire : Bool), slotOf d t = .ok i →
    takes s.dev fn.toNat vctx.toNat (entryOp (if retire then 0x15 else 0x14)) = some (d, t) →
    ((getSlot d i).st = .idle ∨ (getSlot d i).st = .ready ∨ (getSlot d i).st = .parked ∨
        (retire = false ∧ (getSlot d i).st = .active ∧ (getSlot d i).leaving = true) →
      ∃ d2, exec (if retire then .seqRetire fn vctx else .seqCancel fn vctx) s = .next (s.settled (reply d2 t 0)) ∧
        (((getSlot d2 i).st = .free ∧ (getSlot d2 i).gen = nextGen (getSlot d i).gen) ∨
          ((getSlot d2 i).st = .quarantined ∧ (getSlot d2 i).gen = (getSlot d i).gen))) ∧
    (retire = true → (getSlot d i).st = .active →
      exec (.seqRetire fn vctx) s = .next (s.settled (reply (setSlot d i { getSlot d i with retirePend := true }) t 0))) ∧
    (retire = false → (getSlot d i).st = .active → (getSlot d i).leaving = false →
      exec (.seqCancel fn vctx) s = .next (s.settled
        (reply (cancelSteps (setSlot d i { getSlot d i with st := .cancelling }) (getSlot d i).cr.toNat i) t 0))) ∧
    (retire = false → (getSlot d i).st = .cancelling → exec (.seqCancel fn vctx) s = .next (s.settled (reply d t 0))) ∧
    (retire = true → (getSlot d i).st = .cancelling ∨ (getSlot d i).st = .recalling →
      exec (.seqRetire fn vctx) s = .next (s.settled (reply d t 5))) ∧
    (retire = false → (getSlot d i).st = .recalling → exec (.seqCancel fn vctx) s = .next (s.settled
      (fencesOf (reply (releaseSlot (abandonRecall d (getSlot d i)) i false) t 0) (getSlot d i).cr.toNat)))) ∧
  (∀ (s : State) (fn : Func) (vctx : VCtx) (d : Dev) (t : Taken) (n : Nat), slotOf d t = .error n →
    (takes s.dev fn.toNat vctx.toNat (entryOp 0x14) = some (d, t) →
      exec (.seqCancel fn vctx) s = .next (s.settled (reply d t n))) ∧
    (takes s.dev fn.toNat vctx.toNat (entryOp 0x15) = some (d, t) →
      exec (.seqRetire fn vctx) s = .next (s.settled (reply d t n))))

/-- R293, R333, R492, R493: STEP_POLICY in range becomes its context's policy, out of range it completes with status 8; a
PREFIX_LOOKUP of a known model joins its partition's Keystone operations; a FENCE joins its context's fences. -/
def Obligations.PolicyLookupFence : Prop :=
  ∀ (s : State) (fn : Func) (vctx : VCtx) (d : Dev) (t : Taken),
    (takes s.dev fn.toNat vctx.toNat (entryOp 0x20) = some (d, t) →
      (policyOk (policyOf t.e) = true → exec (.stepPolicy fn vctx) s = .next (s.settled
        (reply (setSteps d t.cr { getSteps d t.cr with policy := policyOf t.e }) t 0))) ∧
      (policyOk (policyOf t.e) = false → exec (.stepPolicy fn vctx) s = .next (s.settled (reply d t 8)))) ∧
    (takes s.dev fn.toNat vctx.toNat (entryOp 0x21) = some (d, t) → ∀ m, modelOf d t.fn (leAt t.e 12 2) = some m →
      ∃ d2, exec (.prefixLookup fn vctx) s = .next (s.settled (walksOf d2 (getCtx d t.cr).part.toNat)) ∧
        tget d2.key.ops (getCtx d t.cr).part.toNat [] = tget d.key.ops (getCtx d t.cr).part.toNat [] ++
          [.walk (BitVec.ofNat 12 t.cr) (cId t) d.cox.serial (cNocpl t) m (BitVec.ofNat 64 (leAt t.e 32 8)) (leAt t.e 40 4)] ∧
        d2.cox.serial = d.cox.serial + 1 ∧ d2.cox.slots = d.cox.slots ∧ d2.key.nodes = d.key.nodes) ∧
    (takes s.dev fn.toNat vctx.toNat (entryOp 0x30) = some (d, t) →
      ∃ d2, exec (.fence fn vctx) s = .next (s.settled (fencesOf d2 t.cr)) ∧
        tget d2.cox.fences t.cr [] = tget d.cox.fences t.cr [] ++
          [{ cmdId := cId t, serial := d.cox.serial, step := (leAt t.e 12 1).testBit 0, seen := (getSteps d t.cr).batches
             nocpl := cNocpl t }] ∧
        d2.cox.serial = d.cox.serial + 1 ∧ d2.cox.slots = d.cox.slots ∧ d2.key = d.key)

/-! ## Steps -/

/-- R272, R282, R290, R292, R293: a build that admits slots makes the step of its context's next number, with the admitted and the
deferred slots in the order in which they were examined, as the running step when none runs and as the next one otherwise; one
that admits none builds no step. A build admits at most 8,192 slots and defers at most 256, and its records fit the result
ring. (Stated for a build whose weights are resident and that waits for no frame, while no VERIFY slot of the running step has
reported.)
R213, R285, R557: a step whose weights are resident begins delivery: its tasks wait in ascending TASK_INDEX, its buffer table
entries are filled, and START_TS is now. -/
def Obligations.StepBuildAndDelivery : Prop :=
  (∀ (s : State) (p : PartId) (cr mi : Nat) (d1 : Dev) (m : Model) (cs : List Cand) (f : Frame0) (b0 b : Build),
      buildsFor s.dev p.toNat = some cr → mayBuild s.dev cr = true → cs = candsOf s.dev cr →
      chooseResident s.dev cr p.toNat cs = (d1, some mi) → getModel d1 mi = some m →
      f = { cr := cr, p := p.toNat, num := (getSteps d1 cr).nextNum, mi := mi, m := m
            room := ringFree (getRing d1 (ringKey (getCtx d1 cr).fn.toNat (getCtx d1 cr).vctx.toNat 2)) } → 2 ≤ f.room →
      b0 = { d := d1, adm := [], defd := [], order := [], sum := m.costStep, rows := 0, drows := 0, lcOut := 0, beOut := 0
             anyLc := false, runs := [], want := 0 } →
      examineAll f b0 (sortBy examineBefore (cs.filter (fun c => c.2.1.model = mi))) = .ok b →
      (b.adm.length ≤ 8192 ∧ b.defd.length ≤ 256 ∧ b.adm.length + b.defd.length + 1 ≤ f.room ∧
        b.order.length = b.adm.length + b.defd.length) ∧
      (b.adm ≠ [] → b.want = 0 → (∀ j, j ∈ stepModels d1 mi cs → isResident b.d j = true) → (getSteps b.d cr).cur = none →
        ∃ d2, exec (.stepBuild p) s = .next (s.settled d2) ∧ sameMem b.d d2 ∧
          (getSteps d2 cr).nextNum = (getSteps b.d cr).nextNum + 1 ∧
          (getSteps d2 cr).cur = some (stepFrom f b false)) ∧
      (b.adm ≠ [] → b.want = 0 → (∀ j, j ∈ stepModels d1 mi cs → isResident b.d j = true) →
        ∀ st, (getSteps b.d cr).cur = some st → (∀ (e : Nat) (a : Admitted), st.admitted[e]? = some a → a.kind ≠ 2 ∨ a.outcome = none) →
          ∃ d2, exec (.stepBuild p) s = .next (s.settled d2) ∧ sameMem b.d d2 ∧
            (getSteps d2 cr).nextNum = (getSteps b.d cr).nextNum + 1 ∧ (getSteps d2 cr).cur = some st ∧
            (getSteps d2 cr).nxt = some (stepFrom f b false)) ∧
      (b.adm = [] → b.want = 0 →
        ∃ d2, exec (.stepBuild p) s = .next (s.settled d2) ∧ sameMem s.dev d2 ∧ getSteps d2 cr = getSteps d1 cr ∧
          d2.cox.models = s.dev.cox.models)) ∧
  (∀ (s : State) (p : PartId) (cr : Nat) (st : Step) (m : Model) (ws : List Work),
      deliversFor s.dev p.toNat = some cr → startable s.dev cr = some st → getModel s.dev st.model = some m →
      s.dev.clk.delay = false → stepResident s.dev st m = true → stepTasks s.dev cr st m = .ok ws → ws ≠ [] →
      exec (.stepDeliveryStart p) s = .next { s with
        dev := putStep (fillBufs ((templateVas s.dev st m).foldl (fun d va => chargeRead d cr va 64) s.dev) cr st m) cr { st with phase := .delivering, todo := ws, startTs := s.dev.now } } ∧
      ws.Pairwise (fun a b => taskIndex a ≤ taskIndex b))

/-- R276, R306, R307: after a step's batch is written its slots settle and the next step becomes the running one. A kept slot that
is in no other step, whose pending token the step took, and whose pushes fault nothing, has its position moved past the positions
kept, its last emitted token pending, and is READY when it has work and IDLE otherwise. R298, R299: a dropped step's positions and
tokens go back to the slot, or to the slot's next step when there is one; a cancelled one's slot only leaves the step; a slot that
has been freed since, and one of a FAULTED context, does nothing more. A CANCELLING slot that leaves its last step is freed, and a
retired one too, once its blocks are inserted (R277, R334). R297, R298: a passed deadline of a DROP_LATE slot in the running step
cancels its entry in the step built ahead, whose own tasks are never delivered. -/
def Obligations.StepSettles : Prop :=
  (∀ (s : State) (p : PartId) (cr : Nat) (st : Step), batchCtx s.dev p.toNat = some cr → (getSteps s.dev cr).cur = some st →
    (st.phase = .written → exec (.resultBatchWritten p) s = .next { s with dev := closeStep s.dev cr st }) ∧
    (∀ st1, st.phase = .recorded → alive s.dev = true → ctxDead s.dev cr = false →
      (getSteps (writeBatch s.dev cr st) cr).cur = some st1 → st1.phase = .written →
      exec (.resultBatchWritten p) s = .next { s with dev := closeStep (writeBatch s.dev cr st) cr st1 })) ∧
  (∀ (d : Dev) (cr num : Nat) (a : Admitted) (k : Slot), sameSlot d a.slot a.handle = true → ctxDead d cr = false →
    stepOf d cr (num + 1) = none → a.dropped = false → a.cancelled = false →
    k = keepSlot (adaptSlot (getSlot d a.slot.toNat) a (getSteps d cr).policy.allRej) a false →
    getSlot (pushSlot (compactTree (setSlot (setSlot d a.slot.toNat (adaptSlot (getSlot d a.slot.toNat) a
      (getSteps d cr).policy.allRej)) a.slot.toNat k) a.slot.toNat a) a.slot.toNat a.c (kept a)) a.slot.toNat = k →
    (getSlot d a.slot.toNat).st = .active → (getSlot d a.slot.toNat).pendTok = none →
    (getSlot d a.slot.toNat).retirePend = false → (getSlot d a.slot.toNat).parkPend = none →
    (getSlot (settleAdmitted cr num d a) a.slot.toNat).pos = endPos a ∧
    (getSlot (settleAdmitted cr num d a) a.slot.toNat).pendTok = (emitted a).getLast? ∧
    ((getSlot (settleAdmitted cr num d a) a.slot.toNat).st =
      if (getSlot d a.slot.toNat).segs ≠ [] ∨ (emitted a) ≠ [] then .ready else .idle)) ∧
  (∀ (d d0 : Dev) (cr num : Nat) (a : Admitted) (nx : Option (Nat × Admitted)), sameSlot d a.slot a.handle = true →
    ctxDead d cr = false →
    d0 = setSlot d a.slot.toNat (adaptSlot (getSlot d a.slot.toNat) a (getSteps d cr).policy.allRej) →
    nx = (stepOf d cr (num + 1)).bind (fun n => findEntry d n a.slot.toNat) →
    (a.dropped = true → nx = none → settleAdmitted cr num d a = leaveActive (restoreSlot d0 a.slot.toNat a) a.slot.toNat) ∧
    (∀ e b, a.dropped = true → nx = some (e, b) → settleAdmitted cr num d a = handOn d0 cr (num + 1) e a b) ∧
    (a.dropped = false → a.cancelled = true → settleAdmitted cr num d a = if nx.isSome then d0 else leaveActive d0 a.slot.toNat)) ∧
  (∀ (d : Dev) (cr num : Nat) (a : Admitted), sameSlot d a.slot a.handle = false ∨ ctxDead d cr = true →
    settleAdmitted cr num d a = d) ∧
  (∀ (d d1 : Dev) (i : Nat) (a : Admitted) (m : Model) (l : PageList) (fs : List Nat),
    getModel d (getSlot d i).model = some m → m.draft.bind (getModel d) = none →
    cutPageList d (getSlot d i).cr.toNat m (getSlot d i).list a.pages = .ok (d1, l, fs) →
    (getSlot (restoreSlot d i a) i).pos = a.c ∧ (getSlot (restoreSlot d i a) i).pendTok = a.pendBefore ∧
    (getSlot (restoreSlot d i a) i).segs = a.taken ++ (getSlot d i).segs ∧ (getSlot (restoreSlot d i a) i).list = l) ∧
  (∀ (d : Dev) (i : Nat), ((getSlot d i).st = .cancelling → leaveActive d i = releaseSlot d i false) ∧
    ((getSlot d i).st ≠ .cancelling → (getSlot d i).retirePend = true → insertsLeft d i = false →
      leaveActive d i = releaseSlot d i false) ∧
    ((getSlot d i).st ≠ .cancelling → (getSlot d i).retirePend = true → insertsLeft d i = true →
      leaveActive d i = setSlot d i { getSlot d i with leaving := true })) ∧
  (∀ (s : State) (slot : SlotNo) (cr e0 e : Nat) (st nx nx1 : Step) (a b b1 : Admitted),
    cr = (getSlot s.dev slot.toNat).cr.toNat → (getSteps s.dev cr).cur = some st → (getSlot s.dev slot.toNat).st = .active →
    alive s.dev = true → (st.phase = .built ∨ st.phase = .delivering) → findEntry s.dev st slot.toNat = some (e0, a) →
    stepOf s.dev cr (st.num + 1) = some nx → findEntry s.dev nx slot.toNat = some (e, b) → a.dropLate = true → a.deadline ≠ 0 →
    (s.dev.now.toNat ≤ a.deadline.toNat → exec (.deadlinePass slot) s = .next s) ∧
    (a.deadline.toNat < s.dev.now.toNat → b.cancelled = false → nx1 = dropTodo nx (fun w => w.excl = some e) →
      b1 = { b with cancelled := true, dropped := true, entry := setEnt b.entry 0 36 1 1 } →
      exec (.deadlinePass slot) s = .next { s with
        dev := writeEntry (putStep (putStep s.dev cr nx1) cr (setEntry nx1 e b1)) cr nx1 e b1 } ∧
      (∀ w, w ∈ nx1.todo → w.excl ≠ some e) ∧ (setEntry nx1 e b1).admitted[e]? = some b1))

/-- R314, R315, R420, R468: a slot window that meets no other is stored, and only while VFs are off except the PF's; a selection
stores its number and takes the snapshot of its slot or context; XLT_CTX_TBL of a context that maps a page stays. -/
def Obligations.WindowsAndSnapshots : Prop :=
  ∀ (s : State),
    (∀ (n : Func) (v : Word64), pfOpen s.dev 0x0400800 = true →
      ((s.dev.hif.vfEnable = false ∨ n = 0) → fld v 0 16 + fld v 16 17 ≤ 65536 →
        winMeets s.dev n.toNat (fld v 0 16) (fld v 16 17) = false →
        exec (.coxVfwinWrite n v) s = .next { s with
          dev := setReg s.dev (0x0400800 + 8 * n.toNat) (BitVec.ofNat 64 (fld v 0 33)) }) ∧
      ((s.dev.hif.vfEnable = true ∧ n ≠ 0) ∨ 65536 < fld v 0 16 + fld v 16 17 ∨
        winMeets s.dev n.toNat (fld v 0 16) (fld v 16 17) = true → exec (.coxVfwinWrite n v) s = .next s)) ∧
    (∀ v, pfOpen s.dev 0x0400100 = true →
      ∃ u, exec (.coxSlotSelWrite v) s = .next u ∧ reg u.dev 0x0400100 = BitVec.ofNat 64 (fld v 0 16) ∧
        u.dev.cox.slotInfo = slotInfo s.dev (fld v 0 16) ∧ u.dev.cox.slots = s.dev.cox.slots ∧ u.pending = s.pending) ∧
    (∀ (fn : Func) (v : Word64), fnOpen s.dev fn.toNat 0x0201020 = true →
      ∃ u, exec (.pmgCtxSelWrite fn v) s = .next u ∧ u.dev.pmg.ctxs = s.dev.pmg.ctxs ∧ u.pending = s.pending ∧
        (∀ cr, ctxOf s.dev (if fn = 0 then fld v 0 6 else fn.toNat) (fld v 6 7) = some cr →
          tget u.dev.pmg.info fn.toNat 0 = ctxInfo s.dev cr (fn.toNat ≠ 0)) ∧
        (ctxOf s.dev (if fn = 0 then fld v 0 6 else fn.toNat) (fld v 6 7) = none → tget u.dev.pmg.info fn.toNat 0 = 0)) ∧
    (∀ (c : CtxNo) (v : Word64), pfOpen s.dev 0x0B01000 = true →
      ((∀ cr, recInSlot s.dev c.toNat = some cr → (getMaps s.dev cr).leaves = []) →
        exec (.xltCtxTblWrite c v) s = .next { s with
          dev := setReg s.dev (0x0B01000 + 8 * c.toNat) (BitVec.ofNat 64 (fld v 0 33)) }) ∧
      (∀ cr, recInSlot s.dev c.toNat = some cr → (getMaps s.dev cr).leaves ≠ [] → exec (.xltCtxTblWrite c v) s = .next s))

/-! ## Keystone and pier -/

/-- R332, R333: a lookup in front of its partition's operations gives its slot the pages of the nodes that match its prompt's
blocks: position 64 a block, a reference held on each node, SHARED_HIT to be shown; the matched nodes are in use. One that matches
nothing only ends the slot's wait. -/
def Obligations.KeystoneLookups : Prop :=
  ∀ (s : State) (slot : SlotNo) (d0 dw : Dev) (sl : Slot) (mo : Model) (ts : List Word32) (nodes : List Nat),
    sl = getSlot s.dev slot.toNat → frontOp s.dev sl.part.toNat = some (.lookup slot sl.gen) → alive s.dev = true →
    sl.lookup = true → ctxDead s.dev sl.cr.toNat = false → d0 = popOp s.dev sl.part.toNat →
    pierPoison d0 (modelEntryAt sl.model) 1024 = none → getModel d0 sl.model = some mo → sl.pullObj = none →
    lookupTokens d0 sl (blocksOf (promptLen sl)) = .ok ts →
    walkRoot (chargeTokens d0 sl (blocksOf (promptLen sl))) sl.cr.toNat true sl.model (blockList ts (ts.length / 64)) = (dw, nodes) →
    (nodes = [] → exec (.keystoneLookup slot) s = .next (s.settled (walksOf (lookupOver dw slot.toNat) sl.part.toNat))) ∧
    (∀ (d1 d2 : Dev) (r : Nat × Nat) (l : PageList), nodes ≠ [] → lookupList dw sl mo nodes.length = some r →
      moveList dw sl.cr.toNat sl.list r.1 r.2 = .ok (d1, l) → copySegments d1 sl.cr.toNat sl.gen.toNat mo l 0 nodes = .ok d2 →
      (getSlot d2 slot.toNat).pullObj = none →
      exec (.keystoneLookup slot) s = .next (s.settled (walksOf (matchSlot d2 slot.toNat mo l nodes (blocksOf (promptLen sl)))
        sl.part.toNat)) ∧
      (getSlot (matchSlot d2 slot.toNat mo l nodes (blocksOf (promptLen sl))) slot.toNat).pos = 64 * nodes.length ∧
      (getSlot (matchSlot d2 slot.toNat mo l nodes (blocksOf (promptLen sl))) slot.toNat).refs = nodes ∧
      (getSlot (matchSlot d2 slot.toNat mo l nodes (blocksOf (promptLen sl))) slot.toNat).hit = nodes.length ∧
      (getSlot (matchSlot d2 slot.toNat mo l nodes (blocksOf (promptLen sl))) slot.toNat).lookup = false ∧
      (nodes.Nodup → ∀ n, n ∈ nodes → (getNode d2 n).refs = (getNode d1 n).refs + 1 ∧ (getNode d2 n).inLru = false))

/-- R334 to R336: an insert in front of its partition's operations, of the block that follows its slot's chain under a node without
that child, commits a BLOCK node with the block's tokens and one reference, which the slot's chain then ends in, in the child entry
found for it; a block that does not follow the chain is dropped. -/
def Obligations.KeystoneInserts : Prop :=
  ∀ (s : State) (slot : SlotNo) (b : Nat) (ts : List Word32) (d0 : Dev) (sl : Slot), sl = getSlot s.dev slot.toNat →
    frontOp s.dev sl.part.toNat = some (.insert slot sl.gen b ts) → alive s.dev = true → sl.st ≠ .cancelling →
    ctxDead s.dev sl.cr.toNat = false → d0 = popOp s.dev sl.part.toNat → pierPoison d0 (modelEntryAt sl.model) 1024 = none →
    (sl.chainLen ≠ b → exec (.keystoneInsert slot) s = .next (s.settled (walksOf (leaveDone d0 slot.toNat) sl.part.toNat))) ∧
    (∀ (mo : Model) (parent n pa : Nat) (spot : Nat × Nat) (d2 d3 d4 d5 d6 : Dev) (ws : List Word64), sl.chainLen = b →
      getModel d0 sl.model = some mo → sl.chainNode = some parent → nodeBad d0 parent = false →
      findChild d0 sl.cr.toNat true sl.model parent ts = (d2, none) → entriesOf d2 sl (blockEntries mo b) = .ok ws →
      takeNode (lruRemove d2 parent) sl.part.toNat
        { Node.init with tokens := ts, model := BitVec.ofNat 14 sl.model, part := sl.part, kind := .block, depth := BitVec.ofNat 16 b
                         parent := parent, hash := crc32c (tokenBytes ts), refs := 1, lastUse := d2.now } = (d4, some n) →
      childSpot d4 sl.part.toNat sl.model parent = (d5, some spot) →
      takeSegment d5 sl.part.toNat (blockEntries mo b).length = some (pa, d6) → getNode d6 n = getNode d4 n → spot.1 ≠ n → n ≠ parent →
      commitNode d6 slot.toNat sl.part.toNat n parent ts spot pa (blockEntries mo b) ws = .ok d3 →
      exec (.keystoneInsert slot) s = .next (s.settled (walksOf (leaveDone d3 slot.toNat) sl.part.toNat)) ∧
      (getSlot d3 slot.toNat).chainNode = some n ∧ (getSlot d3 slot.toNat).chainLen = (getSlot d6 slot.toNat).chainLen + 1 ∧
      (getNode d3 n).kind = .block ∧ (getNode d3 n).tokens = ts ∧ (getNode d3 n).refs = 1 ∧
      (getNode d3 n).segN = BitVec.ofNat 12 (blockEntries mo b).length ∧ (getNode d3 n).parent = parent)

/-- R312, R338, R339, R345: KEY_FLUSH queues a flush and shows it busy, and a second one while it is busy does nothing; the flush in
front of a partition that has nothing to evict is over at once. A sweep reports the PARKED slots of its stack whose time to live
has expired; Cox frees a reported slot that is still expired and records PARK_EXPIRED, and leaves one that is not.
R256, R317, R319: a free frame is zeroed ahead of its use, and every other byte of pier stays; eight CRC failures in a row
hold a stack link until its retrain, which clears them or is fatal; a refresh counts twice above 85 °C. -/
def Obligations.FlushSweepAndPier : Prop :=
  (∀ (s : State),
      (∀ v : Word32, pfOpen s.dev 0x0600000 = true → bitOf v 4 = true →
        (bitOf s.dev.key.flushBusy (fld v 0 4) = false →
          exec (.keyFlush v) s = .next { s with dev := { s.dev with key := { s.dev.key with
            flushBusy := setFld s.dev.key.flushBusy (fld v 0 4) 1 1
            ops := tset s.dev.key.ops (fld v 0 4) (tget s.dev.key.ops (fld v 0 4) [] ++ [.flush]) } } }) ∧
        (bitOf s.dev.key.flushBusy (fld v 0 4) = true → exec (.keyFlush v) s = .next s)) ∧
      (∀ p : PartId, frontOp s.dev p.toNat = some .flush → alive s.dev = true → lruList s.dev p.toNat = [] →
        ∃ d2, exec (.keystoneFlush p) s = .next (s.settled (walksOf d2 p.toNat)) ∧ bitOf d2.key.flushBusy p.toNat = false ∧
          d2.key.nodes = s.dev.key.nodes ∧ tget d2.key.ops p.toNat [] = (tget s.dev.key.ops p.toNat []).drop 1) ∧
      (∀ st : StackId, alive s.dev = true →
        (∀ i, i ∈ s.dev.key.parked → stackOf (slotRecordAt i) = st.toNat → pierPoison s.dev (slotRecordAt i) 256 = none) →
        ∃ l, exec (.ttlSweep st) s = .next { s with dev := { s.dev with key := { s.dev.key with reports := s.dev.key.reports ++ l } } } ∧
          ∀ i, i ∈ l ↔ i ∈ s.dev.key.parked ∧ stackOf (slotRecordAt i) = st.toNat ∧ expired s.dev i = true ∧ i ∉ s.dev.key.reports) ∧
      (∀ (slot : SlotNo) (d1 : Dev), alive s.dev = true → slot.toNat ∈ s.dev.key.reports →
        d1 = { s.dev with key := { s.dev.key with reports := s.dev.key.reports.filter (· ≠ slot.toNat) } } →
        pierPoison d1 (slotRecordAt slot.toNat) 256 = none →
        (expired s.dev slot.toNat = false → exec (.expiryReport slot) s = .next { s with dev := d1 }) ∧
        (expired s.dev slot.toNat = true → exec (.expiryReport slot) s = .next (s.settled (releaseSlot
          (ctxEvent d1 (getSlot s.dev slot.toNat).cr.toNat 0x0102
            { unit := 3, handle := viewHandle d1 (getSlot s.dev slot.toNat).fn.toNat (slotHandle d1 slot.toNat) }) slot.toNat true))))) ∧
  (∀ (s : State),
      (∀ f : BitVec 20, (∃ p, p < 16 ∧ partEnabled s.dev p = true ∧ frameFree s.dev p f.toNat = true) →
        ∃ u, exec (.frameZero f) s = .next u ∧ u.pending = s.pending ∧ u.dev.host = s.dev.host ∧ u.dev.tiles = s.dev.tiles ∧
          f.toNat ∈ u.dev.pier.zeroed ∧ (∀ w, w ∈ u.dev.pier.poison ↔ w ∈ s.dev.pier.poison ∧ w / 4096 ≠ f.toNat) ∧
          ∀ a, memGet u.dev.pier.mem a = if 65536 * f.toNat ≤ a ∧ a < 65536 * f.toNat + 65536 then 0 else memGet s.dev.pier.mem a) ∧
      (∀ f : BitVec 20, (∀ p, p < 16 → partEnabled s.dev p = false ∨ frameFree s.dev p f.toNat = false) →
        exec (.frameZero f) s = .next s) ∧
      (∀ (k : StackId) (x : Link), getLink s.dev k.toNat = x →
        (x.held = false → exec (.pierCrcRetry k) s = .next { s with dev := setLink s.dev k.toNat { x with fails := min 8 (x.fails + 1) } }) ∧
        (x.held = true → exec (.pierCrcRetry k) s = .next s) ∧
        (8 ≤ x.fails → exec (.pierLinkRetrain k) s = .next { s with dev := setLink s.dev k.toNat { x with held := true } }) ∧
        (x.fails < 8 → exec (.pierLinkRetrain k) s = .next s) ∧
        (x.held = true → exec (.stackLinkRetrainDone k true) s =
          .next { s with dev := setLink s.dev k.toNat { fails := 0, held := false } }) ∧
        (x.held = true → exec (.stackLinkRetrainDone k false) s =
          .next { s with dev := deviceFatal (setLink s.dev k.toNat { fails := 0, held := false }) 1 k.toNat { unit := 5 } }) ∧
        (x.held = false → ∀ ok, exec (.stackLinkRetrainDone k ok) s = .next s)) ∧
      (∀ (k : StackId) (die : BitVec 4) (above : Bool),
        ∃ u, exec (.pierRefresh k die above) s = .next u ∧ u.dev.pier.refreshes = s.dev.pier.refreshes + (if above then 2 else 1) ∧
          (∀ j, j ∈ u.dev.pier.hot ↔ (j = 16 * k.toNat + die.toNat ∧ above = true) ∨
            (j ∈ s.dev.pier.hot ∧ j ≠ 16 * k.toNat + die.toNat)) ∧ { u.dev with pier := s.dev.pier } = s.dev))

/-! ## Causeway -/

/-- R346, R350, R355, R356, R358, R360, R362: FLOW_CREATE takes the lowest free record of its direction; CHUNK_SEND of the flow that
its port sends next sends the flow's next chunk, queued retransmissions first, or its request once, as one frame whose CRC is that
of R355, out of a port that is UP without MACsec, and the flow's rate holds its next frame; REQUEST_RETRANSMIT sends the request again while no data has come. -/
def Obligations.FlowsSend : Prop :=
  (∀ (s : State) (x stripe i lo n : Nat) (t : Transfer) (sp : FlowSpec), getXfer s.dev x = some t →
    t.toMake.find? (fun q => q.stripe = stripe) = some sp → lo = (if ingressType t.type then 16384 else 0) →
    n = (if ingressType t.type then 4096 else 16384) → lo ≤ i → i < lo + n → (getFlow s.dev i).live = false →
    (∀ j, lo ≤ j → j < i → (getFlow s.dev j).live = true) →
    ∃ u use, exec (.flowCreate x stripe) s = .next u ∧ u.pending = s.pending ∧ getFlow u.dev i = newFlow s.dev x t sp use ∧
      (∀ f, tfind s.dev.cwy.flows i = some f → use = f.use + 1) ∧ (tfind s.dev.cwy.flows i = none → use = 0) ∧
      (∀ j, j ≠ i → getFlow u.dev j = getFlow s.dev j) ∧
      getXfer u.dev x = some { t with toMake := t.toMake.erase sp, live := t.live ++ [i] }) ∧
  (∀ (s : State) (flow : BitVec 15) (f : Flow) (t : Transfer), openFlow s.dev flow.toNat = some (f, t) →
    lportExists s.dev f.lport = true → (getPort s.dev f.lport).st = .up → portMac s.dev f.lport ≠ 0 → macsecOn s.dev f.lport = false →
    (∀ q retx, flow.toNat < 16384 → nextChunk f = some (q, retx) →
      (∀ r, r ∈ chunkRuns t (absChunk t f q) → pierPoison s.dev r.1 r.2 = none) → portNext s.dev f.lport = some flow.toNat →
      ∃ d2 fr, exec (.chunkSend flow .ok) s = .next (s.settled d2) ∧
        getFlow d2 flow.toNat = paced s.dev.now.toNat (flowSize s.dev t f (chunkLen t (absChunk t f q)))
          (if retx then { f with resend := f.resend.erase q } else { f with next := f.next + 1 }) ∧
        d2.hif.out.frames = s.dev.hif.out.frames ++ [(f.lport, fr, wireBytes fr)] ∧ fr.crc = frameCrc fr ∧
        fr.payload = (chunkRuns t (absChunk t f q)).flatMap (fun r => pierGet s.dev r.1 r.2) ∧ fr.seq = BitVec.ofNat 32 q ∧
        fr.flow = flowId flow.toNat f ∧ fr.handle = f.handle ∧ fr.type.toNat = typeCode t.type ∧ fREQ fr = false ∧
        fr.offset = BitVec.ofNat 64 (t.offset + chunkBytes * absChunk t f q) ∧ sameMem s.dev d2) ∧
    (16384 ≤ flow.toNat → f.reqSent = false → portNext s.dev f.lport = some flow.toNat →
      ∃ u fr, exec (.chunkSend flow .ok) s = .next u ∧ u.pending = s.pending ∧ getFlow u.dev flow.toNat =
          paced s.dev.now.toNat (flowSize s.dev t f 0) { f with reqSent := true } ∧
        u.dev.hif.out.frames = s.dev.hif.out.frames ++ [(f.lport, fr, wireBytes fr)] ∧ fREQ fr = true ∧ fr.crc = frameCrc fr ∧
        fr.flow = flowId flow.toNat f ∧ fr.offset = BitVec.ofNat 64 f.reqOff ∧ fr.payload = [] ∧ sameMem s.dev u.dev) ∧
    (16384 ≤ flow.toNat → f.reqSent = true → f.cum = 0 → f.above = [] → mayRepeat s.dev f = true →
      ∃ u fr, exec (.requestRetransmit flow) s = .next u ∧ u.pending = s.pending ∧ u.dev.cwy = s.dev.cwy ∧
        u.dev.hif.out.frames = s.dev.hif.out.frames ++ [(f.lport, fr, wireBytes fr)] ∧ fREQ fr = true ∧ bitOf fr.flags 2 = true ∧
        fr.flow = flowId flow.toNat f ∧ sameMem s.dev u.dev))

/-- R358, R361, R362, R364, R370, R396: what an accepted frame does to the flow that it names. An ACK moves CUM and CREDIT, cuts the
rate on ECE, adds what it newly covers of a KV_PUSH to the tap, and ends the flow DONE once every chunk is acknowledged, or by its
STATUS; an ABORT frame ends it; a data chunk that has not come before is
stored once and one that has come before only acknowledged. A request frame, and a frame of no kind, changes no flow and no
memory. -/
def Obligations.FramesArrive : Prop :=
  ∀ (s : State) (l : Nat) (fr : Frame), l < 160 →
    (∀ d i f, reaches s.dev l fr = some (d, i, f) →
      (∀ t, isAckKind fr = true → getXfer d f.xfer = some t → 16384 ≤ i →
        exec (.ackFrameArrival l fr) s =
          .next { s with dev := if ackStatus fr = 0 then d else flowEnds d i (.peer (ackStatus fr)) }) ∧
      (∀ t h g0 g d1, isAckKind fr = true → getXfer d f.xfer = some t → i < 16384 →
        h = takeAck f (ackCum fr) (ackSack fr) (ackCredit fr) →
        g0 = (if newlyAcked f h = [] then h else { h with progressAt := d.now }) →
        g = (if fECE fr = true ∧ bitOf (reg d 0x0800010) 28 = true then cutRate d g0 else g0) →
        d1 = (if t.type = .kvPush then addTap d true t ((newlyAcked f h).map (fun q => chunkLen t (absChunk t f q))).sum else d) →
        f.cum ≤ g.cum ∧ f.credit ≤ g.credit ∧ ackCredit fr ≤ g.credit ∧
        (ackStatus fr ≠ 0 →
          exec (.ackFrameArrival l fr) s = .next { s with dev := flowEnds (setFlow d1 i g) i (.peer (ackStatus fr)) }) ∧
        (ackStatus fr = 0 → g.cum < f.chunks →
          exec (.ackFrameArrival l fr) s = .next { s with dev := setFlow d1 i (gapResend d.now.toNat g) }) ∧
        (ackStatus fr = 0 → f.chunks ≤ g.cum →
          exec (.ackFrameArrival l fr) s = .next { s with dev := flowEnds (setFlow d1 i g) i .done })) ∧
      (isAbortKind fr = true → exec (.abortFrameArrival l fr) s = .next { s with dev := flowEnds d i (.peer 0) }) ∧
      (∀ t q c ce, isDataKind fr = true → getXfer d f.xfer = some t → 16384 ≤ i → chunkMatches t f fr = true → q = fr.seq.toNat →
        c = absChunk t f q → ce = (decide (fr.encap ≠ 0) && decide (fr.ecn = 3)) →
        (hasChunk f q = true →
          exec (.dataFrameArrival l fr) s = .next { s with dev := sendAck (setFlow d i { f with unacked := 0 }) i t f ce 0 }) ∧
        (∀ d1, hasChunk f q = false → c ∉ t.got → macsecOn d1 f.lport = false → storeChunk d t c fr.payload = .ok d1 → t.type ≠ .weightPull →
          f.cum ≤ (noteChunk f q).cum ∧
          ((noteChunk f q).cum < f.chunks →
            ∃ u, exec (.dataFrameArrival l fr) s = .next u ∧ u.pending = s.pending ∧ sameMem d1 u.dev ∧
              getXfer u.dev f.xfer = some { t with got := c :: t.got } ∧ (getFlow u.dev i).cum = (noteChunk f q).cum ∧
              (getFlow u.dev i).above = (noteChunk f q).above)))) ∧
    (isRequestKind fr = true → portIn s.dev l fr = none → exec (.requestFrameArrival l fr) s = .next s) ∧
    (∀ d, isRequestKind fr = true → portIn s.dev l fr = some d →
      exec (.requestFrameArrival l fr) s = .next { s with dev := d } ∧ d.cwy = s.dev.cwy ∧ sameMem s.dev d) ∧
    (isRequestKind fr = false → isAbortKind fr = false → isAckKind fr = false → isDataKind fr = false →
      (portIn s.dev l fr = none → exec (.frameDiscard l fr) s = .next s) ∧
      (∀ d, portIn s.dev l fr = some d → exec (.frameDiscard l fr) s = .next { s with dev := d } ∧ d.cwy = s.dev.cwy ∧ sameMem s.dev d))

/-- R359 to R362, R373: chunks not yet acknowledged are when the ACK timer expires; at an RTO the lowest unacknowledged chunk is
queued again and the interval doubles, to 1,024 µs at most; a flow without progress for TIMEOUT ends TIMED_OUT, and no other does; the rate rises by RATE_AI up to
the port's. The last flow of a WEIGHT_PULL that ends DONE makes its model resident. -/
def Obligations.FlowTimers : Prop :=
  ∀ (s : State) (flow : BitVec 15) (f : Flow) (t : Transfer), openFlow s.dev flow.toNat = some (f, t) →
    (16384 ≤ flow.toNat → f.unacked ≠ 0 → exec (.ackTimerExpiry flow) s =
      .next { s with dev := sendAck (setFlow s.dev flow.toNat { f with unacked := 0 }) flow.toNat t f false 0 }) ∧
    (flow.toNat < 16384 → f.cum < f.next → f.cum ∉ f.above →
      ∃ l, exec (.rtoExpiry flow) s = .next { s with
          dev := setFlow s.dev flow.toNat { f with resend := l, rtoUs := min 1024 (2 * f.rtoUs) } } ∧ f.cum ∈ l ∧
        (∀ q, q ∈ l → f.cum ≤ q ∧ q < f.next ∧ q ∉ f.above)) ∧
    (flow.toNat < 16384 → f.next ≤ f.cum → exec (.rtoExpiry flow) s = .next s) ∧
    (stalled s.dev f = true → exec (.flowTimeout flow) s = .next { s with dev := flowEnds s.dev flow.toNat .timedOut }) ∧
    (stalled s.dev f = false → exec (.flowTimeout flow) s = .next s) ∧
    (flow.toNat < 16384 → exec (.rateIncrease flow) s = .next { s with
      dev := setFlow s.dev flow.toNat
        { f with rate := min (f.rate + (fld (reg s.dev 0x0800010) 0 8 : Nat)) (portRate s.dev f.lport : Nat) } }) ∧
    (∀ m, t.type = .weightPull → t.live = [flow.toNat] → t.toMake = [] → getModel s.dev t.model = some m →
      ∃ d2, flowEnds s.dev flow.toNat .done = coxSettle d2 ∧ getModel d2 t.model = some { m with resident := true, pull := none } ∧
        getXfer d2 f.xfer = none ∧ (getFlow d2 flow.toNat).live = false)

/-! ## Translation -/

/-- R417 to R419: a commit whose context exists with tables enabled maps or unmaps its pages in ascending order until one fails, and
shows BUSY with the RESULT and the number of pages committed until its end; no other context's tables change, and no memory but
pier, where the table entries lie. A mapped page has a
leaf with its target, an unmapped page none; RESULT is 0 exactly when every page was committed. A commit of a context without
tables ends with RESULT 7, and a write while one runs is discarded. -/
def Obligations.Commits : Prop :=
  ∀ (s : State) (fn : Func) (v va target : Word64) (un : Bool), fnOpen s.dev fn.toNat 0x0B00000 = true →
    va = fnReg s.dev fn.toNat 0x0B00000 0x1000 → target = fnReg s.dev fn.toNat 0x0B00008 0x1008 →
    ((getCommit s.dev fn.toNat).busy = true → exec (if un then .unmap fn v else .map fn v) s = .next s) ∧
    ((getCommit s.dev fn.toNat).busy = false → fld v 0 2 = (if un then 1 else 0) →
      (ctxOf s.dev fn.toNat (fld va 48 7)).filter (fun cr => tblOn (tblOf s.dev cr)) = none →
      exec (if un then .unmap fn v else .map fn v) s =
        .next { s with dev := setCommit s.dev fn.toNat { busy := true, result := 7, done := 0, cr := 0 } }) ∧
    (∀ cr q r, (getCommit s.dev fn.toNat).busy = false → fld v 0 2 = (if un then 1 else 0) →
      ctxOf s.dev fn.toNat (fld va 48 7) = some cr → tblOn (tblOf s.dev cr) = true →
      q = { cr := cr, unmap := un, large := bitOf v 2, read := bitOf v 3, write := bitOf v 4 } →
      r = commitPages (freezeMaps s.dev cr) q (fld va 0 48) (fld target 0 60) 0 (fld v 5 8 + 1) →
      exec (if un then .unmap fn v else .map fn v) s = .next { s with
        dev := setCommit (squash r.1 cr) fn.toNat
          { busy := true, result := BitVec.ofNat 8 r.2.1, done := BitVec.ofNat 9 r.2.2, cr := BitVec.ofNat 12 cr } } ∧
      (r.2.1 = 0 ↔ r.2.2 = fld v 5 8 + 1) ∧ r.2.2 ≤ fld v 5 8 + 1 ∧
      (∀ c, c ≠ cr → getMaps (squash r.1 cr) c = getMaps s.dev c) ∧ (squash r.1 cr).host = s.dev.host ∧
      (squash r.1 cr).tiles = s.dev.tiles) ∧
    (∀ d q a b m, commitPage d q a b = .ok m →
      (q.unmap = false → ∃ l, l ∈ m.leaves ∧ l.va = a ∧ l.large = q.large ∧ l.target = b % 2 ^ 60 ∧ l.read = q.read ∧ l.write = q.write) ∧
      (q.unmap = true → ∀ l, l ∈ m.leaves → l.va ≠ a)) ∧
    ((getCommit s.dev fn.toNat).busy = true →
      exec (.commitEnd fn) s = .next { s with dev := setCommit s.dev fn.toNat { getCommit s.dev fn.toNat with busy := false } })

/-! ## Faults and teardown -/

/-- R414, R432 to R435, R470, R500: an error completion and a completion timeout end alike: a context's request faults it with
F_XLATE_PERM, and a mailbox or an image read ends with its error code. A free engine takes the context that has waited longest;
the end of a teardown frees the engine, and the FAULTED context can be armed. A fault of a context that is not FAULTED makes it so
and queues its teardown. -/
def Obligations.ErrorsAndTeardown : Prop :=
  ∀ (s : State),
    (∀ cr : RecNo, s.dev.clk.stopped = false →
      exec (.pcieErrorCompletion (.context cr)) s = .next { s with dev := ctxFault s.dev cr.toNat fXlatePerm { unit := 8 } } ∧
      exec (.pcieCompletionTimeout (.context cr)) s = .next { s with dev := ctxFault s.dev cr.toNat fXlatePerm { unit := 8 } }) ∧
    exec (.pcieErrorCompletion .truMailbox) s =
      .next { s with dev := { s.dev with tru := { s.dev.tru with result := 10, respLen := 0 } } } ∧
    exec (.pcieCompletionTimeout .truMailbox) s =
      .next { s with dev := { s.dev with tru := { s.dev.tru with result := 10, respLen := 0 } } } ∧
    (∀ fn op r, s.dev.toll.queue = (fn, op) :: r →
      exec (.pcieErrorCompletion (.tollMailbox fn)) s = .next { s with dev := endMbx s.dev fn.toNat 6 0 } ∧
      exec (.pcieCompletionTimeout (.tollMailbox fn)) s = .next { s with dev := endMbx s.dev fn.toNat 6 0 }) ∧
    (s.dev.boot.stage = 2 →
      exec (.pcieErrorCompletion .bootRead) s =
        .next { s with dev := { s.dev with boot := { s.dev.boot with stage := 1, error := 7 } } } ∧
      exec (.pcieCompletionTimeout .bootRead) s =
        .next { s with dev := { s.dev with boot := { s.dev.boot with stage := 1, error := 7 } } }) ∧
    (s.dev.boot.piBusy = true → (getPart s.dev s.dev.boot.piPart.toNat).reload = false →
      exec (.pcieErrorCompletion .partitionImage) s =
        .next { s with dev := { s.dev with boot := { s.dev.boot with piBusy := false, piResult := 7 } } } ∧
      exec (.pcieCompletionTimeout .partitionImage) s =
        .next { s with dev := { s.dev with boot := { s.dev.boot with piBusy := false, piResult := 7 } } }) ∧
    (∀ (rec : RecNo) (r : List RecNo), s.dev.flt.waiting = rec :: r → s.dev.flt.engines.length < 4 → s.dev.clk.stopped = false →
      exec (.teardownStart rec) s = .next { s with
        dev := { s.dev with flt := { s.dev.flt with engines := s.dev.flt.engines ++ [rec], waiting := r } } }) ∧
    (∀ rec : RecNo, 4 ≤ s.dev.flt.engines.length → exec (.teardownStart rec) s = .next s) ∧
    (∀ rec : RecNo, rec ∈ s.dev.flt.engines → commitRuns s.dev rec.toNat = false → s.dev.clk.stopped = false →
      (getCtx s.dev rec.toNat).st = .faulted → (getPart s.dev (getCtx s.dev rec.toNat).part.toNat).phase ≠ .resetting →
      ∃ d2, exec (.teardownDone rec) s = .next (s.settled d2) ∧ d2.flt.engines = s.dev.flt.engines.erase rec ∧
        (getCtx d2 rec.toNat).st = .faulted ∧ (getCtx d2 rec.toNat).tornDown = true ∧ (getCtx d2 rec.toNat).tearing = false) ∧
    (∀ (cr code : Nat) (i : Info), (getCtx s.dev cr).st ≠ .free → (getCtx s.dev cr).st ≠ .faulted → cr < 4096 →
      (getCtx (ctxFault s.dev cr code i) cr).st = .faulted ∧ (getCtx (ctxFault s.dev cr code i) cr).tearing = true ∧
      (getSteps (ctxFault s.dev cr code i) cr).cur = none ∧ (getSteps (ctxFault s.dev cr code i) cr).nxt = none ∧
      (ctxFault s.dev cr code i).flt.waiting = s.dev.flt.waiting ++ [BitVec.ofNat 12 cr])

/-! ## Partitions and contexts -/

/-- R445, R446, R448: a slice is due at its last microsecond or once its context is BLOCKED with no step delivering, and not before;
then the context's slice is over, or, when no other context has work and no commit runs, it has a new slice of SLICE − DEBT µs, its
DEBT 0. R446, R449: once GRACE has passed with a step delivering, and not before, the context is SAVING, and no pop or steal is
served; under PRE_INSTR every tile of the partition is asked to stop. -/
def Obligations.SlicesAndGrace : Prop :=
  ∀ (s : State) (p : PartId) (cr : RecNo), (getPart s.dev p.toNat).running = some cr → alive s.dev = true →
    ((getPart s.dev p.toNat).sliceOver = none → sliceDue s.dev p.toNat cr.toNat = false → exec (.sliceEnd p) s = .next s) ∧
    ((getPart s.dev p.toNat).sliceOver = none → sliceDue s.dev p.toNat cr.toNat = true →
      (goesOn s.dev p.toNat cr.toNat = false ∨ commitRuns s.dev cr.toNat = true) →
      exec (.sliceEnd p) s = .next { s with
        dev := setPart s.dev p.toNat
          { getPart s.dev p.toNat with sliceOver := some s.dev.now, noGrace := false } }) ∧
    (∀ d1 c, (getPart s.dev p.toNat).sliceOver = none → sliceDue s.dev p.toNat cr.toNat = true →
      goesOn s.dev p.toNat cr.toNat = true → commitRuns s.dev cr.toNat = false →
      pickNext (countLc s.dev p.toNat) p.toNat (some cr.toNat) = (d1, some c) →
      exec (.sliceEnd p) s = .next { s with dev := startSlice d1 p.toNat c } ∧
      (getCtx (startSlice d1 p.toNat c) c).st = .running ∧ (getCtx (startSlice d1 p.toNat c) c).debt = 0 ∧
      (getPart (startSlice d1 p.toNat c) p.toNat).sliceEnd =
        d1.now + BitVec.ofNat 64 (100 * (partSlice d1 p.toNat - (getCtx d1 c).debt))) ∧
    (∀ t, (getPart s.dev p.toNat).sliceOver = some t → usSince s.dev t < partGrace s.dev p.toNat →
      exec (.graceExpiry p) s = .next s) ∧
    (∀ t, (getPart s.dev p.toNat).sliceOver = some t → (getPart s.dev p.toNat).noGrace = false →
      partGrace s.dev p.toNat ≤ usSince s.dev t → delivering s.dev cr.toNat = true → goesOn s.dev p.toNat cr.toNat = false →
      ∃ u, exec (.graceExpiry p) s = .next u ∧ u.pending = s.pending ∧ (getCtx u.dev cr.toNat).st = .saving ∧
        (getPart u.dev p.toNat).saving = some cr ∧ (getPart u.dev p.toNat).running = none ∧ p.toNat ∈ u.dev.cat.stopServe ∧
        sameMem s.dev u.dev ∧
        ∀ v, v ∈ partTiles s.dev p.toNat → (getTile u.dev v).preReq = (!partPreTile s.dev p.toNat || (getTile s.dev v).preReq))

/-- R142, R447 to R453: a save that meets no uncorrectable word leaves its context WAITING with its state saved, and one that does
faults it; a partition passes to the context chosen, which runs with its DEBT 0; a commit or an insert that overruns completes and
faults its context, and one of firmware's own is fatal; a swapped-out context's saved state is in its swap region and its slot is
free, and a swapped-in one's is in its slot's save area and the context is WAITING. -/
def Obligations.SwitchesAndSwaps : Prop :=
  ∀ (s : State), alive s.dev = true →
    (∀ (p : PartId) (rc : RecNo), (getPart s.dev p.toNat).saving = some rc → saveReady s.dev p.toNat rc = true →
      commitRuns s.dev rc.toNat = false →
      (saveFault s.dev p.toNat = none →
        ∃ d2, exec (.preemptSaveDone p) s = .next (s.settled d2) ∧ (getCtx d2 rc.toNat).st = .waiting ∧
          (getCtx d2 rc.toNat).saved.isSome = true ∧ (getPart d2 p.toNat).saving = none) ∧
      (∀ t w, saveFault s.dev p.toNat = some (t, w) → exec (.preemptSaveDone p) s = .next { s with
        dev := ctxFault s.dev rc.toNat fEccDeck { unit := 6, tile := t, detail := eccDetail w } })) ∧
    (∀ (p : PartId), partEnabled s.dev p.toNat = true → (getPart s.dev p.toNat).reload = false →
      (getPart s.dev p.toNat).phase ≠ .resetting →
      (switchPoint s.dev p.toNat = none → exec (.contextSwitch p) s = .next s) ∧
      (∀ out, switchPoint s.dev p.toNat = some out → s.dev.boot.quiesce = true →
        exec (.contextSwitch p) s = .next (s.settled (setPart
          (dropDeckModels (countLc (handOver s.dev p.toNat out) p.toNat) p.toNat) p.toNat
          { getPart (dropDeckModels (countLc (handOver s.dev p.toNat out) p.toNat) p.toNat) p.toNat with phase := .idle }))) ∧
      (∀ out d1, switchPoint s.dev p.toNat = some out → s.dev.boot.quiesce = false →
        pickNext (countLc (handOver s.dev p.toNat out) p.toNat) p.toNat out = (d1, none) →
        exec (.contextSwitch p) s = .next (s.settled (setPart (dropDeckModels d1 p.toNat) p.toNat
          { getPart (dropDeckModels d1 p.toNat) p.toNat with phase := .idle }))) ∧
      (∀ out d1 d2 c, switchPoint s.dev p.toNat = some out → s.dev.boot.quiesce = false →
        pickNext (countLc (handOver s.dev p.toNat out) p.toNat) p.toNat out = (d1, some c) →
        d2 = (if some c = out then d1 else dropDeckModels d1 p.toNat) →
        (regulatorBad d2 p.toNat = true →
          exec (.contextSwitch p) s = .next (s.settled (ctxFault d2 c fRegulatorConfig { unit := 6 }))) ∧
        (regulatorBad d2 p.toNat = false →
          exec (.contextSwitch p) s = .next { s with dev := restoreContext (startSlice d2 p.toNat c) c } ∧
          (getPart (startSlice d2 p.toNat c) p.toNat).running = some (BitVec.ofNat 12 c) ∧
          (getPart (startSlice d2 p.toNat c) p.toNat).phase = .running ∧ (getCtx (startSlice d2 p.toNat c) c).st = .running ∧
          (getCtx (startSlice d2 p.toNat c) c).debt = 0 ∧
          ((getCtx d2 c).saved = none → restoreContext (startSlice d2 p.toNat c) c = startSlice d2 p.toNat c)))) ∧
    (∀ rec : RecNo, ((getCtx s.dev rec.toNat).st = .free →
        exec (.nonpreemptOverrun rec) s = .next { s with dev := deviceFatal s.dev 6 0 { unit := 6 } }) ∧
      ((getCtx s.dev rec.toNat).st ≠ .free → commitRuns s.dev rec.toNat = true → ∃ d1, exec (.nonpreemptOverrun rec) s =
        .next { s with dev := ctxFault d1 rec.toNat fNonpreemptOverrun { unit := 6 } } ∧ d1.pmg = s.dev.pmg ∧ sameMem s.dev d1 ∧
        commitRuns d1 rec.toNat = false) ∧
      (∀ i, (getCtx s.dev rec.toNat).st ≠ .free → commitRuns s.dev rec.toNat = false → insertRuns s.dev rec.toNat = some i →
        exec (.nonpreemptOverrun rec) s =
          .next { s with dev := ctxFault (keyInsertD i s.dev) rec.toNat fNonpreemptOverrun { unit := 6 } }) ∧
      ((getCtx s.dev rec.toNat).st ≠ .free → commitRuns s.dev rec.toNat = false → insertRuns s.dev rec.toNat = none →
        exec (.nonpreemptOverrun rec) s = .next s)) ∧
    (∀ (rec : RecNo) (n : CtxNo) (h : Dev), (getCtx s.dev rec.toNat).st = .swappingOut → (getCtx s.dev rec.toNat).cslot = some n →
      pierPoison s.dev (saveArea s.dev rec.toNat) (saveAreaLen s.dev rec.toNat) = none →
      hostPut s.dev (getCtx s.dev rec.toNat).fn.toNat (getCtx s.dev rec.toNat).swapBa.toNat (freeBytes s.dev.fresh 1024) = some h →
      ∃ d2, exec (.swapOutDone rec) s = .next (s.settled d2) ∧ (getCtx d2 rec.toNat).st = .swappedOut ∧
        (getCtx d2 rec.toNat).cslot = none ∧ (getCtx d2 rec.toNat).tblValue = reg s.dev (0x0B01000 + 8 * n.toNat) ∧
        tfind d2.pmg.cslots n.toNat = none ∧ d2.pier.mem = s.dev.pier.mem ∧
        (Memory.wf s.dev.pier.mem = true → ∀ i, i < saveAreaLen s.dev rec.toNat →
          memGet d2.host ((getCtx s.dev rec.toNat).swapBa.toNat + 4096 + i) = memGet s.dev.pier.mem (saveArea s.dev rec.toNat + i))) ∧
    (∀ rec : RecNo, (getCtx s.dev rec.toNat).st = .swappingIn →
      ((getFn s.dev (getCtx s.dev rec.toNat).fn.toNat).master = true →
        ∃ d2, exec (.swapInDone rec) s = .next (s.settled d2) ∧ (getCtx d2 rec.toNat).st = .waiting ∧ d2.host = s.dev.host ∧
          d2.tiles = s.dev.tiles ∧
          (Memory.wf s.dev.host = true → ∀ i, i < saveAreaLen s.dev rec.toNat →
            memGet d2.pier.mem (saveArea s.dev rec.toNat + i) =
              memGet s.dev.host ((getCtx s.dev rec.toNat).swapBa.toNat + 4096 + i))) ∧
      ((getFn s.dev (getCtx s.dev rec.toNat).fn.toNat).master = false → exec (.swapInDone rec) s = .next { s with
        dev := ctxFault s.dev rec.toNat fXlatePerm { unit := 6 } }))

/-- R444, R454, R466, R467: CREATE makes a context WAITING in a free context slot of its partition, or SWAPPED_OUT without one, or
ends with the code of the check that fails; DESTROY frees the record of a context that may go; ARM returns a torn-down context to
a choice; SET_CLASS sets its class. A VF's CREATE, DESTROY and SET_CLASS end with RESULT 8.
R455, R456, R463, R512: PARTITION_RESET tears every context of the partition down and has no effect while one runs; once none is
being torn down the partition is idle with its tiles zeroed, its buckets full and its contexts ready for a choice; it waits for a
reload of the partition; at a regulator period every bucket of an enabled partition gains its rate, up to its depth. -/
def Obligations.ContextsAndResets : Prop :=
  (∀ (s : State) (fn : Func), fnOpen s.dev fn.toNat 0x0201000 = true →
      (fn ≠ 0 → (exec (.create fn) s = .next { s with dev := setCtxStatus s.dev fn.toNat 8 0 }) ∧
        (exec (.destroy fn) s = .next { s with dev := setCtxStatus s.dev fn.toNat 8 ((argCtx s.dev fn.toNat).getD 0) }) ∧
        (exec (.setClass fn) s = .next { s with dev := setCtxStatus s.dev fn.toNat 8 ((argCtx s.dev fn.toNat).getD 0) })) ∧
      (∀ w r e, fn = 0 → w = ctxArg s.dev 0 → r = createCheck s.dev (argFn s.dev 0) (fld w 6 7) (fld w 13 4) (ctxSwap s.dev 0).toNat →
        (r = .error e → exec (.create fn) s = .next { s with dev := setCtxStatus s.dev 0 e 0 }) ∧
        (r = .ok e → ∃ d2, exec (.create fn) s = .next (s.settled d2) ∧ (getCtx d2 e).vctx.toNat = fld w 6 7 ∧
          (getCtx d2 e).part.toNat = fld w 13 4 ∧ (getCtx d2 e).be = bitOf w 17 ∧ (getCtx d2 e).swapBa = ctxSwap s.dev 0 ∧
          (getCtx s.dev e).st = .free ∧
          (freeCslot s.dev (fld w 13 4) = none → (getCtx d2 e).st = .swappedOut) ∧
          (∀ n, freeCslot s.dev (fld w 13 4) = some n → (getCtx d2 e).st = .waiting ∧ (getCtx d2 e).cslot = some (BitVec.ofNat 7 n)) ∧
          (∀ c, c ≠ e → getCtx d2 c = getCtx s.dev c) ∧ tget d2.pmg.status 0 { result := 0, record := 0 } =
            { result := 0, record := BitVec.ofNat 12 e })) ∧
      (∀ cr, argCtx s.dev fn.toNat = some cr →
        (fn = 0 → mayDestroy s.dev cr = true → ∃ d2, exec (.destroy fn) s = .next (s.settled d2) ∧ (getCtx d2 cr).st = .free) ∧
        (fn = 0 → mayDestroy s.dev cr = false → exec (.destroy fn) s = .next { s with dev := setCtxStatus s.dev 0 4 cr }) ∧
        ((getCtx s.dev cr).st = .faulted → (getCtx s.dev cr).tornDown = true →
          ∃ d2, exec (.arm fn) s = .next (s.settled d2) ∧ ((getCtx d2 cr).st = .waiting ∨ (getCtx d2 cr).st = .swappedOut) ∧
            (getCtx d2 cr).tornDown = false) ∧
        ((getCtx s.dev cr).st ≠ .faulted ∨ (getCtx s.dev cr).tornDown = false →
          exec (.arm fn) s = .next { s with dev := setCtxStatus s.dev fn.toNat 4 cr }) ∧
        (fn = 0 → ∃ u, exec (.setClass fn) s = .next u ∧ u.pending = s.pending ∧
          getCtx u.dev cr = { getCtx s.dev cr with be := bitOf (ctxArg s.dev 0) 17 } ∧
          (∀ c, c ≠ cr → getCtx u.dev c = getCtx s.dev c)))) ∧
  (∀ (s : State), alive s.dev = true →
      (∀ (v : Word32) (p : Nat), p = fld v 0 4 → pfOpen s.dev 0x0201030 = true → bitOf v 4 = true → partEnabled s.dev p = true →
        ((getPart s.dev p).phase = .resetting → exec (.partitionReset v) s = .next s) ∧
        ((getPart s.dev p).phase ≠ .resetting → (s.dev.boot.piBusy = false ∨ s.dev.boot.piPart.toNat ≠ p) →
          (∀ cr, (getCtx s.dev cr).part.toNat = p → (getCtx s.dev cr).st ≠ .free →
            ∃ u, exec (.partitionReset v) s = .next u ∧ u.pending = s.pending ∧ (getPart u.dev p).phase = .resetting ∧
              (getPart u.dev p).running = none ∧ (getPart u.dev p).saving = none ∧
              ((getCtx s.dev cr).tearing = false → (getCtx u.dev cr).st = .faulted ∧ (getCtx u.dev cr).tearing = true)) ∧
          (ctxsIn s.dev p = [] → ∃ d2, exec (.partitionReset v) s = .next (s.settled d2) ∧ (getPart d2 p).running = none ∧
            (getPart d2 p).phase = .idle ∧ (getPart d2 p).saving = none ∧
            (∀ t, t ∈ partTiles s.dev p → (getTile d2 t).mem = [] ∧ (getTile d2 t).run = none) ∧
            (∀ i, i < 6 → tget d2.pmg.buckets (8 * p + i) 0 = (bucketDepth s.dev p i : Int)))) ∧
        ((getPart s.dev p).phase ≠ .resetting → s.dev.boot.piBusy = true → s.dev.boot.piPart.toNat = p →
          exec (.partitionReset v) s = .next { s with dev := setPart s.dev p { getPart s.dev p with resetWait := true } })) ∧
      (∀ (d : Dev) (p : Nat), (getPart d p).phase = .resetting → (∀ q, q ∈ ctxsIn d p → q.2.tearing = false) →
        ∃ d2, settleReset d p = coxSettle d2 ∧ (getPart d2 p).phase = .idle ∧
          (∀ t, t ∈ partTiles d p → (getTile d2 t).mem = [] ∧ (getTile d2 t).run = none) ∧
          (∀ i, i < 6 → tget d2.pmg.buckets (8 * p + i) 0 = (bucketDepth d p i : Int)) ∧
          (∀ cr, (getCtx d cr).part.toNat = p → (getCtx d cr).st = .faulted →
            (getCtx d2 cr).st = .waiting ∨ (getCtx d2 cr).st = .swappedOut)) ∧
      (∃ u, exec .regulatorPeriod s = .next u ∧ { u.dev with pmg := { u.dev.pmg with buckets := s.dev.pmg.buckets } } = s.dev ∧
        (∀ p i, p < 16 → i < 6 → tget u.dev.pmg.buckets (8 * p + i) 0 =
          if partEnabled s.dev p then min (tget s.dev.pmg.buckets (8 * p + i) 0 + (bucketRate s.dev p i : Int)) (bucketDepth s.dev p i : Int)
          else tget s.dev.pmg.buckets (8 * p + i) 0)))

/-! ## Host interface -/

/-- R479 to R481, R485: a doorbell that stays within the ring and does not move back moves PROD, and one that does not sets
BAD_INDEX and stops the ring; the same of CONS of a result or event ring. An enable sets PROD and CONS to 0. A message
held back is sent while its interrupt is enabled, once MOD_US has elapsed since the last one, and not before. -/
def Obligations.RingCommands : Prop :=
  ∀ (s : State),
    (∀ (fn : Func) (vctx : VCtx) (v : Word64) (x : Ring) (n : Word32), pageOpen s.dev fn.toNat = true →
      x = getRing s.dev (ringKey fn.toNat vctx.toNat 0) → n = v.setWidth 32 →
      (ringUsed x ≤ (n - x.cons).toNat → (n - x.cons).toNat ≤ ringSize x → exec (.commandDoorbell fn vctx v) s =
        .next { s with dev := setRing s.dev (ringKey fn.toNat vctx.toNat 0) { x with prod := n } }) ∧
      ((n - x.cons).toNat < ringUsed x ∨ ringSize x < (n - x.cons).toNat → exec (.commandDoorbell fn vctx v) s =
        .next { s with dev := setRing s.dev (ringKey fn.toNat vctx.toNat 0) { x with badIndex := true, broken := true } })) ∧
    (∀ (r : RingId) (v : Word64) (x : Ring) (n : Word32), ringIdOpen s.dev r = true → x = getRing s.dev (ringIdKey r) →
      n = v.setWidth 32 → (∀ fn vctx, r ≠ .ctx fn vctx 0) → (∀ fn vctx, r ≠ .ctx fn vctx 1) →
      ((x.prod - n).toNat ≤ ringUsed x → (x.prod - n).toNat ≤ ringSize x → exec (.ringConsWrite r v) s =
        .next { s with dev := setRing s.dev (ringIdKey r) { x with cons := n } }) ∧
      (ringUsed x < (x.prod - n).toNat ∨ ringSize x < (x.prod - n).toNat → exec (.ringConsWrite r v) s =
        .next { s with dev := setRing s.dev (ringIdKey r) { x with badIndex := true, broken := true } })) ∧
    (∀ (r : RingId) (v : Word64), ringIdOpen s.dev r = true → ringEnabled (getRing s.dev (ringIdKey r)) = false → bitOf v 5 = true →
      (∀ fn vctx, r ≠ .ctx fn vctx 1) →
      exec (.ringEnable r v) s = .next { s with
        dev := setRing s.dev (ringIdKey r)
          { getRing s.dev (ringIdKey r) with cfg := v &&& ringCfgMask, prod := 0, cons := 0, broken := false } }) ∧
    (∀ (r : RingId), modDue s.dev (getRing s.dev (ringIdKey r)) = false → exec (.msixModerationExpiry r) s = .next s) ∧
    (∀ (r : RingId) (x : Ring), x = getRing s.dev (ringIdKey r) → s.dev.clk.stopped = false → x.owed = true → bitOf x.cfg 27 = true →
      modDue s.dev x = true →
      ∃ u, exec (.msixModerationExpiry r) s = .next u ∧ u.pending = s.pending ∧
        (getRing u.dev (ringIdKey r)).owed = false ∧ (getRing u.dev (ringIdKey r)).sentAt = some s.dev.now ∧
        (fld x.cfg 8 11 < msixCount (ringFn (ringIdKey r)) → (getFn s.dev (ringFn (ringIdKey r))).msixEn = true →
          (getFn s.dev (ringFn (ringIdKey r))).master = true → (getFn s.dev (ringFn (ringIdKey r))).msixMask = false →
          bitOf (msixCtl s.dev (ringFn (ringIdKey r)) (fld x.cfg 8 11)) 32 = false →
          u.dev.hif.out.msix = s.dev.hif.out.msix ++ [(ringFn (ringIdKey r), fld x.cfg 8 11)]))

/-- R13, R14, R17, R386, R498: a full, aligned write of a plain register of the PF stores its defined fields and nothing else; a
partial one, a 32-bit one of a 64-bit register and one of a register that holds nothing change nothing. A configuration write of
a function that is there changes its own field. -/
def Obligations.RegisterWrites : Prop :=
  ∀ (s : State),
    (∀ (off : BitVec 26) (v m : Word64), pfOpen s.dev off.toNat = true → off.toNat % 8 = 0 →
      ¬ (0x8000 ≤ off.toNat ∧ off.toNat < 0x10000) → off.toNat ≠ 0x0800008 → pfMask off.toNat = some m →
      exec (.registerWrite 0 off .w64 v 0xFF) s = .next { s with dev := setReg s.dev off.toNat (v &&& m) }) ∧
    (∀ v, pfOpen s.dev 0x0800008 = true →
      exec (.registerWrite 0 0x0800008 .w64 v 0xFF) s = .next { s with dev := setReg s.dev 0x0800008 (timersOf v) }) ∧
    (∀ (fn : Func) (off : BitVec 26) (v m : Word64), fn ≠ 0 → vfOpen s.dev fn.toNat = true → off.toNat % 8 = 0 →
      vfMask off.toNat = some m → exec (.registerWrite fn off .w64 v 0xFF) s = .next { s with
        dev := { s.dev with vfRegs := tset s.dev.vfRegs (fn.toNat * 0x100000 + off.toNat) (v &&& m) } }) ∧
    (∀ (fn : Func) (off : BitVec 26) (w : AccWidth) (v : Word64) (be : BitVec 8), accessOk off.toNat w be = false →
      exec (.registerWrite fn off w v be) s = .next s) ∧
    (∀ (fn : Func) (off : BitVec 26) (v : Word64) (be : BitVec 8), msixOff fn.toNat off.toNat = none →
      exec (.registerWrite fn off .w32 v be) s = .next s) ∧
    (∀ fn : Func, s.dev.clk.stopped = false → s.dev.boot.stage ≠ 0 → fnPresent s.dev fn.toNat = true →
      (∀ on, exec (.configSpaceWrite fn (.busMaster on)) s =
        .next { s with dev := setFn s.dev fn.toNat { getFn s.dev fn.toNat with bme := on } }) ∧
      (∀ on, exec (.configSpaceWrite fn (.memorySpace on)) s =
        .next { s with dev := setFn s.dev fn.toNat { getFn s.dev fn.toNat with mse := on } }) ∧
      (∀ on, exec (.configSpaceWrite fn (.msixEnable on)) s =
        .next { s with dev := setFn s.dev fn.toNat { getFn s.dev fn.toNat with msixEn := on } }) ∧
      (∀ on, exec (.configSpaceWrite fn (.powerState on)) s =
        .next { s with dev := setFn s.dev fn.toNat { getFn s.dev fn.toNat with d3hot := on } }) ∧
      (fn = 0 → exec (.configSpaceWrite fn (.vfEnable true)) s =
        .next { s with dev := { s.dev with hif := { s.dev.hif with vfEnable := true } } }) ∧
      (fn ≠ 0 → ∀ on, exec (.configSpaceWrite fn (.vfEnable on)) s = .next s))

/-! ## Resets, clocks and power -/

/-- R495 to R497, R558, R562, R577: a VF's reset frees its contexts and returns its registers, rings and PCIe settings to their reset
values; a PF's clears VF Enable and the registers that it does not keep, and GLB_FATAL stays; a conventional reset and RESET_N
return the device to its boot ROM with OTP, host memory and the tollhouse's counters as they were, the timestamp going on or at 0;
the pins rise. -/
def Obligations.DeviceResets : Prop :=
  ∀ (s : State),
    (∀ fn : Func, fn ≠ 0 → fnPresent s.dev fn.toNat = true → s.dev.clk.stopped = false →
      ∃ d2, exec (.vfFlr fn) s = .next (s.settled d2) ∧ getFn d2 fn.toNat = { Fn.init with mse := (getFn s.dev fn.toNat).mse } ∧
        (∀ off, off < 0x100000 → tget d2.vfRegs (fn.toNat * 0x100000 + off) 0 = 0) ∧
        (∀ k, k / 512 = fn.toNat → tfind d2.hif.rings k = none) ∧
        (∀ c, (getCtx d2 c).st ≠ .free → (getCtx d2 c).fn.toNat ≠ fn.toNat)) ∧
    (s.dev.clk.stopped = false →
      ∃ d2, exec .pfFlr s = .next (s.settled d2) ∧ d2.hif.vfEnable = false ∧ d2.hif.numVFs = 0 ∧ d2.boot.quiesce = false ∧
        d2.flt.fatal = s.dev.flt.fatal ∧ (∀ off, keptByFlr off = false → reg d2 off = BitVec.ofNat 64 (regReset off)) ∧
        (∀ n, getFn d2 n = Fn.init)) ∧
    (∀ cause : ConvReset, s.dev.clk.pwrGood = true → s.dev.clk.resetN = true → s.dev.clk.stopped = false →
      ∃ u, exec (.pcieConventionalReset cause) s = .next u ∧ u.pending = s.pending ∧ u.dev.boot = { Boot.init with cause := 4 } ∧
        u.dev.tru.otp = s.dev.tru.otp ∧ u.dev.host = s.dev.host ∧ u.dev.now = s.dev.now ∧ u.dev.toll.sets = s.dev.toll.sets ∧
        u.dev.pmg.ctxs = [] ∧ u.dev.cox.slots = [] ∧ u.dev.regs = [] ∧
        u.dev.clk.perstN = (s.dev.clk.perstN && decide (cause ≠ .perstLow))) ∧
    (s.dev.clk.pwrGood = true → s.dev.clk.tripped = false →
      ∃ u, exec (.resetNAssert true) s = .next u ∧ u.pending = s.pending ∧ u.dev.boot = { Boot.init with cause := 2 } ∧
        u.dev.tru.otp = s.dev.tru.otp ∧ u.dev.host = s.dev.host ∧ u.dev.now = 0 ∧ u.dev.toll.sets = s.dev.toll.sets ∧
        u.dev.clk.resetN = false ∧ u.dev.clk.stopped = false ∧ u.dev.pmg.ctxs = [] ∧ u.dev.cox.slots = [] ∧ u.dev.regs = []) ∧
    exec (.resetNAssert false) s = .next s ∧
    exec .resetNRise s = .next { s with dev := { s.dev with clk := { s.dev.clk with resetN := true } } } ∧
    exec .perstNRise s = .next { s with dev := { s.dev with clk := { s.dev.clk with perstN := true } } }

/-- R552, R555, R558, R559, R561, R564, R570: the rails rise once PWR_EN is high and the input has charged; PWR_GOOD then begins a
power-on's boot; a power-down keeps OTP and the ledger's record and nothing of pier or the tiles; a thermal trip and the loss of
the system reference stop the device; the power cap of the pins comes into force. -/
def Obligations.PowerSequence : Prop :=
  ∀ (s : State),
    exec .pwrEnRise s = .next { s with dev := { s.dev with
      clk := { s.dev.clk with pwrEn := true, railsUp := s.dev.clk.railsUp || s.dev.clk.charged } } } ∧
    exec .inrushDone s = .next { s with dev := { s.dev with
      clk := { s.dev.clk with charged := true, railsUp := s.dev.clk.railsUp || s.dev.clk.pwrEn } } } ∧
    (s.dev.clk.railsUp = true → s.dev.clk.pwrGood = false →
      exec .pwrGoodRise s = .next { s with dev := { s.dev with
        clk := { s.dev.clk with pwrGood := true }, boot := { s.dev.boot with cause := 1 } } }) ∧
    (s.dev.clk.railsUp = false ∨ s.dev.clk.pwrGood = true → exec .pwrGoodRise s = .next s) ∧
    (∀ cause, ∃ u, exec (.powerDown cause) s = .next u ∧ u.pending = s.pending ∧ u.dev.clk.railsUp = false ∧
      u.dev.clk.pwrGood = false ∧ u.dev.clk.stopped = false ∧ u.dev.tru.otp = s.dev.tru.otp ∧ u.dev.toll.nvm = s.dev.toll.nvm ∧
      u.dev.toll.sets = [] ∧ u.dev.pier.mem = [] ∧ u.dev.tiles = [] ∧ u.dev.boot = Boot.init ∧ u.dev.host = s.dev.host) ∧
    (s.dev.clk.railsUp = true → exec .thermalTrip s = .next { s with dev := { s.dev with
      clk := { s.dev.clk with tripped := true, stopped := true } } }) ∧
    (s.dev.clk.pwrGood = true → s.dev.clk.resetN = true → exec .systemReferenceLoss s = .next { s with dev := { s.dev with
      clk := { s.dev.clk with sysRef := false, stopped := true } } }) ∧
    (∀ level, exec (.pwrCapChange level) s = .next { s with dev := { s.dev with clk := { s.dev.clk with capPins := level } } }) ∧
    (powered s.dev = true → exec .pwrCapInForce s = .next { s with dev := { s.dev with
      clk := { s.dev.clk with capForce := s.dev.clk.capPins } } })

/-- R554, R556: the power loop keeps the last ten samples; above the cap it steps the fastest reach down by one, and after 200
samples at least 30 W below it raises the supply of the slowest reach below its ceiling, which steps up by one once the ramp is
done. No other reach changes. -/
def Obligations.PowerLoop : Prop :=
  ∀ (s : State), powered s.dev = true →
    (∀ w, ∃ u, exec (.powerSample w) s = .next u ∧ u.pending = s.pending ∧
      u.dev.clk.samples = (s.dev.clk.samples ++ [w]).drop ((s.dev.clk.samples.length + 1) - 10) ∧ u.dev.clk.samples.length ≤ 10 ∧
      u.dev.clk.aboveFor = (if averageOver u.dev.clk.samples (capWatts s.dev.clk.capForce) then s.dev.clk.aboveFor + 1 else 0) ∧
      u.dev.clk.belowFor = (if averageOver u.dev.clk.samples (capWatts s.dev.clk.capForce - 30) then 0
        else s.dev.clk.belowFor + 1) ∧ (∀ r, reachStep u.dev r = reachStep s.dev r)) ∧
    (s.dev.clk.samples ≠ [] →
      (∀ r, averageOver s.dev.clk.samples (capWatts s.dev.clk.capForce) = true → downReach s.dev = some r →
        ∃ u, exec .powerControlLoop s = .next u ∧ u.pending = s.pending ∧ reachStep u.dev r = reachStep s.dev r + 1 ∧
          (∀ q, q < 4 → reachStep s.dev r ≤ reachStep s.dev q) ∧ (∀ q, q ≠ r → reachStep u.dev q = reachStep s.dev q)) ∧
      (∀ r, averageOver s.dev.clk.samples (capWatts s.dev.clk.capForce) = false → 200 ≤ s.dev.clk.belowFor →
        upReach s.dev = some r → tfind s.dev.clk.raising r = none →
        exec .powerControlLoop s = .next { s with dev := { s.dev with clk := { s.dev.clk with
          raising := tset s.dev.clk.raising r (BitVec.ofNat 5 (reachStep s.dev r - 1)) } } }) ∧
      (averageOver s.dev.clk.samples (capWatts s.dev.clk.capForce) = false → s.dev.clk.belowFor < 200 →
        exec .powerControlLoop s = .next s)) ∧
    (∀ (r : ReachId) (n : BitVec 5), tfind s.dev.clk.raising r.toNat = some n →
      ∃ u, exec (.supplyRampDone r) s = .next u ∧ u.pending = s.pending ∧ reachStep u.dev r.toNat = n.toNat ∧
        tfind u.dev.clk.raising r.toNat = none ∧ (∀ q, q ≠ r.toNat → reachStep u.dev q = reachStep s.dev q)) ∧
    (∀ r : ReachId, tfind s.dev.clk.raising r.toNat = none → exec (.supplyRampDone r) s = .next s)

/-- R398, R400, R402, R404 to R406, R410, R552: each bring-up event moves its logical port on from the state that it belongs to and
from no other; leaving UP sets LOST, and reaching FAILED ends the first attempt; the loss of the port reference disables
every port, and its return, once the structure image is applied, starts the enabled ones. A write of MSEC_CTRL keeps its fields; one of an SA slot leaves the key
material of a VALID slot as it is. -/
def Obligations.PortCommands : Prop :=
  ∀ (s : State),
    (∀ (l : Nat) (st : PortState), l < 160 → alive s.dev = true → (getPort s.dev l).st = st →
      (st = .an → ∀ ok, exec (.portAnDone l ok) s = .next { s with dev := portGo s.dev l (if ok then .training else .failed) }) ∧
      (st ≠ .an → ∀ ok, exec (.portAnDone l ok) s = .next s) ∧
      (st = .training → exec (.portTrainingDone l) s = .next { s with dev := portGo s.dev l .aligning }) ∧
      (st ≠ .training → exec (.portTrainingDone l) s = .next s) ∧
      (st = .aligning → exec (.portAligned l) s = .next { s with dev := portGo s.dev l .up }) ∧
      (st ≠ .aligning → exec (.portAligned l) s = .next s) ∧
      (st = .an ∨ st = .training ∨ st = .aligning →
        exec (.portStateTimeout l) s = .next { s with dev := portGo s.dev l .failed }) ∧
      (st = .failed → exec (.portFailedHoldEnd l) s = .next { s with dev := portGo s.dev l (portStart s.dev l) }) ∧
      (st = .up → exec (.portLinkDown l) s = .next { s with dev := portGo s.dev l (portStart s.dev l) }) ∧
      (st ≠ .up → exec (.portLinkDown l) s = .next s)) ∧
    (∀ (d : Dev) (l : Nat) (st : PortState), (getPort (portGo d l st) l).st = st ∧
      (getPort (portGo d l st) l).lost = ((getPort d l).lost || (decide ((getPort d l).st = .up) && decide (st ≠ .up))) ∧
      (getPort (portGo d l st) l).tried = ((getPort d l).tried || decide (st = .failed)) ∧
      (∀ k, k ≠ l → getPort (portGo d l st) k = getPort d k)) ∧
    ((∃ u, exec .portReferenceLoss s = .next u ∧ u.pending = s.pending ∧ u.dev.clk.portRef = false ∧
        ∀ l, lportExists s.dev l = true → (getPort u.dev l).st = .disabled) ∧
      (alive s.dev = true → 7 ≤ s.dev.boot.stage.toNat → ∃ u, exec .portReferenceReturn s = .next u ∧ u.pending = s.pending ∧ u.dev.clk.portRef = true ∧
        ∀ l, lportExists s.dev l = true → bitOf (portCfg s.dev l) 12 = true → (getPort s.dev l).st = .disabled →
          (getPort u.dev l).st = portStart s.dev l)) ∧
    (∀ (l : Nat) (v : Word64), l < 160 → pfOpen s.dev 0x0C10000 = true →
      exec (.msecCtrlWrite l v) s = .next { s with dev := setPort s.dev l { getPort s.dev l with ctrl := v &&& 0x7FFFFFFFFFFFF } } ∧
      (∀ (sa : BitVec 2) (r : BitVec 3), ∃ u, exec (.saSlotWrite l sa r v) s = .next u ∧ u.pending = s.pending ∧
        (∀ k, k ≠ sa.toNat → getSa (getPort u.dev l) k = getSa (getPort s.dev l) k) ∧
        ((getSa (getPort s.dev l) sa.toNat).valid = true → r.toNat < 6 →
          getSa (getPort u.dev l) sa.toNat = getSa (getPort s.dev l) sa.toNat) ∧
        (r = 6 → (getSa (getPort u.dev l) sa.toNat).nextPn = v) ∧
        (r = 7 → (getSa (getPort u.dev l) sa.toNat).valid = bitOf v 2) ∧
        ((getSa (getPort s.dev l) sa.toNat).valid = false → r = 0 → (getSa (getPort u.dev l) sa.toNat).key0 = v)))

/-! ## Boot and the structure image -/

/-- R499, R514, R517, R518, R581: ROM_INIT with a seed and a good self-test measures the ROM, derives the identity and takes the
subsystem IDs of the EEPROM, those of R581 without good data; a failed one ends in stage 15 with error 0x20; the EEPROM is tried 21
times. R500, R508, R526: LOAD and LOAD_SI check their arguments. R340 to R342: pier bring-up ends with every stack done or fails. R406:
BOOT_READY waits for the ports' first attempt. R516: QUIESCE ends the slice of every running context. -/
def Obligations.BootStages : Prop :=
  ∀ (s : State),
    (romRuns s.dev = true → s.dev.boot.fruTries = 0 →
      (∀ seed, otpData ((List.range 7).foldl retireOlder s.dev) 2 = some seed →
        (∀ fru, ∃ u, exec (.romInit false fru) s = .next u ∧ u.pending = s.pending ∧ u.dev.boot.stage = 15 ∧ u.dev.boot.error = 0x20) ∧
        (∃ u, exec (.romInit true .busy) s = .next u ∧ u.pending = s.pending ∧ u.dev.boot.stage = 0 ∧ u.dev.boot.fruTries = 1) ∧
        (∀ bs, ∃ u, exec (.romInit true (.data bs)) s = .next u ∧ u.pending = s.pending ∧ u.dev.boot.stage = 1 ∧
          tget u.dev.tru.m 0 0 = Config.romDigest ∧ u.dev.tru.dik = seedOf (Config.sha3 (seed ++ dikLabel)) ∧
          u.dev.tru.deviceId = Config.sha3 (pubKey u.dev.tru.dik) ∧
          u.dev.hif.subVid = (if leAt bs 0 4 = 0x55524657 ∧ crc32c (sub bs 0 0xFC) = BitVec.ofNat 32 (leAt bs 0xFC 4)
            then BitVec.ofNat 16 (leAt bs 6 2) else 0x1EE9)))) ∧
    (romRuns s.dev = true → s.dev.boot.fruTries ≠ 0 →
      (s.dev.boot.fruTries < 20 → exec (.fruEepromRetry .busy) s = .next { s with dev := { s.dev with
        boot := { s.dev.boot with fruTries := s.dev.boot.fruTries + 1 } } }) ∧
      (s.dev.boot.fruTries = 20 → ∃ u, exec (.fruEepromRetry .busy) s = .next u ∧ u.dev.boot.stage = 1 ∧
        u.dev.hif.subVid = 0x1EE9 ∧ u.dev.hif.subId = 0)) ∧
    (pfOpen s.dev 0x0100000 = true →
      (s.dev.boot.stage = 1 → imageArgsOk (reg s.dev 0x0100008).toNat (reg s.dev 0x0100010).toNat 0x1000000 = true →
        exec .load s = .next { s with dev := { s.dev with boot := { s.dev.boot with stage := 2 } } }) ∧
      (s.dev.boot.stage = 1 → imageArgsOk (reg s.dev 0x0100008).toNat (reg s.dev 0x0100010).toNat 0x1000000 = false →
        exec .load s = .next { s with dev := { s.dev with boot := { s.dev.boot with stage := 1, error := 6 } } }) ∧
      (s.dev.boot.stage = 6 → s.dev.boot.siRefused = true →
        imageArgsOk (reg s.dev 0x0100018).toNat (reg s.dev 0x0100020).toNat 0x100000 = true →
        exec .loadSi s = .next { s with dev := { s.dev with boot := { s.dev.boot with siRefused := false } } }) ∧
      (∃ u, exec .quiesceSet s = .next u ∧ u.pending = s.pending ∧ u.dev.boot.quiesce = true ∧
        (∀ p, p < 16 → (getPart s.dev p).running.isSome = true → (getPart u.dev p).sliceOver.isSome = true) ∧
        (∀ p, (getPart u.dev p).running = (getPart s.dev p).running)) ∧
      exec .quiesceClear s = .next (s.settled { s.dev with boot := { s.dev.boot with quiesce := false } })) ∧
    (∀ codes : BitVec 16, s.dev.boot.stage = 5 → s.dev.clk.stopped = false → (∀ i, i < 4 → 2 ≤ fld codes (4 * i) 4) →
      ((∀ i, i < 4 → fld codes (4 * i) 4 ≤ 3) → ∃ u, exec (.pierBringupDone codes) s = .next u ∧ u.pending = s.pending ∧
        u.dev.boot.stage = 6 ∧ u.dev.pier.mem = [] ∧ u.dev.pier.poison = [] ∧
        reg u.dev 0x1000100 = codes.setWidth 64 ||| 0x10000) ∧
      ((∃ i, i < 4 ∧ fld codes (4 * i) 4 = 4) → (∀ i, i < 4 → fld codes (4 * i) 4 ≤ 4) →
        ∃ u, exec (.pierBringupDone codes) s = .next u ∧ u.pending = s.pending ∧ u.dev.boot.stage = 15 ∧ u.dev.boot.error = 0x21)) ∧
    (s.dev.boot.stage = 7 → alive s.dev = true →
      (portsTried s.dev = true → exec .bootReady s = .next { s with dev := { s.dev with boot := { s.dev.boot with stage := 8 } } }) ∧
      (portsTried s.dev = false → exec .bootReady s = .next s))

/-- R504, R505, R508 to R512: an image is read as the PF and checked: a firmware image that passes is measured in M1 and started, a
structure image that passes is applied and measured in M2, a partition image that passes waits for its switch point; each other
ends with its code. At the switch point the partition's registers take the image's values, unless its tile set changes while a
context of it has saved state. -/
def Obligations.Images : Prop :=
  ∀ (s : State) (bs : List Byte),
    (∀ readBack, s.dev.boot.stage = 2 → s.dev.clk.stopped = false →
      hostGet s.dev 0 (reg s.dev 0x0100008).toNat (reg s.dev 0x0100010).toNat = some bs →
      exec (.firmwareImageLoaded readBack) s = .next { s with dev := match fwCode s.dev bs with
        | some c => bootFail s.dev 1 c
        | none => startFw (extendM s.dev 1 (imgDigest bs)) bs readBack }) ∧
    (s.dev.boot.stage = 6 → s.dev.boot.siRefused = false → s.dev.clk.stopped = false →
      imageArgsOk (reg s.dev 0x0100018).toNat (reg s.dev 0x0100020).toNat 0x100000 = true →
      hostGet s.dev 0 (reg s.dev 0x0100018).toNat (reg s.dev 0x0100020).toNat = some bs →
      exec .structureImageApply s = .next { s with dev := match readSi s.dev bs with
        | .error c => siRefuse s.dev c
        | .ok i => portsStart (extendM (applySi s.dev i) 2 (imgDigest bs)) }) ∧
    (∀ (v : Word32) (p : Nat), p = fld v 0 4 → pfOpen s.dev 0x0100040 = true → alive s.dev = true → isReady s.dev = true →
      bitOf v 4 = true → s.dev.boot.piBusy = false → imageArgsOk (reg s.dev 0x0100030).toNat (reg s.dev 0x0100038).toNat 0x10000 = true →
      hostGet s.dev 0 (reg s.dev 0x0100030).toNat (reg s.dev 0x0100038).toNat = some bs →
      ∃ u, exec (.partitionReload v) s = .next u ∧ u.pending = s.pending ∧
        (match readPi s.dev p bs with
         | .error c => u.dev.boot.piBusy = false ∧ u.dev.boot.piResult = BitVec.ofNat 8 c ∧ u.dev.pmg = s.dev.pmg
         | .ok _ => u.dev.boot.piBusy = true ∧ u.dev.boot.piImage = bs ∧ (getPart u.dev p).reload = true ∧
             ((getPart s.dev p).running.isSome = true → (getPart u.dev p).sliceOver.isSome = true))) ∧
    (∀ (p : Nat) (out : Option Nat) (x : PartSec) (d1 : Dev), p = s.dev.boot.piPart.toNat → alive s.dev = true →
      s.dev.boot.piBusy = true → (getPart s.dev p).reload = true → switchPoint s.dev p = some out → piOf s.dev.boot.piImage = some x →
      d1 = handOver (setPart s.dev p { getPart s.dev p with reload := false }) p out →
      (x.tiles = tilesOf s.dev p →
        exec .partitionReloadApply s = .next { s with dev := afterReload (endReload
          { applyPi d1 p x s.dev.boot.piImage with boot := { (applyPi d1 p x s.dev.boot.piImage).boot with
              piCount := (applyPi d1 p x s.dev.boot.piImage).boot.piCount + 1, piImage := [] } } 0) p out } ∧
        (x.p < 16 → partCfg (applyPi d1 p x s.dev.boot.piImage) x.p = x.cfg)) ∧
      (x.tiles ≠ tilesOf s.dev p → (ctxsIn s.dev p).any (fun q => q.2.saved.isSome) = true →
        exec .partitionReloadApply s = .next { s with dev := afterReload (endReload d1 18) p out }))

/-! ## Trust -/

/-- R519 to R521, R528, R529: from FW_START on, with the keys in place, GET_IDENTITY and ATTEST write their response at BA + 16,384
and end with its length; after an erasure they end with result 8. CHALLENGE makes a fresh value the current challenge, until it
lapses. -/
def Obligations.IdentityAndChallenge : Prop :=
  ∀ (s : State),
    (truOpen s.dev = true → s.dev.tru.keysErased = true →
      exec .getIdentity s = .next { s with dev := truDone s.dev 8 0 } ∧ exec .attest s = .next { s with dev := truDone s.dev 8 0 }) ∧
    (truOpen s.dev = true → s.dev.tru.keysErased = false → (getFn s.dev 0).master = true →
      (∃ u b, exec .getIdentity s = .next u ∧ u.pending = s.pending ∧ u.dev.host = memPuts s.dev.host (truBa s.dev + 0x4000) b ∧
        b.length = 9947 ∧ sub b 0 2592 = pubKey s.dev.tru.dik ∧ sub b 2592 2592 = pubKey s.dev.tru.ak ∧
        u.dev.tru = { s.dev.tru with result := 0, respLen := 9947 } ∧
        b.drop 5320 = signed s.dev.tru.dik (sub b 2592 2728)) ∧
      (∃ u b, exec .attest s = .next u ∧ u.pending = s.pending ∧ u.dev.host = memPuts s.dev.host (truBa s.dev + 0x4000) b ∧
        b.length = 6067 ∧ sub b 0 1440 = attestBody s.dev (memGets s.dev.host (truBa s.dev) 64) ∧
        b.drop 1440 = signed s.dev.tru.ak (sub b 0 1440) ∧ u.dev.tru = { s.dev.tru with result := 0, respLen := 6067 })) ∧
    (truOpen s.dev = true → (getFn s.dev 0).master = true →
      ∃ u, exec .challenge s = .next u ∧ u.pending = s.pending ∧
        u.dev.tru = { s.dev.tru with challenge := some (Config.trng s.dev.tru.trng), trng := s.dev.tru.trng + 1, result := 0, respLen := 136 } ∧
        u.dev.host = memPuts s.dev.host (truBa s.dev + 0x4000)
          (digestBytes (Config.trng s.dev.tru.trng) ++ digestBytes s.dev.tru.deviceId ++ toLe 8 s.dev.now.toNat)) ∧
    exec .challengeLapse s = .next { s with dev := { s.dev with tru := { s.dev.tru with challenge := none } } }

/-- R515, R516, R521 to R525, R529: a signed command of a quiesced device with a challenge has its effect when its signer key has the
hash of its authority and its signature verifies, and the challenge is then used; it ends 3 or 2 otherwise, 9 without a
challenge, 4 while the device is not quiesced. The security version never falls; a shipped device is not shipped again. Setting
bits adds to an incremental record, and a rollover makes its data the active generation's. -/
def Obligations.SignedCommands : Prop :=
  (∀ (s : State) (n : Nat) (bs : List Byte) (q : SignedReq) (readBack : Bool) (c : Instr) (op : Nat) (hash : Option (List Byte))
    (act : Dev → List Byte → Dev), pfOpen s.dev 0x0F00010 = true → isReady s.dev = true →
    hostGet s.dev 0 (truBa s.dev) (n + 2592 + 4627) = some bs → q = splitReq n bs →
    (c = .otpOwner readBack ∧ n = 72 ∧ op = 0x11 ∧ leAt q.arg 0 1 ≤ 1 ∧ allZero (sub q.arg 1 7) = true ∧
        hash = (if leAt q.arg 0 1 = 0 ∧ (otpActive s.dev 1).isSome then none else keyHash s.dev (leAt q.arg 0 1)) ∧
        act = (fun d m => otpDone m (rollover d 1 (sub q.arg 8 64) readBack)) ∨
      c = .otpSvn readBack ∧ n = 8 ∧ op = 0x12 ∧ leAt q.arg 0 1 ≤ 64 ∧ allZero (sub q.arg 1 7) = true ∧ hash = otpData s.dev 0 ∧
        act = (fun d m => if leAt q.arg 0 1 ≤ svn d then truDone d 11 0
          else otpDone m (setBits d 6 (svnBits (leAt q.arg 0 1)) readBack)) ∨
      c = .otpLifecycle readBack ∧ n = 8 ∧ op = 0x13 ∧ leAt q.arg 0 1 = 1 ∧ allZero (sub q.arg 1 7) = true ∧ hash = otpData s.dev 0 ∧
        act = (fun d m => if bitOf (incValue d 5) 0 then truDone d 11 0 else otpDone m (setBits d 5 1 readBack)) ∨
      c = .otpLifecycle readBack ∧ n = 8 ∧ op = 0x13 ∧ leAt q.arg 0 1 = 2 ∧ allZero (sub q.arg 1 7) = true ∧ hash = otpData s.dev 0 ∧
        act = (fun d m => otpDone m (setBits d 5 2 readBack)) ∨
      c = .otpLifecycle readBack ∧ n = 8 ∧ op = 0x13 ∧ leAt q.arg 0 1 = 3 ∧ allZero (sub q.arg 1 7) = true ∧ hash = otpData s.dev 0 ∧
        act = (fun d m => otpDone m (refurbish d readBack)) ∨
      (∃ roll, c = .debugUnlock readBack roll ∧ n = 8 ∧ op = 0x10 ∧ (leAt q.arg 0 1 = 1 ∨ leAt q.arg 0 1 = 2 ∨ leAt q.arg 0 1 = 3) ∧
        leAt q.arg 1 1 ≤ 1 ∧ allZero (sub q.arg 2 6) = true ∧ hash = keyHash s.dev (leAt q.arg 1 1) ∧
        (s.dev.pmg.ctxs.any (fun p => p.2.st ≠ .free) || !s.dev.cox.models.isEmpty) = false ∧
        act = (fun d m => openDebug d m (leAt q.arg 0 1) readBack roll))) →
    (quiesced s.dev = false → exec c s = .next { s with dev := truDone s.dev 4 0 }) ∧
    (quiesced s.dev = true → s.dev.tru.challenge = none → exec c s = .next { s with dev := truDone s.dev 9 0 }) ∧
    (∀ ch, quiesced s.dev = true → s.dev.tru.challenge = some ch →
      exec c s = .next { s with
        dev := if hash ≠ some (digestBytes (Config.sha3 q.key)) then truDone s.dev 3 0
          else if Config.mldsaVerify q.key (digestBytes (Config.sha3 (signedBytes s.dev op ch q.arg))) q.sig = false then truDone s.dev 2 0
          else act { s.dev with tru := { s.dev.tru with challenge := none } } (signedBytes s.dev op ch q.arg) })) ∧
  (∀ (d : Dev) (r i : Nat) (v : Word64), 5 ≤ r → otpActive d r = some i →
    (setBits d r v true).2 = 0 ∧ incValue (setBits d r v true).1 r = incValue d r ||| v ∧ (setBits d r v false) = (d, 7)) ∧
  (∀ (d : Dev) (r i : Nat) (data : List Byte), i < 4 → (otpGen d r i).written = false → (∀ j, j < i → (otpGen d r j).written = true) →
    (∀ j, i < j → j < 4 → (otpGen d r j).written = false) →
    (rollover d r data true).2 = 0 ∧ otpData (rollover d r data true).1 r = some data ∧
      otpActive (rollover d r data true).1 r = some i) ∧
  (∀ d, (eraseAll d).tru.keysErased = true ∧ (eraseAll d).tru.dik = 0 ∧ (eraseAll d).tru.ak = 0 ∧
    (∀ t, (getTile (eraseAll d) t).mem = []) ∧ (∀ a, 0x8000000 ≤ a → memGet (eraseAll d).pier.mem a = 0))

/-! ## Tollhouse -/

/-- R532 to R538, R545, R546: a STEP, EGRESS or INGRESS event is counted in the device set, its partition's, its function's and its
model's, and in no other; a counter that passes its end stays at it. A REGISTER event restarts its model's entry, an OTP_STATE
event updates the ledger; an accumulator is sent as one event. A power-on begins an epoch with the last ledger in force, the
ledger is written with a checkpoint, and powered seconds count. -/
def Obligations.TollCounting : Prop :=
  ∀ (s : State),
    (∀ (e : TapEvent) (rest : List TapEvent) (c : Instr) (p : PartId) (fn : Func) (m vid : BitVec 14) (a : Adds),
      s.dev.toll.taps = e :: rest → s.dev.toll.ready = true → (∀ r, rest ≠ .bad :: r) →
      ((∃ x y z t, e = .step p fn m vid x y z t ∧ c = .tapStep p ∧ a = { prompt := x, verify := y, generated := z, tileTime := t }) ∨
        (∃ n, e = .egress p fn m vid n ∧ c = .tapEgress ∧ a = { kvBytes := n }) ∨
        (∃ n, e = .ingress p fn m vid n ∧ c = .tapIngress ∧ a = { wBytes := n })) →
      ∃ u, exec c s = .next u ∧ u.pending = s.pending ∧ u.dev.toll.taps = rest ∧
        (∀ k, getSet u.dev k = if k = 0 ∨ k = 1 + p.toNat ∨ k = 32 + fn.toNat then addSet (getSet s.dev k) a else getSet s.dev k) ∧
        (getEntry u.dev p fn m vid).set = addSet (getEntry s.dev p fn m vid).set a ∧
        (∀ k, k ≠ m.toNat → tfind u.dev.toll.models k = tfind s.dev.toll.models k)) ∧
    (∀ (c : BitVec 96) (n : Nat), (addCtr c n).1.toNat = min (c.toNat + n) (2 ^ 96 - 1) ∧
      ((addCtr c n).2 = true ↔ 2 ^ 96 ≤ c.toNat + n)) ∧
    (∀ (p : PartId) (fn : Func) (m vid : BitVec 14) (rest : List TapEvent), s.dev.toll.taps = .register p fn m vid :: rest →
      s.dev.toll.ready = true → (∀ r, rest ≠ .bad :: r) →
      ∃ u, exec (.tapRegister m) s = .next u ∧ u.pending = s.pending ∧ u.dev.toll.taps = rest ∧ u.dev.toll.sets = s.dev.toll.sets ∧
        tfind u.dev.toll.models m.toNat =
          some { model := m, fn := fn, part := p, vid := vid, regSeq := s.dev.toll.regSeq + 1, set := CSet.init } ∧
        (∀ e, tfind s.dev.toll.models m.toNat = some e → holdsCounts e.set = true → s.dev.toll.closed.length < 4096 →
          u.dev.toll.closed = s.dev.toll.closed ++ [e])) ∧
    (∀ (g : Tbl Word32) (rest : List TapEvent), s.dev.toll.taps = .otpState g :: rest → s.dev.toll.ready = true →
      (∀ r, rest ≠ .bad :: r) →
      ∃ u, exec .tapOtpState s = .next u ∧ u.pending = s.pending ∧ u.dev.toll.taps = rest ∧ u.dev.toll.ledger.otpGens = g ∧
        u.dev.toll.sets = s.dev.toll.sets) ∧
    (∀ (k : BitVec 6) (a : TapAcc), s.dev.clk.stopped = false → tfind s.dev.cwy.acc k.toNat = some a →
      ∃ u, exec (.tapAccumulatorSend k true) s = .next u ∧ u.pending = s.pending ∧ tfind u.dev.cwy.acc k.toNat = none ∧
        u.dev.toll.taps = s.dev.toll.taps ++
          [if a.egress then .egress a.part a.fn a.model a.vid a.bytes else .ingress a.part a.fn a.model a.vid a.bytes] ∧
        u.dev.toll.tapSeqOut = s.dev.toll.tapSeqOut + 1) ∧
    (∀ selfTest, s.dev.clk.railsUp = true → s.dev.toll.ready = false →
      ∃ u l, exec (.tollPowerOn selfTest) s = .next u ∧ u.pending = s.pending ∧ u.dev.toll.ready = true ∧ u.dev.toll.nvm = (l :: s.dev.toll.nvm).take 128 ∧
        u.dev.toll.ledger = l ∧ l.bootCount = (s.dev.toll.nvm.headD Ledger.init).bootCount + 1 ∧ u.dev.toll.epoch = l.bootCount ∧
        l.sealBroken = ((s.dev.toll.nvm.headD Ledger.init).sealBroken || s.dev.toll.nvm.isEmpty || !selfTest) ∧
        u.dev.toll.carry = (s.dev.toll.nvm.headD Ledger.init).checkpoint ∧ u.dev.toll.sets = [] ∧ u.dev.toll.closed = []) ∧
    (s.dev.toll.ready = true →
      (∃ u l, exec .ledgerWrite s = .next u ∧ u.pending = s.pending ∧ u.dev.toll.nvm = (l :: s.dev.toll.nvm).take 128 ∧
        (∀ k, k < 17 → tget l.checkpoint k CSet.init = getSet s.dev k) ∧ l.poweredS = s.dev.toll.ledger.poweredS ∧
        u.dev.toll.sets = s.dev.toll.sets) ∧
      exec .poweredSecond s = .next { s with dev := { s.dev with toll := { s.dev.toll with
        ledger := { s.dev.toll.ledger with poweredS := s.dev.toll.ledger.poweredS + 1 } } } })

/-- R539, R540, R542 to R544, R547, R548: the command in front of the tollhouse's queue is served: GET_KEY and a report in a
function's reach write their response at BA + 16,384 and end with its length, a challenge makes a fresh value the current one until
it lapses, and a signed command of the PF has its effect when its checks pass and ends with their code when one fails. A VF's
signed command, and its report of SCOPE 0, end with result 5. -/
def Obligations.TollMailbox : Prop :=
  ∀ (s : State) (fn : Func), s.dev.toll.ready = true → s.dev.clk.stopped = false → (getFn s.dev fn.toNat).master = true →
    (s.dev.toll.queue = [(fn, 1)] →
      ∃ u, exec (.getKey fn) s = .next u ∧ u.pending = s.pending ∧ u.dev.toll.queue = [] ∧
        getMbx u.dev fn.toNat = { busy := false, result := 0, respLen := 2656 } ∧
        u.dev.host = memPuts s.dev.host (tollBa s.dev fn.toNat + 0x4000) (pubKey Config.tollSeed ++ tollId)) ∧
    (∀ q scope n, s.dev.toll.queue = [(fn, 2)] → hostGet s.dev fn.toNat (tollBa s.dev fn.toNat) 44 = some q → scope = leAt q 0 1 →
      n = leAt q 42 2 → allZero (sub q 1 7) = true →
      (scope ≤ 4 → fn = 0 ∨ scope = 1 ∨ scope = 2 → scope ≠ 2 ∧ scope ≠ 3 ∨ 1 ≤ n ∧ n ≤ 128 →
        ∃ u b, exec (.tollReport fn) s = .next u ∧ u.pending = s.pending ∧
          b = reportBytes { s.dev with toll := { s.dev.toll with reportSeq := s.dev.toll.reportSeq + 1 } } fn.toNat scope (sub q 8 32)
            (leAt q 40 2) n ∧
          u.dev.host = memPuts s.dev.host (tollBa s.dev fn.toNat + 0x4000) (b ++ signed Config.tollSeed b) ∧
          u.dev.toll.reportSeq = s.dev.toll.reportSeq + 1 ∧ (getMbx u.dev fn.toNat).result = 0 ∧ (getMbx u.dev fn.toNat).busy = false ∧
          u.dev.toll.sets = s.dev.toll.sets) ∧
      (fn ≠ 0 → scope = 0 → exec (.tollReport fn) s = .next { s with dev := tollDone s.dev fn.toNat 5 0 }) ∧
      (4 < scope → exec (.tollReport fn) s = .next { s with dev := tollDone s.dev fn.toNat 1 0 })) ∧
    (s.dev.toll.queue = [(fn, 3)] →
      ∃ u, exec (.tollChallenge fn) s = .next u ∧ u.pending = s.pending ∧ u.dev.tru.trng = s.dev.tru.trng + 1 ∧
        u.dev.toll.challenge = some ((Config.trng s.dev.tru.trng).setWidth 256) ∧
        getMbx u.dev fn.toNat = { busy := false, result := 0, respLen := 32 }) ∧
    exec .tollChallengeLapse s = .next { s with dev := { s.dev with toll := { s.dev.toll with challenge := none } } } ∧
    (fn ≠ 0 → s.dev.toll.queue = [(fn, 0x10)] → exec (.timeToken fn) s = .next { s with dev := tollDone s.dev fn.toNat 5 0 }) ∧
    (fn ≠ 0 → s.dev.toll.queue = [(fn, 0x11)] → exec (.refurbReset fn) s = .next { s with dev := tollDone s.dev fn.toNat 5 0 }) ∧
    (∀ q, fn = 0 → s.dev.toll.queue = [(fn, 0x10)] → hostGet s.dev 0 (tollBa s.dev 0) 7323 = some q →
      ∃ u, exec (.timeToken fn) s = .next u ∧ u.pending = s.pending ∧ u.dev.toll.queue = [] ∧
        (match tollSigned s.dev Config.timeHash (sub q 104 2592) (sub q 0 104) (sub q 2696 4627) (sub q 8 64) (sub q 72 32) with
         | some c => (getMbx u.dev 0).result = BitVec.ofNat 8 c ∧ u.dev.toll.ledger = s.dev.toll.ledger
         | none =>
           if leAt q 0 8 < s.dev.toll.ledger.trustedTime.toNat then
             (getMbx u.dev 0).result = 4 ∧ u.dev.toll.ledger = s.dev.toll.ledger
           else (getMbx u.dev 0).result = 0 ∧ u.dev.toll.ledger.trustedTime = BitVec.ofNat 64 (leAt q 0 8) ∧
             u.dev.toll.ledger.trustedAt = s.dev.toll.ledger.poweredS ∧ u.dev.toll.timeState = 1 ∧
             u.dev.toll.nvm.head? = some u.dev.toll.ledger)) ∧
    (∀ q, fn = 0 → s.dev.toll.queue = [(fn, 0x11)] → hostGet s.dev 0 (tollBa s.dev 0) 7315 = some q →
      ∃ u, exec (.refurbReset fn) s = .next u ∧ u.pending = s.pending ∧ u.dev.toll.queue = [] ∧
        (match tollSigned s.dev Config.vendorHash (sub q 96 2592) (toLe 1 0x11 ++ sub q 0 96) (sub q 2688 4627) (sub q 32 64)
            (sub q 0 32) with
         | some c => (getMbx u.dev 0).result = BitVec.ofNat 8 c ∧ u.dev.toll.ledger = s.dev.toll.ledger
         | none => (getMbx u.dev 0).result = 0 ∧ u.dev.toll.sets = [] ∧ u.dev.toll.closed = [] ∧ u.dev.toll.timeState = 0 ∧
             u.dev.toll.ledger.sealBroken = false ∧ u.dev.toll.ledger.refurbs = s.dev.toll.ledger.refurbs + 1))

/-! ## The whole block -/

/-- On an empty queue the block idles: CD_REF's timestamp advances by one while power is good, RESET_N is high and the device is not
stopped, and nothing else changes. That an idle step is one tick is the model's choice (log 3). -/
def Obligations.IdleTick : Prop :=
  ∀ d : Dev,
    (d.clk.pwrGood = true → d.clk.resetN = true → d.clk.stopped = false →
      step { pending := [], dev := d } = .next { pending := [], dev := { d with now := d.now + 1 } }) ∧
    (d.clk.pwrGood = false ∨ d.clk.resetN = false ∨ d.clk.stopped = true →
      step { pending := [], dev := d } = .next { pending := [], dev := d })

/-- After reset no command waits, no context, slot, model or flow exists, every memory is in canonical form, COX_VFWIN0 gives the PF
every slot, and the destination credits and causeway timers have their reset values (R314, R386, R390). That the device is then
without power is the model's choice (log 8). -/
def Obligations.ResetState : Prop :=
  State.reset.pending = [] ∧ State.reset.safe = true ∧ State.reset.queueWf = true ∧
    (∀ c, (getCtx State.reset.dev c).st = .free) ∧ (∀ i, (getSlot State.reset.dev i).st = .free) ∧
    (∀ m, getModel State.reset.dev m = none) ∧ (∀ f, (getFlow State.reset.dev f).live = false) ∧
    vfWin State.reset.dev 0 = (0, 65536) ∧
    (∀ n, n < 4096 → fld (reg State.reset.dev (0x0810000 + 32 * n + 8)) 28 10 = 64) ∧
    fld (reg State.reset.dev 0x0800008) 0 17 = 2000 ∧ fld (reg State.reset.dev 0x0800008) 17 11 = 64

/-- No command is refused, and a command stops only when it names a logical port of the twenty ports' 160 that does not exist; a
command that goes on leaves the commands behind it waiting. The form of that stop is the model's (log 2).
Every step of a machine whose waiting commands are well-formed answers a next state whose waiting commands are well-formed:
no run of such commands ever stops. -/
def Obligations.CommandsAlwaysAnswer : Prop :=
  (∀ (c : Instr) (s : State),
      (∃ d, exec c s = .next { s with dev := d }) ∨ (exec c s = .fault .noSuchObject ∧ c.wf = false)) ∧
  (∀ s : State, s.queueWf = true → ∃ u, step s = .next u ∧ u.queueWf = true)

/-- R77, R163, R181, R194, R276, R277, R297, R299, R414, R418, R419, R447 to R449, R452, R470: where commands complete with their own
effect: a task that may end, a conversion without scales or bias whose slots and destinations are free, a report of a PREFILL or
DECODE slot, the cancel and the retirement of a slot that is in no step, the end of a step, a passed deadline, a commit and its
end, an error of one of the device's own requests, and a save, a switch, an overrun and the two swaps of a context. -/
def Obligations.OwnEffectsComplete : Prop :=
  ∀ s : State,
    (∀ (t : TileId) (k : Task), (getTile s.dev t.toNat).run = some k → k.ending = true → k.queue = [] → k.passes = [] →
      k.convs = [] → (∀ n, n < 16 → tget k.dmaTag n 0 = 0) → (∀ n, n < 8 → tget k.trTag n 0 = 0) →
      (getTile s.dev t.toNat).sb = [] →
      ∃ u, exec (.taskEnd t) s = .next u ∧ (getTile u.dev t.toNat).run = none ∧ (getTile u.dev t.toNat).ended.isSome = true) ∧
    (∀ (f : Fetch) (x : Tile) (k : Task) (w p : Word64) (e : Rng), atInstr s.dev f 0x50 (some 0x56) = some (x, k, w, p) →
      passHeld k (cvtSlots w) = false → smFmt (fld w 19 8) = 0 → fld w 16 2 = 0 → bitOf w 5 = false → bitOf w 13 = false →
      (∀ j, j ∈ cvtSlots w → winReadable x (elemOff k j 0) 65536 = true) → x.bad = [] →
      mkRng k 0 (getR k (4 * fld w 6 3)) 0 (fld w 47 9 + 1) k.oc.eStride.toNat (rowBytes (fld w 27 4) (fld w 36 11 + 1) / 4) true
        = .ok e → deckWritable x e.phys (rngSpan e) = true → x.sb.length < 16 →
      ∃ u k', exec (.cvt f) s = .next u ∧ (getTile u.dev f.tile.toNat).run = some k' ∧ k'.convs.length = k.convs.length + 1 ∧
        (getTile u.dev f.tile.toNat).sb.length = x.sb.length + 1) ∧
    (∀ (f : Fetch) (x : Tile) (k : Task) (w p : Word64) (rs : List Rng), atInstr s.dev f 0x51 (some 0x56) = some (x, k, w, p) →
      passHeld k (cvtSlots w) = false → bitOf w 5 = false → bitOf w 13 = false →
      (∀ j, j ∈ cvtSlots w → winReadable x (elemOff k j 0) 65536 = true) → x.bad = [] →
      (List.range (if bitOf w 4 then 2 else 3)).mapM (fun i => mkRng k i (getR k (4 * fld w 6 3 + i)) 0 (fld w 47 9 + 1)
        k.oc.eStride.toNat (alignUp (cdiv ((fld w 36 11 + 1) * (if bitOf w 4 then 8 else 16)) 8) 4 / 4) true) = .ok rs →
      (∀ r, r ∈ rs → deckWritable x r.phys (rngSpan r) = true) → x.sb.length + rs.length ≤ 16 →
      ∃ u k', exec (.cvts f) s = .next u ∧ (getTile u.dev f.tile.toNat).run = some k' ∧ k'.convs.length = k.convs.length + 1 ∧
        (getTile u.dev f.tile.toNat).sb.length = x.sb.length + rs.length) ∧
    (∀ (f : Fetch) (x : Tile) (k : Task) (w p : Word64) (a e : Nat) (st : Step) (adm : Admitted) (h bs : List Byte) (o : Option Outcome),
      atInstr s.dev f 0xF1 none = some (x, k, w, p) → deckOperand k (fld w 51 5) (offOf w) 68 false = .ok a →
      readHeld x a 68 = false → deckReadable x a 4 = true → h = memGets x.mem (4 * a) 16 →
      deckReadable x (a + 4) (min 64 (leAt h 8 1)) = true → bs = memGets x.mem (4 * a + 16) (4 * min 64 (leAt h 8 1)) →
      stepOf s.dev k.work.cr.toNat k.work.step = some st → seqEntry st (leAt h 4 3) = some (e, adm) → adm.kind ≠ 2 →
      reportCheck adm k.work.withdrawn h (bytesWords (min 64 (leAt h 8 1)) bs) = .ok o →
      ∃ u, exec (.report f) s = .next u ∧ (getTile u.dev f.tile.toNat).run = some k ∧
        ∃ st1, stepOf u.dev k.work.cr.toNat k.work.step = some st1 ∧
          st1.admitted[e]? = some { adm with reported := true, outcome := o }) ∧
    (∀ (fn : Func) (vctx : VCtx) (d : Dev) (t : Taken) (i : Nat), slotOf d t = .ok i →
      ((getSlot d i).st = .idle ∨ (getSlot d i).st = .ready ∨ (getSlot d i).st = .parked) →
      (takes s.dev fn.toNat vctx.toNat (entryOp 0x14) = some (d, t) →
        exec (.seqCancel fn vctx) s = .next (s.settled (reply (releaseSlot d i false) t 0))) ∧
      (takes s.dev fn.toNat vctx.toNat (entryOp 0x15) = some (d, t) →
        exec (.seqRetire fn vctx) s = .next (s.settled (reply (releaseSlot d i false) t 0)))) ∧
    (∀ (p : PartId) (cr : Nat) (st : Step), batchCtx s.dev p.toNat = some cr → (getSteps s.dev cr).cur = some st →
      st.phase = .written → exec (.resultBatchWritten p) s = .next { s with dev := closeStep s.dev cr st }) ∧
    (∀ (slot : SlotNo) (cr e0 e : Nat) (st nx nx1 : Step) (a b : Admitted), cr = (getSlot s.dev slot.toNat).cr.toNat →
      (getSteps s.dev cr).cur = some st → (getSlot s.dev slot.toNat).st = .active → alive s.dev = true → st.phase = .delivering →
      findEntry s.dev st slot.toNat = some (e0, a) → stepOf s.dev cr (st.num + 1) = some nx →
      findEntry s.dev nx slot.toNat = some (e, b) → a.dropLate = true → a.deadline ≠ 0 → a.deadline.toNat < s.dev.now.toNat →
      b.cancelled = false → nx1 = dropTodo nx (fun w => w.excl = some e) →
      exec (.deadlinePass slot) s = .next { s with dev := cancelEntry (putStep s.dev cr nx1) cr nx1 e b true }) ∧
    (∀ (fn : Func) (v : Word64) (cr : Nat), fnOpen s.dev fn.toNat 0x0B00000 = true → (getCommit s.dev fn.toNat).busy = false →
      ctxOf s.dev fn.toNat (fld (fnReg s.dev fn.toNat 0x0B00000 0x1000) 48 7) = some cr → tblOn (tblOf s.dev cr) = true →
      (fld v 0 2 = 0 → ∃ u, exec (.map fn v) s = .next u ∧ (getCommit u.dev fn.toNat).busy = true ∧
        (getCommit u.dev fn.toNat).cr = BitVec.ofNat 12 cr) ∧
      (fld v 0 2 = 1 → ∃ u, exec (.unmap fn v) s = .next u ∧ (getCommit u.dev fn.toNat).busy = true ∧
        (getCommit u.dev fn.toNat).cr = BitVec.ofNat 12 cr)) ∧
    (∀ fn : Func, (getCommit s.dev fn.toNat).busy = true →
      exec (.commitEnd fn) s = .next { s with dev := setCommit s.dev fn.toNat { getCommit s.dev fn.toNat with busy := false } }) ∧
    (∀ cr : RecNo, s.dev.clk.stopped = false →
      exec (.pcieErrorCompletion (.context cr)) s = .next { s with dev := ctxFault s.dev cr.toNat fXlatePerm { unit := 8 } } ∧
      exec (.pcieCompletionTimeout (.context cr)) s = .next { s with dev := ctxFault s.dev cr.toNat fXlatePerm { unit := 8 } }) ∧
    (∀ (p : PartId) (rc : RecNo), alive s.dev = true → (getPart s.dev p.toNat).saving = some rc →
      saveReady s.dev p.toNat rc = true → commitRuns s.dev rc.toNat = false → saveFault s.dev p.toNat = none →
      ∃ d2, exec (.preemptSaveDone p) s = .next (s.settled d2) ∧ (getCtx d2 rc.toNat).st = .waiting ∧
        (getCtx d2 rc.toNat).saved.isSome = true) ∧
    (∀ (p : PartId) (out : Option Nat), alive s.dev = true → partEnabled s.dev p.toNat = true →
      (getPart s.dev p.toNat).reload = false → (getPart s.dev p.toNat).phase ≠ .resetting → switchPoint s.dev p.toNat = some out →
      exec (.contextSwitch p) s = .next { s with dev := nextContext (handOver s.dev p.toNat out) p.toNat out }) ∧
    (∀ rec : RecNo, s.dev.clk.stopped = false → (getCtx s.dev rec.toNat).st = .running → commitRuns s.dev rec.toNat = true →
      ∃ d1, exec (.nonpreemptOverrun rec) s = .next { s with dev := ctxFault d1 rec.toNat fNonpreemptOverrun { unit := 6 } } ∧
        commitRuns d1 rec.toNat = false) ∧
    (∀ (rec : RecNo) (n : CtxNo), alive s.dev = true → (getCtx s.dev rec.toNat).st = .swappingOut →
      (getCtx s.dev rec.toNat).cslot = some n → (getFn s.dev (getCtx s.dev rec.toNat).fn.toNat).master = true →
      pierPoison s.dev (saveArea s.dev rec.toNat) (saveAreaLen s.dev rec.toNat) = none →
      ∃ d2, exec (.swapOutDone rec) s = .next (s.settled d2) ∧ (getCtx d2 rec.toNat).st = .swappedOut) ∧
    (∀ rec : RecNo, alive s.dev = true → (getCtx s.dev rec.toNat).st = .swappingIn →
      (getFn s.dev (getCtx s.dev rec.toNat).fn.toNat).master = true →
      ∃ d2, exec (.swapInDone rec) s = .next (s.settled d2) ∧ (getCtx d2 rec.toNat).st = .waiting)

/-- Every step keeps host memory, pier and every tile's memory in canonical form. -/
def Obligations.StepKeepsMemoryForm : Prop :=
  ∀ s u : State, s.safe = true → step s = .next u → u.safe = true
end

