-- ==== Sys2Proof/Laws/Table.lean ====
section
/-! SUPPORT. The laws of tables and memories: a read after a write, and the canonical form that every memory operation
keeps. -/

namespace Sys2Proof.Machine

open Sys2Proof

/-! ## Tables -/

theorem tget_tset {α : Type} (t : Tbl α) (k i : Nat) (v d : α) :
    tget (tset t k v) i d = if i = k then v else tget t i d := by
  induction t with
  | nil =>
    by_cases h : i = k
    · simp [tset, tget, h]
    · simp [tset, tget, h, Ne.symm h]
  | cons p r ih =>
    obtain ⟨a, b⟩ := p
    by_cases hk : a = k
    · subst hk
      by_cases h : i = a
      · simp [tset, tget, h]
      · simp [tset, tget, h, Ne.symm h]
    · by_cases h : a = i
      · subst h
        simp [tset, tget, hk]
      · simp [tset, tget, hk, h, ih]

@[simp] theorem tget_tset_same {α : Type} (t : Tbl α) (k : Nat) (v d : α) : tget (tset t k v) k d = v := by
  simp [tget_tset]

theorem tfind_tset {α : Type} (t : Tbl α) (k i : Nat) (v : α) :
    tfind (tset t k v) i = if i = k then some v else tfind t i := by
  induction t with
  | nil =>
    by_cases h : i = k
    · simp [tset, tfind, h]
    · simp [tset, tfind, h, Ne.symm h]
  | cons p r ih =>
    obtain ⟨a, b⟩ := p
    by_cases hk : a = k
    · subst hk
      by_cases h : i = a
      · simp [tset, tfind, h]
      · simp [tset, tfind, h, Ne.symm h]
    · by_cases h : a = i
      · subst h
        simp [tset, tfind, hk]
      · simp [tset, tfind, hk, h, ih]

theorem tfind_tdel {α : Type} (t : Tbl α) (k i : Nat) :
    tfind (tdel t k) i = if i = k then none else tfind t i := by
  induction t with
  | nil => simp [tdel, tfind]
  | cons p r ih =>
    obtain ⟨a, b⟩ := p
    have e : tdel ((a, b) :: r) k = if a = k then tdel r k else (a, b) :: tdel r k := by
      by_cases hk : a = k <;> simp [tdel, hk]
    rw [e]
    by_cases hk : a = k
    · subst hk
      by_cases h : i = a
      · subst h
        simpa using ih
      · simp [tfind, ih, h, Ne.symm h]
    · by_cases h : a = i
      · subst h
        simp [tfind, hk]
      · simp [tfind, hk, h, ih]

/-- Every entry of a table after `tset` is the new one or was there. -/
theorem mem_tset {α : Type} (t : Tbl α) (k : Nat) (v : α) (p : Nat × α) (h : p ∈ tset t k v) : p = (k, v) ∨ p ∈ t := by
  induction t with
  | nil => exact .inl (by simpa [tset] using h)
  | cons q r ih =>
    obtain ⟨a, b⟩ := q
    by_cases hk : a = k
    · simp only [tset, hk, if_true, List.mem_cons] at h
      rcases h with h | h
      · exact .inl h
      · exact .inr (List.mem_cons_of_mem _ h)
    · simp only [tset, hk, if_false, List.mem_cons] at h
      rcases h with h | h
      · exact .inr (h ▸ List.mem_cons_self)
      · rcases ih h with h' | h'
        · exact .inl h'
        · exact .inr (List.mem_cons_of_mem _ h')

/-- What an entry of a table reads is the default or an entry. -/
theorem tget_mem {α : Type} (t : Tbl α) (k : Nat) (d : α) : tget t k d = d ∨ (k, tget t k d) ∈ t := by
  induction t with
  | nil => exact .inl rfl
  | cons q r ih =>
    obtain ⟨a, b⟩ := q
    by_cases hk : a = k
    · subst hk
      exact .inr (by simp [tget])
    · rcases ih with h | h
      · exact .inl (by simpa [tget, hk] using h)
      · exact .inr (by simpa [tget, hk] using Or.inr h)

/-! ## The canonical form of a memory -/

theorem memWfFrom_mono (lo lo' : Nat) (m : Memory) (h : memWfFrom lo m = true) (hl : lo' ≤ lo) : memWfFrom lo' m = true := by
  cases m with
  | nil => rfl
  | cons c r =>
    obtain ⟨a, b⟩ := c
    simp only [memWfFrom, Bool.and_eq_true, decide_eq_true_eq] at h ⊢
    exact ⟨⟨by omega, h.1.2⟩, h.2⟩

theorem memPut_wfFrom (lo : Nat) (m : Memory) (a : Nat) (b : Byte) (h : memWfFrom lo m = true) (ha : lo ≤ a) :
    memWfFrom lo (memPut m a b) = true := by
  induction m generalizing lo with
  | nil =>
    rcases Decidable.em (b = 0#8) with hb | hb
    · simp [memPut, hb, memWfFrom]
    · simp [memPut, hb, memWfFrom, ha]
  | cons c r ih =>
    obtain ⟨x, y⟩ := c
    simp only [memWfFrom, Bool.and_eq_true, decide_eq_true_eq] at h
    obtain ⟨⟨hx, hy⟩, hr⟩ := h
    by_cases h1 : a < x
    · rcases Decidable.em (b = 0#8) with hb | hb
      · simp [memPut, h1, hb, memWfFrom, hx, hr]
        simpa using hy
      · have hb' : ¬ (b = 0) := hb
        simp only [memPut, h1, hb', if_true, if_false, memWfFrom, Bool.and_eq_true, decide_eq_true_eq]
        exact ⟨⟨ha, by simpa using hb⟩, ⟨by omega, hy⟩, hr⟩
    · by_cases h2 : a = x
      · subst h2
        rcases Decidable.em (b = 0#8) with hb | hb
        · simp only [memPut, Nat.lt_irrefl, if_false, hb, if_true]
          exact memWfFrom_mono _ _ _ hr (by omega)
        · have hb' : ¬ (b = 0) := hb
          simp only [memPut, Nat.lt_irrefl, if_false, hb', if_true, memWfFrom, Bool.and_eq_true, decide_eq_true_eq]
          exact ⟨⟨ha, by simpa using hb⟩, hr⟩
      · simp only [memPut, h1, h2, if_false, memWfFrom, Bool.and_eq_true, decide_eq_true_eq]
        exact ⟨⟨hx, hy⟩, ih (x + 1) hr (by omega)⟩

/-- Writing a byte keeps the canonical form. -/
theorem memPut_wf (m : Memory) (a : Nat) (b : Byte) (h : Memory.wf m = true) : Memory.wf (memPut m a b) = true :=
  memPut_wfFrom 0 m a b h (Nat.zero_le _)

/-- Writing a run of bytes keeps the canonical form. -/
theorem memPuts_wf (m : Memory) (a : Nat) (bs : List Byte) (h : Memory.wf m = true) : Memory.wf (memPuts m a bs) = true := by
  induction bs generalizing m a with
  | nil => exact h
  | cons b r ih => exact ih _ _ (memPut_wf m a b h)

/-- Writing cells keeps the canonical form. -/
theorem memCells_wf (m : Memory) (cs : List Host.Cell) (h : Memory.wf m = true) : Memory.wf (memCells m cs) = true := by
  induction cs generalizing m with
  | nil => exact h
  | cons c r ih => exact ih _ (memPut_wf m c.1 c.2 h)

theorem memSet32_wf (m : Memory) (a : Nat) (w : Word32) (h : Memory.wf m = true) : Memory.wf (memSet32 m a w) = true :=
  memPuts_wf m a _ h

theorem memSet64_wf (m : Memory) (a : Nat) (w : Word64) (h : Memory.wf m = true) : Memory.wf (memSet64 m a w) = true :=
  memPuts_wf m a _ h

theorem filter_wfFrom (f : Host.Cell → Bool) (lo : Nat) (m : Memory) (h : memWfFrom lo m = true) :
    memWfFrom lo (m.filter f) = true := by
  induction m generalizing lo with
  | nil => rfl
  | cons c r ih =>
    obtain ⟨a, b⟩ := c
    simp only [memWfFrom, Bool.and_eq_true, decide_eq_true_eq] at h
    obtain ⟨⟨ha, hb⟩, hr⟩ := h
    by_cases hf : f (a, b) = true
    · simp only [List.filter_cons, hf, if_true, memWfFrom, Bool.and_eq_true, decide_eq_true_eq]
      exact ⟨⟨ha, hb⟩, ih _ hr⟩
    · simp only [List.filter_cons, hf]
      exact memWfFrom_mono _ _ _ (ih _ hr) (by omega)

/-- Zeroing a range keeps the canonical form. -/
theorem memZero_wf (m : Memory) (a n : Nat) (h : Memory.wf m = true) : Memory.wf (memZero m a n) = true :=
  filter_wfFrom _ 0 m h

/-! ## Reads after writes -/

theorem memGet_below (lo : Nat) (m : Memory) (a : Nat) (h : memWfFrom lo m = true) (ha : a < lo) : memGet m a = 0 := by
  induction m generalizing lo with
  | nil => rfl
  | cons c r ih =>
    obtain ⟨x, y⟩ := c
    simp only [memWfFrom, Bool.and_eq_true, decide_eq_true_eq] at h
    have hx : x ≠ a := by omega
    simp only [memGet, hx, if_false]
    exact ih _ h.2 (by omega)

theorem memGet_memPutFrom (lo : Nat) (m : Memory) (a i : Nat) (b : Byte) (h : memWfFrom lo m = true) :
    memGet (memPut m a b) i = if i = a then b else memGet m i := by
  induction m generalizing lo with
  | nil =>
    rcases Decidable.em (b = 0#8) with hb | hb
    · simp [memPut, hb, memGet]
    · by_cases hi : i = a
      · simp [memPut, hb, memGet, hi]
      · simp [memPut, hb, memGet, hi, Ne.symm hi]
  | cons c r ih =>
    obtain ⟨x, y⟩ := c
    simp only [memWfFrom, Bool.and_eq_true, decide_eq_true_eq] at h
    obtain ⟨⟨hx, hy⟩, hr⟩ := h
    by_cases h1 : a < x
    · rcases Decidable.em (b = 0#8) with hb | hb
      · by_cases hi : i = a
        · subst hi
          have hxi : x ≠ i := by omega
          simp [memPut, h1, hb, memGet, hxi, memGet_below _ r i hr (by omega : i < x + 1)]
        · simp [memPut, h1, hb, hi]
      · by_cases hi : i = a
        · simp [memPut, h1, hb, memGet, hi]
        · simp [memPut, h1, hb, memGet, hi, Ne.symm hi]
    · by_cases h2 : a = x
      · subst h2
        rcases Decidable.em (b = 0#8) with hb | hb
        · by_cases hi : i = a
          · subst hi
            simp only [memPut, Nat.lt_irrefl, if_false, hb, if_true]
            exact memGet_below _ r i hr (by omega)
          · simp [memPut, hb, memGet, hi, Ne.symm hi]
        · by_cases hi : i = a
          · simp [memPut, hb, memGet, hi]
          · simp [memPut, hb, memGet, hi, Ne.symm hi]
      · by_cases hxi : x = i
        · subst hxi
          simp [memPut, h1, h2, memGet, Ne.symm h2]
        · simp only [memPut, h1, h2, if_false, memGet, hxi]
          exact ih _ hr

/-- A byte written is read back, and every other byte stays. -/
theorem memGet_memPut (m : Memory) (a i : Nat) (b : Byte) (h : Memory.wf m = true) :
    memGet (memPut m a b) i = if i = a then b else memGet m i :=
  memGet_memPutFrom 0 m a i b h

/-- A run of bytes written reads back byte by byte, and every byte outside it stays. -/
theorem memGet_memPuts (m : Memory) (a i : Nat) (bs : List Byte) (h : Memory.wf m = true) :
    memGet (memPuts m a bs) i = if a ≤ i ∧ i < a + bs.length then bs.getD (i - a) 0 else memGet m i := by
  induction bs generalizing m a with
  | nil =>
    simp [memPuts]
  | cons b r ih =>
    simp only [memPuts]
    rw [ih _ _ (memPut_wf m a b h), memGet_memPut m a i b h]
    simp only [List.length_cons]
    by_cases h1 : a + 1 ≤ i ∧ i < a + 1 + r.length
    · have h2 : a ≤ i ∧ i < a + (r.length + 1) := by omega
      have h3 : i - a = (i - (a + 1)) + 1 := by omega
      rw [if_pos h1, if_pos h2, h3]
      simp
    · rw [if_neg h1]
      by_cases hi : i = a
      · subst hi
        have h2 : i ≤ i ∧ i < i + (r.length + 1) := by omega
        simp
      · have h2 : ¬ (a ≤ i ∧ i < a + (r.length + 1)) := by omega
        rw [if_neg hi, if_neg h2]

/-- A zeroed byte reads zero, and every other byte stays. -/
theorem memGet_memZero (m : Memory) (a n i : Nat) :
    memGet (memZero m a n) i = if a ≤ i ∧ i < a + n then 0 else memGet m i := by
  unfold memZero
  induction m with
  | nil => simp [memGet]
  | cons c r ih =>
    obtain ⟨x, y⟩ := c
    by_cases hk : x < a ∨ a + n ≤ x
    · have hf : (decide (x < a) || decide (a + n ≤ x)) = true := by simpa using hk
      simp only [List.filter_cons, hf, if_true, memGet]
      by_cases hx : x = i
      · subst hx
        have : ¬ (a ≤ x ∧ x < a + n) := by omega
        simp [this]
      · simpa [hx] using ih
    · have hf : (decide (x < a) || decide (a + n ≤ x)) = false := by simpa using hk
      simp only [List.filter_cons, hf, memGet]
      by_cases hx : x = i
      · subst hx
        have h2 : a ≤ x ∧ x < a + n := by omega
        simpa [h2] using ih
      · simpa [hx] using ih

/-- A run written reads back as it was. -/
theorem memGets_memPuts (m : Memory) (a : Nat) (bs : List Byte) (h : Memory.wf m = true) :
    memGets (memPuts m a bs) a bs.length = bs := by
  apply List.ext_getElem
  · simp [memGets]
  · intro i h1 h2
    have hi : i < bs.length := h2
    simp only [memGets, List.getElem_map, List.getElem_range]
    rw [memGet_memPuts m a (a + i) bs h]
    have : a ≤ a + i ∧ a + i < a + bs.length := by omega
    simp [hi]

/-- A run outside a written run reads as before. -/
theorem memGets_memPuts_out (m : Memory) (a b n : Nat) (bs : List Byte) (h : Memory.wf m = true)
    (ho : b + n ≤ a ∨ a + bs.length ≤ b) : memGets (memPuts m a bs) b n = memGets m b n := by
  apply List.ext_getElem
  · simp [memGets]
  · intro i h1 h2
    have hi : i < n := by simpa [memGets] using h2
    simp only [memGets, List.getElem_map, List.getElem_range]
    rw [memGet_memPuts m a (b + i) bs h]
    have : ¬ (a ≤ b + i ∧ b + i < a + bs.length) := by omega
    simp [this]

/-! ## Little-endian bytes -/

@[simp] theorem toLe_length (n v : Nat) : (toLe n v).length = n := by
  induction n generalizing v with
  | zero => rfl
  | succ n ih => simp [toLe, ih]

theorem leNat_toLe (n v : Nat) : leNat (toLe n v) = v % 256 ^ n := by
  induction n generalizing v with
  | zero => simp [toLe, leNat, Nat.mod_one]
  | succ n ih =>
    have e : (BitVec.ofNat 8 v).toNat = v % 256 := by simp
    rw [toLe, leNat, ih, e, Nat.pow_succ', Nat.mod_mul]

end Sys2Proof.Machine
end

