-- ==== Sys2Proof/Laws/State.lean ====
section
/-! SUPPORT. What each update of the device leaves unchanged: one lemma a field and update, and what each table reads after an
update of the same or of another table. -/

namespace Sys2Proof.Machine

open Sys2Proof

/-! ## `setTile` -/

@[simp] theorem setTile_now (d : Dev) (t : Nat) (x : Tile) : (setTile d t x).now = d.now := rfl
@[simp] theorem setTile_fresh (d : Dev) (t : Nat) (x : Tile) : (setTile d t x).fresh = d.fresh := rfl
@[simp] theorem setTile_regs (d : Dev) (t : Nat) (x : Tile) : (setTile d t x).regs = d.regs := rfl
@[simp] theorem setTile_vfRegs (d : Dev) (t : Nat) (x : Tile) : (setTile d t x).vfRegs = d.vfRegs := rfl
@[simp] theorem setTile_host (d : Dev) (t : Nat) (x : Tile) : (setTile d t x).host = d.host := rfl
@[simp] theorem setTile_hif (d : Dev) (t : Nat) (x : Tile) : (setTile d t x).hif = d.hif := rfl
@[simp] theorem setTile_xfers (d : Dev) (t : Nat) (x : Tile) : (setTile d t x).xfers = d.xfers := rfl
@[simp] theorem setTile_nextX (d : Dev) (t : Nat) (x : Tile) : (setTile d t x).nextX = d.nextX := rfl
@[simp] theorem setTile_engines (d : Dev) (t : Nat) (x : Tile) : (setTile d t x).engines = d.engines := rfl
@[simp] theorem setTile_bufs (d : Dev) (t : Nat) (x : Tile) : (setTile d t x).bufs = d.bufs := rfl
@[simp] theorem setTile_pier (d : Dev) (t : Nat) (x : Tile) : (setTile d t x).pier = d.pier := rfl
@[simp] theorem setTile_key (d : Dev) (t : Nat) (x : Tile) : (setTile d t x).key = d.key := rfl
@[simp] theorem setTile_cat (d : Dev) (t : Nat) (x : Tile) : (setTile d t x).cat = d.cat := rfl
@[simp] theorem setTile_cox (d : Dev) (t : Nat) (x : Tile) : (setTile d t x).cox = d.cox := rfl
@[simp] theorem setTile_cwy (d : Dev) (t : Nat) (x : Tile) : (setTile d t x).cwy = d.cwy := rfl
@[simp] theorem setTile_ports (d : Dev) (t : Nat) (x : Tile) : (setTile d t x).ports = d.ports := rfl
@[simp] theorem setTile_xlt (d : Dev) (t : Nat) (x : Tile) : (setTile d t x).xlt = d.xlt := rfl
@[simp] theorem setTile_flt (d : Dev) (t : Nat) (x : Tile) : (setTile d t x).flt = d.flt := rfl
@[simp] theorem setTile_pmg (d : Dev) (t : Nat) (x : Tile) : (setTile d t x).pmg = d.pmg := rfl
@[simp] theorem setTile_boot (d : Dev) (t : Nat) (x : Tile) : (setTile d t x).boot = d.boot := rfl
@[simp] theorem setTile_tru (d : Dev) (t : Nat) (x : Tile) : (setTile d t x).tru = d.tru := rfl
@[simp] theorem setTile_toll (d : Dev) (t : Nat) (x : Tile) : (setTile d t x).toll = d.toll := rfl
@[simp] theorem setTile_clk (d : Dev) (t : Nat) (x : Tile) : (setTile d t x).clk = d.clk := rfl
@[simp] theorem getCtx_setTile (d : Dev) (t : Nat) (x : Tile) (i : Nat) : getCtx (setTile d t x) i = getCtx d i := rfl
@[simp] theorem getPart_setTile (d : Dev) (t : Nat) (x : Tile) (i : Nat) : getPart (setTile d t x) i = getPart d i := rfl
@[simp] theorem getSlot_setTile (d : Dev) (t : Nat) (x : Tile) (i : Nat) : getSlot (setTile d t x) i = getSlot d i := rfl
@[simp] theorem getSteps_setTile (d : Dev) (t : Nat) (x : Tile) (i : Nat) : getSteps (setTile d t x) i = getSteps d i := rfl
@[simp] theorem getModel_setTile (d : Dev) (t : Nat) (x : Tile) (i : Nat) : getModel (setTile d t x) i = getModel d i := rfl
@[simp] theorem getNode_setTile (d : Dev) (t : Nat) (x : Tile) (i : Nat) : getNode (setTile d t x) i = getNode d i := rfl
@[simp] theorem getFlow_setTile (d : Dev) (t : Nat) (x : Tile) (i : Nat) : getFlow (setTile d t x) i = getFlow d i := rfl
@[simp] theorem getPort_setTile (d : Dev) (t : Nat) (x : Tile) (i : Nat) : getPort (setTile d t x) i = getPort d i := rfl
@[simp] theorem getFn_setTile (d : Dev) (t : Nat) (x : Tile) (i : Nat) : getFn (setTile d t x) i = getFn d i := rfl
@[simp] theorem getBuf_setTile (d : Dev) (t : Nat) (x : Tile) (i j : Nat) : getBuf (setTile d t x) i j = getBuf d i j := rfl
@[simp] theorem getRing_setTile (d : Dev) (t : Nat) (x : Tile) (i : Nat) : getRing (setTile d t x) i = getRing d i := rfl
@[simp] theorem getEngine_setTile (d : Dev) (t : Nat) (x : Tile) (i : Nat) : getEngine (setTile d t x) i = getEngine d i := rfl
@[simp] theorem reg_setTile (d : Dev) (t : Nat) (x : Tile) (i : Nat) : reg (setTile d t x) i = reg d i := rfl
@[simp] theorem getTile_setTile (d : Dev) (t i : Nat) (x : Tile) : getTile (setTile d t x) i = if i = t then x else getTile d i := by
  simp [getTile, setTile, tget_tset]

/-! ## `setCtx` -/

@[simp] theorem setCtx_now (d : Dev) (c : Nat) (x : Ctx) : (setCtx d c x).now = d.now := rfl
@[simp] theorem setCtx_fresh (d : Dev) (c : Nat) (x : Ctx) : (setCtx d c x).fresh = d.fresh := rfl
@[simp] theorem setCtx_regs (d : Dev) (c : Nat) (x : Ctx) : (setCtx d c x).regs = d.regs := rfl
@[simp] theorem setCtx_vfRegs (d : Dev) (c : Nat) (x : Ctx) : (setCtx d c x).vfRegs = d.vfRegs := rfl
@[simp] theorem setCtx_host (d : Dev) (c : Nat) (x : Ctx) : (setCtx d c x).host = d.host := rfl
@[simp] theorem setCtx_hif (d : Dev) (c : Nat) (x : Ctx) : (setCtx d c x).hif = d.hif := rfl
@[simp] theorem setCtx_tiles (d : Dev) (c : Nat) (x : Ctx) : (setCtx d c x).tiles = d.tiles := rfl
@[simp] theorem setCtx_xfers (d : Dev) (c : Nat) (x : Ctx) : (setCtx d c x).xfers = d.xfers := rfl
@[simp] theorem setCtx_nextX (d : Dev) (c : Nat) (x : Ctx) : (setCtx d c x).nextX = d.nextX := rfl
@[simp] theorem setCtx_engines (d : Dev) (c : Nat) (x : Ctx) : (setCtx d c x).engines = d.engines := rfl
@[simp] theorem setCtx_bufs (d : Dev) (c : Nat) (x : Ctx) : (setCtx d c x).bufs = d.bufs := rfl
@[simp] theorem setCtx_pier (d : Dev) (c : Nat) (x : Ctx) : (setCtx d c x).pier = d.pier := rfl
@[simp] theorem setCtx_key (d : Dev) (c : Nat) (x : Ctx) : (setCtx d c x).key = d.key := rfl
@[simp] theorem setCtx_cat (d : Dev) (c : Nat) (x : Ctx) : (setCtx d c x).cat = d.cat := rfl
@[simp] theorem setCtx_cox (d : Dev) (c : Nat) (x : Ctx) : (setCtx d c x).cox = d.cox := rfl
@[simp] theorem setCtx_cwy (d : Dev) (c : Nat) (x : Ctx) : (setCtx d c x).cwy = d.cwy := rfl
@[simp] theorem setCtx_ports (d : Dev) (c : Nat) (x : Ctx) : (setCtx d c x).ports = d.ports := rfl
@[simp] theorem setCtx_xlt (d : Dev) (c : Nat) (x : Ctx) : (setCtx d c x).xlt = d.xlt := rfl
@[simp] theorem setCtx_flt (d : Dev) (c : Nat) (x : Ctx) : (setCtx d c x).flt = d.flt := rfl
@[simp] theorem setCtx_boot (d : Dev) (c : Nat) (x : Ctx) : (setCtx d c x).boot = d.boot := rfl
@[simp] theorem setCtx_tru (d : Dev) (c : Nat) (x : Ctx) : (setCtx d c x).tru = d.tru := rfl
@[simp] theorem setCtx_toll (d : Dev) (c : Nat) (x : Ctx) : (setCtx d c x).toll = d.toll := rfl
@[simp] theorem setCtx_clk (d : Dev) (c : Nat) (x : Ctx) : (setCtx d c x).clk = d.clk := rfl
@[simp] theorem setCtx_pmg_parts (d : Dev) (c : Nat) (x : Ctx) : (setCtx d c x).pmg.parts = d.pmg.parts := rfl
@[simp] theorem setCtx_pmg_cslots (d : Dev) (c : Nat) (x : Ctx) : (setCtx d c x).pmg.cslots = d.pmg.cslots := rfl
@[simp] theorem setCtx_pmg_status (d : Dev) (c : Nat) (x : Ctx) : (setCtx d c x).pmg.status = d.pmg.status := rfl
@[simp] theorem setCtx_pmg_info (d : Dev) (c : Nat) (x : Ctx) : (setCtx d c x).pmg.info = d.pmg.info := rfl
@[simp] theorem setCtx_pmg_buckets (d : Dev) (c : Nat) (x : Ctx) : (setCtx d c x).pmg.buckets = d.pmg.buckets := rfl
@[simp] theorem getTile_setCtx (d : Dev) (c : Nat) (x : Ctx) (i : Nat) : getTile (setCtx d c x) i = getTile d i := rfl
@[simp] theorem getPart_setCtx (d : Dev) (c : Nat) (x : Ctx) (i : Nat) : getPart (setCtx d c x) i = getPart d i := rfl
@[simp] theorem getSlot_setCtx (d : Dev) (c : Nat) (x : Ctx) (i : Nat) : getSlot (setCtx d c x) i = getSlot d i := rfl
@[simp] theorem getSteps_setCtx (d : Dev) (c : Nat) (x : Ctx) (i : Nat) : getSteps (setCtx d c x) i = getSteps d i := rfl
@[simp] theorem getModel_setCtx (d : Dev) (c : Nat) (x : Ctx) (i : Nat) : getModel (setCtx d c x) i = getModel d i := rfl
@[simp] theorem getNode_setCtx (d : Dev) (c : Nat) (x : Ctx) (i : Nat) : getNode (setCtx d c x) i = getNode d i := rfl
@[simp] theorem getFlow_setCtx (d : Dev) (c : Nat) (x : Ctx) (i : Nat) : getFlow (setCtx d c x) i = getFlow d i := rfl
@[simp] theorem getPort_setCtx (d : Dev) (c : Nat) (x : Ctx) (i : Nat) : getPort (setCtx d c x) i = getPort d i := rfl
@[simp] theorem getFn_setCtx (d : Dev) (c : Nat) (x : Ctx) (i : Nat) : getFn (setCtx d c x) i = getFn d i := rfl
@[simp] theorem getBuf_setCtx (d : Dev) (c : Nat) (x : Ctx) (i j : Nat) : getBuf (setCtx d c x) i j = getBuf d i j := rfl
@[simp] theorem getRing_setCtx (d : Dev) (c : Nat) (x : Ctx) (i : Nat) : getRing (setCtx d c x) i = getRing d i := rfl
@[simp] theorem getEngine_setCtx (d : Dev) (c : Nat) (x : Ctx) (i : Nat) : getEngine (setCtx d c x) i = getEngine d i := rfl
@[simp] theorem reg_setCtx (d : Dev) (c : Nat) (x : Ctx) (i : Nat) : reg (setCtx d c x) i = reg d i := rfl
@[simp] theorem getCtx_setCtx (d : Dev) (c i : Nat) (x : Ctx) : getCtx (setCtx d c x) i = if i = c then x else getCtx d i := by
  simp [getCtx, setCtx, tget_tset]

/-! ## `setPart` -/

@[simp] theorem setPart_now (d : Dev) (p : Nat) (x : Part) : (setPart d p x).now = d.now := rfl
@[simp] theorem setPart_fresh (d : Dev) (p : Nat) (x : Part) : (setPart d p x).fresh = d.fresh := rfl
@[simp] theorem setPart_regs (d : Dev) (p : Nat) (x : Part) : (setPart d p x).regs = d.regs := rfl
@[simp] theorem setPart_vfRegs (d : Dev) (p : Nat) (x : Part) : (setPart d p x).vfRegs = d.vfRegs := rfl
@[simp] theorem setPart_host (d : Dev) (p : Nat) (x : Part) : (setPart d p x).host = d.host := rfl
@[simp] theorem setPart_hif (d : Dev) (p : Nat) (x : Part) : (setPart d p x).hif = d.hif := rfl
@[simp] theorem setPart_tiles (d : Dev) (p : Nat) (x : Part) : (setPart d p x).tiles = d.tiles := rfl
@[simp] theorem setPart_xfers (d : Dev) (p : Nat) (x : Part) : (setPart d p x).xfers = d.xfers := rfl
@[simp] theorem setPart_nextX (d : Dev) (p : Nat) (x : Part) : (setPart d p x).nextX = d.nextX := rfl
@[simp] theorem setPart_engines (d : Dev) (p : Nat) (x : Part) : (setPart d p x).engines = d.engines := rfl
@[simp] theorem setPart_bufs (d : Dev) (p : Nat) (x : Part) : (setPart d p x).bufs = d.bufs := rfl
@[simp] theorem setPart_pier (d : Dev) (p : Nat) (x : Part) : (setPart d p x).pier = d.pier := rfl
@[simp] theorem setPart_key (d : Dev) (p : Nat) (x : Part) : (setPart d p x).key = d.key := rfl
@[simp] theorem setPart_cat (d : Dev) (p : Nat) (x : Part) : (setPart d p x).cat = d.cat := rfl
@[simp] theorem setPart_cox (d : Dev) (p : Nat) (x : Part) : (setPart d p x).cox = d.cox := rfl
@[simp] theorem setPart_cwy (d : Dev) (p : Nat) (x : Part) : (setPart d p x).cwy = d.cwy := rfl
@[simp] theorem setPart_ports (d : Dev) (p : Nat) (x : Part) : (setPart d p x).ports = d.ports := rfl
@[simp] theorem setPart_xlt (d : Dev) (p : Nat) (x : Part) : (setPart d p x).xlt = d.xlt := rfl
@[simp] theorem setPart_flt (d : Dev) (p : Nat) (x : Part) : (setPart d p x).flt = d.flt := rfl
@[simp] theorem setPart_boot (d : Dev) (p : Nat) (x : Part) : (setPart d p x).boot = d.boot := rfl
@[simp] theorem setPart_tru (d : Dev) (p : Nat) (x : Part) : (setPart d p x).tru = d.tru := rfl
@[simp] theorem setPart_toll (d : Dev) (p : Nat) (x : Part) : (setPart d p x).toll = d.toll := rfl
@[simp] theorem setPart_clk (d : Dev) (p : Nat) (x : Part) : (setPart d p x).clk = d.clk := rfl
@[simp] theorem setPart_pmg_ctxs (d : Dev) (p : Nat) (x : Part) : (setPart d p x).pmg.ctxs = d.pmg.ctxs := rfl
@[simp] theorem setPart_pmg_cslots (d : Dev) (p : Nat) (x : Part) : (setPart d p x).pmg.cslots = d.pmg.cslots := rfl
@[simp] theorem setPart_pmg_status (d : Dev) (p : Nat) (x : Part) : (setPart d p x).pmg.status = d.pmg.status := rfl
@[simp] theorem setPart_pmg_info (d : Dev) (p : Nat) (x : Part) : (setPart d p x).pmg.info = d.pmg.info := rfl
@[simp] theorem setPart_pmg_buckets (d : Dev) (p : Nat) (x : Part) : (setPart d p x).pmg.buckets = d.pmg.buckets := rfl
@[simp] theorem getTile_setPart (d : Dev) (p : Nat) (x : Part) (i : Nat) : getTile (setPart d p x) i = getTile d i := rfl
@[simp] theorem getCtx_setPart (d : Dev) (p : Nat) (x : Part) (i : Nat) : getCtx (setPart d p x) i = getCtx d i := rfl
@[simp] theorem getSlot_setPart (d : Dev) (p : Nat) (x : Part) (i : Nat) : getSlot (setPart d p x) i = getSlot d i := rfl
@[simp] theorem getSteps_setPart (d : Dev) (p : Nat) (x : Part) (i : Nat) : getSteps (setPart d p x) i = getSteps d i := rfl
@[simp] theorem getModel_setPart (d : Dev) (p : Nat) (x : Part) (i : Nat) : getModel (setPart d p x) i = getModel d i := rfl
@[simp] theorem getNode_setPart (d : Dev) (p : Nat) (x : Part) (i : Nat) : getNode (setPart d p x) i = getNode d i := rfl
@[simp] theorem getFlow_setPart (d : Dev) (p : Nat) (x : Part) (i : Nat) : getFlow (setPart d p x) i = getFlow d i := rfl
@[simp] theorem getPort_setPart (d : Dev) (p : Nat) (x : Part) (i : Nat) : getPort (setPart d p x) i = getPort d i := rfl
@[simp] theorem getFn_setPart (d : Dev) (p : Nat) (x : Part) (i : Nat) : getFn (setPart d p x) i = getFn d i := rfl
@[simp] theorem getBuf_setPart (d : Dev) (p : Nat) (x : Part) (i j : Nat) : getBuf (setPart d p x) i j = getBuf d i j := rfl
@[simp] theorem getRing_setPart (d : Dev) (p : Nat) (x : Part) (i : Nat) : getRing (setPart d p x) i = getRing d i := rfl
@[simp] theorem getEngine_setPart (d : Dev) (p : Nat) (x : Part) (i : Nat) : getEngine (setPart d p x) i = getEngine d i := rfl
@[simp] theorem reg_setPart (d : Dev) (p : Nat) (x : Part) (i : Nat) : reg (setPart d p x) i = reg d i := rfl
@[simp] theorem getPart_setPart (d : Dev) (p i : Nat) (x : Part) : getPart (setPart d p x) i = if i = p then x else getPart d i := by
  simp [getPart, setPart, tget_tset]

/-! ## `setSlot` -/

@[simp] theorem setSlot_now (d : Dev) (n : Nat) (x : Slot) : (setSlot d n x).now = d.now := rfl
@[simp] theorem setSlot_fresh (d : Dev) (n : Nat) (x : Slot) : (setSlot d n x).fresh = d.fresh := rfl
@[simp] theorem setSlot_regs (d : Dev) (n : Nat) (x : Slot) : (setSlot d n x).regs = d.regs := rfl
@[simp] theorem setSlot_vfRegs (d : Dev) (n : Nat) (x : Slot) : (setSlot d n x).vfRegs = d.vfRegs := rfl
@[simp] theorem setSlot_host (d : Dev) (n : Nat) (x : Slot) : (setSlot d n x).host = d.host := rfl
@[simp] theorem setSlot_hif (d : Dev) (n : Nat) (x : Slot) : (setSlot d n x).hif = d.hif := rfl
@[simp] theorem setSlot_tiles (d : Dev) (n : Nat) (x : Slot) : (setSlot d n x).tiles = d.tiles := rfl
@[simp] theorem setSlot_xfers (d : Dev) (n : Nat) (x : Slot) : (setSlot d n x).xfers = d.xfers := rfl
@[simp] theorem setSlot_nextX (d : Dev) (n : Nat) (x : Slot) : (setSlot d n x).nextX = d.nextX := rfl
@[simp] theorem setSlot_engines (d : Dev) (n : Nat) (x : Slot) : (setSlot d n x).engines = d.engines := rfl
@[simp] theorem setSlot_bufs (d : Dev) (n : Nat) (x : Slot) : (setSlot d n x).bufs = d.bufs := rfl
@[simp] theorem setSlot_pier (d : Dev) (n : Nat) (x : Slot) : (setSlot d n x).pier = d.pier := rfl
@[simp] theorem setSlot_key (d : Dev) (n : Nat) (x : Slot) : (setSlot d n x).key = d.key := rfl
@[simp] theorem setSlot_cat (d : Dev) (n : Nat) (x : Slot) : (setSlot d n x).cat = d.cat := rfl
@[simp] theorem setSlot_cwy (d : Dev) (n : Nat) (x : Slot) : (setSlot d n x).cwy = d.cwy := rfl
@[simp] theorem setSlot_ports (d : Dev) (n : Nat) (x : Slot) : (setSlot d n x).ports = d.ports := rfl
@[simp] theorem setSlot_xlt (d : Dev) (n : Nat) (x : Slot) : (setSlot d n x).xlt = d.xlt := rfl
@[simp] theorem setSlot_flt (d : Dev) (n : Nat) (x : Slot) : (setSlot d n x).flt = d.flt := rfl
@[simp] theorem setSlot_pmg (d : Dev) (n : Nat) (x : Slot) : (setSlot d n x).pmg = d.pmg := rfl
@[simp] theorem setSlot_boot (d : Dev) (n : Nat) (x : Slot) : (setSlot d n x).boot = d.boot := rfl
@[simp] theorem setSlot_tru (d : Dev) (n : Nat) (x : Slot) : (setSlot d n x).tru = d.tru := rfl
@[simp] theorem setSlot_toll (d : Dev) (n : Nat) (x : Slot) : (setSlot d n x).toll = d.toll := rfl
@[simp] theorem setSlot_clk (d : Dev) (n : Nat) (x : Slot) : (setSlot d n x).clk = d.clk := rfl
@[simp] theorem setSlot_cox_models (d : Dev) (n : Nat) (x : Slot) : (setSlot d n x).cox.models = d.cox.models := rfl
@[simp] theorem setSlot_cox_vmods (d : Dev) (n : Nat) (x : Slot) : (setSlot d n x).cox.vmods = d.cox.vmods := rfl
@[simp] theorem setSlot_cox_steps (d : Dev) (n : Nat) (x : Slot) : (setSlot d n x).cox.steps = d.cox.steps := rfl
@[simp] theorem setSlot_cox_fences (d : Dev) (n : Nat) (x : Slot) : (setSlot d n x).cox.fences = d.cox.fences := rfl
@[simp] theorem setSlot_cox_readyCtr (d : Dev) (n : Nat) (x : Slot) : (setSlot d n x).cox.readyCtr = d.cox.readyCtr := rfl
@[simp] theorem setSlot_cox_serial (d : Dev) (n : Nat) (x : Slot) : (setSlot d n x).cox.serial = d.cox.serial := rfl
@[simp] theorem setSlot_cox_slotInfo (d : Dev) (n : Nat) (x : Slot) : (setSlot d n x).cox.slotInfo = d.cox.slotInfo := rfl
@[simp] theorem getTile_setSlot (d : Dev) (n : Nat) (x : Slot) (i : Nat) : getTile (setSlot d n x) i = getTile d i := rfl
@[simp] theorem getCtx_setSlot (d : Dev) (n : Nat) (x : Slot) (i : Nat) : getCtx (setSlot d n x) i = getCtx d i := rfl
@[simp] theorem getPart_setSlot (d : Dev) (n : Nat) (x : Slot) (i : Nat) : getPart (setSlot d n x) i = getPart d i := rfl
@[simp] theorem getSteps_setSlot (d : Dev) (n : Nat) (x : Slot) (i : Nat) : getSteps (setSlot d n x) i = getSteps d i := rfl
@[simp] theorem getModel_setSlot (d : Dev) (n : Nat) (x : Slot) (i : Nat) : getModel (setSlot d n x) i = getModel d i := rfl
@[simp] theorem getNode_setSlot (d : Dev) (n : Nat) (x : Slot) (i : Nat) : getNode (setSlot d n x) i = getNode d i := rfl
@[simp] theorem getFlow_setSlot (d : Dev) (n : Nat) (x : Slot) (i : Nat) : getFlow (setSlot d n x) i = getFlow d i := rfl
@[simp] theorem getPort_setSlot (d : Dev) (n : Nat) (x : Slot) (i : Nat) : getPort (setSlot d n x) i = getPort d i := rfl
@[simp] theorem getFn_setSlot (d : Dev) (n : Nat) (x : Slot) (i : Nat) : getFn (setSlot d n x) i = getFn d i := rfl
@[simp] theorem getBuf_setSlot (d : Dev) (n : Nat) (x : Slot) (i j : Nat) : getBuf (setSlot d n x) i j = getBuf d i j := rfl
@[simp] theorem getRing_setSlot (d : Dev) (n : Nat) (x : Slot) (i : Nat) : getRing (setSlot d n x) i = getRing d i := rfl
@[simp] theorem getEngine_setSlot (d : Dev) (n : Nat) (x : Slot) (i : Nat) : getEngine (setSlot d n x) i = getEngine d i := rfl
@[simp] theorem reg_setSlot (d : Dev) (n : Nat) (x : Slot) (i : Nat) : reg (setSlot d n x) i = reg d i := rfl
@[simp] theorem getSlot_setSlot (d : Dev) (n i : Nat) (x : Slot) : getSlot (setSlot d n x) i = if i = n then x else getSlot d i := by
  simp [getSlot, setSlot, tget_tset]

/-! ## `setSteps` -/

@[simp] theorem setSteps_now (d : Dev) (c : Nat) (x : CtxSteps) : (setSteps d c x).now = d.now := rfl
@[simp] theorem setSteps_fresh (d : Dev) (c : Nat) (x : CtxSteps) : (setSteps d c x).fresh = d.fresh := rfl
@[simp] theorem setSteps_regs (d : Dev) (c : Nat) (x : CtxSteps) : (setSteps d c x).regs = d.regs := rfl
@[simp] theorem setSteps_vfRegs (d : Dev) (c : Nat) (x : CtxSteps) : (setSteps d c x).vfRegs = d.vfRegs := rfl
@[simp] theorem setSteps_host (d : Dev) (c : Nat) (x : CtxSteps) : (setSteps d c x).host = d.host := rfl
@[simp] theorem setSteps_hif (d : Dev) (c : Nat) (x : CtxSteps) : (setSteps d c x).hif = d.hif := rfl
@[simp] theorem setSteps_tiles (d : Dev) (c : Nat) (x : CtxSteps) : (setSteps d c x).tiles = d.tiles := rfl
@[simp] theorem setSteps_xfers (d : Dev) (c : Nat) (x : CtxSteps) : (setSteps d c x).xfers = d.xfers := rfl
@[simp] theorem setSteps_nextX (d : Dev) (c : Nat) (x : CtxSteps) : (setSteps d c x).nextX = d.nextX := rfl
@[simp] theorem setSteps_engines (d : Dev) (c : Nat) (x : CtxSteps) : (setSteps d c x).engines = d.engines := rfl
@[simp] theorem setSteps_bufs (d : Dev) (c : Nat) (x : CtxSteps) : (setSteps d c x).bufs = d.bufs := rfl
@[simp] theorem setSteps_pier (d : Dev) (c : Nat) (x : CtxSteps) : (setSteps d c x).pier = d.pier := rfl
@[simp] theorem setSteps_key (d : Dev) (c : Nat) (x : CtxSteps) : (setSteps d c x).key = d.key := rfl
@[simp] theorem setSteps_cat (d : Dev) (c : Nat) (x : CtxSteps) : (setSteps d c x).cat = d.cat := rfl
@[simp] theorem setSteps_cwy (d : Dev) (c : Nat) (x : CtxSteps) : (setSteps d c x).cwy = d.cwy := rfl
@[simp] theorem setSteps_ports (d : Dev) (c : Nat) (x : CtxSteps) : (setSteps d c x).ports = d.ports := rfl
@[simp] theorem setSteps_xlt (d : Dev) (c : Nat) (x : CtxSteps) : (setSteps d c x).xlt = d.xlt := rfl
@[simp] theorem setSteps_flt (d : Dev) (c : Nat) (x : CtxSteps) : (setSteps d c x).flt = d.flt := rfl
@[simp] theorem setSteps_pmg (d : Dev) (c : Nat) (x : CtxSteps) : (setSteps d c x).pmg = d.pmg := rfl
@[simp] theorem setSteps_boot (d : Dev) (c : Nat) (x : CtxSteps) : (setSteps d c x).boot = d.boot := rfl
@[simp] theorem setSteps_tru (d : Dev) (c : Nat) (x : CtxSteps) : (setSteps d c x).tru = d.tru := rfl
@[simp] theorem setSteps_toll (d : Dev) (c : Nat) (x : CtxSteps) : (setSteps d c x).toll = d.toll := rfl
@[simp] theorem setSteps_clk (d : Dev) (c : Nat) (x : CtxSteps) : (setSteps d c x).clk = d.clk := rfl
@[simp] theorem setSteps_cox_slots (d : Dev) (c : Nat) (x : CtxSteps) : (setSteps d c x).cox.slots = d.cox.slots := rfl
@[simp] theorem setSteps_cox_models (d : Dev) (c : Nat) (x : CtxSteps) : (setSteps d c x).cox.models = d.cox.models := rfl
@[simp] theorem setSteps_cox_vmods (d : Dev) (c : Nat) (x : CtxSteps) : (setSteps d c x).cox.vmods = d.cox.vmods := rfl
@[simp] theorem setSteps_cox_fences (d : Dev) (c : Nat) (x : CtxSteps) : (setSteps d c x).cox.fences = d.cox.fences := rfl
@[simp] theorem setSteps_cox_readyCtr (d : Dev) (c : Nat) (x : CtxSteps) : (setSteps d c x).cox.readyCtr = d.cox.readyCtr := rfl
@[simp] theorem setSteps_cox_serial (d : Dev) (c : Nat) (x : CtxSteps) : (setSteps d c x).cox.serial = d.cox.serial := rfl
@[simp] theorem setSteps_cox_slotInfo (d : Dev) (c : Nat) (x : CtxSteps) : (setSteps d c x).cox.slotInfo = d.cox.slotInfo := rfl
@[simp] theorem getTile_setSteps (d : Dev) (c : Nat) (x : CtxSteps) (i : Nat) : getTile (setSteps d c x) i = getTile d i := rfl
@[simp] theorem getCtx_setSteps (d : Dev) (c : Nat) (x : CtxSteps) (i : Nat) : getCtx (setSteps d c x) i = getCtx d i := rfl
@[simp] theorem getPart_setSteps (d : Dev) (c : Nat) (x : CtxSteps) (i : Nat) : getPart (setSteps d c x) i = getPart d i := rfl
@[simp] theorem getSlot_setSteps (d : Dev) (c : Nat) (x : CtxSteps) (i : Nat) : getSlot (setSteps d c x) i = getSlot d i := rfl
@[simp] theorem getModel_setSteps (d : Dev) (c : Nat) (x : CtxSteps) (i : Nat) : getModel (setSteps d c x) i = getModel d i := rfl
@[simp] theorem getNode_setSteps (d : Dev) (c : Nat) (x : CtxSteps) (i : Nat) : getNode (setSteps d c x) i = getNode d i := rfl
@[simp] theorem getFlow_setSteps (d : Dev) (c : Nat) (x : CtxSteps) (i : Nat) : getFlow (setSteps d c x) i = getFlow d i := rfl
@[simp] theorem getPort_setSteps (d : Dev) (c : Nat) (x : CtxSteps) (i : Nat) : getPort (setSteps d c x) i = getPort d i := rfl
@[simp] theorem getFn_setSteps (d : Dev) (c : Nat) (x : CtxSteps) (i : Nat) : getFn (setSteps d c x) i = getFn d i := rfl
@[simp] theorem getBuf_setSteps (d : Dev) (c : Nat) (x : CtxSteps) (i j : Nat) : getBuf (setSteps d c x) i j = getBuf d i j := rfl
@[simp] theorem getRing_setSteps (d : Dev) (c : Nat) (x : CtxSteps) (i : Nat) : getRing (setSteps d c x) i = getRing d i := rfl
@[simp] theorem getEngine_setSteps (d : Dev) (c : Nat) (x : CtxSteps) (i : Nat) : getEngine (setSteps d c x) i = getEngine d i := rfl
@[simp] theorem reg_setSteps (d : Dev) (c : Nat) (x : CtxSteps) (i : Nat) : reg (setSteps d c x) i = reg d i := rfl
@[simp] theorem getSteps_setSteps (d : Dev) (c i : Nat) (x : CtxSteps) : getSteps (setSteps d c x) i = if i = c then x else getSteps d i := by
  simp [getSteps, setSteps, tget_tset]

/-! ## `setModel` -/

@[simp] theorem setModel_now (d : Dev) (m : Nat) (x : Model) : (setModel d m x).now = d.now := rfl
@[simp] theorem setModel_fresh (d : Dev) (m : Nat) (x : Model) : (setModel d m x).fresh = d.fresh := rfl
@[simp] theorem setModel_regs (d : Dev) (m : Nat) (x : Model) : (setModel d m x).regs = d.regs := rfl
@[simp] theorem setModel_vfRegs (d : Dev) (m : Nat) (x : Model) : (setModel d m x).vfRegs = d.vfRegs := rfl
@[simp] theorem setModel_host (d : Dev) (m : Nat) (x : Model) : (setModel d m x).host = d.host := rfl
@[simp] theorem setModel_hif (d : Dev) (m : Nat) (x : Model) : (setModel d m x).hif = d.hif := rfl
@[simp] theorem setModel_tiles (d : Dev) (m : Nat) (x : Model) : (setModel d m x).tiles = d.tiles := rfl
@[simp] theorem setModel_xfers (d : Dev) (m : Nat) (x : Model) : (setModel d m x).xfers = d.xfers := rfl
@[simp] theorem setModel_nextX (d : Dev) (m : Nat) (x : Model) : (setModel d m x).nextX = d.nextX := rfl
@[simp] theorem setModel_engines (d : Dev) (m : Nat) (x : Model) : (setModel d m x).engines = d.engines := rfl
@[simp] theorem setModel_bufs (d : Dev) (m : Nat) (x : Model) : (setModel d m x).bufs = d.bufs := rfl
@[simp] theorem setModel_pier (d : Dev) (m : Nat) (x : Model) : (setModel d m x).pier = d.pier := rfl
@[simp] theorem setModel_key (d : Dev) (m : Nat) (x : Model) : (setModel d m x).key = d.key := rfl
@[simp] theorem setModel_cat (d : Dev) (m : Nat) (x : Model) : (setModel d m x).cat = d.cat := rfl
@[simp] theorem setModel_cwy (d : Dev) (m : Nat) (x : Model) : (setModel d m x).cwy = d.cwy := rfl
@[simp] theorem setModel_ports (d : Dev) (m : Nat) (x : Model) : (setModel d m x).ports = d.ports := rfl
@[simp] theorem setModel_xlt (d : Dev) (m : Nat) (x : Model) : (setModel d m x).xlt = d.xlt := rfl
@[simp] theorem setModel_flt (d : Dev) (m : Nat) (x : Model) : (setModel d m x).flt = d.flt := rfl
@[simp] theorem setModel_pmg (d : Dev) (m : Nat) (x : Model) : (setModel d m x).pmg = d.pmg := rfl
@[simp] theorem setModel_boot (d : Dev) (m : Nat) (x : Model) : (setModel d m x).boot = d.boot := rfl
@[simp] theorem setModel_tru (d : Dev) (m : Nat) (x : Model) : (setModel d m x).tru = d.tru := rfl
@[simp] theorem setModel_toll (d : Dev) (m : Nat) (x : Model) : (setModel d m x).toll = d.toll := rfl
@[simp] theorem setModel_clk (d : Dev) (m : Nat) (x : Model) : (setModel d m x).clk = d.clk := rfl
@[simp] theorem setModel_cox_slots (d : Dev) (m : Nat) (x : Model) : (setModel d m x).cox.slots = d.cox.slots := rfl
@[simp] theorem setModel_cox_vmods (d : Dev) (m : Nat) (x : Model) : (setModel d m x).cox.vmods = d.cox.vmods := rfl
@[simp] theorem setModel_cox_steps (d : Dev) (m : Nat) (x : Model) : (setModel d m x).cox.steps = d.cox.steps := rfl
@[simp] theorem setModel_cox_fences (d : Dev) (m : Nat) (x : Model) : (setModel d m x).cox.fences = d.cox.fences := rfl
@[simp] theorem setModel_cox_readyCtr (d : Dev) (m : Nat) (x : Model) : (setModel d m x).cox.readyCtr = d.cox.readyCtr := rfl
@[simp] theorem setModel_cox_serial (d : Dev) (m : Nat) (x : Model) : (setModel d m x).cox.serial = d.cox.serial := rfl
@[simp] theorem setModel_cox_slotInfo (d : Dev) (m : Nat) (x : Model) : (setModel d m x).cox.slotInfo = d.cox.slotInfo := rfl
@[simp] theorem getTile_setModel (d : Dev) (m : Nat) (x : Model) (i : Nat) : getTile (setModel d m x) i = getTile d i := rfl
@[simp] theorem getCtx_setModel (d : Dev) (m : Nat) (x : Model) (i : Nat) : getCtx (setModel d m x) i = getCtx d i := rfl
@[simp] theorem getPart_setModel (d : Dev) (m : Nat) (x : Model) (i : Nat) : getPart (setModel d m x) i = getPart d i := rfl
@[simp] theorem getSlot_setModel (d : Dev) (m : Nat) (x : Model) (i : Nat) : getSlot (setModel d m x) i = getSlot d i := rfl
@[simp] theorem getSteps_setModel (d : Dev) (m : Nat) (x : Model) (i : Nat) : getSteps (setModel d m x) i = getSteps d i := rfl
@[simp] theorem getNode_setModel (d : Dev) (m : Nat) (x : Model) (i : Nat) : getNode (setModel d m x) i = getNode d i := rfl
@[simp] theorem getFlow_setModel (d : Dev) (m : Nat) (x : Model) (i : Nat) : getFlow (setModel d m x) i = getFlow d i := rfl
@[simp] theorem getPort_setModel (d : Dev) (m : Nat) (x : Model) (i : Nat) : getPort (setModel d m x) i = getPort d i := rfl
@[simp] theorem getFn_setModel (d : Dev) (m : Nat) (x : Model) (i : Nat) : getFn (setModel d m x) i = getFn d i := rfl
@[simp] theorem getBuf_setModel (d : Dev) (m : Nat) (x : Model) (i j : Nat) : getBuf (setModel d m x) i j = getBuf d i j := rfl
@[simp] theorem getRing_setModel (d : Dev) (m : Nat) (x : Model) (i : Nat) : getRing (setModel d m x) i = getRing d i := rfl
@[simp] theorem getEngine_setModel (d : Dev) (m : Nat) (x : Model) (i : Nat) : getEngine (setModel d m x) i = getEngine d i := rfl
@[simp] theorem reg_setModel (d : Dev) (m : Nat) (x : Model) (i : Nat) : reg (setModel d m x) i = reg d i := rfl
@[simp] theorem getModel_setModel (d : Dev) (m i : Nat) (x : Model) : getModel (setModel d m x) i = if i = m then some x else getModel d i := by
  simp [getModel, setModel, tfind_tset]

/-! ## `setNode` -/

@[simp] theorem setNode_now (d : Dev) (n : Nat) (x : Node) : (setNode d n x).now = d.now := rfl
@[simp] theorem setNode_fresh (d : Dev) (n : Nat) (x : Node) : (setNode d n x).fresh = d.fresh := rfl
@[simp] theorem setNode_regs (d : Dev) (n : Nat) (x : Node) : (setNode d n x).regs = d.regs := rfl
@[simp] theorem setNode_vfRegs (d : Dev) (n : Nat) (x : Node) : (setNode d n x).vfRegs = d.vfRegs := rfl
@[simp] theorem setNode_host (d : Dev) (n : Nat) (x : Node) : (setNode d n x).host = d.host := rfl
@[simp] theorem setNode_hif (d : Dev) (n : Nat) (x : Node) : (setNode d n x).hif = d.hif := rfl
@[simp] theorem setNode_tiles (d : Dev) (n : Nat) (x : Node) : (setNode d n x).tiles = d.tiles := rfl
@[simp] theorem setNode_xfers (d : Dev) (n : Nat) (x : Node) : (setNode d n x).xfers = d.xfers := rfl
@[simp] theorem setNode_nextX (d : Dev) (n : Nat) (x : Node) : (setNode d n x).nextX = d.nextX := rfl
@[simp] theorem setNode_engines (d : Dev) (n : Nat) (x : Node) : (setNode d n x).engines = d.engines := rfl
@[simp] theorem setNode_bufs (d : Dev) (n : Nat) (x : Node) : (setNode d n x).bufs = d.bufs := rfl
@[simp] theorem setNode_pier (d : Dev) (n : Nat) (x : Node) : (setNode d n x).pier = d.pier := rfl
@[simp] theorem setNode_cat (d : Dev) (n : Nat) (x : Node) : (setNode d n x).cat = d.cat := rfl
@[simp] theorem setNode_cox (d : Dev) (n : Nat) (x : Node) : (setNode d n x).cox = d.cox := rfl
@[simp] theorem setNode_cwy (d : Dev) (n : Nat) (x : Node) : (setNode d n x).cwy = d.cwy := rfl
@[simp] theorem setNode_ports (d : Dev) (n : Nat) (x : Node) : (setNode d n x).ports = d.ports := rfl
@[simp] theorem setNode_xlt (d : Dev) (n : Nat) (x : Node) : (setNode d n x).xlt = d.xlt := rfl
@[simp] theorem setNode_flt (d : Dev) (n : Nat) (x : Node) : (setNode d n x).flt = d.flt := rfl
@[simp] theorem setNode_pmg (d : Dev) (n : Nat) (x : Node) : (setNode d n x).pmg = d.pmg := rfl
@[simp] theorem setNode_boot (d : Dev) (n : Nat) (x : Node) : (setNode d n x).boot = d.boot := rfl
@[simp] theorem setNode_tru (d : Dev) (n : Nat) (x : Node) : (setNode d n x).tru = d.tru := rfl
@[simp] theorem setNode_toll (d : Dev) (n : Nat) (x : Node) : (setNode d n x).toll = d.toll := rfl
@[simp] theorem setNode_clk (d : Dev) (n : Nat) (x : Node) : (setNode d n x).clk = d.clk := rfl
@[simp] theorem setNode_key_lru (d : Dev) (n : Nat) (x : Node) : (setNode d n x).key.lru = d.key.lru := rfl
@[simp] theorem setNode_key_ops (d : Dev) (n : Nat) (x : Node) : (setNode d n x).key.ops = d.key.ops := rfl
@[simp] theorem setNode_key_roots (d : Dev) (n : Nat) (x : Node) : (setNode d n x).key.roots = d.key.roots := rfl
@[simp] theorem setNode_key_flushBusy (d : Dev) (n : Nat) (x : Node) : (setNode d n x).key.flushBusy = d.key.flushBusy := rfl
@[simp] theorem setNode_key_parked (d : Dev) (n : Nat) (x : Node) : (setNode d n x).key.parked = d.key.parked := rfl
@[simp] theorem setNode_key_reports (d : Dev) (n : Nat) (x : Node) : (setNode d n x).key.reports = d.key.reports := rfl
@[simp] theorem setNode_key_segFrames (d : Dev) (n : Nat) (x : Node) : (setNode d n x).key.segFrames = d.key.segFrames := rfl
@[simp] theorem setNode_key_turn (d : Dev) (n : Nat) (x : Node) : (setNode d n x).key.turn = d.key.turn := rfl
@[simp] theorem getTile_setNode (d : Dev) (n : Nat) (x : Node) (i : Nat) : getTile (setNode d n x) i = getTile d i := rfl
@[simp] theorem getCtx_setNode (d : Dev) (n : Nat) (x : Node) (i : Nat) : getCtx (setNode d n x) i = getCtx d i := rfl
@[simp] theorem getPart_setNode (d : Dev) (n : Nat) (x : Node) (i : Nat) : getPart (setNode d n x) i = getPart d i := rfl
@[simp] theorem getSlot_setNode (d : Dev) (n : Nat) (x : Node) (i : Nat) : getSlot (setNode d n x) i = getSlot d i := rfl
@[simp] theorem getSteps_setNode (d : Dev) (n : Nat) (x : Node) (i : Nat) : getSteps (setNode d n x) i = getSteps d i := rfl
@[simp] theorem getModel_setNode (d : Dev) (n : Nat) (x : Node) (i : Nat) : getModel (setNode d n x) i = getModel d i := rfl
@[simp] theorem getFlow_setNode (d : Dev) (n : Nat) (x : Node) (i : Nat) : getFlow (setNode d n x) i = getFlow d i := rfl
@[simp] theorem getPort_setNode (d : Dev) (n : Nat) (x : Node) (i : Nat) : getPort (setNode d n x) i = getPort d i := rfl
@[simp] theorem getFn_setNode (d : Dev) (n : Nat) (x : Node) (i : Nat) : getFn (setNode d n x) i = getFn d i := rfl
@[simp] theorem getBuf_setNode (d : Dev) (n : Nat) (x : Node) (i j : Nat) : getBuf (setNode d n x) i j = getBuf d i j := rfl
@[simp] theorem getRing_setNode (d : Dev) (n : Nat) (x : Node) (i : Nat) : getRing (setNode d n x) i = getRing d i := rfl
@[simp] theorem getEngine_setNode (d : Dev) (n : Nat) (x : Node) (i : Nat) : getEngine (setNode d n x) i = getEngine d i := rfl
@[simp] theorem reg_setNode (d : Dev) (n : Nat) (x : Node) (i : Nat) : reg (setNode d n x) i = reg d i := rfl
@[simp] theorem getNode_setNode (d : Dev) (n i : Nat) (x : Node) : getNode (setNode d n x) i = if i = n then x else getNode d i := by
  simp [getNode, setNode, tget_tset]

/-! ## `setFlow` -/

@[simp] theorem setFlow_now (d : Dev) (f : Nat) (x : Flow) : (setFlow d f x).now = d.now := rfl
@[simp] theorem setFlow_fresh (d : Dev) (f : Nat) (x : Flow) : (setFlow d f x).fresh = d.fresh := rfl
@[simp] theorem setFlow_regs (d : Dev) (f : Nat) (x : Flow) : (setFlow d f x).regs = d.regs := rfl
@[simp] theorem setFlow_vfRegs (d : Dev) (f : Nat) (x : Flow) : (setFlow d f x).vfRegs = d.vfRegs := rfl
@[simp] theorem setFlow_host (d : Dev) (f : Nat) (x : Flow) : (setFlow d f x).host = d.host := rfl
@[simp] theorem setFlow_hif (d : Dev) (f : Nat) (x : Flow) : (setFlow d f x).hif = d.hif := rfl
@[simp] theorem setFlow_tiles (d : Dev) (f : Nat) (x : Flow) : (setFlow d f x).tiles = d.tiles := rfl
@[simp] theorem setFlow_xfers (d : Dev) (f : Nat) (x : Flow) : (setFlow d f x).xfers = d.xfers := rfl
@[simp] theorem setFlow_nextX (d : Dev) (f : Nat) (x : Flow) : (setFlow d f x).nextX = d.nextX := rfl
@[simp] theorem setFlow_engines (d : Dev) (f : Nat) (x : Flow) : (setFlow d f x).engines = d.engines := rfl
@[simp] theorem setFlow_bufs (d : Dev) (f : Nat) (x : Flow) : (setFlow d f x).bufs = d.bufs := rfl
@[simp] theorem setFlow_pier (d : Dev) (f : Nat) (x : Flow) : (setFlow d f x).pier = d.pier := rfl
@[simp] theorem setFlow_key (d : Dev) (f : Nat) (x : Flow) : (setFlow d f x).key = d.key := rfl
@[simp] theorem setFlow_cat (d : Dev) (f : Nat) (x : Flow) : (setFlow d f x).cat = d.cat := rfl
@[simp] theorem setFlow_cox (d : Dev) (f : Nat) (x : Flow) : (setFlow d f x).cox = d.cox := rfl
@[simp] theorem setFlow_ports (d : Dev) (f : Nat) (x : Flow) : (setFlow d f x).ports = d.ports := rfl
@[simp] theorem setFlow_xlt (d : Dev) (f : Nat) (x : Flow) : (setFlow d f x).xlt = d.xlt := rfl
@[simp] theorem setFlow_flt (d : Dev) (f : Nat) (x : Flow) : (setFlow d f x).flt = d.flt := rfl
@[simp] theorem setFlow_pmg (d : Dev) (f : Nat) (x : Flow) : (setFlow d f x).pmg = d.pmg := rfl
@[simp] theorem setFlow_boot (d : Dev) (f : Nat) (x : Flow) : (setFlow d f x).boot = d.boot := rfl
@[simp] theorem setFlow_tru (d : Dev) (f : Nat) (x : Flow) : (setFlow d f x).tru = d.tru := rfl
@[simp] theorem setFlow_toll (d : Dev) (f : Nat) (x : Flow) : (setFlow d f x).toll = d.toll := rfl
@[simp] theorem setFlow_clk (d : Dev) (f : Nat) (x : Flow) : (setFlow d f x).clk = d.clk := rfl
@[simp] theorem setFlow_cwy_xfers (d : Dev) (f : Nat) (x : Flow) : (setFlow d f x).cwy.xfers = d.cwy.xfers := rfl
@[simp] theorem setFlow_cwy_nextId (d : Dev) (f : Nat) (x : Flow) : (setFlow d f x).cwy.nextId = d.cwy.nextId := rfl
@[simp] theorem setFlow_cwy_lastStale (d : Dev) (f : Nat) (x : Flow) : (setFlow d f x).cwy.lastStale = d.cwy.lastStale := rfl
@[simp] theorem setFlow_cwy_acc (d : Dev) (f : Nat) (x : Flow) : (setFlow d f x).cwy.acc = d.cwy.acc := rfl
@[simp] theorem setFlow_cwy_served (d : Dev) (f : Nat) (x : Flow) : (setFlow d f x).cwy.served = d.cwy.served := rfl
@[simp] theorem getTile_setFlow (d : Dev) (f : Nat) (x : Flow) (i : Nat) : getTile (setFlow d f x) i = getTile d i := rfl
@[simp] theorem getCtx_setFlow (d : Dev) (f : Nat) (x : Flow) (i : Nat) : getCtx (setFlow d f x) i = getCtx d i := rfl
@[simp] theorem getPart_setFlow (d : Dev) (f : Nat) (x : Flow) (i : Nat) : getPart (setFlow d f x) i = getPart d i := rfl
@[simp] theorem getSlot_setFlow (d : Dev) (f : Nat) (x : Flow) (i : Nat) : getSlot (setFlow d f x) i = getSlot d i := rfl
@[simp] theorem getSteps_setFlow (d : Dev) (f : Nat) (x : Flow) (i : Nat) : getSteps (setFlow d f x) i = getSteps d i := rfl
@[simp] theorem getModel_setFlow (d : Dev) (f : Nat) (x : Flow) (i : Nat) : getModel (setFlow d f x) i = getModel d i := rfl
@[simp] theorem getNode_setFlow (d : Dev) (f : Nat) (x : Flow) (i : Nat) : getNode (setFlow d f x) i = getNode d i := rfl
@[simp] theorem getPort_setFlow (d : Dev) (f : Nat) (x : Flow) (i : Nat) : getPort (setFlow d f x) i = getPort d i := rfl
@[simp] theorem getFn_setFlow (d : Dev) (f : Nat) (x : Flow) (i : Nat) : getFn (setFlow d f x) i = getFn d i := rfl
@[simp] theorem getBuf_setFlow (d : Dev) (f : Nat) (x : Flow) (i j : Nat) : getBuf (setFlow d f x) i j = getBuf d i j := rfl
@[simp] theorem getRing_setFlow (d : Dev) (f : Nat) (x : Flow) (i : Nat) : getRing (setFlow d f x) i = getRing d i := rfl
@[simp] theorem getEngine_setFlow (d : Dev) (f : Nat) (x : Flow) (i : Nat) : getEngine (setFlow d f x) i = getEngine d i := rfl
@[simp] theorem reg_setFlow (d : Dev) (f : Nat) (x : Flow) (i : Nat) : reg (setFlow d f x) i = reg d i := rfl
@[simp] theorem getFlow_setFlow (d : Dev) (f i : Nat) (x : Flow) : getFlow (setFlow d f x) i = if i = f then x else getFlow d i := by
  simp [getFlow, setFlow, tget_tset]

/-! ## `setPort` -/

@[simp] theorem setPort_now (d : Dev) (l : Nat) (x : LPort) : (setPort d l x).now = d.now := rfl
@[simp] theorem setPort_fresh (d : Dev) (l : Nat) (x : LPort) : (setPort d l x).fresh = d.fresh := rfl
@[simp] theorem setPort_regs (d : Dev) (l : Nat) (x : LPort) : (setPort d l x).regs = d.regs := rfl
@[simp] theorem setPort_vfRegs (d : Dev) (l : Nat) (x : LPort) : (setPort d l x).vfRegs = d.vfRegs := rfl
@[simp] theorem setPort_host (d : Dev) (l : Nat) (x : LPort) : (setPort d l x).host = d.host := rfl
@[simp] theorem setPort_hif (d : Dev) (l : Nat) (x : LPort) : (setPort d l x).hif = d.hif := rfl
@[simp] theorem setPort_tiles (d : Dev) (l : Nat) (x : LPort) : (setPort d l x).tiles = d.tiles := rfl
@[simp] theorem setPort_xfers (d : Dev) (l : Nat) (x : LPort) : (setPort d l x).xfers = d.xfers := rfl
@[simp] theorem setPort_nextX (d : Dev) (l : Nat) (x : LPort) : (setPort d l x).nextX = d.nextX := rfl
@[simp] theorem setPort_engines (d : Dev) (l : Nat) (x : LPort) : (setPort d l x).engines = d.engines := rfl
@[simp] theorem setPort_bufs (d : Dev) (l : Nat) (x : LPort) : (setPort d l x).bufs = d.bufs := rfl
@[simp] theorem setPort_pier (d : Dev) (l : Nat) (x : LPort) : (setPort d l x).pier = d.pier := rfl
@[simp] theorem setPort_key (d : Dev) (l : Nat) (x : LPort) : (setPort d l x).key = d.key := rfl
@[simp] theorem setPort_cat (d : Dev) (l : Nat) (x : LPort) : (setPort d l x).cat = d.cat := rfl
@[simp] theorem setPort_cox (d : Dev) (l : Nat) (x : LPort) : (setPort d l x).cox = d.cox := rfl
@[simp] theorem setPort_cwy (d : Dev) (l : Nat) (x : LPort) : (setPort d l x).cwy = d.cwy := rfl
@[simp] theorem setPort_xlt (d : Dev) (l : Nat) (x : LPort) : (setPort d l x).xlt = d.xlt := rfl
@[simp] theorem setPort_flt (d : Dev) (l : Nat) (x : LPort) : (setPort d l x).flt = d.flt := rfl
@[simp] theorem setPort_pmg (d : Dev) (l : Nat) (x : LPort) : (setPort d l x).pmg = d.pmg := rfl
@[simp] theorem setPort_boot (d : Dev) (l : Nat) (x : LPort) : (setPort d l x).boot = d.boot := rfl
@[simp] theorem setPort_tru (d : Dev) (l : Nat) (x : LPort) : (setPort d l x).tru = d.tru := rfl
@[simp] theorem setPort_toll (d : Dev) (l : Nat) (x : LPort) : (setPort d l x).toll = d.toll := rfl
@[simp] theorem setPort_clk (d : Dev) (l : Nat) (x : LPort) : (setPort d l x).clk = d.clk := rfl
@[simp] theorem getTile_setPort (d : Dev) (l : Nat) (x : LPort) (i : Nat) : getTile (setPort d l x) i = getTile d i := rfl
@[simp] theorem getCtx_setPort (d : Dev) (l : Nat) (x : LPort) (i : Nat) : getCtx (setPort d l x) i = getCtx d i := rfl
@[simp] theorem getPart_setPort (d : Dev) (l : Nat) (x : LPort) (i : Nat) : getPart (setPort d l x) i = getPart d i := rfl
@[simp] theorem getSlot_setPort (d : Dev) (l : Nat) (x : LPort) (i : Nat) : getSlot (setPort d l x) i = getSlot d i := rfl
@[simp] theorem getSteps_setPort (d : Dev) (l : Nat) (x : LPort) (i : Nat) : getSteps (setPort d l x) i = getSteps d i := rfl
@[simp] theorem getModel_setPort (d : Dev) (l : Nat) (x : LPort) (i : Nat) : getModel (setPort d l x) i = getModel d i := rfl
@[simp] theorem getNode_setPort (d : Dev) (l : Nat) (x : LPort) (i : Nat) : getNode (setPort d l x) i = getNode d i := rfl
@[simp] theorem getFlow_setPort (d : Dev) (l : Nat) (x : LPort) (i : Nat) : getFlow (setPort d l x) i = getFlow d i := rfl
@[simp] theorem getFn_setPort (d : Dev) (l : Nat) (x : LPort) (i : Nat) : getFn (setPort d l x) i = getFn d i := rfl
@[simp] theorem getBuf_setPort (d : Dev) (l : Nat) (x : LPort) (i j : Nat) : getBuf (setPort d l x) i j = getBuf d i j := rfl
@[simp] theorem getRing_setPort (d : Dev) (l : Nat) (x : LPort) (i : Nat) : getRing (setPort d l x) i = getRing d i := rfl
@[simp] theorem getEngine_setPort (d : Dev) (l : Nat) (x : LPort) (i : Nat) : getEngine (setPort d l x) i = getEngine d i := rfl
@[simp] theorem reg_setPort (d : Dev) (l : Nat) (x : LPort) (i : Nat) : reg (setPort d l x) i = reg d i := rfl
@[simp] theorem getPort_setPort (d : Dev) (l i : Nat) (x : LPort) : getPort (setPort d l x) i = if i = l then x else getPort d i := by
  simp [getPort, setPort, tget_tset]

/-! ## `setFn` -/

@[simp] theorem setFn_now (d : Dev) (f : Nat) (x : Fn) : (setFn d f x).now = d.now := rfl
@[simp] theorem setFn_fresh (d : Dev) (f : Nat) (x : Fn) : (setFn d f x).fresh = d.fresh := rfl
@[simp] theorem setFn_regs (d : Dev) (f : Nat) (x : Fn) : (setFn d f x).regs = d.regs := rfl
@[simp] theorem setFn_vfRegs (d : Dev) (f : Nat) (x : Fn) : (setFn d f x).vfRegs = d.vfRegs := rfl
@[simp] theorem setFn_host (d : Dev) (f : Nat) (x : Fn) : (setFn d f x).host = d.host := rfl
@[simp] theorem setFn_tiles (d : Dev) (f : Nat) (x : Fn) : (setFn d f x).tiles = d.tiles := rfl
@[simp] theorem setFn_xfers (d : Dev) (f : Nat) (x : Fn) : (setFn d f x).xfers = d.xfers := rfl
@[simp] theorem setFn_nextX (d : Dev) (f : Nat) (x : Fn) : (setFn d f x).nextX = d.nextX := rfl
@[simp] theorem setFn_engines (d : Dev) (f : Nat) (x : Fn) : (setFn d f x).engines = d.engines := rfl
@[simp] theorem setFn_bufs (d : Dev) (f : Nat) (x : Fn) : (setFn d f x).bufs = d.bufs := rfl
@[simp] theorem setFn_pier (d : Dev) (f : Nat) (x : Fn) : (setFn d f x).pier = d.pier := rfl
@[simp] theorem setFn_key (d : Dev) (f : Nat) (x : Fn) : (setFn d f x).key = d.key := rfl
@[simp] theorem setFn_cat (d : Dev) (f : Nat) (x : Fn) : (setFn d f x).cat = d.cat := rfl
@[simp] theorem setFn_cox (d : Dev) (f : Nat) (x : Fn) : (setFn d f x).cox = d.cox := rfl
@[simp] theorem setFn_cwy (d : Dev) (f : Nat) (x : Fn) : (setFn d f x).cwy = d.cwy := rfl
@[simp] theorem setFn_ports (d : Dev) (f : Nat) (x : Fn) : (setFn d f x).ports = d.ports := rfl
@[simp] theorem setFn_xlt (d : Dev) (f : Nat) (x : Fn) : (setFn d f x).xlt = d.xlt := rfl
@[simp] theorem setFn_flt (d : Dev) (f : Nat) (x : Fn) : (setFn d f x).flt = d.flt := rfl
@[simp] theorem setFn_pmg (d : Dev) (f : Nat) (x : Fn) : (setFn d f x).pmg = d.pmg := rfl
@[simp] theorem setFn_boot (d : Dev) (f : Nat) (x : Fn) : (setFn d f x).boot = d.boot := rfl
@[simp] theorem setFn_tru (d : Dev) (f : Nat) (x : Fn) : (setFn d f x).tru = d.tru := rfl
@[simp] theorem setFn_toll (d : Dev) (f : Nat) (x : Fn) : (setFn d f x).toll = d.toll := rfl
@[simp] theorem setFn_clk (d : Dev) (f : Nat) (x : Fn) : (setFn d f x).clk = d.clk := rfl
@[simp] theorem setFn_hif_vfEnable (d : Dev) (f : Nat) (x : Fn) : (setFn d f x).hif.vfEnable = d.hif.vfEnable := rfl
@[simp] theorem setFn_hif_numVFs (d : Dev) (f : Nat) (x : Fn) : (setFn d f x).hif.numVFs = d.hif.numVFs := rfl
@[simp] theorem setFn_hif_ari (d : Dev) (f : Nat) (x : Fn) : (setFn d f x).hif.ari = d.hif.ari := rfl
@[simp] theorem setFn_hif_subVid (d : Dev) (f : Nat) (x : Fn) : (setFn d f x).hif.subVid = d.hif.subVid := rfl
@[simp] theorem setFn_hif_subId (d : Dev) (f : Nat) (x : Fn) : (setFn d f x).hif.subId = d.hif.subId := rfl
@[simp] theorem setFn_hif_rings (d : Dev) (f : Nat) (x : Fn) : (setFn d f x).hif.rings = d.hif.rings := rfl
@[simp] theorem setFn_hif_pend (d : Dev) (f : Nat) (x : Fn) : (setFn d f x).hif.pend = d.hif.pend := rfl
@[simp] theorem setFn_hif_out (d : Dev) (f : Nat) (x : Fn) : (setFn d f x).hif.out = d.hif.out := rfl
@[simp] theorem getTile_setFn (d : Dev) (f : Nat) (x : Fn) (i : Nat) : getTile (setFn d f x) i = getTile d i := rfl
@[simp] theorem getCtx_setFn (d : Dev) (f : Nat) (x : Fn) (i : Nat) : getCtx (setFn d f x) i = getCtx d i := rfl
@[simp] theorem getPart_setFn (d : Dev) (f : Nat) (x : Fn) (i : Nat) : getPart (setFn d f x) i = getPart d i := rfl
@[simp] theorem getSlot_setFn (d : Dev) (f : Nat) (x : Fn) (i : Nat) : getSlot (setFn d f x) i = getSlot d i := rfl
@[simp] theorem getSteps_setFn (d : Dev) (f : Nat) (x : Fn) (i : Nat) : getSteps (setFn d f x) i = getSteps d i := rfl
@[simp] theorem getModel_setFn (d : Dev) (f : Nat) (x : Fn) (i : Nat) : getModel (setFn d f x) i = getModel d i := rfl
@[simp] theorem getNode_setFn (d : Dev) (f : Nat) (x : Fn) (i : Nat) : getNode (setFn d f x) i = getNode d i := rfl
@[simp] theorem getFlow_setFn (d : Dev) (f : Nat) (x : Fn) (i : Nat) : getFlow (setFn d f x) i = getFlow d i := rfl
@[simp] theorem getPort_setFn (d : Dev) (f : Nat) (x : Fn) (i : Nat) : getPort (setFn d f x) i = getPort d i := rfl
@[simp] theorem getBuf_setFn (d : Dev) (f : Nat) (x : Fn) (i j : Nat) : getBuf (setFn d f x) i j = getBuf d i j := rfl
@[simp] theorem getRing_setFn (d : Dev) (f : Nat) (x : Fn) (i : Nat) : getRing (setFn d f x) i = getRing d i := rfl
@[simp] theorem getEngine_setFn (d : Dev) (f : Nat) (x : Fn) (i : Nat) : getEngine (setFn d f x) i = getEngine d i := rfl
@[simp] theorem reg_setFn (d : Dev) (f : Nat) (x : Fn) (i : Nat) : reg (setFn d f x) i = reg d i := rfl
@[simp] theorem getFn_setFn (d : Dev) (f i : Nat) (x : Fn) : getFn (setFn d f x) i = if i = f then x else getFn d i := by
  simp [getFn, setFn, tget_tset]

/-! ## `setBuf` -/

@[simp] theorem setBuf_now (d : Dev) (p b : Nat) (x : Buf) : (setBuf d p b x).now = d.now := rfl
@[simp] theorem setBuf_fresh (d : Dev) (p b : Nat) (x : Buf) : (setBuf d p b x).fresh = d.fresh := rfl
@[simp] theorem setBuf_regs (d : Dev) (p b : Nat) (x : Buf) : (setBuf d p b x).regs = d.regs := rfl
@[simp] theorem setBuf_vfRegs (d : Dev) (p b : Nat) (x : Buf) : (setBuf d p b x).vfRegs = d.vfRegs := rfl
@[simp] theorem setBuf_host (d : Dev) (p b : Nat) (x : Buf) : (setBuf d p b x).host = d.host := rfl
@[simp] theorem setBuf_hif (d : Dev) (p b : Nat) (x : Buf) : (setBuf d p b x).hif = d.hif := rfl
@[simp] theorem setBuf_tiles (d : Dev) (p b : Nat) (x : Buf) : (setBuf d p b x).tiles = d.tiles := rfl
@[simp] theorem setBuf_xfers (d : Dev) (p b : Nat) (x : Buf) : (setBuf d p b x).xfers = d.xfers := rfl
@[simp] theorem setBuf_nextX (d : Dev) (p b : Nat) (x : Buf) : (setBuf d p b x).nextX = d.nextX := rfl
@[simp] theorem setBuf_engines (d : Dev) (p b : Nat) (x : Buf) : (setBuf d p b x).engines = d.engines := rfl
@[simp] theorem setBuf_pier (d : Dev) (p b : Nat) (x : Buf) : (setBuf d p b x).pier = d.pier := rfl
@[simp] theorem setBuf_key (d : Dev) (p b : Nat) (x : Buf) : (setBuf d p b x).key = d.key := rfl
@[simp] theorem setBuf_cat (d : Dev) (p b : Nat) (x : Buf) : (setBuf d p b x).cat = d.cat := rfl
@[simp] theorem setBuf_cox (d : Dev) (p b : Nat) (x : Buf) : (setBuf d p b x).cox = d.cox := rfl
@[simp] theorem setBuf_cwy (d : Dev) (p b : Nat) (x : Buf) : (setBuf d p b x).cwy = d.cwy := rfl
@[simp] theorem setBuf_ports (d : Dev) (p b : Nat) (x : Buf) : (setBuf d p b x).ports = d.ports := rfl
@[simp] theorem setBuf_xlt (d : Dev) (p b : Nat) (x : Buf) : (setBuf d p b x).xlt = d.xlt := rfl
@[simp] theorem setBuf_flt (d : Dev) (p b : Nat) (x : Buf) : (setBuf d p b x).flt = d.flt := rfl
@[simp] theorem setBuf_pmg (d : Dev) (p b : Nat) (x : Buf) : (setBuf d p b x).pmg = d.pmg := rfl
@[simp] theorem setBuf_boot (d : Dev) (p b : Nat) (x : Buf) : (setBuf d p b x).boot = d.boot := rfl
@[simp] theorem setBuf_tru (d : Dev) (p b : Nat) (x : Buf) : (setBuf d p b x).tru = d.tru := rfl
@[simp] theorem setBuf_toll (d : Dev) (p b : Nat) (x : Buf) : (setBuf d p b x).toll = d.toll := rfl
@[simp] theorem setBuf_clk (d : Dev) (p b : Nat) (x : Buf) : (setBuf d p b x).clk = d.clk := rfl
@[simp] theorem getTile_setBuf (d : Dev) (p b : Nat) (x : Buf) (i : Nat) : getTile (setBuf d p b x) i = getTile d i := rfl
@[simp] theorem getCtx_setBuf (d : Dev) (p b : Nat) (x : Buf) (i : Nat) : getCtx (setBuf d p b x) i = getCtx d i := rfl
@[simp] theorem getPart_setBuf (d : Dev) (p b : Nat) (x : Buf) (i : Nat) : getPart (setBuf d p b x) i = getPart d i := rfl
@[simp] theorem getSlot_setBuf (d : Dev) (p b : Nat) (x : Buf) (i : Nat) : getSlot (setBuf d p b x) i = getSlot d i := rfl
@[simp] theorem getSteps_setBuf (d : Dev) (p b : Nat) (x : Buf) (i : Nat) : getSteps (setBuf d p b x) i = getSteps d i := rfl
@[simp] theorem getModel_setBuf (d : Dev) (p b : Nat) (x : Buf) (i : Nat) : getModel (setBuf d p b x) i = getModel d i := rfl
@[simp] theorem getNode_setBuf (d : Dev) (p b : Nat) (x : Buf) (i : Nat) : getNode (setBuf d p b x) i = getNode d i := rfl
@[simp] theorem getFlow_setBuf (d : Dev) (p b : Nat) (x : Buf) (i : Nat) : getFlow (setBuf d p b x) i = getFlow d i := rfl
@[simp] theorem getPort_setBuf (d : Dev) (p b : Nat) (x : Buf) (i : Nat) : getPort (setBuf d p b x) i = getPort d i := rfl
@[simp] theorem getFn_setBuf (d : Dev) (p b : Nat) (x : Buf) (i : Nat) : getFn (setBuf d p b x) i = getFn d i := rfl
@[simp] theorem getRing_setBuf (d : Dev) (p b : Nat) (x : Buf) (i : Nat) : getRing (setBuf d p b x) i = getRing d i := rfl
@[simp] theorem getEngine_setBuf (d : Dev) (p b : Nat) (x : Buf) (i : Nat) : getEngine (setBuf d p b x) i = getEngine d i := rfl
@[simp] theorem reg_setBuf (d : Dev) (p b : Nat) (x : Buf) (i : Nat) : reg (setBuf d p b x) i = reg d i := rfl

/-! ## `setRing` -/

@[simp] theorem setRing_now (d : Dev) (k : Nat) (x : Ring) : (setRing d k x).now = d.now := rfl
@[simp] theorem setRing_fresh (d : Dev) (k : Nat) (x : Ring) : (setRing d k x).fresh = d.fresh := rfl
@[simp] theorem setRing_regs (d : Dev) (k : Nat) (x : Ring) : (setRing d k x).regs = d.regs := rfl
@[simp] theorem setRing_vfRegs (d : Dev) (k : Nat) (x : Ring) : (setRing d k x).vfRegs = d.vfRegs := rfl
@[simp] theorem setRing_host (d : Dev) (k : Nat) (x : Ring) : (setRing d k x).host = d.host := rfl
@[simp] theorem setRing_tiles (d : Dev) (k : Nat) (x : Ring) : (setRing d k x).tiles = d.tiles := rfl
@[simp] theorem setRing_xfers (d : Dev) (k : Nat) (x : Ring) : (setRing d k x).xfers = d.xfers := rfl
@[simp] theorem setRing_nextX (d : Dev) (k : Nat) (x : Ring) : (setRing d k x).nextX = d.nextX := rfl
@[simp] theorem setRing_engines (d : Dev) (k : Nat) (x : Ring) : (setRing d k x).engines = d.engines := rfl
@[simp] theorem setRing_bufs (d : Dev) (k : Nat) (x : Ring) : (setRing d k x).bufs = d.bufs := rfl
@[simp] theorem setRing_pier (d : Dev) (k : Nat) (x : Ring) : (setRing d k x).pier = d.pier := rfl
@[simp] theorem setRing_key (d : Dev) (k : Nat) (x : Ring) : (setRing d k x).key = d.key := rfl
@[simp] theorem setRing_cat (d : Dev) (k : Nat) (x : Ring) : (setRing d k x).cat = d.cat := rfl
@[simp] theorem setRing_cox (d : Dev) (k : Nat) (x : Ring) : (setRing d k x).cox = d.cox := rfl
@[simp] theorem setRing_cwy (d : Dev) (k : Nat) (x : Ring) : (setRing d k x).cwy = d.cwy := rfl
@[simp] theorem setRing_ports (d : Dev) (k : Nat) (x : Ring) : (setRing d k x).ports = d.ports := rfl
@[simp] theorem setRing_xlt (d : Dev) (k : Nat) (x : Ring) : (setRing d k x).xlt = d.xlt := rfl
@[simp] theorem setRing_flt (d : Dev) (k : Nat) (x : Ring) : (setRing d k x).flt = d.flt := rfl
@[simp] theorem setRing_pmg (d : Dev) (k : Nat) (x : Ring) : (setRing d k x).pmg = d.pmg := rfl
@[simp] theorem setRing_boot (d : Dev) (k : Nat) (x : Ring) : (setRing d k x).boot = d.boot := rfl
@[simp] theorem setRing_tru (d : Dev) (k : Nat) (x : Ring) : (setRing d k x).tru = d.tru := rfl
@[simp] theorem setRing_toll (d : Dev) (k : Nat) (x : Ring) : (setRing d k x).toll = d.toll := rfl
@[simp] theorem setRing_clk (d : Dev) (k : Nat) (x : Ring) : (setRing d k x).clk = d.clk := rfl
@[simp] theorem setRing_hif_fns (d : Dev) (k : Nat) (x : Ring) : (setRing d k x).hif.fns = d.hif.fns := rfl
@[simp] theorem setRing_hif_vfEnable (d : Dev) (k : Nat) (x : Ring) : (setRing d k x).hif.vfEnable = d.hif.vfEnable := rfl
@[simp] theorem setRing_hif_numVFs (d : Dev) (k : Nat) (x : Ring) : (setRing d k x).hif.numVFs = d.hif.numVFs := rfl
@[simp] theorem setRing_hif_ari (d : Dev) (k : Nat) (x : Ring) : (setRing d k x).hif.ari = d.hif.ari := rfl
@[simp] theorem setRing_hif_subVid (d : Dev) (k : Nat) (x : Ring) : (setRing d k x).hif.subVid = d.hif.subVid := rfl
@[simp] theorem setRing_hif_subId (d : Dev) (k : Nat) (x : Ring) : (setRing d k x).hif.subId = d.hif.subId := rfl
@[simp] theorem setRing_hif_pend (d : Dev) (k : Nat) (x : Ring) : (setRing d k x).hif.pend = d.hif.pend := rfl
@[simp] theorem setRing_hif_out (d : Dev) (k : Nat) (x : Ring) : (setRing d k x).hif.out = d.hif.out := rfl
@[simp] theorem getTile_setRing (d : Dev) (k : Nat) (x : Ring) (i : Nat) : getTile (setRing d k x) i = getTile d i := rfl
@[simp] theorem getCtx_setRing (d : Dev) (k : Nat) (x : Ring) (i : Nat) : getCtx (setRing d k x) i = getCtx d i := rfl
@[simp] theorem getPart_setRing (d : Dev) (k : Nat) (x : Ring) (i : Nat) : getPart (setRing d k x) i = getPart d i := rfl
@[simp] theorem getSlot_setRing (d : Dev) (k : Nat) (x : Ring) (i : Nat) : getSlot (setRing d k x) i = getSlot d i := rfl
@[simp] theorem getSteps_setRing (d : Dev) (k : Nat) (x : Ring) (i : Nat) : getSteps (setRing d k x) i = getSteps d i := rfl
@[simp] theorem getModel_setRing (d : Dev) (k : Nat) (x : Ring) (i : Nat) : getModel (setRing d k x) i = getModel d i := rfl
@[simp] theorem getNode_setRing (d : Dev) (k : Nat) (x : Ring) (i : Nat) : getNode (setRing d k x) i = getNode d i := rfl
@[simp] theorem getFlow_setRing (d : Dev) (k : Nat) (x : Ring) (i : Nat) : getFlow (setRing d k x) i = getFlow d i := rfl
@[simp] theorem getPort_setRing (d : Dev) (k : Nat) (x : Ring) (i : Nat) : getPort (setRing d k x) i = getPort d i := rfl
@[simp] theorem getFn_setRing (d : Dev) (k : Nat) (x : Ring) (i : Nat) : getFn (setRing d k x) i = getFn d i := rfl
@[simp] theorem getBuf_setRing (d : Dev) (k : Nat) (x : Ring) (i j : Nat) : getBuf (setRing d k x) i j = getBuf d i j := rfl
@[simp] theorem getEngine_setRing (d : Dev) (k : Nat) (x : Ring) (i : Nat) : getEngine (setRing d k x) i = getEngine d i := rfl
@[simp] theorem reg_setRing (d : Dev) (k : Nat) (x : Ring) (i : Nat) : reg (setRing d k x) i = reg d i := rfl
@[simp] theorem getRing_setRing (d : Dev) (k i : Nat) (x : Ring) : getRing (setRing d k x) i = if i = k then x else getRing d i := by
  simp [getRing, setRing, tget_tset]

/-! ## `setReg` -/

@[simp] theorem setReg_now (d : Dev) (o : Nat) (v : Word64) : (setReg d o v).now = d.now := rfl
@[simp] theorem setReg_fresh (d : Dev) (o : Nat) (v : Word64) : (setReg d o v).fresh = d.fresh := rfl
@[simp] theorem setReg_vfRegs (d : Dev) (o : Nat) (v : Word64) : (setReg d o v).vfRegs = d.vfRegs := rfl
@[simp] theorem setReg_host (d : Dev) (o : Nat) (v : Word64) : (setReg d o v).host = d.host := rfl
@[simp] theorem setReg_hif (d : Dev) (o : Nat) (v : Word64) : (setReg d o v).hif = d.hif := rfl
@[simp] theorem setReg_tiles (d : Dev) (o : Nat) (v : Word64) : (setReg d o v).tiles = d.tiles := rfl
@[simp] theorem setReg_xfers (d : Dev) (o : Nat) (v : Word64) : (setReg d o v).xfers = d.xfers := rfl
@[simp] theorem setReg_nextX (d : Dev) (o : Nat) (v : Word64) : (setReg d o v).nextX = d.nextX := rfl
@[simp] theorem setReg_engines (d : Dev) (o : Nat) (v : Word64) : (setReg d o v).engines = d.engines := rfl
@[simp] theorem setReg_bufs (d : Dev) (o : Nat) (v : Word64) : (setReg d o v).bufs = d.bufs := rfl
@[simp] theorem setReg_pier (d : Dev) (o : Nat) (v : Word64) : (setReg d o v).pier = d.pier := rfl
@[simp] theorem setReg_key (d : Dev) (o : Nat) (v : Word64) : (setReg d o v).key = d.key := rfl
@[simp] theorem setReg_cat (d : Dev) (o : Nat) (v : Word64) : (setReg d o v).cat = d.cat := rfl
@[simp] theorem setReg_cox (d : Dev) (o : Nat) (v : Word64) : (setReg d o v).cox = d.cox := rfl
@[simp] theorem setReg_cwy (d : Dev) (o : Nat) (v : Word64) : (setReg d o v).cwy = d.cwy := rfl
@[simp] theorem setReg_ports (d : Dev) (o : Nat) (v : Word64) : (setReg d o v).ports = d.ports := rfl
@[simp] theorem setReg_xlt (d : Dev) (o : Nat) (v : Word64) : (setReg d o v).xlt = d.xlt := rfl
@[simp] theorem setReg_flt (d : Dev) (o : Nat) (v : Word64) : (setReg d o v).flt = d.flt := rfl
@[simp] theorem setReg_pmg (d : Dev) (o : Nat) (v : Word64) : (setReg d o v).pmg = d.pmg := rfl
@[simp] theorem setReg_boot (d : Dev) (o : Nat) (v : Word64) : (setReg d o v).boot = d.boot := rfl
@[simp] theorem setReg_tru (d : Dev) (o : Nat) (v : Word64) : (setReg d o v).tru = d.tru := rfl
@[simp] theorem setReg_toll (d : Dev) (o : Nat) (v : Word64) : (setReg d o v).toll = d.toll := rfl
@[simp] theorem setReg_clk (d : Dev) (o : Nat) (v : Word64) : (setReg d o v).clk = d.clk := rfl
@[simp] theorem getTile_setReg (d : Dev) (o : Nat) (v : Word64) (i : Nat) : getTile (setReg d o v) i = getTile d i := rfl
@[simp] theorem getCtx_setReg (d : Dev) (o : Nat) (v : Word64) (i : Nat) : getCtx (setReg d o v) i = getCtx d i := rfl
@[simp] theorem getPart_setReg (d : Dev) (o : Nat) (v : Word64) (i : Nat) : getPart (setReg d o v) i = getPart d i := rfl
@[simp] theorem getSlot_setReg (d : Dev) (o : Nat) (v : Word64) (i : Nat) : getSlot (setReg d o v) i = getSlot d i := rfl
@[simp] theorem getSteps_setReg (d : Dev) (o : Nat) (v : Word64) (i : Nat) : getSteps (setReg d o v) i = getSteps d i := rfl
@[simp] theorem getModel_setReg (d : Dev) (o : Nat) (v : Word64) (i : Nat) : getModel (setReg d o v) i = getModel d i := rfl
@[simp] theorem getNode_setReg (d : Dev) (o : Nat) (v : Word64) (i : Nat) : getNode (setReg d o v) i = getNode d i := rfl
@[simp] theorem getFlow_setReg (d : Dev) (o : Nat) (v : Word64) (i : Nat) : getFlow (setReg d o v) i = getFlow d i := rfl
@[simp] theorem getPort_setReg (d : Dev) (o : Nat) (v : Word64) (i : Nat) : getPort (setReg d o v) i = getPort d i := rfl
@[simp] theorem getFn_setReg (d : Dev) (o : Nat) (v : Word64) (i : Nat) : getFn (setReg d o v) i = getFn d i := rfl
@[simp] theorem getBuf_setReg (d : Dev) (o : Nat) (v : Word64) (i j : Nat) : getBuf (setReg d o v) i j = getBuf d i j := rfl
@[simp] theorem getRing_setReg (d : Dev) (o : Nat) (v : Word64) (i : Nat) : getRing (setReg d o v) i = getRing d i := rfl
@[simp] theorem getEngine_setReg (d : Dev) (o : Nat) (v : Word64) (i : Nat) : getEngine (setReg d o v) i = getEngine d i := rfl
@[simp] theorem reg_setReg (d : Dev) (o i : Nat) (v : Word64) : reg (setReg d o v) i = if i = o then v else reg d i := by
  simp [reg, setReg, tget_tset]

@[simp] theorem getBuf_setBuf (d : Dev) (p b q c : Nat) (x : Buf) :
    getBuf (setBuf d p b x) q c = if q * 65536 + c = p * 65536 + b then x else getBuf d q c := by
  simp [getBuf, setBuf, tget_tset]

end Sys2Proof.Machine
end

