-- ==== Sys2Proof/Laws/Ops.lean ====
section
/-! SUPPORT. What each shared operation can do, said once: a command's answer, one issue of a sequencer, and the writes to
memory behind translation. -/

namespace Sys2Proof.Machine

open Sys2Proof

/-! ## Answers -/

@[simp] theorem onDev_eq (s : State) (f : Dev → Dev) : onDev s f = .next { s with dev := f s.dev } := rfl

theorem onObj_lt (i n : Nat) (s : State) (f : Dev → Dev) (h : i < n) : onObj i n s f = .next { s with dev := f s.dev } := by
  simp [onObj, h]

theorem onObj_ge (i n : Nat) (s : State) (f : Dev → Dev) (h : n ≤ i) : onObj i n s f = .fault .noSuchObject := by
  simp [onObj, Nat.not_lt.mpr h]

/-! ## One issue of a sequencer -/

theorem atInstr_issuing {d : Dev} {f : Fetch} {op : Nat} {pre : Option Nat} {r : Tile × Task × Word64 × Word64}
    (h : atInstr d f op pre = some r) :
    ∃ k n, issuing (getTile d f.tile.toNat) = some k ∧
      nextInstr (applyEcc (getTile d f.tile.toNat) f.ecc) k op pre = .ok (some (r.2.2.1, r.2.2.2, n)) ∧
      r.1 = applyEcc (getTile d f.tile.toNat) f.ecc ∧ r.2.1 = { k with pc := BitVec.ofNat 32 n } := by
  unfold atInstr at h
  split at h
  · cases h
  · rename_i k hk
    split at h
    · rename_i w p n hn
      cases h
      exact ⟨k, n, hk, hn, rfl, rfl⟩
    · cases h

/-- An instruction that completes. -/
theorem seqStep_ok {d d2 : Dev} {f : Fetch} {op : Nat} {pre : Option Nat} {x : Tile} {k : Task} {w p : Word64}
    {act : Dev → Nat → Tile → Task → Word64 → Word64 → Eff Dev}
    (h : atInstr d f op pre = some (x, k, w, p)) (ha : act (setTile d f.tile.toNat x) f.tile.toNat x k w p = .ok d2) :
    seqStep f op pre act d = d2 := by
  obtain ⟨k0, n, hk, hn, hx, hk'⟩ := atInstr_issuing h
  simp only at hx hk' hn
  subst hx hk'
  simp [seqStep, hk, hn, ha]

/-- An instruction that is held changes nothing. -/
theorem seqStep_wait {d : Dev} {f : Fetch} {op : Nat} {pre : Option Nat} {x : Tile} {k : Task} {w p : Word64}
    {act : Dev → Nat → Tile → Task → Word64 → Word64 → Eff Dev}
    (h : atInstr d f op pre = some (x, k, w, p)) (ha : act (setTile d f.tile.toNat x) f.tile.toNat x k w p = .error .wait) :
    seqStep f op pre act d = d := by
  obtain ⟨k0, n, hk, hn, hx, hk'⟩ := atInstr_issuing h
  simp only at hx hk' hn
  subst hx hk'
  simp [seqStep, hk, hn, ha]

/-- An instruction that faults tears its context down. -/
theorem seqStep_fault {d : Dev} {f : Fetch} {op : Nat} {pre : Option Nat} {x : Tile} {k : Task} {w p : Word64} {c i : Nat}
    {act : Dev → Nat → Tile → Task → Word64 → Word64 → Eff Dev}
    (h : atInstr d f op pre = some (x, k, w, p))
    (ha : act (setTile d f.tile.toNat x) f.tile.toNat x k w p = .error (.fault c i)) :
    ∃ k0, issuing (getTile d f.tile.toNat) = some k0 ∧
      seqStep f op pre act d = tileFault (setTile d f.tile.toNat x) f.tile.toNat k0 k0.pc c i := by
  obtain ⟨k0, n, hk, hn, hx, hk'⟩ := atInstr_issuing h
  simp only at hx hk' hn
  subst hx hk'
  exact ⟨k0, hk, by simp [seqStep, hk, hn, ha]⟩

/-- A table set twice at one key. -/
theorem tset_tset {α : Type} (t : Tbl α) (k : Nat) (u v : α) : tset (tset t k u) k v = tset t k v := by
  induction t with
  | nil => simp [tset]
  | cons p r ih =>
    obtain ⟨a, b⟩ := p
    by_cases h : a = k
    · simp [tset, h]
    · simp [tset, h, ih]

@[simp] theorem setTile_setTile (d : Dev) (t : Nat) (x y : Tile) : setTile (setTile d t x) t y = setTile d t y := by
  simp [setTile, tset_tset]

/-- An instruction of one tile that completes changes that tile only. -/
theorem seqTile_ok {d : Dev} {f : Fetch} {op : Nat} {pre : Option Nat} {x : Tile} {k : Task} {w p : Word64} {r : Tile × Task}
    {act : Tile → Task → Word64 → Word64 → Eff (Tile × Task)}
    (h : atInstr d f op pre = some (x, k, w, p)) (ha : act x k w p = .ok r) :
    seqTile f op pre act d = setTile d f.tile.toNat { r.1 with run := some r.2 } := by
  unfold seqTile
  rw [seqStep_ok h (d2 := setTile d f.tile.toNat { r.1 with run := some r.2 })]
  simp [ha]

/-- A held instruction of one tile changes nothing. -/
theorem seqTile_wait {d : Dev} {f : Fetch} {op : Nat} {pre : Option Nat} {x : Tile} {k : Task} {w p : Word64}
    {act : Tile → Task → Word64 → Word64 → Eff (Tile × Task)}
    (h : atInstr d f op pre = some (x, k, w, p)) (ha : act x k w p = .error .wait) :
    seqTile f op pre act d = d := by
  unfold seqTile
  exact seqStep_wait h (by simp [ha])

/-- An instruction on its task's registers always completes. -/
theorem seqTask_ok {d : Dev} {f : Fetch} {op : Nat} {x : Tile} {k : Task} {w p : Word64} {act : Task → Word64 → Task}
    (h : atInstr d f op none = some (x, k, w, p)) :
    seqTask f op act d = setTile d f.tile.toNat { x with run := some (act k w) } := by
  unfold seqTask
  rw [seqTile_ok h rfl]

/-! ## Registers of a task -/

@[simp] theorem getR_setR (k : Task) (n i : Nat) (v : Word64) : getR (setR k n v) i = if i = n then v else getR k i := by
  simp [getR, setR, tget_tset]

@[simp] theorem setR_pc (k : Task) (n : Nat) (v : Word64) : (setR k n v).pc = k.pc := rfl

theorem setR_frame (k : Task) (n : Nat) (v : Word64) : { setR k n v with r := k.r } = k := rfl

/-! ## Memories of tiles -/

/-- A write into a tile's window reads back, and every other byte stays. -/
theorem memGet_tilePut (x : Tile) (off i : Nat) (bs : List Byte) (h : Memory.wf x.mem = true) :
    memGet (tilePut x off bs).mem i = if off ≤ i ∧ i < off + bs.length then bs.getD (i - off) 0 else memGet x.mem i := by
  simp [tilePut, memGet_memPuts _ _ _ _ h]

theorem tilePut_wf (x : Tile) (off : Nat) (bs : List Byte) (h : Memory.wf x.mem = true) : Memory.wf (tilePut x off bs).mem = true :=
  memPuts_wf x.mem off bs h

/-- In a safe state every tile's memory is in canonical form. -/
theorem safe_tile {s : State} (h : s.safe = true) (t : Nat) : Memory.wf (getTile s.dev t).mem = true := by
  simp only [State.safe, Bool.and_eq_true, List.all_eq_true] at h
  rcases tget_mem s.dev.tiles t Tile.init with e | e
  · simp only [getTile, e]; rfl
  · exact h.2 _ e

/-- An ECC report changes no byte of a tile. -/
theorem atInstr_mem {d : Dev} {f : Fetch} {op : Nat} {pre : Option Nat} {x : Tile} {k : Task}
    {w p : Word64} (h : atInstr d f op pre = some (x, k, w, p)) :
    x.mem = (getTile d f.tile.toNat).mem := by
  obtain ⟨_, _, _, _, hx, _⟩ := atInstr_issuing h
  simp only at hx
  subst hx
  cases f.ecc <;> rfl

/-- What a write into a tile's window does. -/
theorem stored (x : Tile) (off : Nat) (bs : List Byte) (h : Memory.wf x.mem = true) : tileStored x (tilePut x off bs) off bs := by
  refine ⟨memGets_memPuts _ _ _ h, fun i hi => ?_, rfl⟩
  rw [memGet_tilePut _ _ _ _ h, if_neg (by omega)]

end Sys2Proof.Machine
end

