-- ==== Sys2Proof/Machine/Readout.lean ====
section
/-! DEFINITION. What a host read of a register returns (R13 to R17, R152, R314, R315, R342 to R345, R407 to R410, R417, R428, R437,
R461 to R468, R474 to R479, R501, R526, R527, R548, R563, R564). A read changes nothing, so no command is a read. -/

namespace Sys2Proof.Machine

open Sys2Proof

/-- A value made of fields: value and lowest bit. -/
def fieldsOf (l : List (Nat × Nat)) : Word64 := BitVec.ofNat 64 ((l.map (fun p => p.1 * 2 ^ p.2)).sum)

/-! ## Global, structure and trust (R437, R477, R526, R527, R563, R564) -/

/-- GLB_FATAL, GLB_TIME, GLB_CLOCK and GLB_RESET_CAUSE. -/
def readGlb (d : Dev) (off : Nat) : Word64 :=
  if off = 0x100 then fieldsOf [(b2n d.flt.fatal, 0), (d.flt.cause.toNat, 8), (d.flt.stack.toNat, 16)]
  else if off = 0x200 then d.now
  else if off = 0x300 then
    fieldsOf [(reachStep d 0, 0), (reachStep d 1, 8), (reachStep d 2, 16), (reachStep d 3, 24), (d.clk.capForce.toNat, 32), (b2n d.clk.delay, 35)]
  else if off = 0x308 then fieldsOf [(d.boot.cause.toNat, 0)]
  else 0

/-- The STR block: stored addresses and lengths, STR_CTRL, STR_BOOT, STR_PI_STATUS. -/
def readStr (d : Dev) (off : Nat) : Word64 :=
  if off = 0x0100000 then fieldsOf [(b2n d.boot.quiesce, 2)]
  else if off = 0x0100028 then
    fieldsOf [(d.boot.stage.toNat, 0), (d.boot.error.toNat, 4), (b2n d.boot.lock, 12), (b2n (quiesced d), 13)]
  else if off = 0x0100048 then
    fieldsOf [(b2n d.boot.piBusy, 0), (d.boot.piPart.toNat, 1), (d.boot.piResult.toNat, 8), (d.boot.piCount.toNat, 16)]
  else reg d off

/-- The TRU block: TRU_LIFECYCLE, the mailbox, measurements. -/
def readTru (d : Dev) (off : Nat) : Word64 :=
  if off = 0x0F00000 then
    fieldsOf [(fld (incValue d 5) 0 3, 0), ((otpActive d 5).getD 0, 3), (debugHistory d, 5), (b2n (otpActive d 1).isSome, 8),
      ((otpActive d 1).getD 0, 9), (svn d, 11), (b2n (d.tru.jtagOpen || d.tru.dbgOpen), 18), (b2n d.tru.keysErased, 19)]
  else if off = 0x0F00018 then fieldsOf [(d.tru.result.toNat, 8), (d.tru.respLen.toNat, 16)]
  else if 0x0F00100 ≤ off ∧ off < 0x0F00100 + 64 * 20 then
    BitVec.ofNat 64 (fld (tget d.tru.m ((off - 0x0F00100) / 64) 0) ((off - 0x0F00100) % 64 * 8) 64)
  else reg d off

/-! ## Rings, MSI-X, mailbox views (R479, R485, R548) -/

/-- A ring's register at offset `r`. -/
def readRing (x : Ring) (r : Nat) : Word64 :=
  if r = 0 then x.ba.setWidth 64
  else if r = 8 then
    (let l := fld x.cfg 0 5
     (x.cfg &&& ~~~0x1F) ||| BitVec.ofNat 64 (if 4 ≤ l ∧ l ≤ 16 then l else 4))
  else if r = 0x10 then x.prod.setWidth 64
  else if r = 0x18 then x.cons.setWidth 64
  else if r = 0x20 then x.wb.setWidth 64
  else if r = 0x28 then fieldsOf [(b2n x.badIndex, 0), (b2n x.fault, 1), (b2n x.lost, 2)]
  else 0

/-- A context page. -/
def readPage0 (d : Dev) (fn off : Nat) : Word64 :=
  if off % 4096 < 0x100 then readRing (getRing d (ringKey fn (off / 4096) (off % 4096 / 0x40))) (off % 0x40) else 0

/-- Quadword `q` of a function's MSI-X PBA. -/
def readPba (d : Dev) (fn q : Nat) : Word64 :=
  fieldsOf (((d.hif.pend.filter (fun p => p.1 = fn && p.2 / 64 = q)).map (fun p => (1, p.2 % 64))))

/-- TOL_MBX_STATUS in a function's view. -/
def readTollStatus (d : Dev) (fn : Nat) : Word64 :=
  let m := getMbx d fn
  fieldsOf [(b2n m.busy, 0), (b2n d.toll.ready, 1), (b2n (d.toll.event && fn = 0), 2), (m.result.toNat, 8), (m.respLen.toNat, 16)]

/-- XLT_MAP_STATUS and PMG_CTX_STATUS of a function (R417, R466). -/
def readCommit (d : Dev) (fn : Nat) : Word64 :=
  let c := getCommit d fn
  fieldsOf [(b2n c.busy, 0), (c.result.toNat, 4), (c.done.toNat, 12)]
def readCtxStatus (d : Dev) (fn : Nat) : Word64 :=
  let c := tget d.pmg.status fn { result := 0, record := 0 }
  fieldsOf [(c.result.toNat, 8), (c.record.toNat, 16)]

/-! ## Partitions, ports, engines, tiles (R152, R405, R409, R428, R464, R465) -/

/-- PMG_PART_STATUS. -/
def readPartStatus (d : Dev) (p : Nat) : Word64 :=
  let x := getPart d p
  let c := match x.running with
    | some r => ctxNo d r.toNat
    | none => 0
  let phase := match x.phase with
    | .idle => 0
    | .running => 1
    | .switching => 2
    | .resetting => 3
  let left := if x.running.isSome && x.sliceOver.isNone && decide (d.now.toNat ≤ x.sliceEnd.toNat) then (x.sliceEnd.toNat - d.now.toNat) / 100 else 0
  fieldsOf [(c, 0), (b2n x.running.isSome, 7), (phase, 8), (left % 2 ^ 17, 10)]

/-- PMG_CSLOT. -/
def readCslot (d : Dev) (c : Nat) : Word64 :=
  let r := tfind d.pmg.cslots c
  reg d (0x0200800 + 8 * c) ||| fieldsOf [((r.getD 0).toNat, 33), (b2n r.isSome, 45)]

/-- PRT_LPORT_STATUS. -/
def readPort (d : Dev) (l : Nat) : Word64 :=
  let p := getPort d l
  let st := match p.st with
    | .disabled => 0
    | .an => 1
    | .training => 2
    | .aligning => 3
    | .up => 4
    | .failed => 5
  fieldsOf [(st, 0), (b2n p.lost, 3)]

/-- The MACsec block of a logical port; key material reads as zero (R402, R410). -/
def readMsec (d : Dev) (l r : Nat) : Word64 :=
  let p := getPort d l
  if r = 0 then p.ctrl
  else if 0x40 ≤ r ∧ r < 0x140 then
    let a := getSa p ((r - 0x40) / 64)
    if r % 64 = 0x30 then a.nextPn
    else if r % 64 = 0x38 then fieldsOf [(a.an.toNat, 0), (b2n a.valid, 2)]
    else 0
  else 0

/-- SLD_ENGINE. -/
def readEngine (d : Dev) (e : Nat) : Word64 :=
  let x := getEngine d e
  let st := match x.st with
    | .idle => 0
    | .active => 1
    | .squashing => 2
    | .draining => 3
  fieldsOf [(st, 0), (x.ctx.toNat, 2), (x.tile.toNat, 9), (x.ahead.toNat, 17)]

/-- The gate state register of a tile (R152). -/
def readGates (d : Dev) (t : Nat) : Word64 :=
  let x := getTile d t
  let code := fun (u : Nat) => match (gateOf x u).st with
    | .on => 0
    | .draining => 1
    | .off => 2
    | .waking => 3
  fieldsOf ((List.range 10).map (fun u => (code u, 2 * u)) ++ [(x.owner.toNat, 20), (b2n x.ownerValid, 27)])

/-! ## The BARs (R475, R476) -/

/-- The 64 bits at an 8 B-aligned offset of PF BAR0, all blocks decoded. -/
def readPf (d : Dev) (off : Nat) : Word64 :=
  if 0x1000 ≤ off ∧ off < 0x1040 then readRing (getRing d devRing) (off - 0x1000)
  else if 0x8000 ≤ off ∧ off < 0x10000 then msixWord d 0 (off - 0x8000)
  else if 0x10000 ≤ off ∧ off < 0x10100 then readPba d 0 ((off - 0x10000) / 8)
  else if off < 0x0100000 then readGlb d off
  else if off < 0x0200000 then readStr d off
  else if 0x0200600 ≤ off ∧ off < 0x0200680 then readPartStatus d ((off - 0x0200600) / 8)
  else if 0x0200800 ≤ off ∧ off < 0x0200C00 then readCslot d ((off - 0x0200800) / 8)
  else if off = 0x0201018 then readCtxStatus d 0
  else if off = 0x0201028 then tget d.pmg.info 0 0
  else if off = 0x0400108 then d.cox.slotInfo
  else if off = 0x0600108 then d.key.flushBusy.setWidth 64
  else if 0x0A00100 ≤ off ∧ off < 0x0A00200 then readEngine d ((off - 0x0A00100) / 8)
  else if off = 0x0B00018 then readCommit d 0
  else if 0x0C02000 ≤ off ∧ off < 0x0C02000 + 8 * 160 then readPort d ((off - 0x0C02000) / 8)
  else if 0x0C10000 ≤ off ∧ off < 0x0C10000 + 512 * 160 then readMsec d ((off - 0x0C10000) / 512) ((off - 0x0C10000) % 512)
  else if off = 0x0E00010 then readTollStatus d 0
  else if 0x0F00000 ≤ off ∧ off < 0x1000000 then readTru d off
  else if 0x2000000 ≤ off ∧ off < 0x3000000 then (if off % 0x10000 = 0x100 then readGates d ((off - 0x2000000) / 0x10000) else 0)
  else if 0x3000000 ≤ off ∧ off < 0x3080000 then readPage0 d 0 (off - 0x3000000)
  else if 0x3080000 ≤ off then 0
  else reg d off

/-- PIE registers that are decoded for reads before READY (R501). -/
def earlyPie (off : Nat) : Bool :=
  decide (off = 0x1000100) || (decide (0x1000200 ≤ off) && decide (off < 0x1000400)) || decide (off = 0x1000400)

/-- VF_INFO (R477). -/
def vfInfo (d : Dev) (fn : Nat) : Word64 :=
  fieldsOf [(fn, 0), ((bindOf d fn).part.toNat, 6), (b2n (vfBound d fn), 10), ((vfWin d fn).2, 11)]

/-- The 64 bits at an 8 B-aligned offset of a VF's BAR0; of an unbound VF only VF_INFO is shown (R474). -/
def readVf (d : Dev) (fn off : Nat) : Word64 :=
  if off = 0 then vfInfo d fn
  else if !vfBound d fn then 0
  else if off = 8 then d.now
  else if off = 0x1018 then readCommit d fn
  else if off = 0x2018 then readCtxStatus d fn
  else if off = 0x2028 then tget d.pmg.info fn 0
  else if off = 0x3010 then readTollStatus d fn
  else if 0x4000 ≤ off ∧ off < 0x4200 then msixWord d fn (off - 0x4000)
  else if off = 0x5000 then readPba d fn 0
  else if 0x80000 ≤ off then readPage0 d fn (off - 0x80000)
  else tget d.vfRegs (fn * 0x100000 + off) 0

/-- What a read of an 8 B-aligned offset returns, where BAR0 is decoded (R498, R501); none where the request is refused. -/
def readBar (d : Dev) (fn off : Nat) : Option Word64 :=
  if !barOpen d fn then none
  else if fn = 0 then some (if isReady d || decide (off < 0x0200000) || (decide (0x0F00000 ≤ off) && decide (off < 0x1000000)) || earlyPie off
    then readPf d off else 0)
  else some (if isReady d then readVf d fn off else 0)

/-- A host read of 4 B or 8 B: the addressed half of a register; zero when it is not aligned (R13, R14). -/
def hostRead (d : Dev) (fn off : Nat) (w : AccWidth) : Option Word64 :=
  match w with
  | .w64 => if off % 8 = 0 then readBar d fn off else (readBar d fn 0).map (fun _ => 0)
  | .w32 => if off % 4 = 0 then (readBar d fn (off / 8 * 8)).map (fun v => BitVec.ofNat 64 (fld v (8 * (off % 8)) 32))
    else (readBar d fn 0).map (fun _ => 0)

/-! ## Configuration space (R469, R472, R473) -/

/-- The configuration-space fields whose value the spec gives. -/
inductive CfgReg where
  | vendorId | deviceId | revisionId | classCode | subsystemVendor | subsystemId
  | busMaster | memorySpace | powerState | interruptPin
  | maxPayload | maxReadRequest | tagBits | completionTimeout | linkStatus
  | msixTableSize | msixEnable | msixMask
  | initialVFs | totalVFs | numVFs | vfOffset | vfStride | vfDeviceId | vfBar0 | vfBar0Size | vfEnable | ariHierarchy
deriving DecidableEq, Repr

/-- The capabilities of a function: PCI Express, power management, MSI-X, Advanced Error Reporting and ARI of every function,
SR-IOV of the PF; no other structure is present (R469). -/
inductive CfgCap where
  | pciExpress | powerManagement | msix | aer | ari | srIov
deriving DecidableEq, Repr

/-- The capability structures that a function has. -/
def capsOf (fn : Nat) : List CfgCap :=
  [.pciExpress, .powerManagement, .msix, .aer, .ari] ++ (if fn = 0 then [.srIov] else [])

/-- A field of the PF's SR-IOV capability (R473): VF BAR0 reads, in its attribute bits, 64-bit and non-prefetchable. -/
def readSriov (d : Dev) (r : CfgReg) : Option Nat :=
  match r with
  | .initialVFs => some 63
  | .totalVFs => some 63
  | .numVFs => some d.hif.numVFs.toNat
  | .vfOffset => some 1
  | .vfStride => some 1
  | .vfDeviceId => some 0x4801
  | .vfBar0 => some 4
  | .vfBar0Size => some 0x100000
  | .vfEnable => some (b2n d.hif.vfEnable)
  | .ariHierarchy => some (b2n d.hif.ari)
  | _ => none

/-- A field of function `fn`'s configuration space: a payload of 512 B and a read request of up to 4,096 B as their encodings 2 and
5, no interrupt pin, and no SR-IOV field of a VF (R469, R472, R473). -/
def readConfig (d : Dev) (fn : Nat) (r : CfgReg) : Option Nat :=
  if !fnPresent d fn then none
  else
    match r with
    | .vendorId => some 0x1EE9
    | .deviceId => some (if fn = 0 then 0x4800 else 0x4801)
    | .revisionId => some 0xB0
    | .classCode => some 0x120000
    | .subsystemVendor => some d.hif.subVid.toNat
    | .subsystemId => some d.hif.subId.toNat
    | .busMaster => some (b2n (getFn d fn).bme)
    | .memorySpace => some (b2n (getFn d fn).mse)
    | .powerState => some (if (getFn d fn).d3hot then 3 else 0)
    | .interruptPin => some 0
    | .maxPayload => some 2
    | .maxReadRequest => some 5
    | .tagBits => some 14
    | .completionTimeout => some (getFn d fn).ctoCode.toNat
    | .linkStatus => some Config.linkStatus.toNat
    | .msixTableSize => some (msixCount fn - 1)
    | .msixEnable => some (b2n (getFn d fn).msixEn)
    | .msixMask => some (b2n (getFn d fn).msixMask)
    | _ => if fn = 0 then readSriov d r else none

/-- The function that VF `n` is, by First VF Offset and VF Stride (R473). -/
def vfFunction (n : Nat) : Nat := 0 + 1 + (n - 1) * 1

end Sys2Proof.Machine
end

