-- ==== Sys2Proof/Tests/Slice0.lean ====
section
/-! SUPPORT. The model's own tests: the well-formedness checks, a witness for the hypotheses of each obligation, and results
worked out by hand from the spec. -/

namespace Sys2Proof.Tests

open Sys2Proof Sys2Proof.Machine

set_option Elab.async false

/-! ## Small states -/

/-- A quadword from a number. -/
def qw (n : Nat) : Word64 := BitVec.ofNat 64 n

/-- Work of task 5 of step 0 of the context in record 1, context number 3. -/
def work0 : Work where
  desc := { q0 := qw (5 + 3 * 2 ^ 24), q1 := 0, q2 := 0, q3 := 0, q4 := 0, q5 := 0, q6 := 0, q7 := 0 }
  ctx := 3
  cr := 1
  step := 0
  place := false
  taskBase := 0
  gridWord := 0
  excl := none
  split := none
  waits := .nothing
  chain := none
  sampling := false
  stolen := false
  withdrawn := false

/-- A task at PC 0, its CODE region at word 0 and its other regions from word 0x4000 on. -/
def task0 : Task where
  work := work0
  r := [(1, 0x40000), (2, 0x40100), (3, 0x40200), (4, 0x40300), (5, 0x40400), (6, 0x40500), (7, 0x40600)]
  v := []
  pc := 0
  flags := 0
  mm := { aStride := 0, asStride := 0, wStride := 0, wsStride := 0 }
  oc := { eStride := 0, sStride := 0, xStride := 0 }
  dmaTag := []
  trTag := []
  base := [(0, 0), (1, 0x4000), (2, 0x8000), (3, 0xC000)]
  bound := [(0, 0x1000), (1, 0x4000), (2, 0x4000), (3, 0x4000)]
  slotMap := [0, 1, 2, 3]
  lrt := 0
  queue := []
  held := none
  passes := []
  shape := none
  convs := []
  nextId := 1
  ending := false
  start := 0
  away := 0
  resumes := 0

/-- A tile that runs a task, with the words of a program from word 0 on. -/
def tileWith (k : Task) (prog : List Nat) : Tile :=
  { Tile.init with
    mem := memPuts [] 0 (prog.flatMap (fun w => toLe 8 w))
    owner := 3
    ownerValid := true
    run := some k }

/-- The RUNNING context in record 1. -/
def ctx1 : Ctx := { Ctx.init with st := .running, runnable := true, cslot := some 3 }

/-- A ready device: partition 0 with tiles 0, 1 and 2, the context in record 1 RUNNING there, the PF open to the host, pier
mapped at 0 and host memory at 0x8000000000. -/
def dev0 : Dev :=
  { Dev.init with
    regs := [(0x0200000, qw (1 + 1000 * 2 ^ 2 + 100 * 2 ^ 24 + 3 * 2 ^ 41 + 2 * 2 ^ 48)), (0x0200100, 7),
      (0x0200410, qw (1000 + 100 * 2 ^ 30)), (0x1000000, qw (0x800 + 0x1000 * 2 ^ 20 + 0x1800 * 2 ^ 40 + 2 ^ 63)), (0x0B01018, qw (0x1 + 4 * 2 ^ 20 + 2 ^ 32))]
    clk := { Clk.init with charged := true, pwrEn := true, railsUp := true, pwrGood := true, resetN := true, perstN := true }
    boot := { Boot.init with stage := 8, fwStarted := true }
    hif := { HostIf.init with fns := [(0, { bme := true, mse := true, msixEn := true, msixMask := false, ctoCode := 0, d3hot := false })] }
    pmg := { Dev.init.pmg with
      ctxs := [(1, ctx1)]
      parts := [(0, { Part.init with running := some 1, phase := .running, sliceEnd := 100000 })]
      cslots := [(3, 1)] }
    xlt := { maps := [(1, {
      leaves := [{ va := 0, large := true, target := 0x8000000, read := true, write := true },
        { va := 0x8000000000, large := true, target := 0, read := true, write := true }]
      tables := [] })], commits := [], tlbs := [], frozen := [] }
    toll := { Toll.init with ready := true } }

/-- The state of a device. -/
def st (d : Dev) : State := { pending := [], dev := d }

/-- The device with tile 0 running a program. -/
def devProg (k : Task) (prog : List Nat) : Dev := setTile dev0 0 (tileWith k prog)

/-- An issue of tile 0 without ECC reports. -/
def fx : Fetch := { tile := 0, ecc := .ok }

/-- An instruction word: opcode and the rest. -/
def iw (op rest : Nat) : Nat := op * 2 ^ 56 + rest

/-- Tile 0 issues the instruction of opcode `op` of a program, and what it issues satisfies `c`. -/
def issues (k : Task) (prog : List Nat) (op : Nat) (pre : Option Nat) (c : Tile → Task → Word64 → Word64 → Bool) : Bool :=
  match atInstr (devProg k prog) fx op pre with
  | some (x, k, w, p) => c x k w p
  | none => false

/-- Whether an effect gives a value that satisfies `c`. -/
def okAnd {α : Type} (e : Eff α) (c : α → Bool) : Bool :=
  match e with
  | .ok a => c a
  | .error _ => false

/-- Whether an answer is a next state that satisfies `c`. -/
def nextAnd (a : Answer) (c : State → Bool) : Bool :=
  match a with
  | .next s => c s
  | _ => false

/-- The task of tile 0 after a command satisfies `c`. -/
def runAnd (a : Answer) (c : Task → Bool) : Bool :=
  nextAnd a (fun s => match (getTile s.dev 0).run with
    | some k => c k
    | none => false)

/-! ## Well-formedness -/

/-- A frame with nothing in it. -/
def frame0 : Frame where
  dstMac := 0
  srcMac := 0
  vlan := none
  encap := 0
  etherType := 0
  udpPort := 0
  udpSrc := 0
  udpSum := 0
  srcIp := 0
  dstIp := 0
  dscp := 0
  ecn := 0
  ttl := 0
  ipId := 0
  ipDf := false
  flowLabel := 0
  size := 64
  fcsOk := true
  sec := none
  ver := 1
  type := 1
  flags := 0
  payLen := 0
  flow := 0
  seq := 0
  handle := 0
  offset := 0
  total := 0
  body := List.replicate 28 0
  payload := []
  crc := 0

/-- R147: a tile has ten gateable units. -/
theorem test_wf_unit : ((Instr.unitOff 0 10).wf, (Instr.unitOff 0 9).wf, (Instr.unitWakeDone 0 12).wf) = (false, true, false) := by
  decide
/-- R356: 20,480 flow records. -/
theorem test_wf_flow : ((Instr.chunkSend 20480 .ok).wf, (Instr.rtoExpiry 20479).wf) = (false, true) := by decide
/-- R391: logical ports 0 to 159. -/
theorem test_wf_lport : ((Instr.portAligned 160).wf, (Instr.portAligned 159).wf) = (false, true) := by decide
/-- R350: a header of 60 bytes and PAYLOAD_LEN bytes of payload. -/
theorem test_wf_frame : ((Instr.frameDiscard 0 { frame0 with body := [] }).wf, (Instr.frameDiscard 0 { frame0 with payLen := 1 }).wf,
    (Instr.frameDiscard 0 frame0).wf) = (false, false, true) := by decide
/-- R581: the EEPROM holds 256 bytes. -/
theorem test_wf_fru : ((Instr.romInit true (.data [1])).wf, (Instr.fruEepromRetry .busy).wf) = (false, true) := by decide
/-- A port command on a logical port that does not exist stops (R391). -/
theorem test_no_such_port : exec (.portAligned 160) State.reset = .fault .noSuchObject := rfl

/-! ## Witnesses: scalar, vector and deck instructions -/

theorem test_wit_scalar : ((List.range 4 ++ [5] ++ (List.range 10).map (· + 6) ++ [0x21, 0x52, 0x54, 0x55, 0x82, 0xF0]).all (fun op =>
    issues task0 [iw op 0] op none (fun _ _ _ _ => true))) = true := by decide +kernel

/-- Register fields: RD at 50, a deck operand of A1 at 45. -/
theorem test_wit_scalar_memory :
    (issues task0 [iw 0x10 (2 ^ 45)] 0x10 none (fun x k w _ => okAnd (deckOperand k (fld w 45 5) (offOf w) 1 false) (fun a => deckReadable x a 1))
      && issues task0 [iw 0x11 (2 ^ 45)] 0x11 none (fun x k w _ =>
        okAnd (deckOperand k (fld w 45 5) (offOf w) 2 false) (fun a => a % 2 = 0 && deckReadable x a 2))
      && issues task0 [iw 0x12 (2 ^ 45)] 0x12 none (fun x k w _ => okAnd (deckOperand k (fld w 45 5) (offOf w) 1 true) (fun a => deckWritable x a 1))
      && issues task0 [iw 0x13 (2 ^ 45)] 0x13 none (fun x k w _ =>
        okAnd (deckOperand k (fld w 45 5) (offOf w) 2 true) (fun a => a % 2 = 0 && deckWritable x a 2))
      && (st (devProg task0 [iw 0x12 (2 ^ 45)])).safe) = true := by decide +kernel

theorem test_wit_slot_access :
    (issues task0 [iw 0x14 (2 ^ 34)] 0x14 none (fun x k w _ => !passHeld k [fld w 54 2]
        && okAnd (deckOperand k (fld w 34 5) (offOf w) (128 * (fld w 39 7 + 1)) false) (fun a => deckReadable x a (128 * (fld w 39 7 + 1)))
        && winWritable x (elemOff k (fld w 54 2) (128 * fld w 46 7)) (512 * (fld w 39 7 + 1)))
      && issues task0 [iw 0x15 (2 ^ 34)] 0x15 none (fun x k w _ => !bitOf w 53
        && okAnd (deckOperand k (fld w 34 5) (offOf w) (128 * (fld w 39 7 + 1)) true) (fun a => deckWritable x a (128 * (fld w 39 7 + 1)))
        && winReadable x (elemOff k (fld w 54 2) (128 * fld w 46 7)) (512 * (fld w 39 7 + 1)))
      && issues task0 [iw 0x15 (2 ^ 53 + 2 ^ 34)] 0x15 none (fun x k w _ => bitOf w 53
        && okAnd (deckOperand k (fld w 34 5) (offOf w) ((fld w 50 3 + 1) * (fld w 39 11 + 1)) true)
          (fun a => deckWritable x a ((fld w 50 3 + 1) * (fld w 39 11 + 1)))
        && winReadable x (elemOff k (fld w 54 2) 0) (32 * (fld w 39 11 + 1)))
      && issues task0 [iw 0x16 (15 * 2 ^ 52)] 0x16 none (fun x k w _ =>
        (List.range 4).all (fun j => bitOf w (52 + j) && !passHeld k [j] && winWritable x (elemOff k j 0) 65536))) = true := by decide +kernel

theorem test_wit_waits :
    (issues task0 [iw 0x04 0] 0x04 none (fun _ _ w _ => fld w 0 27 = 0)
      && issues { task0 with dmaTag := [(3, 1)] } [iw 0x04 8] 0x04 none (fun _ k w _ => bitOf w 3 && tget k.dmaTag 3 0 ≠ 0)
      && issues task0 [iw 0x80 (2 ^ 51 + 16 * 2 ^ 37)] 0x80 none (fun x k w _ =>
        okAnd (deckOperand k (fld w 51 5) (offOf w) (fld w 37 14) false) (fun _ => x.sb.isEmpty))
      && issues task0 [iw 0x81 0] 0x81 none (fun x _ _ _ => x.sb.isEmpty)) = true := by decide +kernel

/-- The held side of SBWAIT and SBDRAIN: a WRITE entry over the operand's row. -/
theorem test_wit_sb_held :
    (match atInstr (setTile dev0 0 { tileWith task0 [iw 0x80 (2 ^ 51 + 16 * 2 ^ 37 + 2 ^ 36)] with
        sb := [{ first := 0x400, last := 0x400, write := true, owner := .xfer 1 }] }) fx 0x80 none with
    | some (x, k, w, _) => okAnd (deckOperand k (fld w 51 5) (offOf w) (fld w 37 14) false) (fun a =>
        x.sb.any (fun e => e.write && bitOf w 36 && sbOverlap e a (fld w 37 14)))
    | none => false) = true := by decide +kernel

theorem test_wit_vector : (([0x40, 0x41, 0x42, 0x43, 0x44, 0x45, 0x46, 0x47, 0x48, 0x49] : List Nat).all (fun op =>
    issues task0 [iw op 0] op none (fun _ k w _ => !vHeld k (fld w 53 3)))) = true := by decide +kernel

theorem test_wit_vector_moves :
    (issues task0 [iw 0x4C (2 ^ 45)] 0x4C none (fun x k w _ =>
        okAnd (deckOperand k (fld w 45 5) (offOf w) 64 false) (fun a => deckReadable x a 64) && !vHeld k (fld w 53 3))
      && issues task0 [iw 0x4E 0] 0x4E none (fun x k w _ => !passHeld k [fld w 51 2] && !vHeld k (fld w 53 3)
        && winReadable x (elemOff k (fld w 51 2) (halfRow w)) 256)
      && issues task0 [iw 0x4D (2 ^ 45)] 0x4D none (fun x k w _ =>
        okAnd (deckOperand k (fld w 45 5) (offOf w) 64 true) (fun a => deckWritable x a 64))
      && issues task0 [iw 0x4F 0] 0x4F none (fun x k w _ => !passHeld k [fld w 51 2]
        && winWritable x (elemOff k (fld w 51 2) (halfRow w)) 256)) = true := by decide +kernel

/-! ## Results: scalar and vector instructions -/

/-- R160: 2^64 - 1 + 1 wraps to 0; RD is RS1. -/
theorem test_add_wraps : runAnd (exec (.add fx) (st (devProg { task0 with r := [(1, 0xFFFFFFFFFFFFFFFF), (2, 1)] }
    [iw 0x08 (1 * 2 ^ 50 + 1 * 2 ^ 44 + 2 * 2 ^ 38)]))) (fun k => getR k 1 = 0 && getR k 2 = 1 && k.pc = 2) = true := by decide +kernel

/-! ## Witnesses: passes, conversions, transfers -/

/-- A MATMUL of M 1, K 32, N as given by the word, its address registers A4 to A7. -/
def mmWord : Nat := iw 0x20 (2 ^ 7)
/-- The queue entry that a word makes for a task. -/
def entryOf (kind : QKind) (k : Task) (w p : Word64) : QEntry :=
  { id := k.nextId, kind := kind, word := w, pre := p, aAddr := getR k (4 * qAb kind w), asAddr := getR k (4 * qAb kind w + 1)
    wAddr := getR k (4 * qAb kind w + 2), wsAddr := getR k (4 * qAb kind w + 3), mm := k.mm
    pc := k.pc - (if kind = .scull then 4 else 2), ranges := [], data := none }

theorem test_wit_queue :
    (issues task0 [mmWord] 0x20 none (fun _ k w p => k.queue.length < 2 && okAnd (opRanges k (entryOf .matmul k w p)) (fun _ => true)
        && !bitOf w 12)
      && issues task0 [iw 0x31 0, iw 0x30 (2 ^ 17)] 0x30 (some 0x31) (fun _ k w p => okAnd (opRanges k (entryOf .scull k w p)) (fun _ => true))
      && issues task0 [iw 0x32 (2 ^ 26)] 0x32 none (fun _ k w p => okAnd (opRanges k (entryOf .scorr k w p)) (fun _ => true))) = true := by
  decide +kernel

/-- Task 0 with one MATMUL in its queue. -/
def taskQ : Task := { task0 with queue := [entryOf .matmul task0 (qw mmWord) 0], nextId := 2 }
/-- Operands in activation buffer 0 and weight-front buffer 0. -/
def staged0 : Staged := { act := some 0, wt := 0 }
/-- Task 0 with its MATMUL staged. -/
def taskS : Task := { task0 with queue := [{ entryOf .matmul task0 (qw mmWord) 0 with data := some staged0 }], nextId := 2 }
/-- Task 0 with its MATMUL issued. -/
def taskP : Task := { task0 with passes := [{ q := { entryOf .matmul task0 (qw (mmWord + 2 ^ 13)) 0 with data := some staged0 }, data := staged0, vec := [] }] }

theorem test_wit_staging :
    (match unstaged taskQ with
      | some (_, q) => okAnd (opRanges taskQ q) (fun rs => stageReady (tileWith taskQ []) taskQ q rs && !qReuse q && fillsAct rs && wtBusy taskQ = [] && actBusy taskQ = [])
      | none => false) = true ∧
    ({ entryOf .matmul task0 (qw mmWord) 0 with ranges := [2] }.ranges.contains 2) = true := by decide +kernel

theorem test_wit_pass_issue :
    (match taskS.queue with
      | q :: _ => q.data.isSome && q.ranges.isEmpty && taskS.passes.isEmpty && taskS.convs.isEmpty
      | [] => false) = true := by decide +kernel

theorem test_wit_pass_results :
    (match taskP.passes with
      | p :: _ => passReady (tileWith taskP []) taskP p && (st (devProg taskP [])).safe
      | [] => false) = true := by decide +kernel

/-- CVT of one element to format 3 at A4, CVTS of the same: the prefix word first. -/
theorem test_wit_conversion_issue :
    (issues task0 [iw 0x56 0, iw 0x50 (2 ^ 6 + 3 * 2 ^ 27)] 0x50 (some 0x56) (fun x k w p =>
        !passHeld k (cvtSlots w) && smFmt (fld w 19 8) = 0 && fld w 16 2 = 0 && okAnd (cvtValues x k w p) (fun _ =>
        okAnd (mkRng k 0 (getR k (4 * fld w 6 3)) 0 (fld w 47 9 + 1) k.oc.eStride.toNat (rowBytes (fld w 27 4) (fld w 36 11 + 1) / 4) true)
          (fun e => okAnd (claimRanges x [e] k.nextId) (fun _ => true))))
      && issues task0 [iw 0x56 0, iw 0x51 (2 ^ 6)] 0x51 (some 0x56) (fun x k w p =>
        !passHeld k (cvtSlots w) && okAnd (cvtValues x k w p) (fun _ =>
        okAnd ((List.range (if bitOf w 4 then 2 else 3)).mapM (fun i => mkRng k i (getR k (4 * fld w 6 3 + i)) 0 (fld w 47 9 + 1)
          k.oc.eStride.toNat (alignUp (cdiv ((fld w 36 11 + 1) * (if bitOf w 4 then 8 else 16)) 8) 4 / 4) true))
          (fun rs => okAnd (claimRanges x rs k.nextId) (fun _ => true))))) = true := by decide +kernel

theorem test_wit_conversion_end :
    (let c : Conv := { id := 1, writes := [(0x10000, 7), (0x10001, 0)], flags := 1, slots := [0] }
     decide ((c.writes.map (fun b => b.1)).Nodup)
      && issues task0 [iw 0x53 (2 ^ 51)] 0x53 none (fun x k w _ =>
        okAnd (deckOperand k (fld w 51 5) (offOf w) 66 true) (fun a => deckWritable x a 66) && k.convs.isEmpty)) = true := by decide +kernel

/-- The geometry word of a test page: run 64, dimension 128, one head, format 5, scale modes of format 1 with blocks of 16. -/
def geoW : Nat := 6 + 1 * 2 ^ 4 + 5 * 2 ^ 12 + 1 * 2 ^ 16 + 1 * 2 ^ 24
/-- Task 0 with a page list base in A8, its geometry in A9 and zero positions. -/
def taskG : Task := { task0 with r := task0.r ++ [(8, 0x1000), (9, qw geoW)] }

theorem test_wit_slide_issue :
    (issues task0 [iw 0x60 (1 * 2 ^ 49 + 10 * 2 ^ 44 + 16 * 2 ^ 12)] 0x60 none (fun x k w _ =>
        (getR k (fld w 44 5)).toNat % 4 = 0 && (getR k (fld w 44 5)).toNat < 2 ^ 48 && (getR k (fld w 44 5 + 1)).toNat % 4 = 0 &&
        okAnd (deckOperand k (fld w 49 5) 0 ((fld w 26 13 + 1) * fld w 12 14) (fld w 54 2 = 0)) (fun a =>
          scoreFree x (bitOf w 39) (fld w 54 2 = 0) [(a, (fld w 26 13 + 1) * fld w 12 14)]))
      && ([0x61, 0x62] : List Nat).all (fun op =>
        issues taskG [iw op (1 * 2 ^ 51 + 8 * 2 ^ 46 + 7 * 2 ^ 32)] op none (fun x k w _ =>
          (getR k (fld w 46 5)).toNat < 2 ^ 48 &&
          geoFault (geoOf (getR k (fld w 46 5 + 1))) (fld w 24 8) (getR k (fld w 46 5)).toNat (getS k (fld w 42 4)).toNat (bitOf w 18) = none &&
          okAnd (moveRanges k w (op = 0x61)) (fun rs => scoreFree x (bitOf w 19) (op = 0x61) rs)))) = true := by decide +kernel

/-- A transfer of task 0 in flight. -/
def xf0 (kind : XKind) : Xfer :=
  { id := 9, kind := kind, tile := 0, ctx := 3, cr := 1, tag := 2, word := qw (iw 0x60 (1 * 2 ^ 49 + 10 * 2 ^ 44 + 16 * 2 ^ 12)), pc := 0
    a0 := 0x40000, a1 := 0x5000, a2 := 0x8000000000, a3 := 0, a4 := 0, unscb := false, pages := 1, next := 0, ahead := [], peer := 1
    buf := 4, remote := .waiting, counted := [], outCount := [], seq := 0, done := false }

/-- Task 0 and transfer 9, tile 1 with a SUB of its own over the words written. -/
def devX (kind : XKind) (next : Nat) (r : Remote) : Dev :=
  { setTile (devProg task0 []) 1 { tileWith task0 [] with
      sb := [{ first := 0x500, last := 0x50F, write := true, owner := .xfer 11 }] } with
    xfers := [(9, { xf0 kind with pages := (if kind = .dmaIn ∨ kind = .dmaOut then 1 else 16), next := next, remote := r }),
      (11, { xf0 .sub with id := 11, tile := 1, pages := 16 })]
    nextX := 12 }

theorem test_wit_remote_issue : (([0x70, 0x71] : List Nat).all (fun op =>
    issues task0 [iw op (1 * 2 ^ 51 + 10 * 2 ^ 46 + 16 * 2 ^ 28)] op none (fun x k w _ => (getR k (fld w 46 5)).toNat < 2 ^ 48 &&
      !mappedOut dev0 (fld (getS k (fld w 42 4)) 0 8) &&
      okAnd (deckOperand k (fld w 51 5) 0 (fld w 28 14) (op = 0x70)) (fun a => scoreFree x (bitOf w 24) (op = 0x70) [(a, fld w 28 14)])))) = true := by
  decide +kernel

theorem test_wit_remote_served :
    (let d := devX .fetch 0 .waiting
     let xf := (tfind d.xfers 9).getD (xf0 .fetch)
     isRemoteRead xf.kind && !earlierUnserved d xf isRemoteRead && ownsTarget (getTile d 1) xf && xf.a1.toNat + xf.pages ≤ 196608)
      = true ∧
    (let d := { devX .fetch 0 .waiting with tiles := tset (devX .fetch 0 .waiting).tiles 1 (tileWith task0 []) }
     deckReadable (getTile d 1) 0x5000 16) = true ∧
    (let d := devX .put 0 .waiting
     let xf := (tfind d.xfers 9).getD (xf0 .put)
     (match inFetchRange d (getTile d 1) xf.a1.toNat xf.pages with
      | some us => okAnd (gateCheck (getTile d 1) { xf with counted := us } (4 * xf.a1.toNat) (4 * xf.pages) true) (fun _ => true)
      | none => false) && winReadable (getTile d 0) (deckByte task0 xf 0 0) (4 * xf.pages)) = true := by decide +kernel

/-- A SUB of buffer 0: an unsent PRODUCED entry takes its size; with a HELD entry the nearest holder is found. -/
theorem test_wit_distribution :
    (issues task0 [iw 0x72 (1 * 2 ^ 51 + 16 * 2 ^ 28)] 0x72 none (fun x k w _ =>
        okAnd (deckOperand k (fld w 51 5) 0 (fld w 28 14) true) (fun a => scoreFree x false true [(a, fld w 28 14)]) &&
        okAnd (sizeBuf (getBuf dev0 (bufTable 0 0) (fld w 0 16)) (fld w 28 14) 1) (fun b => b.holders.isEmpty && !b.produced))
      && issues task0 [iw 0x73 (1 * 2 ^ 51 + 16 * 2 ^ 28)] 0x73 none (fun x k w _ =>
        okAnd (deckOperand k (fld w 51 5) 0 (fld w 28 14) false) (fun a => deckReadable x a (fld w 28 14)) &&
        okAnd (sizeBuf (getBuf dev0 (bufTable 0 0) (fld w 0 16)) (fld w 28 14) 1) (fun _ => true))
      && (nearestHolder 0 [{ tile := 2, word := 0, xfer := 1, rel := false }]).isSome
      && okAnd (sizeBuf { Buf.init with pier := true, words := 16, st := .held } 16 1) (fun b => b.st = .held)
      && okAnd (sizeBuf { Buf.init with words := 16, holders := [{ tile := 0, word := 0x4000, xfer := 1, rel := false }] } 16 1)
        (fun b => b.holders.any (fun h => h.tile = 0 && h.word = 0x4000 && !h.rel))) = true := by decide +kernel

theorem test_wit_slide_pages :
    (let d := devX .dmaIn 0 .waiting
     let xf := (tfind d.xfers 9).getD (xf0 .dmaIn)
     mayMove d xf && !pageHeld task0 xf && (groupPages (dmaSegs xf.word xf.a2 xf.a3)).getD xf.next [] = [(0, 0x8000000000, 64)] &&
     (match readVa (setTile d 0 (countPage (getTile d 0) task0 xf 0).1) 1 none 0x8000000000 64 (.cache (engineOf 0)) with
      | .ok bs => bs.length = 64
      | .error _ => false) &&
     okAnd (gateCheck (countPage (getTile d 0) task0 xf 0).1 (countPage (getTile d 0) task0 xf 0).2 (deckByte task0 xf 0 0) 64 true)
       (fun _ => true)) = true ∧
    (let d := devX .dmaOut 0 .waiting
     let xf := { (tfind d.xfers 9).getD (xf0 .dmaOut) with a2 := 0 }
     (groupPages (dmaSegs xf.word xf.a2 xf.a3)).getD 0 [] = [(0, 0, 64)] && winReadable (getTile d 0) (deckByte task0 xf 0 0) 64 &&
     (match xlate d 1 none 0 true (.cache (engineOf 0)) with
      | .ok (.pier a) => a = 0x8000000 && !linkHeld d a 64
      | _ => false)) = true ∧
    (let d := setReg { devX .dmaIn 0 .waiting with xfers := [(9, { xf0 .dmaIn with pages := 4 })] } 0x0A00000 8
     mayMove d { xf0 .dmaIn with pages := 4 } && !pageHeld task0 { xf0 .dmaIn with pages := 4, next := 1 } && decide (0 < runAhead d)) = true ∧
    (dmaClass .dmaIn && decide ((tfind (devX .dmaIn 1 .waiting).xfers 9).isSome) && (st (devX .dmaIn 0 .waiting)).safe) = true := by
  decide +kernel

theorem test_wit_delivery :
    (([.put, .fetch, .lateSub, .mcast] : List XKind).all (fun kind =>
      let d := devX kind 0 (.served [])
      match tfind d.xfers 9 with
      | some xf => xf.id = 9 && okAnd (gateCheck (getTile d 0) xf (deckByte task0 xf 0 0) 64 true) (fun _ => true)
      | none => false)) = true ∧
    (let d := devX .sub 0 .waiting
     let b := { Buf.init with pier := true, words := 16, cr := 1, pieces := [(some 0x8000000000, 64)], st := .filling }
     (match fillBytes d b task0 0 with
      | .ok bs => bs.length = 64
      | .error _ => false) && (getBuf d 0 4).sending.isEmpty) = true := by decide +kernel

theorem test_wit_release_and_gating :
    (let h : BufRange := { tile := 2, word := 0, xfer := 1, rel := true }
     let b := { Buf.init with pier := true, words := 16, st := .held, holders := [h] }
     let other := { (tfind (devX .fetch 0 .waiting).xfers 9).getD (xf0 .fetch) with peer := 2, a1 := 0 }
     !sourcing dev0 b h && sourcing { dev0 with xfers := [(9, other)] } b h && b.holders.find? (fun g => g.tile.toNat = 2 && g.rel) = some h)
      = true ∧
    (let x := { tileWith task0 [] with
        gates := [(4, { st := .draining, gated := true, dma := 0 }), (5, { st := .waking, gated := true, dma := 0 })]
        fixups := [(7, 3)], preReq := true }
     (gateOf x 4).st = .draining && (gateOf x 5).st = .waking && (gateOf x 9).st = .on && (tfind x.fixups 7).isSome) = true := by decide +kernel

/-! ## Witnesses: reports, the dispatcher -/

/-- A registered model of the PF in partition 0, resident, with a page list of one layer. -/
def model0 : Model where
  fn := 0
  vid := 0
  part := 0
  layers := 1
  heads := 1
  dimCode := 1
  kvFmt := 3
  ksm := 1
  vsm := 1
  runLog2 := 6
  kpp := 1
  splitLen := 64
  chunk := 64
  quantum := 1
  costStep := 0x44FA0000
  costTok := 0
  costCtx := 0
  draft := none
  vocab := 1000
  maxM := 8
  grids := []
  deck := []
  wgroup := 0
  object := 0
  imageLen := 0
  sampleVa := 0x8000000000
  attn := none
  resident := true
  frames := []
  pull := none
  lastStep := 0

/-- Slot 0 of the PF, admitted to the running step as a PREFILL of one token. -/
def adm0 : Admitted where
  slot := 0
  handle := 0x10000
  kind := 0
  c := 0
  c0 := 0
  t := 1
  depth := 0
  nodes := 0
  splits0 := 0
  entry := [0, 0, 0, 0, 0, 0, 0, 0]
  inputs := [7]
  taken := []
  pendBefore := none
  pages := 0
  dpages := 0
  tree := none
  deadline := 0
  dropLate := false
  cancelled := false
  dropped := false
  late := false
  reported := false
  outcome := none
  chunkShort := false
  lastChunk := true

/-- The running step 0, delivering task 5. -/
def step0 : Step where
  num := 0
  model := 0
  phase := .delivering
  table := 0x8000010000
  order := [true]
  admitted := [adm0]
  deferred := []
  todo := [work0]
  rows := 1
  proj := 0
  modelChange := false
  clockStepped := false
  scratch := []
  startTs := 0
  endTs := 0

/-- A descriptor of task 5: two words of code, END, at host byte 0x1000; its record at 0x2000. -/
def desc0 : TaskDesc :=
  { q0 := qw (5 + 3 * 2 ^ 24), q1 := qw (2 * 2 ^ 18), q2 := 0, q3 := 0, q4 := 0, q5 := 0x8000001000, q6 := 0x8000002000, q7 := 9 }
/-- Task 5 with that descriptor. -/
def work1 : Work := { work0 with desc := desc0 }

/-- The ready device with model 0, an ACTIVE slot 0 and the running step of the context; END at host byte 0x1000. -/
def devS : Dev :=
  { dev0 with
    host := memPuts [] 0x1000 (toLe 8 (iw 0x05 0))
    cox := { dev0.cox with
      models := [(0, model0)]
      vmods := [(0, 0)]
      slots := [(0, { Slot.init with st := .active, owner := some 1, cr := 1 })]
      steps := [(1, { CtxSteps.init with cur := some { step0 with todo := [work1] }, nextNum := 1 })] } }

/-- Task 0 with its tile as the device of the running step has it. -/
def devT (k : Task) (prog : List Nat) : Dev := setTile devS 0 (tileWith k prog)

theorem test_wit_report :
    (match atInstr { devT task0 [iw 0xF1 (2 ^ 51)] with
        tiles := [(0, tilePut (tileWith task0 [iw 0xF1 (2 ^ 51)]) 0x10000 (toLe 8 0x10000 ++ toLe 8 1 ++ toLe 4 42))] } fx 0xF1 none with
    | some (x, k, w, _) => okAnd (deckOperand k (fld w 51 5) (offOf w) 68 false) (fun a => deckReadable x a 68 &&
        okAnd (reportCheck adm0 false (memGets x.mem (4 * a) 16) (bytesWords 1 (memGets x.mem (4 * a + 16) 4)))
          (fun o => o = some { tokens := [42], accept := 0, badDist := false }) &&
        (match stepOf devS 1 0 with
         | some s => (seqEntry s (leAt (memGets x.mem (4 * a) 16) 4 3)).isSome
         | none => false))
    | none => false) = true ∧
    (match reportCheck adm0 false (toLe 8 0x20000 ++ toLe 8 1) [] with
     | .error (.fault c _) => c = fStaleHandle
     | _ => false) = true := by decide +kernel

theorem test_wit_task_end : ({ task0 with ending := true }.queue.isEmpty && task0.passes.isEmpty && task0.convs.isEmpty &&
    (tileWith task0 []).sb.isEmpty && task0.dmaTag.isEmpty && task0.trTag.isEmpty) = true := by decide +kernel

theorem test_wit_intake :
    (servedCtx devS 0 = some 1 && (deliveringStep devS 1).isSome && (tfind devS.cat.stalled 0).isNone &&
      (let d1 := putStep devS 1 { step0 with todo := [] }
       intakeCheck d1 work1 = none && waitOver d1 work1 && targetTile d1 work1 = some 0 &&
       !waitOver (putStep devS 1 { step0 with todo := [{ work1 with desc := { desc0 with q0 := qw (4 + 3 * 2 ^ 24) } }] })
         { work1 with waits := .tasks [4] } &&
       (match intakeCheck d1 { work1 with desc := { desc0 with q6 := 8 } } with
        | some r => r.code = fXlateInvalid
        | none => false))) = true := by decide +kernel

theorem test_wit_pop_steal :
    (partOfTile devS 0 = some 0 && (fitOn devS work1 0).isSome &&
      ((probeOrder 0).filter (fun v => tileIn devS 0 v && !mappedOut devS v)) = [1, 2]) = true := by decide +kernel

theorem test_wit_start_and_completion :
    (let d := setTile devS 0 { Tile.init with inbox := some (work1, [0], [(0, 0)]) }
     savedOf d work1 = none && !bitOf work1.desc.q0 35 &&
     (let w := { work1 with desc := { desc0 with q0 := setFld desc0.q0 35 1 1 } }
      match readImage (installTask d 0 (freshTask w [0] [(0, 0)] 0)) w with
      | .ok bs => bs.length = 8
      | .error _ => false)) = true ∧
    (let e : Ended := { work := work1, flags := 0, satSet := false, start := 0, finish := 1, away := 0, resumes := 0 }
     (stepOf devS 1 0).isSome &&
     (match writeVa devS 1 (stepModel devS 1 0) (descComplVa e.work.desc) (List.replicate 32 1) with
      | .ok _ => true
      | .error _ => false)) = true := by decide +kernel

/-! ## Witnesses: the command ring -/

/-- A list of fields, each at an offset with a length in bytes and a value, written to memory from address `a`. -/
def fields (m : Memory) (a : Nat) (l : List (Nat × Nat × Nat)) : Memory := l.foldl (fun m p => memPuts m (a + p.1) (toLe p.2.1 p.2.2)) m

/-- The device with one entry in the command ring of context (0, 0), slot 0 in a state, group 0 with one destination. -/
def devCmd (st : SlotState) (l : List (Nat × Nat × Nat)) : Dev :=
  { devS with
    regs := devS.regs ++ [(0x0801000, qw (2 ^ 9)), (0x0810000, qw (0xAABB + 2 ^ 63))]
    host := fields devS.host 0x100 l
    hif := { devS.hif with
      rings := [(0, { Ring.init with ba := 0x8000000100, cfg := 0x24, prod := 1 }), (2, { Ring.init with ba := 0x8000003000, cfg := 0x24 })] }
    cox := { devS.cox with slots := [(0, { Slot.init with st := st, owner := some 1, cr := 1 })] } }

/-- The command in the ring is taken and satisfies `c`. -/
def taken (d : Dev) (want : List Byte → Bool) (c : Dev → Taken → Bool) : Bool :=
  match takes d 0 0 want with
  | some (d1, t) => c d1 t
  | none => false

/-- MODEL_REGISTER of virtual model 3, its descriptor at host byte 0x400. -/
def devReg (flags vid : Nat) : Dev :=
  let d := devCmd .idle [(0, 1, 0x01), (1, 1, flags), (12, 2, vid), (16, 8, 0x8000000400)]
  { d with host := fields d.host 0x400 [(3, 1, 3), (4, 1, 1), (5, 1, 1), (2, 1, 1), (6, 1, 6), (32, 4, 1000), (36, 4, 64), (41, 1, 0x80),
    (42, 2, 1), (64, 8, 0x8000000500)] }

/-- A grid record: tiles of 128 × 128 of format 3, K and N of 128, weight buffers from 1 on. -/
def gridRec : TaskDesc :=
  { desc0 with q0 := qw (127 + 127 * 2 ^ 9 + 3 * 2 ^ 28 + 3 * 2 ^ 32), q1 := qw (128 + 128 * 2 ^ 24), q3 := qw 0x10000 }

theorem test_wit_register :
    (taken (devReg 0 3) (registerOp false) (fun d t => modelOf d t.fn (leAt t.e 12 2) = none && leAt t.e 16 8 % 64 = 0 &&
      !readWaits (devReg 0 3) 0 0 (leAt t.e 16 8) 128 &&
      (match readVaC d t.cr none (leAt t.e 16 8) 128 with
       | .ok (d1, b) => descOk b && (match readRecords d1 t.cr (leAt b 64 8) 64 (leAt b 42 2) with
          | .ok (d, gs) => refusal d (modelOfDesc d t 3 b (gs.map descOf) []) true = some 3 &&
              refusal d (modelOfDesc d t 3 b [gridRec] []) true = none
          | .error _ => false)
       | .error _ => false))
      && getModel (devReg 0 3) 1 = none
      && taken (devReg 2 0) (registerOp true) (fun d t => modelOf d t.fn (leAt t.e 12 2) = some 0 && modelInUse d 0)
      && !modelInUse { devS with cox := { devS.cox with slots := [] } } 0) = true := by decide +kernel

theorem test_wit_seq_add :
    (taken (devCmd .free [(0, 1, 0x10), (40, 4, 3), (32, 8, 0x8000000800)]) (entryOp 0x10) (fun d t =>
        cHandle t % 65536 < (vfWin d t.fn).2 && (getSlot d 0).st = .free && modelOf d t.fn (leAt t.e 12 2) = some 0 &&
        (match getModel d 0 with
         | some mo => mo.sampleVa ≠ 0 && groupOk d 0 (leAt t.e 14 1) mo
         | none => false) && leAt t.e 40 4 ≤ 262144)
      && taken (devCmd .quarantined [(0, 1, 0x10)]) (entryOp 0x10) (fun d _ => (getSlot d 0).st = .quarantined)
      && taken (devCmd .idle [(0, 1, 0x10)]) (entryOp 0x10) (fun d _ => (getSlot d 0).st = .idle)
      && taken (setReg (devCmd .idle [(0, 1, 0x10), (8, 4, 5)]) 0x0400800 0) (entryOp 0x10) (fun d t => (vfWin d t.fn).2 ≤ cHandle t % 65536))
      = true := by decide +kernel

/-- Whether a command names slot 0. -/
def names0 (d : Dev) (t : Taken) : Bool :=
  match slotOf d t with
  | .ok i => i = 0
  | .error _ => false

theorem test_wit_seq_append :
    (taken (devCmd .idle [(0, 1, 0x11), (8, 4, 0x10000), (32, 8, 0x8000000800), (40, 4, 1)]) (entryOp 0x11) (fun d t =>
        names0 d t && appendOk t (getSlot d 0) && !(leAt t.e 12 1).testBit 5 && hasWork (appendTo t (getSlot d 0)))
      && taken (devCmd .parked [(0, 1, 0x11), (8, 4, 0x10000)]) (entryOp 0x11) (fun d t => names0 d t && (getSlot d 0).st = .parked)) = true := by
  decide +kernel

theorem test_wit_park_resume :
    (([.idle, .active, .parked] : List SlotState).all (fun s =>
        taken (devCmd s [(0, 1, 0x12), (8, 4, 0x10000), (12, 4, 7)]) (entryOp 0x12) (fun d t => names0 d t && leAt t.e 12 4 ≠ 0 &&
          (match setParked d 0 true with
           | .ok _ => true
           | .error _ => false)))
      && ([.parked, .idle] : List SlotState).all (fun s =>
        taken (devCmd s [(0, 1, 0x13), (8, 4, 0x10000)]) (entryOp 0x13) (fun d t => names0 d t && !(getSlot d 0).remote &&
          (match setParked d 0 false with
           | .ok _ => true
           | .error _ => false)))) = true := by decide +kernel

theorem test_wit_cancel_retire :
    (([0x14, 0x15] : List Nat).all (fun op => ([.idle, .active] : List SlotState).all (fun s =>
      taken (devCmd s [(0, 1, op), (8, 4, 0x10000)]) (entryOp op) (fun d t => names0 d t && (getSlot d 0).st = s)))) = true := by decide +kernel

/-- Fields of a STEP_POLICY in range, and one out of range. -/
def policyFields (beat : Nat) : List (Nat × Nat × Nat) :=
  [(0, 1, 0x20), (12, 4, beat), (16, 4, 50000), (20, 4, 100000), (24, 2, 8192), (26, 1, 3), (28, 4, 262144), (32, 8, 0x100000)]

theorem test_wit_policy_lookup_fence :
    (taken (devCmd .idle (policyFields 1000000)) (entryOp 0x20) (fun _ t => policyOk (policyOf t.e))
      && taken (devCmd .idle (policyFields 99)) (entryOp 0x20) (fun _ t => !policyOk (policyOf t.e))
      && taken (devCmd .idle [(0, 1, 0x21), (40, 4, 64)]) (entryOp 0x21) (fun d t => modelOf d t.fn (leAt t.e 12 2) = some 0)
      && taken (devCmd .idle [(0, 1, 0x30)]) (entryOp 0x30) (fun _ _ => true)) = true := by decide +kernel

/-! ## Witnesses: steps -/

/-- The policy of the test context: the sequence table at pier 1 MiB, scratch of 64 KiB at pier 0. -/
def policy0 : Policy := { Policy.init with tableVa := 0x100000, scratchVa := 0x10000, scratchSize := 0x10000 }

/-- The device with slot 0 READY with one prompt token at host byte 0x800, and no step. -/
def devB : Dev :=
  { devCmd .ready [] with
    cox := { (devCmd .ready []).cox with
      slots := [(0, { Slot.init with st := .ready, hot := true, owner := some 1, cr := 1, segs := [{ va := 0x8000000800, count := 1 }] })]
      steps := [(1, { CtxSteps.init with policy := policy0 })] } }

/-- What a build of partition 0 starts with. -/
def frameB (d : Dev) : Frame0 :=
  { cr := 1, p := 0, num := (getSteps d 1).nextNum, mi := 0, m := model0, room := ringFree (getRing d (ringKey 0 0 2)) }
/-- The build before its first slot. -/
def build0 (d : Dev) : Build :=
  { d := d, adm := [], defd := [], order := [], sum := model0.costStep, rows := 0, drows := 0, lcOut := 0, beOut := 0, anyLc := false
    runs := [], want := 0 }

theorem test_wit_step_build :
    (let cs := candsOf devB 1
     let r := chooseResident devB 1 0 cs
     buildsFor devB 0 = some 1 && mayBuild devB 1 && r.2 = some 0 && decide (2 ≤ (frameB r.1).room) &&
     (match examineAll (frameB r.1) (build0 r.1) (sortBy examineBefore (cs.filter (fun c => c.2.1.model = 0))) with
      | .ok b => b.adm.length = 1 && b.want = 0 && (stepModels r.1 0 cs).all (isResident b.d) && (getSteps b.d 1).cur.isNone
      | .error _ => false)) = true := by decide +kernel

/-- One LC budget of 1 µs: the slot is deferred for TIME, and the build admits none. -/
theorem test_wit_build_none :
    (let d := { devB with cox := { devB.cox with models := [(0, { model0 with costStep := 0x60000000 })] } }
     let f := { frameB d with m := { model0 with costStep := 0x60000000 } }
     match examineAll f { build0 d with sum := 0x60000000 } (candsOf d 1) with
     | .ok b => b.adm.isEmpty && b.want = 0
     | .error _ => false) = true := by decide +kernel

theorem test_wit_delivery_start :
    (let s0 := { step0 with phase := .built, todo := [] }
     let d := { devS with cox := { devS.cox with steps := [(1, { CtxSteps.init with cur := some s0 })] } }
     deliversFor d 0 = some 1 && startable d 1 = some s0 && (getModel d 0).isSome && !d.clk.delay && stepResident d s0 model0 &&
     (match stepTasks d 1 s0 { model0 with grids := [{ gridRec with q1 := qw (128 + 128 * 2 ^ 24) }] } with
      | .ok ws => decide (ws ≠ []) && decide (ws.Pairwise (fun a b => taskIndex a ≤ taskIndex b))
      | .error _ => false)) = true := by decide +kernel

/-- The running step written, and one recorded with its result ring in place. -/
theorem test_wit_batch :
    (let f := fun (ph : StepPhase) => { devCmd .active [] with
       cox := { (devCmd .active []).cox with steps := [(1, { CtxSteps.init with cur := some { step0 with phase := ph, todo := [] } })] } }
     batchCtx (f .written) 0 = some 1 && alive (f .recorded) && !ctxDead (f .recorded) 1 &&
     (match (getSteps (writeBatch (f .recorded) 1 { step0 with phase := .recorded, todo := [] }) 1).cur with
      | some s => s.phase = .written
      | none => false)) = true := by decide +kernel

theorem test_wit_settle :
    (let a := { adm0 with reported := true, outcome := some { tokens := [42], accept := 0, badDist := false } }
     sameSlot devS a.slot.toNat a.handle && !ctxDead devS 1 && stepOf devS 1 1 = none &&
     (let k0 := adaptSlot (getSlot devS 0) a (getSteps devS 1).policy.allRej
      let k := keepSlot k0 a false
      getSlot (pushSlot (compactTree (setSlot (setSlot devS 0 k0) 0 k) 0 a) 0 a.c (kept a)) 0 = k) && (getSlot devS 0).st = .active &&
     (getSlot devS 0).pendTok = none && !(getSlot devS 0).retirePend && (getSlot devS 0).parkPend = none) = true := by decide +kernel

theorem test_wit_deadline :
    (let a := { adm0 with dropLate := true, deadline := 5 }
     let d := { devS with
       now := 6
       cox := { devS.cox with steps := [(1, { CtxSteps.init with cur := some { step0 with admitted := [a] }, nxt := some { step0 with num := 1, admitted := [a], phase := .built } })] } }
     (findEntry d { step0 with admitted := [a] } 0).isSome && (stepOf d 1 1).isSome && decide (a.deadline.toNat < d.now.toNat) && a.deadline ≠ 0)
      = true := by decide +kernel

theorem test_wit_windows :
    (pfOpen dev0 0x0400800 && !winMeets dev0 1 0 0 && winMeets dev0 1 0 1 && pfOpen dev0 0x0400100 && fnOpen dev0 0 0x0201020 &&
      pfOpen dev0 0x0B01000 && ctxOf dev0 0 0 = some 1 && ctxOf dev0 0 1 = none && recInSlot dev0 3 = some 1 &&
      !(getMaps dev0 1).leaves.isEmpty && recInSlot dev0 4 = none) = true := by decide +kernel

/-! ## Witnesses: Keystone and pier -/

/-- 65 prompt tokens of zero: one block. -/
def slotK : Slot :=
  { Slot.init with st := .ready, owner := some 1, cr := 1, usePrefix := true, lookup := true, segs := [{ va := 0x8000000800, count := 65 }] }

/-- A device whose model 0 has a root node 0 without children and another model's block node 1; slot 0 looks up. -/
def devK : Dev :=
  { devB with
    regs := devB.regs ++ [(0x0600000, 8)]
    cox := { devB.cox with slots := [(0, slotK)] }
    key := { devB.key with
      nodes := [(0, { Node.init with kind := .root }),
        (1, { Node.init with kind := .block, tokens := List.replicate 64 0, parent := 0, inLru := true, segN := 1, segPa := 0x10000000, model := 1 })]
      lru := [(0, [1])]
      roots := [(0, 0)]
      ops := [(0, [.lookup 0 1])] } }

/-- The same with node 1 a child of the root, in model 0, under a hash: it holds the slot's block. -/
def devK1 (h : Word32) : Dev :=
  { devK with key := { devK.key with
      nodes := [(0, { Node.init with kind := .root, child := [(0, { hash := h, node := 1, dir := false })] }),
        (1, { Node.init with kind := .block, tokens := List.replicate 64 0, parent := 0, inLru := true, segN := 1, segPa := 0x10000000 })] } }

/-- The nodes that the lookup of slot 0 matches. -/
def matched (d : Dev) : Dev × List Nat :=
  let d0 := popOp d 0
  match lookupTokens d0 slotK (blocksOf (promptLen slotK)) with
  | .ok ts => walkRoot (chargeTokens d0 slotK (blocksOf (promptLen slotK))) 1 true 0 (blockList ts (ts.length / 64))
  | .error _ => (d, [7])

theorem test_wit_lookup :
    (frontOp devK 0 = some (.lookup 0 1) && alive devK && slotK.lookup && slotK.pullObj.isNone && !ctxDead devK 1 &&
      (pierPoison (popOp devK 0) (modelEntryAt 0) 1024).isNone && (matched devK).2 = []) = true := by decide +kernel

/-- What a walk reads is charged, and the index and pier stay. -/
theorem keyCharge_key (d : Dev) (cr n : Nat) (ins : Bool) : (keyCharge d cr n ins).key = d.key ∧ (keyCharge d cr n ins).pier = d.pier := by
  simp only [keyCharge, chargeCtx, charge, debit]
  split
  · exact ⟨rfl, rfl⟩
  · split <;> exact ⟨rfl, rfl⟩

/-- The walk of a lookup whose block node 1 holds. -/
theorem test_wit_walk (h : Word32) (eh : crc32c (tokenBytes (List.replicate 64 0)) = h) :
    (walkRoot (devK1 h) 1 true 0 [List.replicate 64 0]).2 = [1] := by
  have hbad : ∀ d : Dev, d.pier.poison = [] → ∀ i, nodeBad d i = false := by
    intro d hd i; simp [nodeBad, pierPoison, hd]
  have hseg : ∀ d : Dev, d.pier.poison = [] → ∀ i, segBad d i = false := by
    intro d hd i; simp [segBad, pierPoison, hd]
  have hown : ∀ d : Dev, d.key = (devK1 h).key →
      ownChildren d 0 = [(0, { hash := h, node := 1, dir := false })] := by
    intro d hd
    simp only [ownChildren, getNode, hd]
    rfl
  have hc : (keyCharge (devK1 h) 1 512 false).key = (devK1 h).key := (keyCharge_key _ _ _ _).1
  have hp : (keyCharge (devK1 h) 1 512 false).pier.poison = [] := by rw [(keyCharge_key _ _ _ _).2]; rfl
  have hc2 : (keyCharge (keyCharge (devK1 h) 1 512 false) 1 512 false).key = (devK1 h).key := by rw [(keyCharge_key _ _ _ _).1, hc]
  have hp2 : (keyCharge (keyCharge (devK1 h) 1 512 false) 1 512 false).pier.poison = [] := by rw [(keyCharge_key _ _ _ _).2, hp]
  have hn : (getNode (keyCharge (keyCharge (devK1 h) 1 512 false) 1 512 false) 1).tokens = List.replicate 64 0 ∧
      (getNode (keyCharge (keyCharge (devK1 h) 1 512 false) 1 512 false) 1).model = 0 := by
    simp only [getNode, hc2]
    exact ⟨rfl, rfl⟩
  have h1 : scanTable (keyCharge (devK1 h) 1 512 false) 1 false 0 0 (List.replicate 64 0) =
      (keyCharge (keyCharge (devK1 h) 1 512 false) 1 512 false, some 1) := by
    simp only [scanTable, hown _ hc, eh]
    simp [hbad _ hp2, hn.1, hn.2]
  have h2 : findChild (keyCharge (devK1 h) 1 512 false) 1 false 0 0 (List.replicate 64 0) =
      (keyCharge (keyCharge (devK1 h) 1 512 false) 1 512 false, some 1) := by
    rw [findChild, show chainFuel = 65535 + 1 from rfl, scanChain, h1]
  have hr : tfind (devK1 h).key.roots 0 = some 0 := rfl
  simp only [walkRoot, hr, hbad _ hp, walkDown, h2, hseg _ hp2]
  rfl

/-- The tokens of the lookup are those of node 1, and what the lookup makes of the match. -/
theorem test_wit_lookup_match :
    ((match lookupTokens (popOp (devK1 0) 0) slotK (blocksOf (promptLen slotK)) with
      | .ok ts => ts = List.replicate 64 0 && blockList ts 1 = [ts]
      | .error _ => false) &&
      (match lookupList (devK1 0) slotK model0 1 with
      | some r =>
        (match moveList (devK1 0) 1 slotK.list r.1 r.2 with
         | .ok (d1, l) =>
           (match copySegments d1 1 1 model0 l 0 [1] with
            | .ok d2 => (getNode d2 1).refs = 1 && !(getNode d2 1).inLru && (getSlot d2 0).pullObj.isNone
            | .error _ => false)
         | .error _ => false)
      | none => false)) = true := by decide +kernel

/-- The insert of another block under the root. -/
theorem test_wit_insert :
    (let sl := { slotK with
       lookup := false, st := .idle, chainNode := some 0, chainLen := 0
       list := { va := 0x10000, bytes := 256, pages := 1, frames := [(0, 0x1000)] } }
     let d := { devK with cox := { devK.cox with slots := [(0, sl)] }, key := { devK.key with ops := [(0, [.insert 0 1 0 (List.replicate 64 1)])] } }
     let ts := List.replicate 64 1
     let d0 := popOp d 0
     frontOp d 0 = some (.insert 0 1 0 ts) && (pierPoison d0 (modelEntryAt 0) 1024).isNone && !nodeBad d0 0 &&
     (match findChild d0 1 true 0 0 ts with
      | (d2, none) =>
        (match entriesOf d2 sl (blockEntries model0 0), takeNode (lruRemove d2 0) 0 { Node.init with kind := .block, tokens := ts, parent := 0 } with
         | .ok ws, (d4, some n) =>
           (match childSpot d4 0 0 0 with
            | (d5, some spot) =>
              (match takeSegment d5 0 (blockEntries model0 0).length with
               | some (pa, d6) => getNode d6 n = getNode d4 n && spot.1 ≠ n && n ≠ 0 &&
                 (match commitNode d6 0 0 n 0 ts spot pa (blockEntries model0 0) ws with
                  | .ok d3 => (getSlot d3 0).chainNode = some n && n = 2
                  | .error _ => false)
               | none => false)
            | _ => false)
         | _, _ => false)
      | _ => false)) = true := by decide +kernel

theorem test_wit_flush_sweep :
    (pfOpen dev0 0x0600000 && !bitOf dev0.key.flushBusy 0 && alive dev0 && (lruList dev0 0).isEmpty &&
      (let d := { devS with
         now := 100
         cox := { devS.cox with slots := [(0, { Slot.init with st := .parked, cr := 1, park := some { group := 0, expiry := 99 } })] }
         key := { devS.key with parked := [0], reports := [0] } }
       expired d 0 && !expired { d with now := 1 } 0)) = true := by decide +kernel

theorem test_wit_pier :
    (partEnabled dev0 0 && frameFree dev0 0 0x1000 && !frameFree dev0 0 0 && !(getLink dev0 0).held &&
      (getLink (setLink dev0 1 { fails := 8, held := true }) 1).held) = true := by decide +kernel

/-! ## Witnesses: causeway -/

/-- A KV_PUSH of slot 0 with one chunk of 512 bytes at pier byte 0, its flow still to be made. -/
def push0 : Transfer where
  type := .kvPush
  slot := some 0
  handle := 0x10000
  cr := 1
  fn := 0
  part := 0
  model := 0
  grp := qw (2 ^ 9)
  dests := [[qw (0xAABB + 2 ^ 63), 0, 0, 0]]
  dest := 0
  total := 512
  offset := 0
  pieces := [(0, 512)]
  entries := [0]
  nFlows := 1
  toMake := [{ stripe := 0, off := 0, start := 0, dest := 0, lport := 0 }]
  live := []
  got := []
  retries := 0
  gnum := 0
  ents := []
  posFirst := 0
  posCount := 1
  geom := 0
  object := 0
  ttlMs := 0
  be := false

/-- A live flow of transfer 7 with one chunk. -/
def flow0 : Flow := { Flow.init with live := true, xfer := 7, handle := 0x10000, cr := 1, chunks := 1, credit := 4 }

/-- The device with transfer 7 and its egress flow 2, port 0 UP with a MAC address, and group 0's destination. -/
def devF : Dev :=
  { devCmd .active [] with
    regs := (devCmd .active []).regs ++ [(0x0C01000, 0x1234), (0x0800000, 0x88B5)]
    ports := [(0, { LPort.init with st := .up })]
    cwy := { dev0.cwy with flows := [(2, flow0)], xfers := [(7, push0)], nextId := 8 } }

theorem test_wit_flows_send :
    ((getXfer devF 7).isSome && (push0.toMake.find? (fun q => q.stripe = 0)).isSome && !(getFlow devF 0).live &&
      (openFlow devF 2).isSome && lportExists devF 0 && (getPort devF 0).st = .up && portMac devF 0 ≠ 0 && !macsecOn devF 0 &&
      nextChunk flow0 = some (0, false) && (chunkRuns push0 (absChunk push0 flow0 0)).all (fun r => (pierPoison devF r.1 r.2).isNone) &&
      !flow0.reqSent) = true ∧
    (openFlow { devF with cwy := { devF.cwy with flows := [(16384, { flow0 with reqSent := true })] } } 16384).isSome = true := by
  decide +kernel

/-- A frame to port 0 from group 0's destination, on a flow, of a type. -/
def frameF (type : BitVec 4) (flags : BitVec 8) (flow : BitVec 32) (body : List Byte) : Frame :=
  let f := { frame0 with dstMac := 0x1234, srcMac := 0xAABB, etherType := 0x88B5, type := type, flags := flags, flow := flow, handle := 0x10000, body := body }
  { f with crc := frameCrc f }

theorem test_wit_frames :
    (let ack := frameF 6 0 2 (toBe 4 1 ++ toBe 8 0 ++ toBe 4 9 ++ toBe 1 0 ++ List.replicate 11 0)
     (reaches devF 0 ack).isSome && isAckKind ack && ackStatus ack = 0 && !fECE ack && ackCum ack = 1) = true ∧
    (let ack := frameF 6 0 2 (toBe 4 1 ++ toBe 8 0 ++ toBe 4 9 ++ toBe 1 3 ++ List.replicate 11 0)
     (reaches devF 0 ack).isSome && isAckKind ack && ackStatus ack = 3) = true := by decide +kernel

theorem test_wit_other_frames :
    ((reaches devF 0 (frameF 6 16 2 (List.replicate 28 0))).isSome && isAbortKind (frameF 6 16 2 (List.replicate 28 0))) = true ∧
    (isRequestKind (frameF 1 0 0 []) && (portIn devF 0 (frameF 1 0 0 (List.replicate 28 0))).isSome && (portIn dev0 0 frame0).isNone) = true ∧
    (!isRequestKind { frame0 with type := 9 } && !isAbortKind { frame0 with type := 9 } && !isAckKind { frame0 with type := 9 } &&
      !isDataKind { frame0 with type := 9 }) = true := by decide +kernel

/-- A PREFIX_PULL with its data due: flow 16384. -/
def devP : Dev :=
  { devF with cwy := { devF.cwy with
      flows := [(16384, { flow0 with reqSent := true, chunks := 2 })]
      xfers := [(7, { push0 with type := .prefixPull, total := 8200, pieces := [(0x8000000, 8200)], live := [16384], toMake := [] })] } }

theorem test_wit_data :
    (match openFlow devP 16384 with
     | some (f, t) =>
       let fr := { frameF 3 0 16384 (List.replicate 28 0) with seq := 1, offset := 8192, total := 8200, payload := List.replicate 8 1, payLen := 8 }
       isDataKind fr && chunkMatches t f fr && !hasChunk f 1 && !macsecOn devP f.lport &&
         (match storeChunk devP t 1 fr.payload with
          | .ok _ => true
          | .error _ => false) && decide ((noteChunk f 1).cum < f.chunks)
     | none => false) = true ∧ hasChunk { flow0 with cum := 1 } 0 = true := by decide +kernel

theorem test_wit_timers :
    (let f := { flow0 with next := 1, unacked := 1 }
     decide (f.cum < f.next) && !f.above.contains f.cum && decide (flow0.next ≤ flow0.cum) && f.unacked ≠ 0 &&
     (let t := { push0 with type := .weightPull, live := [16384], toMake := [] }
      t.live = [16384] && t.toMake.isEmpty && (getModel devF t.model).isSome)) = true := by decide +kernel

/-! ## Witnesses: translation, faults, partitions and contexts -/

theorem test_wit_commits :
    (fnOpen dev0 0 0x0B00000 && !(getCommit dev0 0).busy && ctxOf dev0 0 0 = some 1 && tblOn (tblOf dev0 1) &&
      ((ctxOf dev0 0 5).filter (fun cr => tblOn (tblOf dev0 cr))).isNone &&
      (let q : CommitReq := { cr := 1, unmap := false, large := false, read := true, write := true }
       (match commitPage dev0 q 0x2000000 0x8000000 with
        | .ok m => m.leaves.length = 3
        | .error _ => false) &&
       (match commitPage dev0 { q with unmap := true, large := true } 0 0x8000000 with
        | .ok m => m.leaves.length = 1
        | .error _ => false) && (commitPages dev0 q 0x2000000 0x8000000 0 2).2.1 = 0)) = true := by decide +kernel

theorem test_wit_teardown :
    (let d := { ctxFault dev0 1 fXlatePerm { unit := 8 } with now := 1 }
     d.flt.waiting = [1] && (getCtx dev0 1).st ≠ .free && (getCtx dev0 1).st ≠ .faulted && (getCtx d 1).st = .faulted &&
     (let e := { d with flt := { d.flt with engines := [1], waiting := [] } }
      !commitRuns e 1 && !e.clk.stopped && decide (e.flt.engines.length < 4))) = true := by decide +kernel

theorem test_wit_host_errors :
    (let d := { dev0 with
       boot := { dev0.boot with stage := 2 }
       toll := { dev0.toll with queue := [(0, 1)] } }
     d.boot.stage = 2 && d.toll.queue = [(0, 1)] && { dev0.boot with piBusy := true }.piBusy && !(getPart dev0 0).reload) = true := by
  decide +kernel

/-- The device with a second context, WAITING. -/
def dev2 : Dev :=
  { dev0 with
    regs := dev0.regs ++ [(0x0200400, 100), (0x0200408, 100), (0x0200418, 100)]
    pmg := { dev0.pmg with
      ctxs := [(1, ctx1), (2, { ctx1 with st := .waiting, vctx := 1, cslot := some 4 })]
      cslots := [(3, 1), (4, 2)] } }

/-- The device with its only context at the end of its slice. -/
def dev1 : Dev := { dev2 with pmg := { dev2.pmg with ctxs := [(1, ctx1)], cslots := [(3, 1)] } }

theorem test_wit_slices :
    (alive dev2 && (getPart dev2 0).sliceOver.isNone && !goesOn dev2 0 1 && goesOn dev1 0 1 &&
      (pickNext (countLc dev1 0) 0 (some 1)).2 = some 1) = true ∧
    (let d := { devS with pmg := { dev2.pmg with parts := [(0, { (getPart dev2 0) with sliceOver := some 0 })] } }
     delivering d 1 && !goesOn d 0 1 && !(getPart d 0).noGrace) = true := by decide +kernel

theorem test_wit_switch :
    (let d := { dev2 with pmg := { dev2.pmg with parts := [(0, { (getPart dev2 0) with sliceOver := some 0 })] } }
     switchPoint dev2 0 = none && switchPoint d 0 = some (some 1) && !regulatorBad d 0 && partEnabled d 0 &&
     (pickNext (countLc (handOver d 0 (some 1)) 0) 0 (some 1)).2 = some 2 && (getCtx d 2).saved.isNone) = true ∧
    (let d := { devT { task0 with dmaTag := [] } [] with tiles := [(0, { tileWith task0 [] with stopped := true, preReq := true, windowOver := true })] }
     saveReady d 0 1 && (saveFault d 0).isNone && !commitRuns d 1 &&
     (saveFault { d with tiles := [(0, { tileWith task0 [] with stopped := true, preReq := true, bad := [5] })] } 0).isSome) = true := by
  decide +kernel

theorem test_wit_swap :
    ({ ctx1 with st := .swappingOut }.cslot.isSome && (getFn dev0 0).bme && { ctx1 with st := .swappingIn }.st = .swappingIn) = true := by
  decide +kernel

theorem test_wit_contexts :
    (fnOpen dev2 0 0x0201000 && argCtx dev2 0 = some 1 && (freeCslot dev2 0).isNone &&
      (match createCheck dev2 0 7 0 0 with
       | .ok r => r = 0
       | .error _ => false) &&
      (match createCheck dev2 0 0 0 0 with
       | .error e => e = 1
       | .ok _ => false) && mayDestroy dev2 2 && !mayDestroy dev2 1 && mayDestroy { dev2 with pmg := { dev2.pmg with
         ctxs := [(1, { ctx1 with st := .faulted, tornDown := true })] } } 1) = true ∧
    (freeCslot (setReg dev2 0x0200000 (qw (1 + 3 * 2 ^ 41 + 3 * 2 ^ 48))) 0) = some 5 := by decide +kernel

theorem test_wit_partition_reset :
    (pfOpen dev0 0x0201030 && bitOf (0x10 : Word32) 4 && partEnabled dev0 0 && !dev0.boot.piBusy && dev0.boot.piPart = 0) = true := by
  decide +kernel

/-! ## Witnesses: host interface, resets and power -/

theorem test_wit_rings :
    (let d := devCmd .idle []
     let x := getRing d 0
     pageOpen d 0 && ringUsed x = 1 && ringSize x = 16 && decide (ringUsed x ≤ ((16 : Word32) - x.cons).toNat) &&
     decide (((16 : Word32) - x.cons).toNat ≤ 16) && decide (16 < ((17 : Word32) - x.cons).toNat) &&
     ringIdOpen d .device && !ringEnabled (getRing d devRing)) = true ∧
    (let x := { Ring.init with owed := true, cfg := 0x8000000 }
     x.owed && bitOf x.cfg 27 && modDue dev0 x && !modDue dev0 { x with cfg := 0x8080000, sentAt := some 0 } && fld x.cfg 8 11 < msixCount 0 && !bitOf (msixCtl (setReg dev0 0x8008 0) 0 0) 32) = true := by decide +kernel

/-- A device with VF 1 on the link and bound to partition 0. -/
def devV : Dev :=
  { dev0 with
    hif := { dev0.hif with
      vfEnable := true, numVFs := 1
      fns := [(0, getFn dev0 0), (1, { bme := true, mse := true, msixEn := false, msixMask := false, ctoCode := 0, d3hot := false })] }
    boot := { dev0.boot with binds := [(1, { part := 0, bound := true })] } }

theorem test_wit_registers :
    (pfOpen dev0 0x0100008 && (pfMask 0x0100008).isSome && pfOpen dev0 0x0800008 && vfOpen devV 1 && (vfMask 0x1000).isSome &&
      fnOpen devV 1 0x0201000 && !accessOk 4 .w64 0xFF && !accessOk 0 .w32 0x7 && accessOk 0 .w64 0xFF && (msixOff 0 0x10000).isNone &&
      fnPresent devV 1 && !dev0.clk.stopped && dev0.boot.stage ≠ 0) = true := by decide +kernel

theorem test_wit_resets :
    (fnPresent devV 1 && !devV.clk.stopped && dev0.clk.pwrGood && dev0.clk.resetN && !dev0.clk.tripped && !keptByFlr 0x0100008) = true := by
  decide +kernel

theorem test_wit_power :
    (let d := { dev0 with clk := { dev0.clk with samples := [700], capForce := 0, belowFor := 200 } }
     powered d && (let hot := { d with clk := { d.clk with samples := [100000], steps := [(0, 3), (1, 2)] } }
       averageOver hot.clk.samples (capWatts hot.clk.capForce) && (downReach hot).isSome) &&
     (let cold := { d with clk := { d.clk with samples := [1], steps := [(0, 16), (1, 16), (2, 16), (3, 16)] }, boot := { d.boot with ceilings := [(0, 2), (1, 2), (2, 2), (3, 2)] } }
      !averageOver cold.clk.samples (capWatts cold.clk.capForce) && upReach cold = some 0 && (tfind cold.clk.raising 0).isNone)) = true := by
  decide +kernel

theorem test_wit_ports :
    (([.disabled, .an, .training, .aligning, .up, .failed] : List PortState).all (fun s =>
      (getPort { dev0 with ports := [(3, { LPort.init with st := s })] } 3).st = s) && alive dev0 && isReady dev0 && lportExists dev0 8 &&
      bitOf (portCfg (setReg dev0 0x0C00000 (qw (2 ^ 12))) 0) 12 && pfOpen dev0 0x0C10000) = true := by decide +kernel

/-! ## Witnesses: boot and trust -/

/-- A device whose ROM runs. -/
def devRom : Dev := { dev0 with boot := Boot.init, toll := Toll.init }

/-- The device with its boot stage. -/
def atStage (n : Nat) : Dev := { dev0 with boot := { dev0.boot with stage := BitVec.ofNat 4 n } }

theorem test_wit_rom :
    (romRuns devRom && devRom.boot.fruTries = 0 && (otpData ((List.range 7).foldl retireOlder devRom) 2).isSome &&
      (let d := { devRom with boot := { Boot.init with fruTries := 19 } }
       romRuns d && decide (d.boot.fruTries < 20)) &&
      romRuns { devRom with boot := { Boot.init with fruTries := 20 } }) = true := by decide +kernel

theorem test_wit_boot :
    (pfOpen (atStage 1) 0x0100000 && pfOpen (atStage 6) 0x0100000 && imageArgsOk 0x1000 0x1000000 0x1000000 &&
      !imageArgsOk 0x1000 0x1000001 0x1000000 && !imageArgsOk 0x1001 1 0x1000000 && !imageArgsOk 0 0 0x1000000 &&
      imageArgsOk 0xFFF000 0x100000 0x100000 && !(atStage 5).clk.stopped &&
      ([0, 1, 2, 3].all (fun i => decide (2 ≤ fld (0x3232 : BitVec 16) (4 * i) 4) && decide (fld (0x3232 : BitVec 16) (4 * i) 4 ≤ 3))) &&
      ([0, 1, 2, 3].all (fun i => decide (2 ≤ fld (0x4232 : BitVec 16) (4 * i) 4) && decide (fld (0x4232 : BitVec 16) (4 * i) 4 ≤ 4))) &&
      fld (0x4232 : BitVec 16) (4 * 3) 4 = 4 && alive (atStage 7) && portsTried (atStage 7) &&
      !portsTried (setReg (atStage 7) 0x0C00000 (qw (2 ^ 12))) && ((getPart dev0 0).running).isSome) = true := by decide +kernel

/-- A partition image of one PARTITION section with the tiles of `m`. -/
def smallPi (m : Nat) : List Byte :=
  List.replicate 2848 0 ++ (toLe 8 (1 + 104 * 2 ^ 32) ++ (toLe 8 0 ++ toLe 32 m ++ List.replicate 64 0)) ++ List.replicate 4627 0

theorem test_wit_images :
    ((hostGet (atStage 2) 0 0x1000 64).isSome && (hostGet (atStage 6) 0 0x1000 64).isSome && imageArgsOk 0x1000 64 0x100000 &&
      pfOpen dev0 0x0100040 && alive dev0 && isReady dev0 && bitOf (0x10 : Word32) 4 && !dev0.boot.piBusy &&
      (let d := { dev0 with
         boot := { dev0.boot with piBusy := true, piPart := 0 }
         pmg := { dev0.pmg with parts := [(0, { (getPart dev0 0) with sliceOver := some 0, reload := true })] } }
       d.boot.piBusy && (getPart d 0).reload && switchPoint d 0 = some (some 1) && alive d &&
       !(ctxsIn d 0).any (fun q => q.2.saved.isSome) &&
       (ctxsIn { d with pmg := { d.pmg with
         ctxs := [(1, { ctx1 with saved := some { deques := [], hold := [], tasks := [], kept := [], keptAt := [], keptSat := [] } })] } } 0).any (fun q => q.2.saved.isSome))) = true := by
  decide +kernel

theorem test_wit_pi : ((piOf (smallPi 7)).map (fun x => x.tiles), tilesOf dev0 0) = (some 7, 7) ∧ (piOf (smallPi 3)).isSome = true := by
  decide +kernel

theorem test_wit_identity :
    (truOpen dev0 && !dev0.tru.keysErased && truOpen { dev0 with tru := { dev0.tru with keysErased := true } } && (getFn dev0 0).bme) = true := by
  decide +kernel

/-- The device quiesced, its context WAITING, with a request at host address 0 whose first bytes are `b`. -/
def devQ (b : List Nat) : Dev :=
  { dev0 with
    boot := { dev0.boot with quiesce := true }
    pmg := { dev0.pmg with ctxs := [(1, { ctx1 with st := .waiting })] }
    tru := { dev0.tru with challenge := some 1 }
    host := memPuts [] 0 (b.map (fun x => BitVec.ofNat 8 x)) }

theorem test_wit_signed :
    (pfOpen dev0 0x0F00010 && isReady dev0 && !quiesced dev0 && quiesced (devQ [1]) && (devQ [1]).tru.challenge = some 1 &&
      dev0.tru.challenge = none && (hostGet (devQ [1]) 0 (truBa (devQ [1])) 7227).isSome &&
      ([[0], [1], [2], [3], [64]].all (fun b =>
        match hostGet (devQ b) 0 0 8 with
        | some bs => leAt bs 0 1 = b.headD 9 && leAt bs 0 1 ≤ 64 && leAt bs 1 1 ≤ 1 && allZero (sub bs 1 7) && allZero (sub bs 2 6)
        | none => false)) &&
      (match hostGet (devQ [0]) 0 0 72 with
       | some bs => leAt bs 0 1 ≤ 1 && allZero (sub bs 1 7)
       | none => false) &&
      !(({ devQ [1] with pmg := { dev0.pmg with ctxs := [] } } : Dev).pmg.ctxs.any (fun p => p.2.st ≠ CtxState.free) || !dev0.cox.models.isEmpty) &&
      otpActive dev0 5 = some 0 && otpActive dev0 6 = some 0 && !(otpGen dev0 0 1).written && (otpGen dev0 0 0).written &&
      !(otpGen dev0 1 0).written && ([1, 2, 3].all (fun j => !(otpGen dev0 1 j).written))) = true := by decide +kernel

/-! ## Witnesses: the tollhouse -/

theorem test_wit_toll_counting :
    (let d := { dev0 with
       toll := { dev0.toll with taps := [.step 0 0 1 2 1 2 3 4], ready := true }
       cwy := { dev0.cwy with acc := [(0, { egress := true, part := 0, fn := 0, model := 1, vid := 2, bytes := 256 })] } }
     d.toll.taps = [.step 0 0 1 2 1 2 3 4] && d.toll.ready && !d.clk.stopped && (tfind d.cwy.acc 0).isSome && d.clk.railsUp &&
     { d.toll with taps := [.register 0 0 1 2] }.taps = [.register 0 0 1 2] && { d.toll with taps := [.otpState []] }.taps = [.otpState []] &&
     holdsCounts { CSet.init with prompt := 1 } && !Toll.init.ready) = true := by decide +kernel

theorem test_wit_toll_mailbox :
    (dev0.toll.ready && !dev0.clk.stopped && (getFn dev0 0).bme && (getFn devV 1).bme &&
      (let d := { dev0 with toll := { dev0.toll with queue := [(0, 2)] }, host := memPuts [] 0 ([3, 0, 0, 0, 0, 0, 0, 0] ++ List.replicate 34 0 ++ [1]) }
       d.toll.queue = [(0, 2)] &&
       (match hostGet d 0 (tollBa d 0) 44 with
        | some q => leAt q 0 1 = 3 && leAt q 42 2 = 1 && allZero (sub q 1 7)
        | none => false) && (hostGet d 0 (tollBa d 0) 7323).isSome && (hostGet d 0 (tollBa d 0) 7315).isSome)) = true := by
  decide +kernel

/-! ## Results worked out by hand or given by the spec's worked examples -/

/-- The task after one instruction of opcode class 0 to 2. -/
def afterI (i : Fetch → Instr) (k : Task) (prog : List Nat) (c : Task → Bool) : Bool := runAnd (exec (i fx) (st (devProg k prog))) c

/-- R160: SHL and SHR use bits [5:0] of the amount: 65 shifts by 1. -/
theorem test_shl_65 : afterI .shl { task0 with r := [(1, 3), (2, 65)] } [iw 0x0D (4 * 2 ^ 50 + 1 * 2 ^ 44 + 2 * 2 ^ 38)]
    (fun k => getR k 4 = 6) = true := by decide +kernel
/-- R160: SHR is logical. -/
theorem test_shr_logical : afterI .shr { task0 with r := [(1, 0x8000000000000000)] } [iw 0x0E (4 * 2 ^ 50 + 1 * 2 ^ 44 + 2 ^ 37 + 4)]
    (fun k => getR k 4 = 0x0800000000000000) = true := by decide +kernel
/-- R160: MUL keeps the low 64 bits, with a sign-extended immediate of -1. -/
theorem test_mul_minus_one : afterI .mul { task0 with r := [(1, 5)] } [iw 0x0F (4 * 2 ^ 50 + 1 * 2 ^ 44 + 2 ^ 37 + 0xFFFFFFFF)]
    (fun k => getR k 4 = 0xFFFFFFFFFFFFFFFB) = true := by decide +kernel
/-- R159: SUB. -/
theorem test_sub : afterI .sub { task0 with r := [(1, 3), (2, 5)] } [iw 0x09 (4 * 2 ^ 50 + 1 * 2 ^ 44 + 2 * 2 ^ 38)]
    (fun k => getR k 4 = 0xFFFFFFFFFFFFFFFE) = true := by decide +kernel
/-- R159: LIH writes the upper half only. -/
theorem test_lih : afterI .lih { task0 with r := [(1, 0x1122334455667788)] } [iw 0x07 (1 * 2 ^ 50 + 0xAABBCCDD)]
    (fun k => getR k 1 = 0xAABBCCDD55667788) = true := by decide +kernel
/-- R159, R161: LOOP counts down and jumps by instructions; the LOOP stands at word 2. -/
theorem test_loop : afterI .loop { task0 with r := [(1, 2)], pc := 2 } [0, iw 0x03 (1 * 2 ^ 50 + 0xFFFFFFFF)]
    (fun k => getR k 1 = 1 && k.pc = 0) = true ∧
    afterI .loop { task0 with r := [(1, 1)], pc := 2 } [0, iw 0x03 (1 * 2 ^ 50 + 0xFFFFFFFF)] (fun k => getR k 1 = 0 && k.pc = 4) = true := by
  decide +kernel
/-- R158: BR with COND LT on a negative register. -/
theorem test_br_lt : afterI .br { task0 with r := [(1, 0x8000000000000000)] } [iw 0x02 (1 * 2 ^ 50 + 2 * 2 ^ 32 + 3)] (fun k => k.pc = 6) = true := by
  decide +kernel

/-- R45: 1.0 + 2^-24 ties to the even 1.0, and 1.5 - 0.25 = 1.25. -/
theorem test_fp_add : (add32 0x3F800000 0x33800000, add32 0x3FC00000 0xBE800000) = (0x3F800000, 0x3FA00000) := by decide +kernel
/-- 1.5 × 1.5 = 2.25; a fused 1.5 × 1.5 - 2.25 = +0; 2^127 × 2 overflows to infinity. -/
theorem test_fp_mul : (mul32 0x3FC00000 0x3FC00000, fma32 0x3FC00000 0x3FC00000 0xC0100000, mul32 0x7F000000 0x40000000) =
    (0x40100000, 0, 0x7F800000) := by decide +kernel

/-- The products of the example of "Accumulation and conversion": 1 at position 0 and 3 × 2^-28 at positions 8 to 15. -/
def exampleProducts : List Machine.Num := numOne :: List.replicate 7 numZero ++ List.replicate 8 (.fin false 3 (2 ^ 28)) ++ List.replicate 112 numZero
/-- The worked example of R54 and R56: the ordinary path gives 1.0, the stroke path one unit in the last place more. -/
theorem test_paths : (passOrdinary exampleProducts, passStroke exampleProducts) = (0x3F800000, 0x3F800001) := by decide +kernel

/-- R67's example: -0.2 becomes 0x0 in E2M1. -/
theorem test_e2m1_zero : (cvtElem { tfmt := 6, clip := true, flush := false } (.fin true 1 5)).1 = 0 := by decide +kernel

/-- The block of the escape example: 40.0 at index 7, -2.9 at 20, 0.3 at 3, the others 0.1. -/
def exampleBlock : List Machine.Num := (List.range 32).map (fun i =>
  if i = 7 then .fin false 40 1 else if i = 20 then .fin true 29 10 else if i = 3 then .fin false 3 10 else .fin false 1 10)
/-- The worked escape example of R73 to R75: scale 0x7E, slot 0x6907, codes 0x7, 0xF and 0x1; without the escape the scale is 8 and
the outlier 4.0. -/
theorem test_escape :
    (let b := cvtBlock { tfmt := 6, clip := true, flush := false } 1 1 exampleBlock
     (b.scale, b.slots, b.codes.getD 7 0, b.codes.getD 20 0, b.codes.getD 3 0)) = (0x7E, [0x6907, 0], 0x7, 0xF, 0x1) ∧
    (let b := cvtBlock { tfmt := 6, clip := true, flush := false } 1 0 exampleBlock
     (b.scale, b.codes.getD 7 0, b.codes.getD 20 0)) = (0x82, 0x6, 0x9) := by decide +kernel
/-- R79's reading of the example block: bins 37, 33 and 30. -/
theorem test_hist_bins : (histBin (.fin false 40 1), histBin (.fin true 29 10), histBin (.fin false 3 10)) = (37, 33, 30) := by decide +kernel
/-- The split-3 of pi of R77, and the split-2 of -12,345 of R78. -/
theorem test_splits : split3 (dec32 0x40490FDB) = [0x4049, 0x3A7E, 0xB5A0] ∧
    (split2 false (numInt (-12345))).1 = [unsignedOf 8 (-48), unsignedOf 8 (-57)] := by decide +kernel

/-- The routes of R229's table. -/
theorem test_hops : [hops 77 78, hops 0 63, hops 0 127, hops 0 255] = [1, 14, 22, 38] ∧
    (meshX 77, meshY 77, meshX 200, meshY 200) = (13, 1, 24, 1) := by decide +kernel

/-- R556: above the cap the reach of the highest frequency steps down first, ties to the lower number. -/
theorem test_cap_step :
    (let d := { dev0 with clk := { dev0.clk with samples := [1400], capForce := 3, steps := [(0, 1), (1, 0), (2, 0), (3, 0)] } }
     nextAnd (exec .powerControlLoop (st d)) (fun s => reachStep s.dev 0 = 1 && reachStep s.dev 1 = 1 && reachStep s.dev 2 = 0)) = true := by
  decide +kernel

/-- The worked example of R268: three splits, the last one masked, l = 1.375; a row whose every key is masked gives +0. -/
theorem test_merge :
    (mergeLevels 3 [{ m := 0x40000000, l := 0x40400000, o := [] }, { m := 0x40A00000, l := 0x3F800000, o := [] },
        { m := 0xFF800000, l := 0, o := [] }]).map (fun p => (p.m, p.l)) = [(0x40A00000, 0x3FB00000)] ∧
    mergeRow [{ m := 0xFF800000, l := 0, o := [0] }, { m := 0xFF800000, l := 0, o := [0] }] = [0] := by decide +kernel

/-! ## Witnesses: clauses beside the plain case -/

/-- The head of a queue that no DMA of its tile holds; the tile is not stopped. -/
theorem test_wit_issue_free : (match taskS.queue with
    | q :: _ => !dmaHolds (devProg taskS []) 0 taskS q && !(tileWith taskS []).stopped
    | [] => false) = true := by decide +kernel

/-- A CVT to E2M1 with scales over blocks of 32 and escapes: three destination ranges. -/
theorem test_wit_conversion_scaled :
    issues task0 [iw 0x56 0, iw 0x50 (2 ^ 6 + 6 * 2 ^ 27 + 9 * 2 ^ 19 + 2 ^ 16)] 0x50 (some 0x56) (fun x k w p =>
      !passHeld k (cvtSlots w) && smFmt (fld w 19 8) = 1 && !smDir (fld w 19 8) && fld w 16 2 = 1 && okAnd (cvtValues x k w p) (fun _ =>
        okAnd (mkRng k 0 (getR k (4 * fld w 6 3)) 0 (fld w 47 9 + 1) k.oc.eStride.toNat (rowBytes (fld w 27 4) (fld w 36 11 + 1) / 4) true) (fun e =>
        okAnd (mkRng k 1 (getR k (4 * fld w 6 3 + 1)) 0 (scaleShape (fld w 19 8) 1 1).1 k.oc.sStride.toNat
          (cdiv ((scaleShape (fld w 19 8) 1 1).2 * scaleBytes (smFmt (fld w 19 8))) 4) true) (fun r1 =>
        okAnd (mkRng k 2 (getR k (4 * fld w 6 3 + 2)) 0 (fld w 47 9 + 1) k.oc.xStride.toNat (cdiv (fld w 36 11 + 1) 32) true) (fun r2 =>
        okAnd (claimRanges x [e, r1, r2] k.nextId) (fun _ => true)))))) = true := by decide +kernel

/-- The tile of the plain CVT and CVTS of `test_wit_conversion_issue` has its slots and destinations free. -/
theorem test_wit_conversion_free :
    (issues task0 [iw 0x56 0, iw 0x50 (2 ^ 6 + 3 * 2 ^ 27)] 0x50 (some 0x56) (fun x k w _ => !bitOf w 5 && !bitOf w 13 && x.bad.isEmpty &&
        x.sb.isEmpty && (cvtSlots w).all (fun j => winReadable x (elemOff k j 0) 65536) &&
        okAnd (mkRng k 0 (getR k (4 * fld w 6 3)) 0 (fld w 47 9 + 1) k.oc.eStride.toNat (rowBytes (fld w 27 4) (fld w 36 11 + 1) / 4) true)
          (fun e => deckWritable x e.phys (rngSpan e)))
      && issues task0 [iw 0x56 0, iw 0x51 (2 ^ 6)] 0x51 (some 0x56) (fun x k w _ => !bitOf w 5 && !bitOf w 13 && x.bad.isEmpty &&
        x.sb.isEmpty && (cvtSlots w).all (fun j => winReadable x (elemOff k j 0) 65536) &&
        okAnd ((List.range 3).mapM (fun i => mkRng k i (getR k (4 * fld w 6 3 + i)) 0 (fld w 47 9 + 1)
          k.oc.eStride.toNat (alignUp (cdiv ((fld w 36 11 + 1) * 16) 8) 4 / 4) true)) (fun rs => rs.all (fun r => deckWritable x r.phys (rngSpan r)))))
      = true := by decide +kernel

/-- A PUT of the source to the subscriber that is not served yet holds a delivery, and the device without one does not. -/
theorem test_wit_delivery_order : (earlierWrite (devX .put 0 .waiting) 0 1 12 && !earlierWrite (devX .sub 0 .waiting) 0 1 12) = true := by
  decide +kernel

/-- Slot 0 as a VERIFY entry that has reported three accepted drafts, with an entry of the next step. -/
def admV : Admitted := { adm0 with kind := 2, reported := true, outcome := some { tokens := [1, 2, 3, 4], accept := 3, badDist := false } }
/-- The device with slot 0 in VERIFY in the running and in the built step. -/
def devV2 : Dev :=
  { devS with
    cox := { devS.cox with
      slots := [(0, { Slot.init with st := .active, owner := some 1, cr := 1, gen := 1 })]
      steps := [(1, { CtxSteps.init with cur := some { step0 with admitted := [admV] }, nxt := some { step0 with num := 1, admitted := [{ adm0 with kind := 2 }], phase := .built } })] } }

theorem test_wit_verify_patch :
    ((match stepOf devV2 1 0, stepOf devV2 1 1 with
      | some st, some nx => (st.admitted[0]?).isSome && (findEntry devV2 nx 0).isSome && nx.admitted.all (fun b => 4 < b.entry.length && b.kind = 2)
      | _, _ => false) && (getModel devV2 0).isSome &&
     (match reportCheck adm0 false (toLe 8 0x10000 ++ toLe 8 65) [] with
      | .error (.fault c _) => c = fIllegalInstr
      | _ => false)) = true := by decide +kernel

/-- R288: after three accepted drafts the next step's entry of the slot starts four positions on, from the last token. -/
theorem test_verify_patch :
    (match stepOf (patchVerify devV2 1 0 0) 1 1 with
     | some nx => nx.admitted.map (fun b => (b.c, b.pendBefore)) = [(4, some 4)]
     | none => false) = true := by decide +kernel

/-- Each way on for a slot of a written step: dropped with and without a next step, and leaving its last step. -/
theorem test_wit_settle_more :
    (let a := { adm0 with dropped := true, cancelled := true }
     sameSlot devV2 a.slot a.handle && !ctxDead devV2 1 && ((stepOf devV2 1 1).bind (fun n => findEntry devV2 n 0)).isSome &&
     ((stepOf devS 1 1).bind (fun n => findEntry devS n 0)).isNone && !sameSlot devS a.slot 0x20000 &&
     (match cutPageList devS 1 model0 (getSlot devS 0).list 0 with
      | .ok r => r.2.2 = []
      | .error _ => false) && model0.draft.isNone &&
     !insertsLeft devS 0 && insertsLeft { devS with key := { devS.key with ops := [(0, [.insert 0 1 0 []])] } } 0 &&
     { Slot.init with st := .cancelling }.st = .cancelling && { Slot.init with st := .active, retirePend := true }.retirePend) = true := by
  decide +kernel

theorem test_wit_cancel_states :
    (([.ready, .parked, .cancelling, .recalling] : List SlotState).all (fun s => ([0x14, 0x15] : List Nat).all (fun op =>
        taken (devCmd s [(0, 1, op), (8, 4, 0x10000)]) (entryOp op) (fun d t => names0 d t && (getSlot d 0).st = s)))
      && ([0x14, 0x15] : List Nat).all (fun op => taken (devCmd .free [(0, 1, op), (8, 4, 0x10000)]) (entryOp op) (fun d t => !names0 d t))
      && (let d := devCmd .active [(0, 1, 0x14), (8, 4, 0x10000)]
          taken (setSlot d 0 { getSlot d 0 with leaving := true }) (entryOp 0x14) (fun d t => names0 d t && (getSlot d 0).leaving))) = true := by
  decide +kernel

/-- The port of a flow sends it next, and a request that nothing answered may be repeated; a flow is stalled after its TIMEOUT. -/
theorem test_wit_flow_turns :
    (portNext devF 0 = some 2 &&
      portNext { devF with cwy := { devF.cwy with flows := [(16384, flow0)] } } 0 = some 16384 && mayRepeat devF { flow0 with reqSent := true } &&
      !stalled devF flow0 && stalled { devF with now := 200000 } flow0) = true := by decide +kernel

/-- The slice of the running context before and at its end, and its grace. -/
theorem test_wit_slice_ends :
    (!sliceDue dev2 0 1 && sliceDue { dev2 with now := 100000 } 0 1 && !commitRuns dev2 1 &&
      commitRuns { dev2 with xlt := { dev2.xlt with commits := [(0, { busy := true, result := 0, done := 1, cr := 1 })] } } 1 &&
      (let d := { devS with pmg := { dev2.pmg with parts := [(0, { (getPart dev2 0) with sliceOver := some 0 })] } }
       decide (usSince d 0 < partGrace d 0) && decide (partGrace { d with now := 1000000 } 0 ≤ usSince { d with now := 1000000 } 0))) = true := by
  decide +kernel

/-- A partition that is quiesced, one with nothing to run, and one whose regulators carry nothing. -/
theorem test_wit_switch_more :
    (let d := { dev2 with pmg := { dev2.pmg with parts := [(0, { (getPart dev2 0) with sliceOver := some 0 })] } }
     let q := { d with boot := { d.boot with quiesce := true } }
     let b := { d with pmg := { d.pmg with ctxs := [(1, { ctx1 with runnable := false })] } }
     let r := setReg d 0x0200418 0
     switchPoint q 0 = some (some 1) && switchPoint b 0 = some (some 1) && (pickNext (countLc (handOver b 0 (some 1)) 0) 0 (some 1)).2.isNone &&
     (pickNext (countLc (handOver r 0 (some 1)) 0) 0 (some 1)).2 = some 2 && regulatorBad r 0 && (getPart d 0).phase ≠ .resetting) = true := by
  decide +kernel

/-- An overrun of a record that is free, of a commit, of an insert, and of neither. -/
theorem test_wit_overrun :
    ((getCtx dev2 9).st = .free && (getCtx dev2 1).st ≠ .free && (insertRuns dev2 1).isNone && !dev2.clk.stopped &&
      insertRuns { devS with key := { devS.key with ops := [(0, [.insert 0 1 0 []])] } } 1 = some 0) = true := by decide +kernel

/-- A context that is being swapped out from slot 4, of one saved 64 KiB, and one that is being swapped in. -/
def devSw (st : CtxState) : Dev :=
  let d := setReg dev2 (0x0200800 + 8 * 4) (qw (0x810 + 2 ^ 20))
  { d with pmg := { d.pmg with ctxs := [(1, ctx1), (2, { ctx1 with st := st, vctx := 1, cslot := some 4 })] } }

theorem test_wit_swap_data :
    ((getCtx (devSw .swappingOut) 2).cslot = some 4 && (pierPoison (devSw .swappingOut) (saveArea (devSw .swappingOut) 2) 64).isNone &&
      (devSw .swappingOut).pier.poison.isEmpty && (getFn (devSw .swappingOut) 0).master && (getCtx (devSw .swappingIn) 2).st = .swappingIn &&
      !(getFn (setFn (devSw .swappingIn) 0 { getFn dev0 0 with bme := false }) 0).master && Memory.wf (devSw .swappingOut).pier.mem) = true := by
  decide +kernel

/-- A partition that is being reset, with a context whose teardown has ended and with one that is still torn down. -/
theorem test_wit_resetting :
    (let d := { dev2 with pmg := { dev2.pmg with
       parts := [(0, { (getPart dev2 0) with running := none, phase := .resetting })], ctxs := [(1, { ctx1 with st := .faulted, tornDown := true })] } }
     (getPart d 0).phase = .resetting && (ctxsIn d 0).all (fun q => !q.2.tearing) && (ctxsIn dev2 0).length = 2 &&
     ctxsIn { dev2 with pmg := { dev2.pmg with ctxs := [] } } 0 = []) = true := by decide +kernel

/-- The task watchdog before and at 1,000,000 ticks. -/
theorem test_wit_watchdog : (decide (watchdogTicks dev0 task0 < 1000000) && decide (1000000 ≤ watchdogTicks { dev0 with now := 1000000 } task0)) = true := by
  decide +kernel

end Sys2Proof.Tests
end

/-! PROOFS. What one issue of a scalar instruction does: the results of the register instructions and the targets of
branches (R158 to R161), and the scalar loads and stores (R164). -/

namespace Sys2Proof.Machine

/-! ## The answer of one issue -/

theorem issuing_run {x : Tile} {k : Task} (h : issuing x = some k) : x.run = some k := by
  unfold issuing at h
  split at h
  next k' hrun =>
    split at h
    · cases h
    · exact hrun.trans h
  next => cases h

section
variable {s : State} {f : Fetch} {op : Nat} {x : Tile} {k : Task} {w p : Word64}

theorem onDev_seqTask {k' : Task} {act : Task → Word64 → Task} (h : atInstr s.dev f op none = some (x, k, w, p))
    (ha : act k w = k') : onDev s (seqTask f op act) = .next (s.withTask f.tile x k') := by
  rw [onDev_eq, seqTask_ok h, ha, State.withTask]

theorem onDev_seqTile {y : Tile} {k' : Task} {pre : Option Nat} {act : Tile → Task → Word64 → Word64 → Eff (Tile × Task)}
    (h : atInstr s.dev f op pre = some (x, k, w, p)) (ha : act x k w p = .ok (y, k')) :
    onDev s (seqTile f op pre act) = .next (s.withTask f.tile y k') := by
  rw [onDev_eq, seqTile_ok h ha, State.withTask]

/-- The fault record names the task as it was when the instruction issued, with its PC at the instruction (R430, R432). -/
theorem onDev_seqTile_fault {c i : Nat} {pre : Option Nat} {act : Tile → Task → Word64 → Word64 → Eff (Tile × Task)}
    (h : atInstr s.dev f op pre = some (x, k, w, p)) (ha : act x k w p = .error (.fault c i)) :
    ∃ k0, (getTile s.dev f.tile.toNat).run = some k0 ∧ onDev s (seqTile f op pre act) =
      .next { s with dev := tileFault (setTile s.dev f.tile.toNat x) f.tile.toNat k0 k0.pc c i } := by
  have hstep : ∃ k0, issuing (getTile s.dev f.tile.toNat) = some k0 ∧
      seqTile f op pre act s.dev = tileFault (setTile s.dev f.tile.toNat x) f.tile.toNat k0 k0.pc c i := by
    unfold seqTile
    exact seqStep_fault h (by simp [ha])
  obtain ⟨k0, hissuing, hfault⟩ := hstep
  exact ⟨k0, issuing_run hissuing, by rw [onDev_eq, hfault]⟩

end

/-! ## Register instructions (R158 to R160) -/

theorem setR_writes (k : Task) (n : Nat) (v : Word64) :
    getR (setR k n v) n = v ∧ (∀ i, i ≠ n → getR (setR k n v) i = getR k i) ∧ { setR k n v with r := k.r } = k :=
  ⟨by simp, fun i hi => by simp [hi], setR_frame k n v⟩

theorem writesRd_of_setR {s : State} {mk : Fetch → Instr} {op : Nat} {v : Task → Word64 → Word64}
    (hexec : ∀ f, exec (mk f) s = onDev s (seqTask f op (fun k w => setR k (rdOf w) (v k w)))) : writesRd s mk op v := by
  intro f x k w p h
  exact ⟨_, (hexec f).trans (onDev_seqTask h rfl), setR_writes k (rdOf w) (v k w)⟩

theorem writesRd_of_aluD {s : State} {mk : Fetch → Instr} {op : Nat} {g : Word64 → Word64 → Word64}
    (hexec : ∀ f, exec (mk f) s = onDev s (aluD f op g)) :
    writesRd s mk op (fun k w => g (getR k (fld w 44 6)) (src2 k w)) :=
  writesRd_of_setR hexec

/-! ## Branches (R159, R161) -/

section
variable {s : State} {f : Fetch} {x : Tile} {k : Task} {w p : Word64}

theorem exec_nop (h : atInstr s.dev f 0x00 none = some (x, k, w, p)) : exec (.nop f) s = .next (s.withTask f.tile x k) :=
  onDev_seqTask h rfl

theorem exec_jmp (h : atInstr s.dev f 0x01 none = some (x, k, w, p)) :
    exec (.jmp f) s = .next (s.withTask f.tile x (branch k w)) :=
  onDev_seqTask h rfl

theorem exec_br (h : atInstr s.dev f 0x02 none = some (x, k, w, p)) :
    exec (.br f) s = .next (s.withTask f.tile x
      { k with pc := if brCond (fld w 32 3) (getR k (rdOf w)) then (branch k w).pc else k.pc }) := by
  refine onDev_seqTask h ?_
  by_cases hc : brCond (fld w 32 3) (getR k (rdOf w)) = true
  · rw [if_pos hc]; exact if_pos hc
  · rw [if_neg hc]; exact if_neg hc

/-- LOOP leaves the loop when the lowered RD is zero, which is when RD was one. -/
theorem exec_loop (h : atInstr s.dev f 0x03 none = some (x, k, w, p)) :
    exec (.loop f) s = .next (s.withTask f.tile x { setR k (rdOf w) (getR k (rdOf w) - 1) with
      pc := if getR k (rdOf w) = 1 then k.pc else (branch k w).pc }) := by
  refine onDev_seqTask h ?_
  have hzero : getR k (rdOf w) - 1 = 0 ↔ getR k (rdOf w) = 1 := sub_eq_zero
  by_cases hone : getR k (rdOf w) = 1
  · rw [if_pos hone]; exact if_pos (hzero.2 hone)
  · rw [if_neg hone]; exact if_neg (mt hzero.1 hone)

end

/-- Settles O2: every register instruction is one write of RD, and every branch one write of the PC. -/
theorem scalarAndBranchResults : Obligations.ScalarAndBranchResults := by
  refine ⟨fun s => ⟨?li, ?lih, ?add, ?sub, ?and, ?or, ?xor, ?shl, ?shr, ?mul⟩,
    fun s f x k w p => ⟨exec_nop, exec_jmp, exec_br, fun h => ?loop⟩⟩
  case li => exact writesRd_of_setR fun _ => rfl
  case lih => exact writesRd_of_setR fun _ => rfl
  case add => exact writesRd_of_aluD fun _ => rfl
  case sub => exact writesRd_of_aluD fun _ => rfl
  case and => exact writesRd_of_aluD fun _ => rfl
  case or => exact writesRd_of_aluD fun _ => rfl
  case xor => exact writesRd_of_aluD fun _ => rfl
  case shl => exact writesRd_of_aluD (g := fun a b => a <<< (b.toNat % 64)) fun _ => rfl
  case shr => exact writesRd_of_aluD (g := fun a b => a >>> (b.toNat % 64)) fun _ => rfl
  case mul => exact writesRd_of_aluD fun _ => rfl
  case loop =>
    obtain ⟨hrd, hother, -⟩ := setR_writes k (rdOf w) (getR k (rdOf w) - 1)
    exact ⟨_, exec_loop h, hrd, hother, rfl⟩

/-! ## Deck access of a scalar load or store (R130, R142, R150, R151) -/

theorem deckReadable_reads {x : Tile} {a n : Nat} (h : deckReadable x a n = true) :
    readHeld x a n = false ∧ deckRead x a n = .ok (memGets x.mem (4 * a) (4 * n)) := by
  simp only [deckReadable, Bool.and_eq_true, Bool.not_eq_true', Option.isNone_iff_eq_none] at h
  obtain ⟨⟨⟨hheld, hwaking⟩, hoff⟩, hbad⟩ := h
  exact ⟨hheld, by simp [deckRead, winRead, hwaking, hoff, hbad]⟩

theorem deckWritable_writes {x : Tile} {a n : Nat} (h : deckWritable x a n = true) :
    writeHeld x a n = false ∧
      ∀ bs : List Byte, bs.length = 4 * n → deckWrite x a bs = .ok (tilePut x (4 * a) bs) := by
  simp only [deckWritable, Bool.and_eq_true, Bool.not_eq_true'] at h
  obtain ⟨⟨⟨hheld, hwaking⟩, hoff⟩, hdraining⟩ := h
  exact ⟨hheld, fun bs hlen => by simp [deckWrite, winWrite, hlen, hwaking, hoff, hdraining]⟩

theorem leNat_lt (bs : List Byte) : leNat bs < 256 ^ bs.length := by
  induction bs with
  | nil => simp [leNat]
  | cons b r ih =>
    have hb : b.toNat < 256 := b.isLt
    rw [leNat, List.length_cons, Nat.pow_succ]
    omega

theorem mem32_zeroExtend (m : Memory) (a : Nat) : (mem32 m a).setWidth 64 = BitVec.ofNat 64 (leNat (memGets m a 4)) := by
  have hlt : leNat (memGets m a 4) < 2 ^ 32 := by simpa [memGets] using leNat_lt (memGets m a 4)
  apply BitVec.eq_of_toNat_eq
  simp only [mem32, BitVec.toNat_setWidth, BitVec.toNat_ofNat, Nat.mod_eq_of_lt hlt]

/-! ## Scalar loads and stores (R164) -/

section
variable {s : State} {f : Fetch} {op n : Nat} {x : Tile} {k : Task} {w p : Word64} {a : Nat}

/-- The odd-word check passes a single word anywhere, and two words at an even one. -/
theorem evenOperand_passes (heven : n = 2 → a % 2 = 0) : faultIf (n = 2 && a % 2 = 1) fDeckBound = .ok () := by
  by_cases hn : n = 2
  · simp [faultIf, hn, heven hn]
  · simp [faultIf, hn]

theorem onDev_loadD (h : atInstr s.dev f op none = some (x, k, w, p))
    (ha : deckOperand k (fld w 45 5) (offOf w) n false = .ok a) (heven : n = 2 → a % 2 = 0) (hr : deckReadable x a n = true) :
    onDev s (loadD f op n) = .next (s.withTask f.tile x
      (setR k (rdOf w) (BitVec.ofNat 64 (leNat (memGets x.mem (4 * a) (4 * n)))))) := by
  obtain ⟨hheld, hread⟩ := deckReadable_reads hr
  exact onDev_seqTile h (by simp [ha, evenOperand_passes heven, holdIf, hheld, hread, rdOf, bind, Except.bind])

theorem onDev_storeD (h : atInstr s.dev f op none = some (x, k, w, p))
    (ha : deckOperand k (fld w 45 5) (offOf w) n true = .ok a) (heven : n = 2 → a % 2 = 0) (hw : deckWritable x a n = true) :
    onDev s (storeD f op n) = .next (s.withTask f.tile (tilePut x (4 * a) (toLe (4 * n) (getR k (rdOf w)).toNat)) k) := by
  obtain ⟨hheld, hwrite⟩ := deckWritable_writes hw
  exact onDev_seqTile h (by simp [ha, evenOperand_passes heven, holdIf, hheld, hwrite, rdOf, bind, Except.bind])

/-- The odd-word check stands before every access, so an odd operand of two words faults whatever would follow. -/
theorem oddOperand_faults {α : Type} {ra : Nat} {off : Int} {store : Bool} (rest : Nat → Eff α)
    (ha : deckOperand k ra off 2 store = .ok a) (hodd : a % 2 = 1) :
    (do let a ← deckOperand k ra off 2 store
        faultIf (2 = 2 && a % 2 = 1) fDeckBound
        rest a) = .error (.fault fDeckBound 0) := by
  simp [ha, hodd, faultIf, faultE, bind, Except.bind]

theorem exec_ldd_odd (h : atInstr s.dev f 0x11 none = some (x, k, w, p))
    (ha : deckOperand k (fld w 45 5) (offOf w) 2 false = .ok a) (hodd : a % 2 = 1) :
    ∃ k0, (getTile s.dev f.tile.toNat).run = some k0 ∧ exec (.ldd f) s =
      .next { s with dev := tileFault (setTile s.dev f.tile.toNat x) f.tile.toNat k0 k0.pc fDeckBound 0 } :=
  onDev_seqTile_fault h (oddOperand_faults _ ha hodd)

theorem exec_std_odd (h : atInstr s.dev f 0x13 none = some (x, k, w, p))
    (ha : deckOperand k (fld w 45 5) (offOf w) 2 true = .ok a) (hodd : a % 2 = 1) :
    ∃ k0, (getTile s.dev f.tile.toNat).run = some k0 ∧ exec (.std f) s =
      .next { s with dev := tileFault (setTile s.dev f.tile.toNat x) f.tile.toNat k0 k0.pc fDeckBound 0 } :=
  onDev_seqTile_fault h (oddOperand_faults _ ha hodd)

theorem atInstr_memWf {pre : Option Nat} (hs : s.safe = true) (h : atInstr s.dev f op pre = some (x, k, w, p)) :
    Memory.wf x.mem = true := by
  rw [atInstr_mem h]
  exact safe_tile hs _

end

/-- Settles O3: a load is one write of RD with the operand's words, a store one write of the tile's window, and the odd-word
check comes before either. -/
theorem scalarMemory : Obligations.ScalarMemory := by
  refine ⟨fun s f x k w p a => ⟨fun h ha hr => ?ldw, fun h ha heven hr => ?ldd, fun store h ha hodd => ?odd⟩,
    fun s f x k w p a hs => ⟨fun h ha hw => ?stw, fun h ha heven hw => ?std⟩⟩
  case ldw =>
    rw [mem32_zeroExtend]
    exact ⟨_, onDev_loadD h ha (fun h2 => absurd h2 (by decide)) hr, setR_writes _ _ _⟩
  case ldd => exact ⟨_, onDev_loadD h ha (fun _ => heven) hr, setR_writes _ _ _⟩
  case odd =>
    cases store with
    | false => exact exec_ldd_odd h ha hodd
    | true => exact exec_std_odd h ha hodd
  case stw =>
    exact ⟨_, onDev_storeD h ha (fun h2 => absurd h2 (by decide)) hw, stored _ _ _ (atInstr_memWf hs h)⟩
  case std => exact ⟨_, onDev_storeD h ha (fun _ => heven) hw, stored _ _ _ (atInstr_memWf hs h)⟩

end Sys2Proof.Machine

/-! PROOFS. The registers of the step builder, contexts and translation that answer a selection or hold a window: COX_VFWIN
(R314), COX_SLOT_SEL (R315), PMG_CTX_SEL (R468) and XLT_CTX_TBL (R420). -/

namespace Sys2Proof.Machine

/-! ## A register write's answer and function -/

theorem onDev_next {s : State} {f : Dev → Dev} {d' : Dev} (h : f s.dev = d') : onDev s f = .next { s with dev := d' } := by
  rw [onDev_eq, h]

/-- The commands name a function as a word, the tables by its number: both name the PF by zero. -/
theorem func_eq_zero_iff (n : Func) : n = 0 ↔ n.toNat = 0 := (BitVec.toNat_inj (y := 0#6)).symm

section
variable {d : Dev} {v : Word64}

/-! ## Slot windows (R314) -/

section
variable {n : Nat}

theorem vfwinD_stored (hopen : pfOpen d 0x0400800 = true) (hwho : d.hif.vfEnable = false ∨ n = 0)
    (hfits : fld v 0 16 + fld v 16 17 ≤ 65536) (hclear : winMeets d n (fld v 0 16) (fld v 16 17) = false) :
    vfwinD n v d = setReg d (0x0400800 + 8 * n) (BitVec.ofNat 64 (fld v 0 33)) := by
  have hnotLong := Nat.not_lt.2 hfits
  obtain hoff | rfl := hwho
  · simp [vfwinD, hopen, hoff, hnotLong, hclear]
  · simp [vfwinD, hopen, hnotLong, hclear]

theorem vfwinD_refused (h : (d.hif.vfEnable = true ∧ n ≠ 0) ∨ 65536 < fld v 0 16 + fld v 16 17 ∨
    winMeets d n (fld v 0 16) (fld v 16 17) = true) : vfwinD n v d = d := by
  obtain ⟨hon, hvf⟩ | hlong | hmeets := h
  · simp [vfwinD, hon, hvf]
  · simp [vfwinD, hlong]
  · simp [vfwinD, hmeets]

end

/-! ## The snapshot of a slot (R315) -/

theorem slotSelD_cox (hopen : pfOpen d 0x0400100 = true) :
    (slotSelD v d).cox = { d.cox with slotInfo := slotInfo d (fld v 0 16) } := by
  simp [slotSelD, hopen]

theorem reg_slotSelD (hopen : pfOpen d 0x0400100 = true) :
    reg (slotSelD v d) 0x0400100 = BitVec.ofNat 64 (fld v 0 16) := by
  rw [slotSelD, if_pos hopen]
  exact (reg_setReg d _ _ _).trans (if_pos rfl)

/-! ## The snapshot of a context (R468) -/

@[simp] theorem setFnReg_pmg (d : Dev) (fn off voff : Nat) (w : Word64) : (setFnReg d fn off voff w).pmg = d.pmg := by
  unfold setFnReg
  split <;> rfl

/-- A VF's snapshot leaves its context number out (log 56). -/
theorem ctxSelD_pmg {fn : Nat} (hopen : fnOpen d fn 0x0201020 = true) :
    (ctxSelD fn v d).pmg = { d.pmg with
      info := tset d.pmg.info fn ((ctxOf d (if fn = 0 then fld v 0 6 else fn) (fld v 6 7)).elim 0
        (fun cr => ctxInfo d cr (fn ≠ 0))) } := by
  cases hctx : ctxOf d (if fn = 0 then fld v 0 6 else fn) (fld v 6 7) <;> simp [ctxSelD, hopen, hctx]

/-! ## XLT_CTX_TBL (R420) -/

section
variable {c : Nat}

/-- The value is stored as written wherever its frames lie (log 55). -/
theorem ctxTblD_stored (hopen : pfOpen d 0x0B01000 = true)
    (hunmapped : ∀ cr, recInSlot d c = some cr → (getMaps d cr).leaves = []) :
    ctxTblD c v d = setReg d (0x0B01000 + 8 * c) (BitVec.ofNat 64 (fld v 0 33)) := by
  cases hrec : recInSlot d c with
  | none => simp [ctxTblD, hopen, hrec]
  | some cr => simp [ctxTblD, hopen, hrec, hunmapped cr hrec]

theorem ctxTblD_of_mapped {cr : Nat} (hrec : recInSlot d c = some cr) (hmapped : (getMaps d cr).leaves ≠ []) :
    ctxTblD c v d = d := by
  simp [ctxTblD, hrec, hmapped]

end

end

/-- Settles O32: each command is one of the four register writes above, on the device alone. -/
theorem windowsAndSnapshots : Obligations.WindowsAndSnapshots := by
  refine fun s => ⟨fun n v hopen => ?window, fun v hopen => ?slot, fun fn v hopen => ?context, fun c v hopen => ?table⟩
  case window =>
    exact ⟨fun hwho hfits hclear => onDev_next (vfwinD_stored hopen (hwho.imp_right (func_eq_zero_iff n).1) hfits hclear),
      fun hrefused => onDev_next (vfwinD_refused (hrefused.imp_left (And.imp_right (mt (func_eq_zero_iff n).2))))⟩
  case slot => exact ⟨_, onDev_eq _ _, reg_slotSelD hopen, by rw [slotSelD_cox hopen], by rw [slotSelD_cox hopen], rfl⟩
  case context =>
    simp only [func_eq_zero_iff fn]
    refine ⟨_, onDev_eq _ _, by rw [ctxSelD_pmg hopen], rfl, fun cr hsome => ?_, fun hnone => ?_⟩
    · simp [ctxSelD_pmg hopen, hsome]
    · simp [ctxSelD_pmg hopen, hnone]
  case table =>
    exact ⟨fun hunmapped => onDev_next (ctxTblD_stored hopen hunmapped),
      fun cr hrec hmapped => onDev_next (ctxTblD_of_mapped hrec hmapped)⟩

end Sys2Proof.Machine

/-! PROOFS. Every memory of the block stays in canonical form (log 4): one lemma for each function of the model that answers a
device, a tile or a memory, in the order of the model's text, and the dispatch table put together from them. -/

namespace Sys2Proof.Machine

open Sys2Proof

/-! ## Devices whose memories are in canonical form -/

/-- Every tile of a table has its window in canonical form. -/
def TilesFormed (ts : Tbl Tile) : Prop := ∀ p ∈ ts, Memory.wf p.2.mem = true

/-- Host memory, pier and every tile's window are in canonical form: `State.safe` of the device alone. -/
def Dev.formed (d : Dev) : Prop := Memory.wf d.host = true ∧ Memory.wf d.pier.mem = true ∧ TilesFormed d.tiles

theorem safe_iff_formed (s : State) : s.safe = true ↔ s.dev.formed := by
  simp [State.safe, Dev.formed, TilesFormed, and_assoc]

theorem Dev.formed.host {d : Dev} (h : d.formed) : Memory.wf d.host = true := h.1
theorem Dev.formed.pier {d : Dev} (h : d.formed) : Memory.wf d.pier.mem = true := h.2.1
theorem Dev.formed.tiles {d : Dev} (h : d.formed) : TilesFormed d.tiles := h.2.2

theorem formed_mk {d : Dev} (hh : Memory.wf d.host = true) (hp : Memory.wf d.pier.mem = true) (ht : TilesFormed d.tiles) : d.formed :=
  ⟨hh, hp, ht⟩

theorem Dev.formed.congr {d d' : Dev} (h : d.formed) (hh : d'.host = d.host) (hp : d'.pier.mem = d.pier.mem) (ht : d'.tiles = d.tiles) :
    d'.formed := by
  rw [Dev.formed, hh, hp, ht]; exact h

theorem foldl_keeps {α β : Type} {P : β → Prop} {f : β → α → β} (hf : ∀ b a, P b → P (f b a)) :
    ∀ (l : List α) {b : β}, P b → P (l.foldl f b)
  | [], _, h => h
  | a :: l, _, h => foldl_keeps hf l (hf _ a h)

theorem foldlM_keeps {ε α β : Type} {P : β → Prop} {f : β → α → Except ε β} (hf : ∀ b a r, P b → f b a = .ok r → P r) :
    ∀ (l : List α) {b r : β}, P b → l.foldlM f b = .ok r → P r
  | [], _, _, h, hr => by cases hr; exact h
  | a :: l, b, r, h, hr => by
    rw [List.foldlM_cons] at hr
    cases ha : f b a with
    | error e => rw [ha] at hr; cases hr
    | ok c => rw [ha] at hr; exact foldlM_keeps hf l (hf b a c h ha) hr

theorem Dev.formed.foldl {α : Type} {f : Dev → α → Dev} (hf : ∀ d a, d.formed → (f d a).formed) (l : List α) {d : Dev}
    (h : d.formed) : (l.foldl f d).formed :=
  foldl_keeps hf l h

theorem Dev.formed.foldlM {ε α : Type} {f : Dev → α → Except ε Dev} (hf : ∀ d a r, d.formed → f d a = .ok r → r.formed)
    (l : List α) {d r : Dev} (h : d.formed) (hr : l.foldlM f d = .ok r) : r.formed :=
  foldlM_keeps hf l h hr

theorem Dev.formed.foldl_fst {α β : Type} {f : Dev × β → α → Dev × β} (hf : ∀ p a, p.1.formed → (f p a).1.formed) (l : List α)
    {p : Dev × β} (h : p.1.formed) : (l.foldl f p).1.formed :=
  foldl_keeps (P := fun p : Dev × β => p.1.formed) hf l h

theorem tileWf_foldl {α : Type} {f : Tile → α → Tile} (hf : ∀ x a, Memory.wf x.mem = true → Memory.wf (f x a).mem = true) (l : List α)
    {x : Tile} (h : Memory.wf x.mem = true) : Memory.wf (l.foldl f x).mem = true :=
  foldl_keeps (P := fun x : Tile => Memory.wf x.mem = true) hf l h

theorem tileWf_foldl_fst {α β : Type} {f : Tile × β → α → Tile × β}
    (hf : ∀ p a, Memory.wf p.1.mem = true → Memory.wf (f p a).1.mem = true) (l : List α) {p : Tile × β}
    (h : Memory.wf p.1.mem = true) : Memory.wf (l.foldl f p).1.mem = true :=
  foldl_keeps (P := fun p : Tile × β => Memory.wf p.1.mem = true) hf l h

theorem TilesFormed.tmap {ts : Tbl Tile} {f : Nat → Tile → Tile} (h : TilesFormed ts)
    (hf : ∀ t x, Memory.wf x.mem = true → Memory.wf (f t x).mem = true) : TilesFormed (tmap ts f) := by
  intro p hp
  obtain ⟨q, hq, rfl⟩ := List.mem_map.1 hp
  exact hf _ _ (h q hq)

theorem TilesFormed.tset {ts : Tbl Tile} (h : TilesFormed ts) {t : Nat} {x : Tile} (hx : Memory.wf x.mem = true) :
    TilesFormed (tset ts t x) := by
  intro p hp
  obtain rfl | hp := mem_tset _ _ _ _ hp
  · exact hx
  · exact h p hp

theorem getTile_formed {d : Dev} {t : Nat} (h : d.formed) : Memory.wf (getTile d t).mem = true :=
  safe_tile (s := ⟨[], d⟩) ((safe_iff_formed _).2 h) t

/-- The device of an answer that a match has taken apart. -/
theorem Dev.formed.fst_eq {α : Type} {r : Dev × α} {d : Dev} {a : α} (h : r.1.formed) (e : r = (d, a)) : d.formed := by
  rw [e] at h
  exact h

theorem eff_bind_ok {ε α β : Type} {x : Except ε α} {f : α → Except ε β} {b : β} :
    (x >>= f) = .ok b ↔ ∃ a, x = .ok a ∧ f a = .ok b := by
  cases x <;> simp [bind, Except.bind]

/-! ## The reset state -/

theorem Tile.init_formed : Memory.wf Tile.init.mem = true := rfl

theorem Dev.init_formed : Dev.init.formed := ⟨rfl, rfl, fun p hp => nomatch hp⟩

/-! ## Tables, translation, rings, records and faults -/

theorem setTile_formed {d : Dev} {t : Nat} {x : Tile} (h : d.formed) (h1 : Memory.wf x.mem = true) : (setTile d t x).formed := by
  grind [setTile, Dev.formed.host, Dev.formed.pier, Dev.formed.tiles, formed_mk, TilesFormed.tset]

theorem setCtx_formed {d : Dev} {cr : Nat} {x : Ctx} (h : d.formed) : (setCtx d cr x).formed := h

theorem setPart_formed {d : Dev} {p : Nat} {x : Part} (h : d.formed) : (setPart d p x).formed := h

theorem setSlot_formed {d : Dev} {i : Nat} {x : Slot} (h : d.formed) : (setSlot d i x).formed := h

theorem setSteps_formed {d : Dev} {cr : Nat} {x : CtxSteps} (h : d.formed) : (setSteps d cr x).formed := h

theorem setModel_formed {d : Dev} {m : Nat} {x : Model} (h : d.formed) : (setModel d m x).formed := h

theorem setNode_formed {d : Dev} {n : Nat} {x : Node} (h : d.formed) : (setNode d n x).formed := h

theorem setFlow_formed {d : Dev} {f : Nat} {x : Flow} (h : d.formed) : (setFlow d f x).formed := h

theorem setPort_formed {d : Dev} {l : Nat} {x : LPort} (h : d.formed) : (setPort d l x).formed := h

theorem setFn_formed {d : Dev} {f : Nat} {x : Fn} (h : d.formed) : (setFn d f x).formed := h

theorem setBuf_formed {d : Dev} {p b : Nat} {x : Buf} (h : d.formed) : (setBuf d p b x).formed := h

theorem setReg_formed {d : Dev} {off : Nat} {v : Word64} (h : d.formed) : (setReg d off v).formed := h

theorem debit_formed {d : Dev} {p i n : Nat} (h : d.formed) : (debit d p i n).formed := h

theorem charge_formed {d : Dev} {p i n : Nat} {be : Bool} (h : d.formed) : (charge d p i n be).formed := by
  simp only [charge]
  split <;> exact h

theorem chargeCtx_formed {d : Dev} {cr i n : Nat} (h : d.formed) : (chargeCtx d cr i n).formed := by
  grind [chargeCtx, charge_formed]

theorem chargeRead_formed {d : Dev} {cr va n : Nat} (h : d.formed) : (chargeRead d cr va n).formed := by
  grind [chargeRead, chargeCtx_formed]

theorem chargeBridge_formed {d : Dev} {cr a b n : Nat} (h : d.formed) : (chargeBridge d cr a b n).formed := by
  grind [chargeBridge, chargeCtx_formed]

theorem hostPut_formed {d : Dev} {fn a : Nat} {bs : List Byte} {r : Dev} (h : d.formed) (hr : hostPut d fn a bs = some r) : r.formed := by
  unfold hostPut at hr
  split at hr
  · cases hr
    exact ⟨memPuts_wf _ _ _ h.host, h.pier, h.tiles⟩
  · cases hr

theorem pierPut_formed {d : Dev} {a : Nat} {bs : List Byte} (h : d.formed) : (pierPut d a bs).formed :=
  ⟨h.host, memPuts_wf _ _ _ h.pier, h.tiles⟩

theorem setLink_formed {d : Dev} {k : Nat} {x : Link} (h : d.formed) : (setLink d k x).formed := h

theorem linkPass_formed {d : Dev} {a n : Nat} (h : d.formed) : (linkPass d a n).formed := by
  grind [linkPass, setLink_formed, Dev.formed.host, Dev.formed.pier, Dev.formed.tiles, formed_mk, TilesFormed.tset, Dev.formed.foldl]

theorem withdrawFrame_formed {d : Dev} {word : Nat} (h : d.formed) : (withdrawFrame d word).formed := by
  grind [withdrawFrame, setReg_formed, Dev.formed.host, Dev.formed.pier, Dev.formed.tiles, formed_mk, TilesFormed.tset]

theorem setMaps_formed {d : Dev} {cr : Nat} {m : Maps} (h : d.formed) : (setMaps d cr m).formed := h

theorem setTlb_formed {d : Dev} {e : Nat} {t : Tlb} (h : d.formed) : (setTlb d e t).formed := h

theorem passVa_formed {d : Dev} {cr : Nat} {mdl : Option Nat} {va n : Nat} {write : Bool} (h : d.formed) : (passVa d cr mdl va n
    write).formed := by
  grind [passVa, linkPass_formed]

theorem walkTlb_formed {d : Dev} {e cr : Nat} {l : Leaf} (h : d.formed) : (walkTlb d e cr l).formed := by
  grind [walkTlb, setTlb_formed, chargeCtx_formed]

theorem touchTlb_formed {d : Dev} {e cr : Nat} {mdl : Option Nat} {va : Nat} {write : Bool} (h : d.formed) : (touchTlb d e cr mdl va
    write).formed := by
  grind [touchTlb, setTlb_formed, walkTlb_formed]

theorem dropEnts_formed {d : Dev} {leaf : TlbEnt → Bool} {upper : UpEnt → Bool} (h : d.formed) : (dropEnts d leaf upper).formed := h

theorem dropCtxEnts_formed {d : Dev} {cr : Nat} (h : d.formed) : (dropCtxEnts d cr).formed := h

theorem dropModelEnts_formed {d : Dev} {m : Nat} (h : d.formed) : (dropModelEnts d m).formed := h

theorem dropPageEnts_formed {d : Dev} {cr va n : Nat} (h : d.formed) : (dropPageEnts d cr va n).formed := h

theorem tilePut_formed {x : Tile} {off : Nat} {bs : List Byte} (h : Memory.wf x.mem = true) : Memory.wf (tilePut x off bs).mem = true :=
  tilePut_wf x off bs h

theorem readVaC_formed {d : Dev} {cr : Nat} {mdl : Option Nat} {va n : Nat} {r : Dev × List Byte} (h : d.formed)
    (hr : readVaC d cr mdl va n = .ok r) : r.1.formed := by
  unfold readVaC at hr
  cases hread : readVa d cr mdl va n <;> rw [hread] at hr <;> cases hr
  exact chargeRead_formed h

theorem writePage_formed {d : Dev} {cr : Nat} {mdl : Option Nat} {va : Nat} {bs : List Byte} {counted : List (Nat × Nat)} {via : Via}
    {r : Dev} (h : d.formed) (hr : writePage d cr mdl va bs counted via = .ok r) : r.formed := by
  have hhost : ∀ a, Dev.formed { d with host := memPuts d.host a bs } := fun a => ⟨memPuts_wf _ _ _ h.host, h.pier, h.tiles⟩
  grind [writePage, chargeCtx_formed, pierPut_formed, getTile_formed, setTile_formed, tilePut_formed]

theorem writePages_formed {d : Dev} {cr : Nat} {mdl : Option Nat} {va : Nat} {bs : List Byte} {counted : List (Nat × Nat)} {k : Nat}
    {via : Via} {r : Dev} (h : d.formed) (hr : writePages d cr mdl va bs counted k via = .ok r) : r.formed := by
  induction k generalizing d va bs with
  | zero => cases hr; exact h
  | succ j ih => grind [writePages, writePage_formed]

theorem writeVa_formed {d : Dev} {cr : Nat} {mdl : Option Nat} {va : Nat} {bs : List Byte} {via : Via} {r} (h : d.formed) (hr :
    writeVa d cr mdl va bs via = .ok r) : r.formed := by
  grind [writeVa, writePages_formed]

theorem setRing_formed {d : Dev} {k : Nat} {x : Ring} (h : d.formed) : (setRing d k x).formed := h

theorem sendMsix_formed {d : Dev} {fn v : Nat} (h : d.formed) : (sendMsix d fn v).formed := by
  grind [sendMsix, Dev.formed.host, Dev.formed.pier, Dev.formed.tiles, formed_mk, TilesFormed.tset]

theorem ringNotify_formed {d : Dev} {k : Nat} (h : d.formed) : (ringNotify d k).formed := by
  grind [ringNotify, sendMsix_formed, setRing_formed]

theorem ringPut_formed {d : Dev} {k cr a : Nat} {bs : List Byte} {r} (h : d.formed) (hr : ringPut d k cr a bs = .ok r) : r.formed := by
  grind [ringPut, hostPut_formed, writeVa_formed]

theorem ringPush_formed {d : Dev} {k cr size : Nat} {entries : List (List Byte)} (h : d.formed) :
    (ringPush d k cr size entries).1.formed := by
  unfold ringPush
  extract_lets x put
  have hput : ∀ r, put = .ok r → r.formed := by
    refine foldl_keeps (P := fun acc : Except Bad Dev => ∀ r, acc = .ok r → r.formed) ?_ _ (fun r hr => by cases hr; exact h)
    intro acc p hacc r hr
    grind [ringPut_formed]
  grind [ringPut_formed, setRing_formed, ringNotify_formed]

theorem putRecord_formed {d : Dev} {k cr : Nat} {mk : Nat → List Byte} (h : d.formed) : (putRecord d k cr mk).1.formed := by
  grind [putRecord, setRing_formed, ringPush_formed]

theorem ctxRecord_formed {d : Dev} {cr code kind : Nat} {own copy : Bool} {i : Info} (h : d.formed) : ((ctxRecord d cr code kind own
    copy i).1).formed := by
  grind [ctxRecord, putRecord_formed]

theorem ownFault_formed {r : Dev × Option Bad} {cr : Nat} (h : r.1.formed) : (ownFault r cr).formed := by
  unfold ownFault
  split
  · exact h
  · exact ctxRecord_formed h

theorem devRecord_formed {d : Dev} {code kind part : Nat} {i : Info} (h : d.formed) : (devRecord d code kind part i).formed := by
  grind [devRecord, putRecord_formed]

theorem uncount_formed {x : Tile} {us : List Nat} (h : Memory.wf x.mem = true) : Memory.wf (uncount x us).mem = true := by
  grind [uncount, Dev.formed.host, Dev.formed.pier, Dev.formed.tiles, formed_mk, Dev.formed.foldl, Dev.formed.foldlM, tileWf_foldl]

theorem uncountOut_formed {d : Dev} {us : List (Nat × Nat)} (h : d.formed) : (uncountOut d us).formed := by
  grind [uncountOut, setTile_formed, uncount_formed, getTile_formed, Dev.formed.host, Dev.formed.pier, Dev.formed.tiles, formed_mk,
    TilesFormed.tset, Dev.formed.foldl]

theorem dropXfer_formed {d : Dev} {i : Nat} (h : d.formed) : (dropXfer d i).formed := by
  grind [dropXfer, setTile_formed, uncount_formed, getTile_formed, uncountOut_formed, Dev.formed.host, Dev.formed.pier,
    Dev.formed.tiles, formed_mk, TilesFormed.tset]

theorem tileDrop_formed {cr : Nat} {x : Tile} (h : Memory.wf x.mem = true) : Memory.wf (tileDrop cr x).mem = true := h

theorem catchDrop_formed {d : Dev} {cr : Nat} (h : d.formed) : (catchDrop d cr).formed := by
  grind [catchDrop, dropXfer_formed, tileDrop_formed, Dev.formed.host, Dev.formed.pier, Dev.formed.tiles, formed_mk, TilesFormed.tmap,
    Dev.formed.foldl, Dev.formed.foldlM, tileWf_foldl]

theorem dropRequest_formed {d : Dev} {p : Nat} (h : d.formed) : (dropRequest d p).formed := by
  grind [dropRequest, Dev.formed.host, Dev.formed.pier, Dev.formed.tiles, formed_mk, TilesFormed.tmap]

theorem beginTeardown_formed {d : Dev} {cr : Nat} (h : d.formed) : (beginTeardown d cr).formed := by
  grind [beginTeardown, catchDrop_formed, setPart_formed, dropRequest_formed, setCtx_formed, setSteps_formed, Dev.formed.host,
    Dev.formed.pier, Dev.formed.tiles, formed_mk, TilesFormed.tset]

theorem ctxFault_formed {d : Dev} {cr code : Nat} {i : Info} (h : d.formed) : (ctxFault d cr code i).formed := by
  unfold ctxFault
  grind [ownFault_formed, ctxRecord_formed, beginTeardown_formed]

theorem accessFault_formed {d : Dev} {cr : Nat} {b : Bad} {i : Info} (h : d.formed) : (accessFault d cr b i).formed := by
  grind [accessFault, withdrawFrame_formed, ctxFault_formed]

theorem ctxEvent_formed {d : Dev} {cr code : Nat} {i : Info} (h : d.formed) : (ctxEvent d cr code i).formed := by
  grind [ctxEvent, ctxRecord_formed, accessFault_formed]

theorem deviceFatal_formed {d : Dev} {cause stack : Nat} {i : Info} (h : d.formed) : (deviceFatal d cause stack i).formed := by
  grind [deviceFatal, devRecord_formed, ctxRecord_formed, beginTeardown_formed, Dev.formed.host, Dev.formed.pier, Dev.formed.tiles,
    formed_mk, TilesFormed.tset, Dev.formed.foldl]

theorem fwRead_formed {d : Dev} {a n : Nat} {f : Dev → Dev} (hf : ∀ d, d.formed → (f d).formed) (h : d.formed) :
    (fwRead d a n f).formed := by
  unfold fwRead
  split
  · exact hf d h
  · exact deviceFatal_formed h

/-! ## Registers -/

theorem setFnReg_formed {d : Dev} {fn off voff : Nat} {v : Word64} (h : d.formed) : (setFnReg d fn off voff v).formed := by
  simp only [setFnReg]
  split <;> exact h

/-! ## One issue of a sequencer -/

theorem applyEcc_formed {x : Tile} {e : Ecc} (h : Memory.wf x.mem = true) : Memory.wf (applyEcc x e).mem = true := by
  simp only [applyEcc]
  split <;> exact h

theorem tileFault_formed {d : Dev} {t : Nat} {k : Task} {pc : BitVec 32} {code detail : Nat} (h : d.formed) : (tileFault d t k pc
    code detail).formed := by
  grind [tileFault, ctxFault_formed]

theorem seqStep_formed {f : Fetch} {op : Nat} {pre : Option Nat} {act : Dev → Nat → Tile → Task → Word64 → Word64 → Eff Dev} {d : Dev}
    (hact : ∀ d t x k w p r, d.formed → Memory.wf x.mem = true → act d t x k w p = .ok r → r.formed) (h : d.formed) :
    (seqStep f op pre act d).formed := by
  have hx : Memory.wf (applyEcc (getTile d f.tile.toNat) f.ecc).mem = true := applyEcc_formed (getTile_formed h)
  have h1 := setTile_formed h hx (t := f.tile.toNat)
  grind [seqStep, tileFault_formed]

theorem seqTile_formed {f : Fetch} {op : Nat} {pre : Option Nat} {act : Tile → Task → Word64 → Word64 → Eff (Tile × Task)} {d : Dev}
    (hact : ∀ x k w p r, Memory.wf x.mem = true → act x k w p = .ok r → Memory.wf r.1.mem = true) (h : d.formed) :
    (seqTile f op pre act d).formed := by
  refine seqStep_formed (fun d t x k w p r hd hx hr => ?_) h
  cases ha : act x k w p with
  | error e => simp [ha] at hr
  | ok y =>
    simp only [ha, Except.ok.injEq] at hr
    subst hr
    exact setTile_formed hd (hact x k w p y hx ha)

theorem seqTask_formed {f : Fetch} {op : Nat} {act : Task → Word64 → Task} {d : Dev} (h : d.formed) : (seqTask f op act d).formed :=
  seqTile_formed (fun _ _ _ _ _ hx hr => by cases hr; exact hx) h

theorem winWrite_formed {x : Tile} {off : Nat} {bs : List Byte} {r : Tile} (h : Memory.wf x.mem = true)
    (hr : winWrite x off bs = .ok r) : Memory.wf r.mem = true := by
  grind [winWrite, waitE, faultE, tilePut_formed]

theorem deckWrite_formed {x : Tile} {w : Nat} {bs : List Byte} {r} (h : Memory.wf x.mem = true) (hr : deckWrite x w bs = .ok r) :
    Memory.wf r.mem = true := by
  grind [deckWrite, winWrite_formed]

theorem putElems_formed {x : Tile} {k : Task} {j i : Nat} {vs : List Word32} (h : Memory.wf x.mem = true) : Memory.wf (putElems x k
    j i vs).mem = true := by
  grind [putElems, tilePut_formed]

theorem setSat_formed {x : Tile} {k : Task} {j : Nat} {b : Bool} (h : Memory.wf x.mem = true) : Memory.wf (setSat x k j b).mem =
    true := h

theorem sbAdd_formed {x : Tile} {w n : Nat} {write : Bool} {o : SbOwner} (h : Memory.wf x.mem = true) : Memory.wf (sbAdd x w n write
    o).mem = true := h

theorem sbDel_formed {x : Tile} {o : SbOwner} (h : Memory.wf x.mem = true) : Memory.wf (sbDel x o).mem = true := h

/-! ## Scalar instructions and slot moves -/

theorem aluD_formed {f : Fetch} {op : Nat} {g : Word64 → Word64 → Word64} {d : Dev} (h : d.formed) : (aluD f op g d).formed :=
  seqTask_formed h

theorem markRelease_formed {d : Dev} {t : Nat} {keep : List (Nat × Nat)} (h : d.formed) : (markRelease d t keep).formed := h

theorem taskEndD_formed {t : Nat} {d : Dev} (h : d.formed) : (taskEndD t d).formed := by
  grind [taskEndD, getTile_formed, markRelease_formed, setTile_formed]

theorem loadD_formed {f : Fetch} {op n : Nat} {d : Dev} (h : d.formed) : (loadD f op n d).formed := by
  refine seqTile_formed (fun x k w p r hx hr => ?_) h
  obtain ⟨_, -, hr⟩ := eff_bind_ok.1 hr
  obtain ⟨_, -, hr⟩ := eff_bind_ok.1 hr
  obtain ⟨_, -, hr⟩ := eff_bind_ok.1 hr
  obtain ⟨_, -, hr⟩ := eff_bind_ok.1 hr
  cases hr
  exact hx

theorem storeD_formed {f : Fetch} {op n : Nat} {d : Dev} (h : d.formed) : (storeD f op n d).formed := by
  refine seqTile_formed (fun x k w p r hx hr => ?_) h
  obtain ⟨_, -, hr⟩ := eff_bind_ok.1 hr
  obtain ⟨_, -, hr⟩ := eff_bind_ok.1 hr
  obtain ⟨_, -, hr⟩ := eff_bind_ok.1 hr
  obtain ⟨x1, hwrite, hr⟩ := eff_bind_ok.1 hr
  cases hr
  exact deckWrite_formed hx hwrite

theorem movda_formed {f : Fetch} {d : Dev} (h : d.formed) : (movda f d).formed := by
  refine seqTile_formed (fun x k w p r hx hr => ?_) h
  dsimp only at hr
  obtain ⟨_, -, hr⟩ := eff_bind_ok.1 hr
  obtain ⟨_, -, hr⟩ := eff_bind_ok.1 hr
  obtain ⟨_, -, hr⟩ := eff_bind_ok.1 hr
  obtain ⟨x1, hwrite, hr⟩ := eff_bind_ok.1 hr
  cases hr
  exact winWrite_formed hx hwrite

theorem movad_formed {f : Fetch} {d : Dev} (h : d.formed) : (movad f d).formed := by
  refine seqTile_formed (fun x k w p r hx hr => ?_) h
  dsimp only at hr
  obtain ⟨_, -, hr⟩ := eff_bind_ok.1 hr
  obtain ⟨_, -, hr⟩ := eff_bind_ok.1 hr
  obtain ⟨_, -, hr⟩ := eff_bind_ok.1 hr
  obtain ⟨x1, hwrite, hr⟩ := eff_bind_ok.1 hr
  cases hr
  exact deckWrite_formed hx hwrite

theorem clearSlot_formed {x : Tile} {k : Task} {j : Nat} (h : Memory.wf x.mem = true) : Memory.wf (clearSlot x k j).mem = true :=
  setSat_formed (memZero_wf _ _ _ h)

theorem aclr_formed {f : Fetch} {d : Dev} (h : d.formed) : (aclr f d).formed := by
  refine seqTile_formed (fun x k w p r hx hr => ?_) h
  dsimp only at hr
  obtain ⟨_, -, hr⟩ := eff_bind_ok.1 hr
  obtain ⟨_, -, hr⟩ := eff_bind_ok.1 hr
  cases hr
  exact tileWf_foldl (fun _ _ hx => clearSlot_formed hx) _ hx

/-! ## Passes -/

theorem enqueue_formed {kind : QKind} {x : Tile} {k : Task} {w p : Word64} {r} (h : Memory.wf x.mem = true) (hr : enqueue kind x k w
    p = .ok r) : Memory.wf (r.1).mem = true := by
  grind [enqueue, Dev.formed.host, Dev.formed.pier, Dev.formed.tiles, formed_mk, TilesFormed.tset, eff_bind_ok, pure, Except.pure]

theorem matmul_formed {f : Fetch} {d : Dev} (h : d.formed) : (matmul f d).formed := by
  refine seqTile_formed (fun x k w p r hx hr => ?_) h
  obtain ⟨_, -, hr⟩ := eff_bind_ok.1 hr
  obtain ⟨r1, henqueue, hr⟩ := eff_bind_ok.1 hr
  cases hr
  exact enqueue_formed (r := r1) hx henqueue

theorem stageEntry_formed {x : Tile} {k : Task} {i : Nat} {q : QEntry} {r : Tile × Task} (h : Memory.wf x.mem = true)
    (hr : stageEntry x k i q = .ok r) : Memory.wf r.1.mem = true := by
  have hsb : ∀ rs : List Rng, Memory.wf (rs.foldl (fun x r => sbAdd x r.phys (rngSpan r) false (.stage q.id r.num)) x).mem = true :=
    fun rs => tileWf_foldl (fun _ _ hx => sbAdd_formed hx) rs h
  unfold stageEntry at hr
  obtain ⟨rs, -, hr⟩ := eff_bind_ok.1 hr
  obtain ⟨-, -, hr⟩ := eff_bind_ok.1 hr
  obtain ⟨-, -, hr⟩ := eff_bind_ok.1 hr
  dsimp only at hr
  (repeat' split at hr) <;> simp only [eff_bind_ok, Except.ok.injEq] at hr <;> grind

theorem taskPart_formed {t : Nat} {d : Dev} {pc : BitVec 32} {act : Tile → Task → Eff (Tile × Task)}
    (hact : ∀ x k r, Memory.wf x.mem = true → act x k = .ok r → Memory.wf r.1.mem = true) (h : d.formed) :
    (taskPart t d pc act).formed := by
  grind [taskPart, getTile_formed, setTile_formed, tileFault_formed]

theorem stageD_formed {t : Nat} {e : Ecc} {d : Dev} (h : d.formed) : (stageD t e d).formed := by
  unfold stageD
  split
  · exact h
  split
  · exact h
  split
  · exact h
  · exact taskPart_formed (fun _ _ _ hx hr => stageEntry_formed hx hr) (setTile_formed h (applyEcc_formed (getTile_formed h)))

theorem stagingDoneD_formed {t r : Nat} {d : Dev} (h : d.formed) : (stagingDoneD t r d).formed := by
  refine taskPart_formed (fun x k r hx hr => ?_) h
  split at hr
  · cases hr
  · cases hr
    exact sbDel_formed hx

theorem issueHead_formed {x : Tile} {k : Task} {r : Tile × Task} (h : Memory.wf x.mem = true) (hr : issueHead x k = .ok r) :
    Memory.wf r.1.mem = true := by
  grind [issueHead, waitE]

theorem passIssue_formed {t : Nat} {d : Dev} (h : d.formed) : (passIssue t d).formed := by
  unfold passIssue
  split
  · exact h
  refine taskPart_formed (fun x k r hx hr => ?_) h
  replace hr : (if (match k.queue.head? with | some q => dmaHolds d t k q | none => false) then waitE else issueHead x k) = .ok r := hr
  by_cases hheld : (match k.queue.head? with | some q => dmaHolds d t k q | none => false) = true
  · rw [if_pos hheld] at hr
    cases hr
  · rw [if_neg hheld] at hr
    exact issueHead_formed hx hr

theorem passElem_formed {k : Task} {p : Pass} {x : Tile} {mn : Nat × Nat} (h : Memory.wf x.mem = true) : Memory.wf (passElem k p x
    mn).mem = true := by
  grind [passElem, putElems_formed, setSat_formed]

theorem passResults_formed {x : Tile} {k : Task} {p : Pass} {r} (h : Memory.wf x.mem = true) (hr : passResults x k p = .ok r) :
    Memory.wf r.mem = true := by
  grind [passResults, setSat_formed, passElem_formed, Dev.formed.host, Dev.formed.pier, Dev.formed.tiles, formed_mk, eff_bind_ok,
    pure, Except.pure, holdIf, faultIf, Dev.formed.foldl, Dev.formed.foldlM, tileWf_foldl]

theorem drainD_formed {t : Nat} {scullPath : Bool} {d : Dev} (h : d.formed) : (drainD t scullPath d).formed := by
  unfold drainD
  split
  · exact h
  split
  · exact h
  split
  · exact h
  refine taskPart_formed (fun x k r hx hr => ?_) h
  obtain ⟨x1, hpass, hr⟩ := eff_bind_ok.1 hr
  cases hr
  exact passResults_formed hx hpass

/-! ## The rigger -/

theorem laneOp_formed {f : Fetch} {op : Nat} {g : Word64 → Word32 → Word32 → Word32 → Word32} {d : Dev} (h : d.formed) :
    (laneOp f op g d).formed :=
  seqTile_formed (by grind [holdIf, eff_bind_ok]) h

/-! ## The output stage -/

theorem cvtCount_formed {x : Tile} {k : Task} {w : Word64} {zs : List (List Num)} (h : Memory.wf x.mem = true) : Memory.wf
    ((cvtCount x k w zs).1).mem = true := h

theorem claimRanges_formed {x : Tile} {rs : List Rng} {id : Nat} {r} (h : Memory.wf x.mem = true) (hr : claimRanges x rs id = .ok r)
    : Memory.wf r.mem = true := by
  grind [claimRanges, sbAdd_formed, Dev.formed.host, Dev.formed.pier, Dev.formed.tiles, formed_mk, eff_bind_ok, pure, Except.pure,
    holdIf, faultIf, Dev.formed.foldl, Dev.formed.foldlM, tileWf_foldl]

theorem cvt_formed {f : Fetch} {d : Dev} (h : d.formed) : (cvt f d).formed := by
  refine seqTile_formed (fun x k w p r hx hr => ?_) h
  dsimp only at hr
  obtain ⟨_, -, hr⟩ := eff_bind_ok.1 hr
  obtain ⟨_, -, hr⟩ := eff_bind_ok.1 hr
  split at hr
  all_goals
    obtain ⟨_, -, hr⟩ := eff_bind_ok.1 hr
    split at hr
  all_goals
    obtain ⟨_, -, hr⟩ := eff_bind_ok.1 hr
    obtain ⟨zs, -, hr⟩ := eff_bind_ok.1 hr
    obtain ⟨x1, hclaim, hr⟩ := eff_bind_ok.1 hr
    cases hr
    exact cvtCount_formed (k := k) (w := w) (zs := zs) (claimRanges_formed hx hclaim)

theorem cvts_formed {f : Fetch} {d : Dev} (h : d.formed) : (cvts f d).formed := by
  refine seqTile_formed (fun x k w p r hx hr => ?_) h
  dsimp only at hr
  obtain ⟨_, -, hr⟩ := eff_bind_ok.1 hr
  obtain ⟨_, -, hr⟩ := eff_bind_ok.1 hr
  obtain ⟨zs, -, hr⟩ := eff_bind_ok.1 hr
  obtain ⟨x1, hclaim, hr⟩ := eff_bind_ok.1 hr
  cases hr
  exact cvtCount_formed (k := k) (w := w) (zs := zs) (claimRanges_formed hx hclaim)

theorem putCells_formed {x : Tile} {cs : List Host.Cell} (h : Memory.wf x.mem = true) : Memory.wf (putCells x cs).mem = true :=
  memCells_wf _ _ h

theorem convDone_formed {x : Tile} {k : Task} {r : Tile × Task} (h : Memory.wf x.mem = true) (hr : convDone x k = .ok r) :
    Memory.wf r.1.mem = true := by
  grind [convDone, waitE, sbDel_formed, putCells_formed]

/-! ## Slide transfers -/

theorem syncEngineAs_formed {d : Dev} {e : Nat} {st : EngState} (h : d.formed) : (syncEngineAs d e st).formed := by
  grind [syncEngineAs, Dev.formed.host, Dev.formed.pier, Dev.formed.tiles, formed_mk, TilesFormed.tset]

theorem syncEngine_formed {d : Dev} {t : Nat} (h : d.formed) : (syncEngine d t).formed := by
  grind [syncEngine, syncEngineAs_formed]

theorem launch_formed {d : Dev} {t : Nat} {x : Tile} {k : Task} {xf : Xfer} (h : d.formed) (h1 : Memory.wf x.mem = true) : (launch d
    t x k xf).formed := by
  grind [launch, setTile_formed, syncEngine_formed, Dev.formed.host, Dev.formed.pier, Dev.formed.tiles, formed_mk, TilesFormed.tset]

theorem dmaD_formed {f : Fetch} {d : Dev} (h : d.formed) : (dmaD f d).formed := by
  refine seqStep_formed (fun d t x k w p r hd hx hr => ?_) h
  dsimp only at hr
  obtain ⟨_, -, hr⟩ := eff_bind_ok.1 hr
  obtain ⟨_, -, hr⟩ := eff_bind_ok.1 hr
  obtain ⟨_, -, hr⟩ := eff_bind_ok.1 hr
  obtain ⟨_, -, hr⟩ := eff_bind_ok.1 hr
  split at hr
  · obtain ⟨_, -, hr⟩ := eff_bind_ok.1 hr
    cases hr
    exact launch_formed hd (sbAdd_formed hx)
  · cases hr
    exact launch_formed hd hx

theorem pageMoveD_formed {f : Fetch} {op : Nat} {gather : Bool} {d : Dev} (h : d.formed) : (pageMoveD f op gather d).formed := by
  refine seqStep_formed (fun d t x k w p r hd hx hr => ?_) h
  dsimp only at hr
  obtain ⟨_, -, hr⟩ := eff_bind_ok.1 hr
  split at hr
  · cases hr
  obtain ⟨_, -, hr⟩ := eff_bind_ok.1 hr
  obtain ⟨_, -, hr⟩ := eff_bind_ok.1 hr
  obtain ⟨_, -, hr⟩ := eff_bind_ok.1 hr
  split at hr
  · obtain ⟨_, -, hr⟩ := eff_bind_ok.1 hr
    cases hr
    exact launch_formed hd (tileWf_foldl (fun _ _ hx => sbAdd_formed hx) _ hx)
  · cases hr
    exact launch_formed hd hx

theorem countPage_formed {x : Tile} {k : Task} {xf : Xfer} {i : Nat} (h : Memory.wf x.mem = true) :
    Memory.wf (countPage x k xf i).1.mem = true := by
  refine tileWf_foldl_fst (fun p a hp => ?_) _ h
  dsimp only
  split <;> exact hp

theorem countOut_formed {d : Dev} {xf : Xfer} {i : Nat} (h : d.formed) : (countOut d xf i).1.formed := by
  refine Dev.formed.foldl_fst (fun p a hp => ?_) _ h
  dsimp only
  split
  · exact hp
  · exact setTile_formed hp (getTile_formed hp)

theorem moveDma_formed {d : Dev} {xf : Xfer} {x : Tile} {k : Task} {mdl : Option Nat} {r : Dev} (h : d.formed)
    (hr : moveDma d xf x k mdl = .ok r) : r.formed := by
  refine h.foldlM (fun d s r hd hs => ?_) _ hr
  dsimp only at hs
  split at hs <;> simp only [eff_bind_ok] at hs
  · obtain ⟨bs, -, -, -, hs⟩ := hs
    cases hs
    exact passVa_formed (chargeRead_formed (setTile_formed hd (tilePut_formed (getTile_formed hd))))
  · obtain ⟨bs, -, d1, hwrite, hs⟩ := hs
    cases hs
    exact passVa_formed (writePages_formed hd hwrite)

theorem moveKv_formed {d : Dev} {xf : Xfer} {x : Tile} {k : Task} {mdl : Option Nat} {r : Dev} (h : d.formed)
    (hr : moveKv d xf x k mdl = .ok r) : r.formed := by
  simp only [moveKv, eff_bind_ok] at hr
  obtain ⟨e, -, d1, hruns, hr⟩ := hr
  have h1 : d1.formed := by
    refine h.foldlM (fun d p r hd hp => ?_) _ hruns
    split at hp
    · cases hp
    split at hp
    · simp only [eff_bind_ok] at hp
      obtain ⟨-, -, hp⟩ := hp
      split at hp
      · cases hp
      · cases hp
        exact linkPass_formed (chargeCtx_formed (setTile_formed hd (tilePut_formed (getTile_formed hd))))
    · simp only [eff_bind_ok] at hp
      obtain ⟨bs, -, hp⟩ := hp
      cases hp
      exact linkPass_formed (chargeCtx_formed (pierPut_formed hd))
  split at hr
  · exact writePages_formed (chargeRead_formed h1) hr
  · cases hr
    exact chargeRead_formed h1

theorem touchPage_formed {d : Dev} {xf : Xfer} {mdl : Option Nat} {i : Nat} (h : d.formed) : (touchPage d xf mdl i).formed := by
  grind [touchPage, touchTlb_formed, Dev.formed.host, Dev.formed.pier, Dev.formed.tiles, formed_mk, TilesFormed.tset,
    Dev.formed.foldl]

theorem pageEcc_formed {d : Dev} {xf : Xfer} {e : Ecc} (h : d.formed) : (pageEcc d xf e).formed := by
  have hecc : ∀ e, (setTile d xf.tile.toNat (applyEcc (getTile d xf.tile.toNat) e)).formed :=
    fun _ => setTile_formed h (applyEcc_formed (getTile_formed h))
  have hpoison : ∀ ws, Dev.formed { d with pier := { d.pier with poison := ws } } := fun _ => h
  unfold pageEcc
  grind [withdrawFrame_formed]

theorem movePage_formed {d : Dev} {xf : Xfer} {x : Tile} {k : Task} {r} (h : d.formed) (h1 : Memory.wf x.mem = true) (hr : movePage
    d xf x k = .ok r) : r.formed := by
  grind [movePage, moveDma_formed, moveKv_formed]

theorem slideFault_formed {d : Dev} {xf : Xfer} {k : Task} {b : Bad} (h : d.formed) : (slideFault d xf k b).formed := by
  grind [slideFault, accessFault_formed]

theorem countedPage_formed {d : Dev} {xf : Xfer} {k : Task} {i : Nat} (h : d.formed) : ((countedPage d xf k i).1).formed := by
  grind [countedPage, countPage_formed, getTile_formed, setTile_formed, countOut_formed]

theorem pageMoved_formed {d : Dev} {xf : Xfer} {k : Task} (h : d.formed) : (pageMoved d xf k).formed := by
  grind [pageMoved, setTile_formed, uncount_formed, getTile_formed, uncountOut_formed, Dev.formed.host, Dev.formed.pier,
    Dev.formed.tiles, formed_mk, TilesFormed.tset]

theorem demandD_formed {i : Nat} {e : Ecc} {d : Dev} (h : d.formed) : (demandD i e d).formed := by
  unfold demandD
  grind [getTile_formed, pageEcc_formed, countedPage_formed, movePage_formed, slideFault_formed, syncEngine_formed, pageMoved_formed,
    touchPage_formed]

theorem runAheadD_formed {i : Nat} {e : Ecc} {d : Dev} (h : d.formed) : (runAheadD i e d).formed := by
  unfold runAheadD
  grind [getTile_formed, pageEcc_formed, countedPage_formed, movePage_formed, touchPage_formed, syncEngine_formed,
    syncEngineAs_formed, Dev.formed.host, Dev.formed.pier, Dev.formed.tiles, formed_mk]

theorem endXfer_formed {d : Dev} {xf : Xfer} {trestle : Bool} (h : d.formed) : (endXfer d xf trestle).formed := by
  grind [endXfer, sbDel_formed, getTile_formed, dropXfer_formed, setTile_formed]

theorem dmaDoneD_formed {i : Nat} {d : Dev} (h : d.formed) : (dmaDoneD i d).formed := by
  grind [dmaDoneD, syncEngine_formed, endXfer_formed]

/-! ## The trestle -/

theorem countRange_formed {x : Tile} {off n : Nat} (h : Memory.wf x.mem = true) : Memory.wf (countRange x off n).1.mem = true := by
  refine tileWf_foldl_fst (fun p a hp => ?_) _ h
  dsimp only
  split <;> exact hp

theorem remoteD_formed {f : Fetch} {op : Nat} {isFetch : Bool} {d : Dev} (h : d.formed) : (remoteD f op isFetch d).formed := by
  refine seqStep_formed (fun d t x k w p r hd hx hr => ?_) h
  have hcount : ∀ a n, Memory.wf (if isFetch then countRange x a n else (x, [])).1.mem = true := fun a n => by
    split
    · exact countRange_formed hx
    · exact hx
  dsimp only at hr
  obtain ⟨_, -, hr⟩ := eff_bind_ok.1 hr
  obtain ⟨_, -, hr⟩ := eff_bind_ok.1 hr
  obtain ⟨_, -, hr⟩ := eff_bind_ok.1 hr
  obtain ⟨_, -, hr⟩ := eff_bind_ok.1 hr
  split at hr
  · obtain ⟨_, -, hr⟩ := eff_bind_ok.1 hr
    cases hr
    exact launch_formed hd (sbAdd_formed (hcount _ _))
  · cases hr
    exact launch_formed hd (hcount _ _)

theorem subD_formed {f : Fetch} {d : Dev} (h : d.formed) : (subD f d).formed := by
  refine seqStep_formed (fun d t x k w p r hd hx hr => ?_) h
  dsimp only at hr
  obtain ⟨_, -, hr⟩ := eff_bind_ok.1 hr
  obtain ⟨_, -, hr⟩ := eff_bind_ok.1 hr
  split at hr
  · cases hr
    exact setTile_formed hd hx
  · obtain ⟨_, -, hr⟩ := eff_bind_ok.1 hr
    obtain ⟨_, -, hr⟩ := eff_bind_ok.1 hr
    obtain ⟨_, -, hr⟩ := eff_bind_ok.1 hr
    obtain ⟨_, -, hr⟩ := eff_bind_ok.1 hr
    cases hr
    exact launch_formed (setBuf_formed hd) (sbAdd_formed (countRange_formed hx))

theorem chargeTree_formed {d : Dev} {cr t : Nat} {members : List BufRange} {n : Nat} (h : d.formed) : (chargeTree d cr t members
    n).formed := by
  grind [chargeTree, chargeBridge_formed]

theorem mcastD_formed {f : Fetch} {d : Dev} (h : d.formed) : (mcastD f d).formed := by
  refine seqStep_formed (fun d t x k w p r hd hx hr => ?_) h
  dsimp only at hr
  obtain ⟨_, -, hr⟩ := eff_bind_ok.1 hr
  obtain ⟨_, -, hr⟩ := eff_bind_ok.1 hr
  obtain ⟨_, -, hr⟩ := eff_bind_ok.1 hr
  obtain ⟨_, -, hr⟩ := eff_bind_ok.1 hr
  obtain ⟨_, -, hr⟩ := eff_bind_ok.1 hr
  obtain ⟨_, -, hr⟩ := eff_bind_ok.1 hr
  cases hr
  exact launch_formed (chargeTree_formed (setBuf_formed hd)) hx

theorem trestleFaultAt_formed {t : Nat} {d : Dev} {xf : Xfer} {code detail : Nat} (h : d.formed) : (trestleFaultAt t d xf code
    detail).formed := by
  grind [trestleFaultAt, getTile_formed, ctxFault_formed]

theorem trestleFault_formed {d : Dev} {xf : Xfer} {code detail : Nat} (h : d.formed) : (trestleFault d xf code detail).formed := by
  grind [trestleFault, trestleFaultAt_formed]

theorem remoteReadD_formed {i : Nat} {e : Ecc} {d : Dev} (h : d.formed) : (remoteReadD i e d).formed := by
  grind [remoteReadD, setTile_formed, applyEcc_formed, getTile_formed, trestleFault_formed, trestleFaultAt_formed,
    chargeBridge_formed, Dev.formed.host, Dev.formed.pier, Dev.formed.tiles, formed_mk, TilesFormed.tset]

theorem remoteWriteD_formed {i : Nat} {d : Dev} (h : d.formed) : (remoteWriteD i d).formed := by
  unfold remoteWriteD
  split
  · exact h
  split
  · exact h
  dsimp only
  split
  · exact h
  split
  · exact trestleFault_formed h
  split
  · exact trestleFault_formed h
  split
  · exact h
  · exact trestleFault_formed h
  split
  · exact h
  · exact trestleFault_formed h
  · exact chargeBridge_formed (setTile_formed h (tilePut_formed (getTile_formed h)))

theorem deliver_formed {d : Dev} {xf : Xfer} {k : Task} {bs : List Byte} {r} (h : d.formed) (hr : deliver d xf k bs = .ok r) :
    r.formed := by
  grind [deliver, getTile_formed, setTile_formed, tilePut_formed, Dev.formed.host, Dev.formed.pier, Dev.formed.tiles, formed_mk,
    TilesFormed.tset, eff_bind_ok, pure, Except.pure]

theorem addHolder_formed {d : Dev} {p bn : Nat} {r : BufRange} (h : d.formed) : (addHolder d p bn r).formed := h

theorem trestleDoneD_formed {i : Nat} {d : Dev} (h : d.formed) : (trestleDoneD i d).formed := by
  unfold trestleDoneD
  split
  · exact h
  split
  · exact h
  split
  · exact endXfer_formed h
  · split <;> [exact endXfer_formed h; exact h]
  · split
    next hdeliver => exact endXfer_formed (deliver_formed h hdeliver)
    · exact h
    · exact trestleFault_formed h
  · split
    next hdeliver => exact addHolder_formed (endXfer_formed (deliver_formed h hdeliver))
    · exact h
    · exact trestleFault_formed h
  · exact h

theorem touchFill_formed {d : Dev} {b : Buf} {k : Task} {t : Nat} (h : d.formed) : (touchFill d b k t).formed := by
  grind [touchFill, touchTlb_formed, Dev.formed.host, Dev.formed.pier, Dev.formed.tiles, formed_mk, TilesFormed.tset,
    Dev.formed.foldl]

theorem fillDoneD_formed {p bn : Nat} {e : Ecc} {d0 : Dev} (h : d0.formed) : (fillDoneD p bn e d0).formed := by
  unfold fillDoneD
  dsimp only
  split
  · split
    · split
      · split <;> [exact h; exact slideFault_formed (pageEcc_formed h)]
      · split
        · exact h
        · exact slideFault_formed (pageEcc_formed h)
        next hdeliver =>
          exact syncEngine_formed (setBuf_formed (d := { endXfer _ _ _ with nextX := _ })
            (endXfer_formed (chargeTree_formed (chargeCtx_formed (touchFill_formed (deliver_formed (pageEcc_formed h) hdeliver))))))
    · exact h
  · exact h

theorem deliveryD_formed {p bn t : Nat} {d : Dev} (h : d.formed) : (deliveryD p bn t d).formed := by
  unfold deliveryD
  grind [getTile_formed, deliver_formed, trestleFault_formed, setBuf_formed, endXfer_formed]

theorem holderReleaseD_formed {p bn t : Nat} {d : Dev} (h : d.formed) : (holderReleaseD p bn t d).formed := by
  grind [holderReleaseD, setBuf_formed]

/-! ## Step tables -/

theorem putStep_formed {d : Dev} {cr : Nat} {st : Step} (h : d.formed) : (putStep d cr st).formed := h

theorem writeEntry_formed {d : Dev} {cr : Nat} {st : Step} {e : Nat} {a : Admitted} (h : d.formed) : (writeEntry d cr st e a).formed := by
  grind [writeEntry, writeVa_formed, accessFault_formed]

theorem rewriteEntry_formed {d : Dev} {cr : Nat} {st : Step} {e : Nat} {a : Admitted} (h : d.formed) : (rewriteEntry d cr st e
    a).formed := by
  grind [rewriteEntry, writeEntry_formed, putStep_formed]

theorem patchVerify_formed {d : Dev} {cr num e : Nat} (h : d.formed) : (patchVerify d cr num e).formed := by
  grind [patchVerify, rewriteEntry_formed, putStep_formed]

theorem cancelEntry_formed {d : Dev} {cr : Nat} {st : Step} {e : Nat} {a : Admitted} {drop : Bool} (h : d.formed) : (cancelEntry d
    cr st e a drop).formed := by
  grind [cancelEntry, rewriteEntry_formed]

/-! ## Result batches -/

theorem pushTap_formed {d : Dev} {e : TapEvent} (h : d.formed) : (pushTap d e).formed := h

theorem putTreeTokens_formed {d : Dev} {cr : Nat} {st : Step} {a : Admitted} {r} (h : d.formed) (hr : putTreeTokens d cr st a = .ok
    r) : r.formed := by
  grind [putTreeTokens, writeVa_formed]

theorem ringFault_formed {d : Dev} {k cr : Nat} {b : Bad} (h : d.formed) : (ringFault d k cr b).formed := by
  grind [ringFault, accessFault_formed, setRing_formed]

theorem clearHits_formed {d : Dev} {st : Step} (h : d.formed) : (clearHits d st).formed := by
  grind [clearHits, setSlot_formed, Dev.formed.host, Dev.formed.pier, Dev.formed.tiles, formed_mk, TilesFormed.tset, Dev.formed.foldl]

theorem writeBatch_formed {d : Dev} {cr : Nat} {st : Step} (h : d.formed) : (writeBatch d cr st).formed := by
  grind [writeBatch, putTreeTokens_formed, accessFault_formed, ringPush_formed, ringFault_formed, setSteps_formed, clearHits_formed,
    pushTap_formed, putStep_formed, Dev.formed.host, Dev.formed.pier, Dev.formed.tiles, formed_mk, Dev.formed.foldl,
    Dev.formed.foldlM, tileWf_foldl]

theorem patchDropped_formed {d : Dev} {cr : Nat} {st : Step} (h : d.formed) : (patchDropped d cr st).formed := by
  grind [patchDropped, cancelEntry_formed, putStep_formed, Dev.formed.host, Dev.formed.pier, Dev.formed.tiles, formed_mk,
    TilesFormed.tset, Dev.formed.foldl]

theorem finishStep_formed {d : Dev} {cr : Nat} {st0 : Step} (h : d.formed) : (finishStep d cr st0).formed := by
  grind [finishStep, putStep_formed, patchDropped_formed, setSteps_formed, writeBatch_formed]

/-! ## Reports and gating -/

theorem reportD_formed {f : Fetch} {d : Dev} (h : d.formed) : (reportD f d).formed := by
  refine seqStep_formed (fun d t x k w p r hd hx hr => ?_) h
  obtain ⟨_, -, hr⟩ := eff_bind_ok.1 hr
  obtain ⟨_, -, hr⟩ := eff_bind_ok.1 hr
  obtain ⟨_, -, hr⟩ := eff_bind_ok.1 hr
  obtain ⟨_, -, hr⟩ := eff_bind_ok.1 hr
  dsimp only at hr
  split at hr
  · cases hr
  split at hr
  · cases hr
  obtain ⟨_, -, hr⟩ := eff_bind_ok.1 hr
  cases hr
  exact patchVerify_formed (putStep_formed (setTile_formed hd hx))

theorem holdEnd_formed {p : Nat} {d : Dev} (h : d.formed) : (holdEnd p d).formed := by
  grind [holdEnd, Dev.formed.host, Dev.formed.pier, Dev.formed.tiles, formed_mk, TilesFormed.tmap]

theorem writeBack_formed {t w : Nat} {d : Dev} (h : d.formed) : (writeBack t w d).formed := by
  grind [writeBack, getTile_formed, setTile_formed, memSet32_wf]

theorem zeroRange_formed {x : Tile} {off n : Nat} (h : Memory.wf x.mem = true) : Memory.wf (zeroRange x off n).mem = true :=
  memZero_wf _ _ _ h

theorem unitOff_formed {t u : Nat} {d : Dev} (h : d.formed) : (unitOff t u d).formed := by
  grind [unitOff, getTile_formed, setTile_formed]

/-! ## Saved state -/

theorem pierImage_formed {d : Dev} {a n : Nat} {cells : List Host.Cell} (h : d.formed) : (pierImage d a n cells).formed :=
  ⟨h.host, memCells_wf _ _ (memZero_wf _ _ _ h.pier), h.tiles⟩

theorem unplaceTask_formed {d : Dev} {t : Nat} (h : d.formed) : (unplaceTask d t).formed := by
  grind [unplaceTask, dropXfer_formed, syncEngine_formed, setTile_formed, getTile_formed, Dev.formed.host, Dev.formed.pier,
    Dev.formed.tiles, formed_mk, TilesFormed.tset, Dev.formed.foldl]

theorem freeRegions_formed {x : Tile} {k : Task} {f : Nat} (h : Memory.wf x.mem = true) : Memory.wf (freeRegions x k f).mem = true :=
  tileWf_foldl_fst (fun _ _ hp => tilePut_formed hp) _ h

theorem putSaved_formed {x : Tile} {pm : Memory} {src n dst : Nat} (h : Memory.wf x.mem = true) :
    Memory.wf (putSaved x pm src n dst).mem = true :=
  memCells_wf _ _ (zeroRange_formed h)

theorem restoreMem_formed {x : Tile} {k : Task} {sv : SavedTask} {pm : Memory} {a f : Nat} (h : Memory.wf x.mem = true) :
    Memory.wf (restoreMem x k sv pm a f).mem = true := by
  refine tileWf_foldl (fun _ _ hx => setSat_formed (putSaved_formed hx)) _
    (tileWf_foldl (fun _ _ hx => setSat_formed (zeroRange_formed hx)) _ (tileWf_foldl (fun _ _ hx => putSaved_formed hx) _ ?_))
  split
  · exact h
  · exact freeRegions_formed h

theorem resumeXfer_formed {t : Nat} {acc : Eff Dev} {xf0 : Xfer} {r : Dev} (h : ∀ d, acc = .ok d → d.formed)
    (hr : resumeXfer t acc xf0 = .ok r) : r.formed := by
  obtain ⟨d, hd, hr⟩ := eff_bind_ok.1 hr
  replace h := h d hd
  have hsb : ∀ (l : List (Nat × Nat)) o, Memory.wf (l.foldl (fun x r => sbAdd x r.1 r.2 true o) (getTile d t)).mem = true :=
    fun l o => tileWf_foldl (fun _ _ hx => sbAdd_formed hx) l (getTile_formed h)
  dsimp only at hr
  split at hr
  · cases hr
    exact h
  split at hr
  · obtain ⟨q, -, hr⟩ := eff_bind_ok.1 hr
    cases hr
    exact syncEngine_formed (setTile_formed (setBuf_formed h) (countRange_formed (hsb _ _)))
  · cases hr
    refine syncEngine_formed (setTile_formed h ?_)
    split
    · exact countRange_formed (hsb _ _)
    · exact hsb _ _

theorem restoreFeed_formed {x : Tile} {sv : SavedTask} (h : Memory.wf x.mem = true) : Memory.wf (restoreFeed x sv).mem = true := by
  simp only [restoreFeed]
  split <;> exact h

/-! ## The dispatcher -/

theorem setDeque_formed {d : Dev} {t : Nat} {q : List Work} (h : d.formed) : (setDeque d t q).formed := h

theorem catchFault_formed {d : Dev} {w : Work} {r : Refused} (h : d.formed) : (catchFault d w r).formed := by
  grind [catchFault, ctxFault_formed]

theorem pushHead_formed {d : Dev} {t : Nat} {w : Work} (h : d.formed) : (pushHead d t w).formed := h

theorem placeTask_formed {d : Dev} {w : Work} {r} (h : d.formed) (hr : placeTask d w = some r) : r.formed := by
  grind [placeTask, catchFault_formed, pushHead_formed]

theorem releaseHeld_formed {d : Dev} (h : d.formed) : (releaseHeld d).formed := by
  grind [releaseHeld, placeTask_formed, Dev.formed.host, Dev.formed.pier, Dev.formed.tiles, formed_mk, TilesFormed.tset,
    Dev.formed.foldl]

theorem admitTask_formed {d : Dev} {w : Work} {r} (h : d.formed) (hr : admitTask d w = some r) : r.formed := by
  grind [admitTask, placeTask_formed, Dev.formed.host, Dev.formed.pier, Dev.formed.tiles, formed_mk, TilesFormed.tset]

theorem noteChecked_formed {d : Dev} {w : Work} (h : d.formed) : (noteChecked d w).formed := by
  grind [noteChecked, chargeRead_formed, Dev.formed.host, Dev.formed.pier, Dev.formed.tiles, formed_mk, TilesFormed.tset]

theorem intakeD_formed {p : Nat} {d : Dev} (h : d.formed) : (intakeD p d).formed := by
  unfold intakeD
  split
  · split
    · exact h
    split
    · exact h
    dsimp only
    have hw : ∀ cr st, (putStep d cr st).formed := fun _ _ => putStep_formed h
    split
    · split
      · exact h
      · exact catchFault_formed (hw _ _)
    split
    next hadmit => exact admitTask_formed (noteChecked_formed (hw _ _)) hadmit
    · exact noteChecked_formed (hw _ _)
  · exact h

theorem intakeResumeD_formed {p : Nat} {d0 : Dev} (h : d0.formed) : (intakeResumeD p d0).formed := by
  have hcat : ∀ (d : Dev) c, d.formed → Dev.formed { d with cat := c } := fun _ _ hd => hd
  unfold intakeResumeD
  grind [releaseHeld_formed, admitTask_formed]

theorem popD_formed {t : Nat} {d : Dev} (h : d.formed) : (popD t d).formed := by
  have hin : ∀ i, (setTile d t { getTile d t with inbox := i }).formed :=
    fun i => setTile_formed (x := { getTile d t with inbox := i }) h (getTile_formed h)
  unfold popD
  grind [setDeque_formed, catchFault_formed, pushHead_formed]

theorem stealD_formed {t : Nat} {d : Dev} (h : d.formed) : (stealD t d).formed := by
  grind [stealD, getTile_formed, setDeque_formed, setTile_formed]

theorem installTask_formed {d : Dev} {t : Nat} {k : Task} (h : d.formed) : (installTask d t k).formed := by
  grind [installTask, getTile_formed, markRelease_formed, setTile_formed]

theorem codeLoad_formed {d : Dev} {t : Nat} {k : Task} {r : Dev} (h : d.formed) (hr : codeLoad d t k = .ok r) : r.formed := by
  unfold codeLoad at hr
  split at hr
  · cases hread : readImage d k.work <;> rw [hread] at hr <;> cases hr
    exact chargeRead_formed (setTile_formed h (tilePut_formed (getTile_formed h)))
  · cases hr
    exact h

theorem resumeTask_formed {d : Dev} {t : Nat} {sv : SavedTask} {w : Work} {slots : List Nat} {bases : Tbl Nat} {r : Dev} (h : d.formed)
    (hr : resumeTask d t sv w slots bases = .ok r) : r.formed := by
  refine foldl_keeps (P := fun acc : Eff Dev => ∀ r, acc = .ok r → r.formed) (fun acc xf hacc r hr => resumeXfer_formed hacc hr) _
    (fun d3 hd3 => ?_) r hr
  cases hd3
  exact setTile_formed (installTask_formed h) (restoreFeed_formed (restoreMem_formed (getTile_formed (installTask_formed h))))

theorem startD_formed {t : Nat} {d : Dev} (h : d.formed) : (startD t d).formed := by
  unfold startD
  dsimp only
  split
  · exact h
  split
  · exact h
  split
  · split
    next hload => exact codeLoad_formed (installTask_formed h) hload
    · exact accessFault_formed h
  split
  · exact accessFault_formed h
  split
  · exact h
  · exact ctxFault_formed h
  next hresume =>
    split
    · exact h
    split
    next hload => exact codeLoad_formed (resumeTask_formed h hresume) hload
    · exact accessFault_formed h

theorem endStep_formed {d : Dev} {cr : RecNo} {num : Nat} (h : d.formed) : (endStep d cr num).formed := by
  grind [endStep, finishStep_formed, Dev.formed.host, Dev.formed.pier, Dev.formed.tiles, formed_mk, TilesFormed.tset]

theorem noteDone_formed {d : Dev} {r : DoneRec} (h : d.formed) : (noteDone d r).formed := by
  grind [noteDone, endStep_formed, releaseHeld_formed, Dev.formed.host, Dev.formed.pier, Dev.formed.tiles, formed_mk,
    TilesFormed.tset]

theorem complD_formed {t : Nat} {d : Dev} (h : d.formed) : (complD t d).formed := by
  grind [complD, getTile_formed, writeVa_formed, accessFault_formed, setTile_formed, noteDone_formed, Dev.formed.host,
    Dev.formed.pier, Dev.formed.tiles, formed_mk, TilesFormed.tset]

theorem watchdogD_formed {t : Nat} {d : Dev} (h : d.formed) : (watchdogD t d).formed := by
  grind [watchdogD, getTile_formed, tileFault_formed]

theorem withdrawOne_formed {d : Dev} {w : Work} (h : d.formed) : (withdrawOne d w).formed := by
  grind [withdrawOne, writeVa_formed, accessFault_formed, noteDone_formed, Dev.formed.host, Dev.formed.pier, Dev.formed.tiles,
    formed_mk, TilesFormed.tset]

theorem payOwed_formed {d : Dev} (h : d.formed) : (payOwed d).formed := by
  grind [payOwed, withdrawOne_formed, Dev.formed.host, Dev.formed.pier, Dev.formed.tiles, formed_mk, TilesFormed.tset,
    Dev.formed.foldl]

theorem withdrawTasks_formed {d : Dev} {cr : RecNo} {c : Work → Bool} (h : d.formed) : (withdrawTasks d cr c).formed := by
  unfold withdrawTasks
  extract_lets picked mine strip sc d1 ctx away waiting mark c2 d2 d3
  have h2 : d2.formed := by
    refine setCtx_formed (formed_mk h.host h.pier ?_)
    dsimp only
    exact TilesFormed.tmap (ts := d.tiles) h.tiles fun _ _ hx => hx
  have h3 : d3.formed := by
    refine h2.foldl (fun d w hd => ?_) _
    split
    · exact hd
    · exact withdrawOne_formed hd
  refine h3.foldl (fun d o hd => ?_) _
  split
  · exact endStep_formed hd
  · exact hd

theorem unitWake_formed {t u : Nat} {d : Dev} (h : d.formed) : (unitWake t u d).formed := by
  grind [unitWake, getTile_formed, zeroRange_formed, payOwed_formed, setTile_formed]

/-! ## Frames and page lists -/

theorem markUsed_formed {d : Dev} {p : Nat} {fs : List Nat} (h : d.formed) : (markUsed d p fs).formed := h

theorem takeFrames_formed {d : Dev} {p n : Nat} {r} (h : d.formed) (hr : takeFrames d p n = some r) : (r.2).formed := by
  grind [takeFrames, markUsed_formed]

theorem framesReleased_formed {d : Dev} {p : Nat} (h : d.formed) : (framesReleased d p).formed := h

theorem returnFrames_formed {d : Dev} {p : Nat} {fs : List Nat} (h : d.formed) : (returnFrames d p fs).formed := by
  simp only [returnFrames]
  split <;> exact h

theorem holdFrame_formed {p : Nat} {d : Dev} {q : Nat × Nat} (h : d.formed) : (holdFrame p d q).formed := h

theorem freeFrames_formed {d : Dev} {p : Nat} {fs : List Nat} (h : d.formed) : (freeFrames d p fs).formed := by
  grind [freeFrames, returnFrames_formed, holdFrame_formed, Dev.formed.host, Dev.formed.pier, Dev.formed.tiles, formed_mk,
    TilesFormed.tset, Dev.formed.foldl]

theorem releaseLimbo_formed {d : Dev} (h : d.formed) : (releaseLimbo d).formed := by
  grind [releaseLimbo, freeFrames_formed, Dev.formed.host, Dev.formed.pier, Dev.formed.tiles, formed_mk, TilesFormed.tset,
    Dev.formed.foldl]

theorem zeroFrame_formed {d : Dev} {f : Nat} (h : d.formed) : (zeroFrame d f).formed := ⟨h.host, memZero_wf _ _ _ h.pier, h.tiles⟩

theorem cleanFrames_formed {d : Dev} {cr : Nat} {fs : List Nat} (h : d.formed) : (cleanFrames d cr fs).formed := by
  grind [cleanFrames, chargeCtx_formed, zeroFrame_formed, Dev.formed.host, Dev.formed.pier, Dev.formed.tiles, formed_mk,
    TilesFormed.tset, Dev.formed.foldl]

theorem unzero_formed {d : Dev} {c : Nat → Bool} (h : d.formed) : (unzero d c).formed := h

theorem frameZeroD_formed {f : Nat} {d : Dev} (h : d.formed) : (frameZeroD f d).formed := by
  grind [frameZeroD, charge_formed, zeroFrame_formed, Dev.formed.host, Dev.formed.pier, Dev.formed.tiles, formed_mk, TilesFormed.tset]

theorem putEntry_formed {d : Dev} {cr : Nat} {l : PageList} {i : Nat} {w : Word64} {r} (h : d.formed) (hr : putEntry d cr l i w =
    .ok r) : r.formed := by
  grind [putEntry, writeVa_formed]

theorem mapEntries_formed {d : Dev} {cr : Nat} {l : PageList} {f : Word64 → Word64} {is : List Nat} {r : Dev} (h : d.formed)
    (hr : mapEntries d cr l f is = .ok r) : r.formed := by
  refine h.foldlM (fun d i r hd hi => ?_) _ hr
  grind [putEntry_formed, chargeRead_formed]

theorem moveList_formed {d : Dev} {cr : Nat} {l : PageList} {a n : Nat} {r} (h : d.formed) (hr : moveList d cr l a n = .ok r) :
    (r.1).formed := by
  grind [moveList, writeVa_formed, chargeRead_formed]

theorem addPages_formed {d : Dev} {cr gen : Nat} {m : Model} {l : PageList} {n : Nat} {fs : List Nat} {r} (h : d.formed) (hr :
    addPages d cr gen m l n fs = .ok r) : (r.1).formed := by
  grind [addPages, putEntry_formed, cleanFrames_formed, Dev.formed.host, Dev.formed.pier, Dev.formed.tiles, formed_mk,
    Dev.formed.foldl, Dev.formed.foldlM, tileWf_foldl]

theorem cutPageList_formed {d : Dev} {cr : Nat} {m : Model} {l : PageList} {n : Nat} {r} (h : d.formed) (hr : cutPageList d cr m l n
    = .ok r) : (r.1).formed := by
  grind [cutPageList, putEntry_formed, Dev.formed.host, Dev.formed.pier, Dev.formed.tiles, formed_mk, Dev.formed.foldl,
    Dev.formed.foldlM, tileWf_foldl]

/-! ## The Keystone -/

theorem setChild_formed {d : Dev} {table i : Nat} {c : Child} (h : d.formed) : (setChild d table i c).formed := h

theorem setLru_formed {d : Dev} {p : Nat} {l : List Nat} (h : d.formed) : (setLru d p l).formed := h

theorem lruRemove_formed {d : Dev} {i : Nat} (h : d.formed) : (lruRemove d i).formed := by
  simp only [lruRemove]
  split <;> exact h

theorem lruEnter_formed {d : Dev} {i : Nat} {head : Bool} (h : d.formed) : (lruEnter d i head).formed := by
  simp only [lruEnter]
  split <;> exact h

theorem takeSegment_formed {d : Dev} {p entries : Nat} {r : Nat × Dev} (h : d.formed) (hr : takeSegment d p entries = some r) :
    r.2.formed := by
  unfold takeSegment at hr
  extract_lets n at hr
  split at hr
  · cases hr; exact h
  · split at hr
    next hf => cases hr; exact unzero_formed (takeFrames_formed h hf)
    · cases hr

theorem dropSegment_formed {d : Dev} {i : Nat} (h : d.formed) : (dropSegment d i).formed := by
  grind [dropSegment, freeFrames_formed, setNode_formed, Dev.formed.host, Dev.formed.pier, Dev.formed.tiles, formed_mk,
    TilesFormed.tset]

theorem freeNode_formed {d : Dev} {i : Nat} (h : d.formed) : (freeNode d i).formed := by
  grind [freeNode, lruRemove_formed, Dev.formed.host, Dev.formed.pier, Dev.formed.tiles, formed_mk, TilesFormed.tset]

theorem freeEmptyDir_formed {d : Dev} {table k : Nat} (h : d.formed) : (freeEmptyDir d table k).formed := by
  induction k generalizing d table with
  | zero => exact h
  | succ j ih => grind [freeEmptyDir, freeNode_formed, setNode_formed]

theorem unlink_formed {d : Dev} {i : Nat} (h : d.formed) : (unlink d i).formed := by
  grind [unlink, freeEmptyDir_formed, setNode_formed]

theorem settle_formed {d : Dev} {i : Nat} {head : Bool} (h : d.formed) : (settle d i head).formed := by
  grind [settle, lruEnter_formed]

theorem evictNode_formed {d : Dev} {i : Nat} (h : d.formed) : (evictNode d i).formed := by
  grind [evictNode, settle_formed, freeNode_formed, dropSegment_formed, unlink_formed, lruRemove_formed]

theorem evictHead_formed {d : Dev} {p : Nat} {r} (h : d.formed) (hr : evictHead d p = some r) : r.formed := by
  grind [evictHead, evictNode_formed]

theorem evictWhile_formed {d : Dev} {p : Nat} {stop : Dev → Bool} {k : Nat} (h : d.formed) : (evictWhile d p stop k).formed := by
  induction k generalizing d with
  | zero => exact h
  | succ j ih => grind [evictWhile, evictHead_formed, charge_formed]

theorem reap_formed {d : Dev} {work : List Nat} {k : Nat} (h : d.formed) : (reap d work k).formed := by
  induction k generalizing d work with
  | zero => cases work <;> exact h
  | succ j ih =>
    cases work with
    | nil => exact h
    | cons i rest =>
      have hdirs : ((dirsOf d i chainFuel).foldl freeNode (lruRemove d i)).formed :=
        (lruRemove_formed h).foldl (fun _ _ hd => freeNode_formed hd) _
      grind [reap, freeNode_formed, dropSegment_formed, setNode_formed]

theorem dropRoot_formed {d : Dev} {m : Nat} (h : d.formed) : (dropRoot d m).formed := by
  grind [dropRoot, reap_formed, Dev.formed.host, Dev.formed.pier, Dev.formed.tiles, formed_mk, TilesFormed.tset]

theorem withdrawRange_formed {d : Dev} {a n : Nat} (h : d.formed) : (withdrawRange d a n).formed := by
  grind [withdrawRange, withdrawFrame_formed]

theorem detach_formed {d : Dev} {i : Nat} (h : d.formed) : (detach d i).formed := by
  grind [detach, unlink_formed, setNode_formed]

theorem poisonNode_formed {d : Dev} {i : Nat} (h : d.formed) : (poisonNode d i).formed := by
  grind [poisonNode, withdrawRange_formed, reap_formed, detach_formed, setNode_formed, settle_formed, Dev.formed.host,
    Dev.formed.pier, Dev.formed.tiles, formed_mk, TilesFormed.tset]

theorem deref_formed {d : Dev} {i : Nat} {cold : Bool} (h : d.formed) : (deref d i cold).formed := by
  grind [deref, setNode_formed, freeNode_formed, dropSegment_formed, settle_formed]

theorem writeNode_formed {d : Dev} {i : Nat} {n : Node} (h : d.formed) : (writeNode d i n).formed := h

theorem takeNode_formed {d : Dev} {p : Nat} {n : Node} (h : d.formed) : ((takeNode d p n).1).formed := by
  grind [takeNode, evictHead_formed, debit_formed, writeNode_formed]

theorem keyCharge_formed {d : Dev} {cr n : Nat} {ins : Bool} (h : d.formed) : (keyCharge d cr n ins).formed := by
  grind [keyCharge, debit_formed, chargeCtx_formed]

theorem scanTable_formed {d : Dev} {cr : Nat} {ins : Bool} {m table : Nat} {ts : List Word32} (h : d.formed) :
    (scanTable d cr ins m table ts).1.formed := by
  refine Dev.formed.foldl_fst (fun p a hp => ?_) _ h
  grind [keyCharge_formed, poisonNode_formed]

theorem scanChain_formed {d : Dev} {cr : Nat} {ins : Bool} {m table : Nat} {ts : List Word32} {k : Nat} (h : d.formed) :
    (scanChain d cr ins m table ts k).1.formed := by
  induction k generalizing d table with
  | zero => exact h
  | succ j ih => grind [scanChain, scanTable_formed, keyCharge_formed, poisonNode_formed]

theorem findChild_formed {d : Dev} {cr : Nat} {ins : Bool} {m node : Nat} {ts : List Word32} (h : d.formed) : ((findChild d cr ins m
    node ts).1).formed := by
  grind [findChild, scanChain_formed]

theorem walkDown_formed {d : Dev} {cr : Nat} {copies : Bool} {m node : Nat} {blocks : List (List Word32)} (h : d.formed) :
    (walkDown d cr copies m node blocks).1.formed := by
  induction blocks generalizing d node with
  | nil => exact h
  | cons b r ih => grind [walkDown, findChild_formed, poisonNode_formed]

theorem walkRoot_formed {d : Dev} {cr : Nat} {copies : Bool} {m : Nat} {blocks : List (List Word32)} (h : d.formed) : ((walkRoot d
    cr copies m blocks).1).formed := by
  grind [walkRoot, keyCharge_formed, poisonNode_formed, walkDown_formed]

/-! ## Ports and the causeway -/

theorem macsecIn_formed {d : Dev} {l : Nat} {f : Frame} {r} (h : d.formed) (hr : macsecIn d l f = some r) : r.formed := by
  grind [macsecIn, setPort_formed]

theorem portIn_formed {d : Dev} {l : Nat} {f : Frame} {r} (h : d.formed) (hr : portIn d l f = some r) : r.formed := by
  grind [portIn, macsecIn_formed]

theorem emit_formed {d : Dev} {l : Nat} {f : Frame} (h : d.formed) : (emit d l f).formed := h

theorem portOut_formed {d : Dev} {l : Nat} {f : Frame} (h : d.formed) : (portOut d l f).formed := by
  grind [portOut, emit_formed, setPort_formed, devRecord_formed]

/-! ## Transfers of the causeway -/

theorem setXfer_formed {d : Dev} {x : Nat} {t : Transfer} (h : d.formed) : (setXfer d x t).formed := h

theorem addXfer_formed {d : Dev} {t : Transfer} (h : d.formed) : (addXfer d t).formed := h

theorem sendAck_formed {d : Dev} {i : Nat} {t : Transfer} {f : Flow} {ece : Bool} {status : Nat} (h : d.formed) : (sendAck d i t f
    ece status).formed := by
  grind [sendAck, portOut_formed]

theorem sendAbort_formed {d : Dev} {i : Nat} {t : Transfer} {f : Flow} (h : d.formed) : (sendAbort d i t f).formed := by
  grind [sendAbort, sendAck_formed, portOut_formed]

theorem flowCreateD_formed {x stripe : Nat} {d : Dev} (h : d.formed) : (flowCreateD x stripe d).formed := by
  grind [flowCreateD, setFlow_formed, setXfer_formed]

theorem closeFlow_formed {d : Dev} {i : Nat} {abort : Bool} (h : d.formed) : (closeFlow d i abort).formed := by
  grind [closeFlow, setFlow_formed, sendAbort_formed, setXfer_formed]

theorem touchList_formed {d : Dev} {cr : Nat} {l : PageList} {es : List Nat} (h : d.formed) : (touchList d cr l es).formed := by
  grind [touchList, touchTlb_formed, Dev.formed.host, Dev.formed.pier, Dev.formed.tiles, formed_mk, TilesFormed.tset,
    Dev.formed.foldl]

theorem delXfer_formed {d : Dev} {x : Nat} (h : d.formed) : (delXfer d x).formed := h

theorem dropTransfer_formed {d : Dev} {x : Nat} (h : d.formed) : (dropTransfer d x).formed := by
  grind [dropTransfer, releaseLimbo_formed, delXfer_formed, closeFlow_formed, Dev.formed.host, Dev.formed.pier, Dev.formed.tiles,
    formed_mk, TilesFormed.tset, Dev.formed.foldl]

theorem cwEvent_formed {d : Dev} {cr code handle flow : Nat} (h : d.formed) : (cwEvent d cr code handle flow).formed := by
  grind [cwEvent, ctxEvent_formed]

theorem sendAcc_formed {d : Dev} {k : Nat} (h : d.formed) : (sendAcc d k).formed := by
  simp only [sendAcc]
  split <;> exact h

theorem addTap_formed {d : Dev} {egress : Bool} {t : Transfer} {n : Nat} (h : d.formed) : (addTap d egress t n).formed := by
  grind [addTap, sendAcc_formed, Dev.formed.host, Dev.formed.pier, Dev.formed.tiles, formed_mk, TilesFormed.tset]

/-! ## Slots -/

theorem pushCompl_formed {d : Dev} {cr : Nat} {e : List Byte} (h : d.formed) : (pushCompl d cr e).formed := by
  grind [pushCompl, ringPush_formed, setSteps_formed, ringFault_formed]

theorem putCompl_formed {d : Dev} {cr : Nat} {e : List Byte} (h : d.formed) : (putCompl d cr e).formed := by
  grind [putCompl, setSteps_formed, pushCompl_formed]

theorem complete_formed {d : Dev} {cr : Nat} {nocpl : Bool} {cmdId : Word32} {opcode status handle detail value : Nat} (h :
    d.formed) : (complete d cr nocpl cmdId opcode status handle detail value).formed := by
  grind [complete, putCompl_formed]

theorem flushOwed_formed {d : Dev} {cr k : Nat} (h : d.formed) : (flushOwed d cr k).formed := by
  induction k generalizing d with
  | zero => exact h
  | succ j ih => grind [flushOwed, pushCompl_formed, setSteps_formed]

theorem pumpFences_formed {d : Dev} {cr k : Nat} (h : d.formed) : (pumpFences d cr k).formed := by
  induction k generalizing d with
  | zero => exact h
  | succ j ih =>
    have hcox : ∀ c, Dev.formed { d with cox := c } := fun _ => h
    grind [pumpFences, complete_formed]

theorem fencesOf_formed {d : Dev} {cr : Nat} (h : d.formed) : (fencesOf d cr).formed := by
  grind [fencesOf, pumpFences_formed]

theorem giveHot_formed {d : Dev} {k : Nat} (h : d.formed) : (giveHot d k).formed := by
  induction k generalizing d with
  | zero => exact h
  | succ j ih => grind [giveHot, setSlot_formed]

theorem rehot_formed {d : Dev} (h : d.formed) : (rehot d).formed := by
  grind [rehot, giveHot_formed, Dev.formed.host, Dev.formed.pier, Dev.formed.tiles, formed_mk, TilesFormed.tset]

theorem noteRunnable_formed {d : Dev} (h : d.formed) : (noteRunnable d).formed := h

theorem giveCslot_formed {d : Dev} {cr c : Nat} {st : CtxState} (h : d.formed) : (giveCslot d cr c st).formed := h

theorem swapIn_formed {d : Dev} {p : Nat} (h : d.formed) : (swapIn d p).formed := by
  grind [swapIn, setReg_formed, giveCslot_formed, setCtx_formed]

theorem swapSettle_formed {d : Dev} (h : d.formed) : (swapSettle d).formed := by
  grind [swapSettle, swapIn_formed, Dev.formed.host, Dev.formed.pier, Dev.formed.tiles, formed_mk, TilesFormed.tset, Dev.formed.foldl]

theorem coxSettle_formed {d : Dev} (h : d.formed) : (coxSettle d).formed := by
  grind [coxSettle, swapSettle_formed, noteRunnable_formed, rehot_formed]

theorem readySlot_formed {d : Dev} {i : Nat} (h : d.formed) : (readySlot d i).formed := h

theorem nextReady_formed {d : Dev} (h : d.formed) : (nextReady d).formed := h

theorem makeReady_formed {d : Dev} {is : List Nat} (h : d.formed) : (makeReady d is).formed := by
  grind [makeReady, nextReady_formed, readySlot_formed, Dev.formed.host, Dev.formed.pier, Dev.formed.tiles, formed_mk,
    TilesFormed.tset, Dev.formed.foldl]

theorem vacateSlot_formed {d : Dev} {i : Nat} (h : d.formed) : (vacateSlot d i).formed := h

theorem settleSlot_formed {d : Dev} {i : Nat} (h : d.formed) : (settleSlot d i).formed := by
  simp only [settleSlot]
  split <;> exact h

theorem dropTier_formed {d : Dev} {x : Nat} (h : d.formed) : (dropTier d x).formed := by
  grind [dropTier, freeFrames_formed, dropTransfer_formed]

theorem dropKeyOps_formed {d : Dev} {i : Nat} (h : d.formed) : (dropKeyOps d i).formed := h

theorem releaseSlot_formed {d : Dev} {i : Nat} {cold : Bool} (h : d.formed) : (releaseSlot d i cold).formed := by
  grind [releaseSlot, dropTier_formed, dropKeyOps_formed, freeFrames_formed, deref_formed, settleSlot_formed, setSlot_formed,
    Dev.formed.host, Dev.formed.pier, Dev.formed.tiles, formed_mk, TilesFormed.tset, Dev.formed.foldl]

theorem unparkBit_formed {d : Dev} {i : Nat} (h : d.formed) : (unparkBit d i).formed := h

theorem parkBit_formed {d : Dev} {i : Nat} (h : d.formed) : (parkBit d i).formed := h

theorem setParked_formed {d : Dev} {i : Nat} {on : Bool} {r : Dev} (h : d.formed) (hr : setParked d i on = .ok r) : r.formed := by
  unfold setParked at hr
  dsimp only at hr
  split at hr
  · cases hr; exact h
  split at hr
  · cases hr
  next d1 hmain =>
    split at hr
    · cases hr; exact mapEntries_formed h hmain
    · exact mapEntries_formed (mapEntries_formed h hmain) hr

/-! ## Flows -/

theorem touchEntries_formed {d : Dev} {t : Transfer} {f : Word64 → Word64} (h : d.formed) : (touchEntries d t f).formed := by
  unfold touchEntries
  split
  · exact h
  extract_lets
  split
  · exact h
  split
  next hmap => exact touchList_formed (mapEntries_formed h hmap)
  · exact accessFault_formed h

theorem setDirty_formed {d : Dev} {t : Transfer} {on : Bool} (h : d.formed) : (setDirty d t on).formed := by
  grind [setDirty, touchEntries_formed]

theorem pushSlot_formed {d : Dev} {i c n : Nat} (h : d.formed) : (pushSlot d i c n).formed := by
  grind [pushSlot, cwEvent_formed, setDirty_formed, addXfer_formed, Dev.formed.host, Dev.formed.pier, Dev.formed.tiles, formed_mk,
    TilesFormed.tset, Dev.formed.foldl]

theorem finishPush_formed {d : Dev} {x : Nat} (h : d.formed) : (finishPush d x).formed := by
  grind [finishPush, releaseLimbo_formed, delXfer_formed, settleSlot_formed]

theorem pushEnd_formed {d : Dev} {i x : Nat} {t : Transfer} {how : FlowEnd} (h : d.formed) : (pushEnd d i x t how).formed := by
  unfold pushEnd
  grind [cwEvent_formed, finishPush_formed, closeFlow_formed, setDirty_formed]

theorem dropPull_formed {d : Dev} {x : Nat} (h : d.formed) : (dropPull d x).formed := by
  grind [dropPull, dropTransfer_formed, framesReleased_formed, setModel_formed]

theorem pullFails_formed {d : Dev} {x : Nat} {t : Transfer} (h : d.formed) : (pullFails d x t).formed := by
  grind [pullFails, dropPull_formed, dropTier_formed, ctxFault_formed]

theorem retryFlow_formed {d : Dev} {i x : Nat} {t : Transfer} (h : d.formed) : (retryFlow d i x t).formed := by
  grind [retryFlow, closeFlow_formed, pullFails_formed, setXfer_formed]

theorem pullDone_formed {d : Dev} {x : Nat} {t : Transfer} (h : d.formed) : (pullDone d x t).formed := by
  simp only [pullDone]
  split <;> exact h

theorem flowDone_formed {d : Dev} {i x : Nat} {fin : Dev → Nat → Transfer → Dev} (hfin : ∀ d x t, d.formed → (fin d x t).formed)
    (h : d.formed) : (flowDone d i x fin).formed := by
  grind [flowDone, closeFlow_formed]

theorem pullEnd_formed {d : Dev} {i x : Nat} {t : Transfer} {how : FlowEnd} (h : d.formed) : (pullEnd d i x t how).formed := by
  have hdone := flowDone_formed (fun _ x t => pullDone_formed (x := x) (t := t)) h (i := i) (x := x)
  unfold pullEnd
  grind [retryFlow_formed]

theorem answerRecall_formed {d : Dev} {cr : Nat} {r : Option RecallCmd} {status : Nat} (h : d.formed) : (answerRecall d cr r
    status).formed := by
  unfold answerRecall
  grind [complete_formed]

theorem recallDone_formed {d : Dev} {x : Nat} {t : Transfer} (h : d.formed) : (recallDone d x t).formed := by
  unfold recallDone
  split
  · exact delXfer_formed h
  extract_lets fs put
  have hput : ∀ r, put = .ok r → r.formed := fun r hr => by
    refine h.foldlM (fun d p r hd hp => ?_) _ hr
    grind [putEntry_formed, chargeRead_formed]
  grind [delXfer_formed, accessFault_formed, setParked_formed, setSlot_formed, touchList_formed, fencesOf_formed, answerRecall_formed]

theorem recallGone_formed {d : Dev} {i x : Nat} {t : Transfer} (h : d.formed) : (recallGone d i x t).formed := by
  grind [recallGone, dropTier_formed, closeFlow_formed, fencesOf_formed, releaseSlot_formed, answerRecall_formed]

theorem recallAgain_formed {d : Dev} {i x : Nat} {t : Transfer} (h : d.formed) : (recallAgain d i x t).formed := by
  grind [recallAgain, flowDone_formed, recallDone_formed, retryFlow_formed]

theorem recallEnd_formed {d : Dev} {i x : Nat} {t : Transfer} {how : FlowEnd} (h : d.formed) : (recallEnd d i x t how).formed := by
  unfold recallEnd
  grind [flowDone_formed, recallDone_formed, recallGone_formed, recallAgain_formed]

theorem demoteDone_formed {d : Dev} {x : Nat} {t : Transfer} (h : d.formed) : (demoteDone d x t).formed := by
  grind [demoteDone, delXfer_formed, mapEntries_formed, accessFault_formed, freeFrames_formed, setSlot_formed, touchList_formed]

theorem demoteFails_formed {d : Dev} {x : Nat} {t : Transfer} {flow : Nat} (h : d.formed) : (demoteFails d x t flow).formed := by
  grind [demoteFails, cwEvent_formed, dropTransfer_formed, setSlot_formed]

theorem demoteEnd_formed {d : Dev} {i x : Nat} {t : Transfer} {how : FlowEnd} (h : d.formed) : (demoteEnd d i x t how).formed := by
  unfold demoteEnd
  grind [flowDone_formed, demoteDone_formed, demoteFails_formed, closeFlow_formed, cwEvent_formed]

theorem lookupOver_formed {d : Dev} {i : Nat} (h : d.formed) : (lookupOver d i).formed := h

theorem prefixDone_formed {d : Dev} {x : Nat} {t : Transfer} (h : d.formed) : (prefixDone d x t).formed := by
  grind [prefixDone, putEntry_formed, accessFault_formed, setSlot_formed, touchList_formed, delXfer_formed, Dev.formed.host,
    Dev.formed.pier, Dev.formed.tiles, formed_mk, Dev.formed.foldl, Dev.formed.foldlM, tileWf_foldl]

theorem prefixFails_formed {d : Dev} {x : Nat} {t : Transfer} {flow : Nat} (h : d.formed) : (prefixFails d x t flow).formed := by
  grind [prefixFails, cwEvent_formed, dropTier_formed, lookupOver_formed]

theorem prefixEnd_formed {d : Dev} {i x : Nat} {t : Transfer} {how : FlowEnd} (h : d.formed) : (prefixEnd d i x t how).formed := by
  unfold prefixEnd
  grind [flowDone_formed, prefixDone_formed, prefixFails_formed, closeFlow_formed]

theorem flowEnds_formed {d : Dev} {i : Nat} {how : FlowEnd} (h : d.formed) : (flowEnds d i how).formed := by
  grind [flowEnds, setFlow_formed, coxSettle_formed, pushEnd_formed, pullEnd_formed, prefixEnd_formed, demoteEnd_formed,
    recallEnd_formed]

theorem egressPoison_formed {d : Dev} {i x : Nat} {t : Transfer} {w : Nat} (h : d.formed) : (egressPoison d i x t w).formed := by
  grind [egressPoison, cwEvent_formed, withdrawFrame_formed, demoteFails_formed, dropTransfer_formed, setDirty_formed,
    settleSlot_formed]

theorem sendData_formed {d : Dev} {i : Nat} {f : Flow} {t : Transfer} {q : Nat} {retx : Bool} (h : d.formed) : (sendData d i f t q
    retx).formed := by
  grind [sendData, egressPoison_formed, charge_formed, chargeCtx_formed, setFlow_formed, portOut_formed]

theorem sendRequest_formed {d : Dev} {i : Nat} {f : Flow} {t : Transfer} {retx : Bool} (h : d.formed) : (sendRequest d i f t
    retx).formed := by
  grind [sendRequest, portOut_formed]

theorem pierEcc_formed {d : Dev} {e : Ecc} (h : d.formed) : (pierEcc d e).formed := by
  simp only [pierEcc]
  split <;> exact h

theorem noteSent_formed {d : Dev} {i n : Nat} (h : d.formed) : (noteSent d i n).formed := h

theorem chunkSendD_formed {i : Nat} {e : Ecc} {d : Dev} (h : d.formed) : (chunkSendD i e d).formed := by
  grind [chunkSendD, noteSent_formed, setFlow_formed, sendRequest_formed, coxSettle_formed, sendData_formed, pierEcc_formed]

theorem staleFrame_formed {d : Dev} {f : Frame} (h : d.formed) : (staleFrame d f).formed := by
  grind [staleFrame, devRecord_formed, cwEvent_formed, Dev.formed.host, Dev.formed.pier, Dev.formed.tiles, formed_mk,
    TilesFormed.tset]

theorem arrives_formed {d : Dev} {l : Nat} {f : Frame} {k : Dev → Nat → Flow → Dev} (hk : ∀ d i r, d.formed → (k d i r).formed)
    (h : d.formed) : (arrives d l f k).formed := by
  grind [arrives, portIn_formed, staleFrame_formed, Dev.formed.host, Dev.formed.pier, Dev.formed.tiles, formed_mk]

theorem ackFlow_formed {fr : Frame} {d : Dev} {i : Nat} {f : Flow} (h : d.formed) : (ackFlow fr d i f).formed := by
  grind [ackFlow, flowEnds_formed, addTap_formed, setFlow_formed]

theorem ackArrivalD_formed {l : Nat} {f : Frame} {d : Dev} (h : d.formed) : (ackArrivalD l f d).formed := by
  grind [ackArrivalD, arrives_formed, ackFlow_formed]

theorem putRuns_formed {d : Dev} {runs : List (Nat × Nat)} {bs : List Byte} (h : d.formed) : (putRuns d runs bs).formed := by
  induction runs generalizing d bs with
  | nil => exact h
  | cons r rest ih => exact ih (pierPut_formed h)

theorem deckChunk_formed {cr off : Nat} {bs : List Byte} {d : Dev} {e : DeckEnt} {r : Dev} (h : d.formed)
    (hr : deckChunk cr off bs d e = .ok r) : r.formed := by
  unfold deckChunk at hr
  extract_lets at hr
  split at hr
  · cases hr; exact h
  split at hr
  · cases hr
  · exact writePages_formed h hr

theorem storeChunk_formed {d : Dev} {t : Transfer} {c : Nat} {bs : List Byte} {r} (h : d.formed) (hr : storeChunk d t c bs = .ok r)
    : r.formed := by
  grind [storeChunk, charge_formed, pierPut_formed, deckChunk_formed, putRuns_formed, Dev.formed.host, Dev.formed.pier,
    Dev.formed.tiles, formed_mk, Dev.formed.foldl, Dev.formed.foldlM, tileWf_foldl]

theorem dataFlow_formed {fr : Frame} {d : Dev} {i : Nat} {f : Flow} (h : d.formed) : (dataFlow fr d i f).formed := by
  grind [dataFlow, sendAck_formed, setFlow_formed, storeChunk_formed, accessFault_formed, addTap_formed, setXfer_formed,
    flowEnds_formed]

theorem dataArrivalD_formed {l : Nat} {f : Frame} {d : Dev} (h : d.formed) : (dataArrivalD l f d).formed := by
  grind [dataArrivalD, arrives_formed, dataFlow_formed]

theorem abortArrivalD_formed {l : Nat} {f : Frame} {d : Dev} (h : d.formed) : (abortArrivalD l f d).formed := by
  grind [abortArrivalD, arrives_formed, flowEnds_formed]

theorem requestArrivalD_formed {l : Nat} {f : Frame} {d : Dev} (h : d.formed) : (requestArrivalD l f d).formed := by
  grind [requestArrivalD, portIn_formed]

theorem frameDiscardD_formed {l : Nat} {f : Frame} {d : Dev} (h : d.formed) : (frameDiscardD l f d).formed := by
  grind [frameDiscardD, portIn_formed]

theorem ackTimerD_formed {i : Nat} {d : Dev} (h : d.formed) : (ackTimerD i d).formed := by
  grind [ackTimerD, sendAck_formed, setFlow_formed]

theorem rtoD_formed {i : Nat} {d : Dev} (h : d.formed) : (rtoD i d).formed := by
  grind [rtoD, setFlow_formed]

theorem requestAgainD_formed {i : Nat} {d : Dev} (h : d.formed) : (requestAgainD i d).formed := by
  grind [requestAgainD, sendRequest_formed]

theorem flowTimeoutD_formed {i : Nat} {d : Dev} (h : d.formed) : (flowTimeoutD i d).formed := by
  grind [flowTimeoutD, flowEnds_formed]

theorem rateD_formed {i : Nat} {d : Dev} (h : d.formed) : (rateD i d).formed := by
  grind [rateD, setFlow_formed]

/-! ## Commands -/

theorem reply_formed {d : Dev} {t : Taken} {status : Nat} (h : d.formed) : (reply d t status).formed := by
  grind [reply, complete_formed]

theorem advanceCons_formed {d : Dev} {k cr : Nat} (h : d.formed) : ((advanceCons d k cr).1).formed := by
  grind [advanceCons, setRing_formed, writeVa_formed]

theorem takeCmd_formed {d : Dev} {fn vctx : Nat} {want : List Byte → Bool} {act : Dev → Taken → Dev}
    (hact : ∀ d t, d.formed → (act d t).formed) (h : d.formed) : (takeCmd d fn vctx want act).formed := by
  grind [takeCmd, ringFault_formed, advanceCons_formed, chargeRead_formed, coxSettle_formed, reply_formed]

theorem onSlot_formed {d : Dev} {t : Taken} {act : Nat → Slot → Dev} (hact : ∀ i s, (act i s).formed) (h : d.formed) :
    (onSlot d t act).formed := by
  unfold onSlot
  split
  · exact reply_formed h
  · exact hact _ _

theorem queueLookup_formed {d : Dev} {i : Nat} (h : d.formed) : (queueLookup d i).formed := by
  simp only [queueLookup]
  split <;> exact h

theorem seqAddT_formed {d : Dev} {t : Taken} (h : d.formed) : (seqAddT d t).formed := by
  grind [seqAddT, reply_formed, setSlot_formed, queueLookup_formed, makeReady_formed, complete_formed]

theorem seqAddD_formed {fn vctx : Nat} {d : Dev} (h : d.formed) : (seqAddD fn vctx d).formed := by
  grind [seqAddD, takeCmd_formed, seqAddT_formed]

theorem appendSlot_formed {d : Dev} {t : Taken} {i : Nat} {s : Slot} (h : d.formed) : (appendSlot d t i s).formed := by
  grind [appendSlot, setSlot_formed, makeReady_formed, queueLookup_formed, reply_formed]

theorem seqAppendT_formed {d : Dev} {t : Taken} (h : d.formed) : (seqAppendT d t).formed := by
  refine onSlot_formed (fun i s => ?_) h
  split
  · exact reply_formed h
  split
  · exact reply_formed h
  split
  · exact appendSlot_formed h
  split
  · exact accessFault_formed h
  next d1 bs hread =>
    have h1 := readVaC_formed h hread
    split
    · exact appendSlot_formed h1
    · exact reply_formed h1

theorem seqAppendD_formed {fn vctx : Nat} {d : Dev} (h : d.formed) : (seqAppendD fn vctx d).formed := by
  grind [seqAppendD, takeCmd_formed, seqAppendT_formed]

theorem parkSlot_formed {d : Dev} {i : Nat} {q : ParkReq} (h : d.formed) : (parkSlot d i q).formed := by
  grind [parkSlot, setParked_formed, accessFault_formed, parkBit_formed, setSlot_formed]

theorem seqParkT_formed {d : Dev} {t : Taken} (h : d.formed) : (seqParkT d t).formed := by
  grind [seqParkT, onSlot_formed, reply_formed, setSlot_formed, parkSlot_formed]

theorem seqParkD_formed {fn vctx : Nat} {d : Dev} (h : d.formed) : (seqParkD fn vctx d).formed := by
  grind [seqParkD, takeCmd_formed, seqParkT_formed]

theorem resumeInPier_formed {d : Dev} {i : Nat} {s : Slot} (h : d.formed) : (resumeInPier d i s).formed := by
  grind [resumeInPier, setParked_formed, accessFault_formed, unparkBit_formed, setSlot_formed]

theorem startRecall_formed {d : Dev} {t : Taken} {i : Nat} {s : Slot} {x : Nat} (h : d.formed) : (startRecall d t i s x).formed := by
  unfold startRecall
  split
  · split
    · exact ctxFault_formed (cwEvent_formed h)
    split
    · exact reply_formed h
    next htake =>
      extract_lets d1 r d2
      have h2 : d2.formed := unparkBit_formed (setSlot_formed (cleanFrames_formed (takeFrames_formed h htake)))
      exact addXfer_formed (d := { d2 with cox := _ }) h2
  · exact h

theorem seqResumeT_formed {d : Dev} {t : Taken} (h : d.formed) : (seqResumeT d t).formed := by
  grind [seqResumeT, onSlot_formed, reply_formed, startRecall_formed, resumeInPier_formed]

theorem seqResumeD_formed {fn vctx : Nat} {d : Dev} (h : d.formed) : (seqResumeD fn vctx d).formed := by
  grind [seqResumeD, takeCmd_formed, seqResumeT_formed]

theorem cancelIn_formed {d : Dev} {cr i num : Nat} (h : d.formed) : (cancelIn d cr i num).formed := by
  grind [cancelIn, withdrawTasks_formed, cancelEntry_formed]

theorem cancelSteps_formed {d : Dev} {cr i : Nat} (h : d.formed) : (cancelSteps d cr i).formed := by
  grind [cancelSteps, cancelIn_formed, Dev.formed.host, Dev.formed.pier, Dev.formed.tiles, formed_mk, TilesFormed.tset,
    Dev.formed.foldl]

theorem abandonRecall_formed {d : Dev} {s : Slot} (h : d.formed) : (abandonRecall d s).formed := by
  grind [abandonRecall, answerRecall_formed, Dev.formed.host, Dev.formed.pier, Dev.formed.tiles, formed_mk, TilesFormed.tset]

theorem seqCancelT_formed {d : Dev} {t : Taken} (h : d.formed) : (seqCancelT d t).formed := by
  grind [seqCancelT, onSlot_formed, reply_formed, releaseSlot_formed, cancelSteps_formed, setSlot_formed, fencesOf_formed,
    abandonRecall_formed]

theorem seqCancelD_formed {fn vctx : Nat} {d : Dev} (h : d.formed) : (seqCancelD fn vctx d).formed := by
  grind [seqCancelD, takeCmd_formed, seqCancelT_formed]

theorem seqRetireT_formed {d : Dev} {t : Taken} (h : d.formed) : (seqRetireT d t).formed := by
  grind [seqRetireT, onSlot_formed, reply_formed, setSlot_formed, releaseSlot_formed]

theorem seqRetireD_formed {fn vctx : Nat} {d : Dev} (h : d.formed) : (seqRetireD fn vctx d).formed := by
  grind [seqRetireD, takeCmd_formed, seqRetireT_formed]

theorem stepPolicyT_formed {d : Dev} {t : Taken} (h : d.formed) : (stepPolicyT d t).formed := by
  grind [stepPolicyT, reply_formed, setSteps_formed]

theorem stepPolicyD_formed {fn vctx : Nat} {d : Dev} (h : d.formed) : (stepPolicyD fn vctx d).formed := by
  grind [stepPolicyD, takeCmd_formed, stepPolicyT_formed]

theorem runWalk_formed {d : Dev} {cr : Nat} {cmdId : Word32} {nocpl : Bool} {model va count : Nat} (h : d.formed) :
    (runWalk d cr cmdId nocpl model va count).formed := by
  unfold runWalk
  extract_lets b
  split
  · exact accessFault_formed h
  · exact fwRead_formed (fun _ hd => complete_formed (walkRoot_formed hd)) (chargeRead_formed h)

theorem popOp_formed {d : Dev} {p : Nat} (h : d.formed) : (popOp d p).formed := h

theorem queueOp_formed {d : Dev} {p : Nat} {o : KeyOp} (h : d.formed) : (queueOp d p o).formed := h

theorem pumpWalks_formed {d : Dev} {die k : Nat} (h : d.formed) : (pumpWalks d die k).formed := by
  induction k generalizing d with
  | zero => exact h
  | succ j ih => grind [pumpWalks, fencesOf_formed, runWalk_formed, popOp_formed, evictWhile_formed]

theorem walksOf_formed {d : Dev} {p : Nat} (h : d.formed) : (walksOf d p).formed := by
  grind [walksOf, pumpWalks_formed]

theorem prefixLookupT_formed {d : Dev} {t : Taken} (h : d.formed) : (prefixLookupT d t).formed := by
  grind [prefixLookupT, reply_formed, walksOf_formed, queueOp_formed, Dev.formed.host, Dev.formed.pier, Dev.formed.tiles, formed_mk,
    TilesFormed.tset]

theorem prefixLookupD_formed {fn vctx : Nat} {d : Dev} (h : d.formed) : (prefixLookupD fn vctx d).formed := by
  grind [prefixLookupD, takeCmd_formed, prefixLookupT_formed]

theorem fenceT_formed {d : Dev} {t : Taken} (h : d.formed) : (fenceT d t).formed := by
  grind [fenceT, fencesOf_formed, Dev.formed.host, Dev.formed.pier, Dev.formed.tiles, formed_mk, TilesFormed.tset]

theorem fenceD_formed {fn vctx : Nat} {d : Dev} (h : d.formed) : (fenceD fn vctx d).formed := by
  grind [fenceD, takeCmd_formed, fenceT_formed]

/-! ## Models -/

theorem enterModel_formed {d : Dev} {t : Taken} {vid : Nat} {m : Model} (h : d.formed) : (enterModel d t vid m).formed := by
  simp only [enterModel]
  split <;> exact h

theorem refuseModel_formed {d : Dev} {t : Taken} {detail : Nat} (h : d.formed) : (refuseModel d t detail).formed := by
  grind [refuseModel, complete_formed]

theorem readRecords_formed {d : Dev} {cr va size n : Nat} {r : Dev × List (List Byte)} (h : d.formed)
    (hr : readRecords d cr va size n = .ok r) : r.1.formed := by
  unfold readRecords at hr
  cases hread : readVaC d cr none va (size * n) <;> rw [hread] at hr <;> cases hr
  exact readVaC_formed h hread

theorem modelRegisterT_formed {d : Dev} {t : Taken} (h : d.formed) : (modelRegisterT d t).formed := by
  unfold modelRegisterT
  extract_lets vid va bad
  split
  · exact reply_formed h
  split
  · exact reply_formed h
  split
  · exact reply_formed h
  split
  · exact ringFault_formed h
  next hdesc =>
    have h1 := readVaC_formed h hdesc
    split
    · exact reply_formed h1
    split
    · exact ringFault_formed h
    next hgrids =>
      split
      · exact ringFault_formed h
      next hdecks =>
        have h3 := readRecords_formed (readRecords_formed h1 hgrids) hdecks
        extract_lets
        split
        · exact refuseModel_formed h3
        · exact reply_formed (enterModel_formed h3)

theorem modelRegisterD_formed {fn vctx : Nat} {d : Dev} (h : d.formed) : (modelRegisterD fn vctx d).formed := by
  grind [modelRegisterD, takeCmd_formed, modelRegisterT_formed]

theorem evictModel_formed {d : Dev} {i : Nat} (h : d.formed) : (evictModel d i).formed := by
  grind [evictModel, dropPull_formed, framesReleased_formed, dropModelEnts_formed, setModel_formed]

theorem forgetModel_formed {d : Dev} {i : Nat} (h : d.formed) : (forgetModel d i).formed := by
  grind [forgetModel, dropRoot_formed, evictModel_formed, Dev.formed.host, Dev.formed.pier, Dev.formed.tiles, formed_mk,
    TilesFormed.tset]

theorem modelUnregisterT_formed {d : Dev} {t : Taken} (h : d.formed) : (modelUnregisterT d t).formed := by
  grind [modelUnregisterT, reply_formed, forgetModel_formed]

theorem modelUnregisterD_formed {fn vctx : Nat} {d : Dev} (h : d.formed) : (modelUnregisterD fn vctx d).formed := by
  grind [modelUnregisterD, takeCmd_formed, modelUnregisterT_formed]

/-! ## Step building -/

theorem findOrEvict_formed {d : Dev} {p n : Nat} {keep : List Nat} {k : Nat} (h : d.formed) : (findOrEvict d p n keep k).1.formed := by
  induction k generalizing d with
  | zero => unfold findOrEvict; grind
  | succ j ih => unfold findOrEvict; grind [evictModel_formed]

theorem roomFor_formed {d : Dev} {i : Nat} {keep : List Nat} (h : d.formed) : ((roomFor d i keep).1).formed := by
  grind [roomFor, findOrEvict_formed, setModel_formed, unzero_formed]

theorem startPull_formed {d : Dev} {cr i : Nat} {be : Bool} (h : d.formed) : (startPull d cr i be).formed := by
  grind [startPull, setModel_formed, ctxFault_formed, cwEvent_formed, addXfer_formed]

theorem roomForAll_formed {d : Dev} {ms keep : List Nat} (h : d.formed) : (roomForAll d ms keep).1.formed := by
  refine Dev.formed.foldl_fst (fun p a hp => ?_) _ h
  grind [roomFor_formed]

theorem chooseResident_formed {d : Dev} {cr p : Nat} {cs : List Cand} (h : d.formed) : ((chooseResident d cr p cs).1).formed := by
  grind [chooseResident, setSteps_formed, roomForAll_formed]

theorem copyFrame_formed {d : Dev} {cr src dst : Nat} {r} (h : d.formed) (hr : copyFrame d cr src dst = .ok r) : r.formed := by
  grind [copyFrame, chargeCtx_formed, zeroFrame_formed, Dev.formed.host, Dev.formed.pier, Dev.formed.tiles, formed_mk, memCells_wf]

theorem copyShared_formed {d : Dev} {cr i : Nat} {m : Model} {l : PageList} {is fs : List Nat} {r : Dev × PageList} (h : d.formed)
    (hr : copyShared d cr i m l is fs = .ok r) : r.1.formed := by
  obtain ⟨d1, hcopies, hr⟩ := eff_bind_ok.1 hr
  have h1 : d1.formed := by
    refine h.foldlM (fun d p r hd hp => ?_) _ hcopies
    obtain ⟨w, -, hp⟩ := eff_bind_ok.1 hp
    obtain ⟨d2, hcopy, hp⟩ := eff_bind_ok.1 hp
    exact putEntry_formed (copyFrame_formed (chargeRead_formed hd) hcopy) hp
  cases hr
  exact (setSlot_formed h1).foldl (fun _ _ hd => deref_formed hd) _

theorem chargeInputs_formed {d : Dev} {cr : Nat} {taken : List TokSeg} (h : d.formed) : (chargeInputs d cr taken).formed := by
  grind [chargeInputs, chargeRead_formed, Dev.formed.host, Dev.formed.pier, Dev.formed.tiles, formed_mk, TilesFormed.tset,
    Dev.formed.foldl]

theorem growSlot_formed {f : Frame0} {d : Dev} {i : Nat} {s : Slot} {o : Offer} {pl : Places} {r : Dev × PageList × PageList}
    (h : d.formed) (hr : growSlot f d i s o pl = .ok r) : r.1.formed := by
  unfold growSlot at hr
  extract_lets n at hr
  split at hr
  · cases hr; exact h
  next htake =>
    obtain ⟨⟨d2, l1⟩, hmove, hr⟩ := eff_bind_ok.1 hr
    obtain ⟨⟨d3, l2⟩, hcopy, hr⟩ := eff_bind_ok.1 hr
    obtain ⟨⟨d4, l3⟩, hadd, hr⟩ := eff_bind_ok.1 hr
    have h4 : d4.formed := addPages_formed (copyShared_formed (moveList_formed (takeFrames_formed h htake) hmove) hcopy) hadd
    dsimp only at hr
    split at hr
    · cases hr; exact h4
    · obtain ⟨⟨d5, g1⟩, hmove2, hr⟩ := eff_bind_ok.1 hr
      obtain ⟨⟨d6, g2⟩, hadd2, hr⟩ := eff_bind_ok.1 hr
      cases hr
      exact addPages_formed (moveList_formed h4 hmove2) hadd2

theorem putTable_formed {d : Dev} {f : Frame0} {e : Nat} {ent : List Word64} {r} (h : d.formed) (hr : putTable d f e ent = .ok r) :
    r.formed := by
  grind [putTable, writeVa_formed]

theorem startDemote_formed {d : Dev} {i : Nat} (h : d.formed) : (startDemote d i).formed := by
  grind [startDemote, cwEvent_formed, addXfer_formed, setSlot_formed]

theorem demoteAll_formed {d : Dev} {l : List (Nat × Slot)} {short : Nat} (h : d.formed) : (demoteAll d l short).1.formed := by
  induction l generalizing d short with
  | nil => exact h
  | cons p r ih => grind [demoteAll, startDemote_formed]

theorem relieve_formed {d : Dev} {p want : Nat} (h : d.formed) : (relieve d p want).formed := by
  grind [relieve, demoteAll_formed, walksOf_formed, queueOp_formed]

theorem settleDeficits_formed {d : Dev} {cr m rows : Nat} (h : d.formed) : (settleDeficits d cr m rows).formed := h

theorem placeStep_formed {d : Dev} {cr : Nat} {st : Step} (h : d.formed) : (placeStep d cr st).formed := h

theorem patchReported_formed {d : Dev} {cr num : Nat} (h : d.formed) : (patchReported d cr num).formed := by
  unfold patchReported
  split
  · split
    · exact h
    · exact h.foldl (fun _ _ hd => patchVerify_formed hd) _
  · exact h

theorem finishBuild_formed {f : Frame0} {b : Build} {ms : List Nat} (h : b.d.formed) : (finishBuild f b ms).formed := by
  grind [finishBuild, patchReported_formed, placeStep_formed, settleDeficits_formed, setModel_formed, startPull_formed,
    relieve_formed, Dev.formed.host, Dev.formed.pier, Dev.formed.tiles, formed_mk, TilesFormed.tset, Dev.formed.foldl]

theorem deferSlot_formed {b : Build} {i : Nat} {s : Slot} {o : Offer} {reason : Nat} {dropped : Bool} {want : Nat} (h : b.d.formed) :
    (deferSlot b i s o reason dropped want).d.formed := by
  unfold deferSlot
  split
  · exact h
  · dsimp only
    split
    · exact setSlot_formed h
    · exact h

theorem admitOne_formed {f : Frame0} {b : Build} {i : Nat} {s : Slot} {o : Offer} {short : Bool} {pl : Places} {r : Build} (h : b.d.formed)
    (hr : admitOne f b i s o short pl = .ok r) : r.d.formed := by
  obtain ⟨⟨d0, l, g⟩, hgrow, hr⟩ := eff_bind_ok.1 hr
  obtain ⟨ins, -, hr⟩ := eff_bind_ok.1 hr
  have h1 := fun taken => chargeInputs_formed (cr := f.cr) (taken := taken) (growSlot_formed h hgrow)
  dsimp only at hr
  split at hr
  · split at hr
    · obtain ⟨d2, hd2, hr⟩ := eff_bind_ok.1 hr
      cases hd2
      obtain ⟨d3, htable, hr⟩ := eff_bind_ok.1 hr
      cases hr
      exact setSlot_formed (putTable_formed (h1 _) htable)
    · obtain ⟨⟨d2, bs⟩, hread, hr⟩ := eff_bind_ok.1 hr
      obtain ⟨d3, hwrite, hr⟩ := eff_bind_ok.1 hr
      obtain ⟨d4, htable, hr⟩ := eff_bind_ok.1 hr
      cases hr
      exact setSlot_formed (putTable_formed (writeVa_formed (readVaC_formed (h1 _) hread) hwrite) htable)
  · obtain ⟨d2, hd2, hr⟩ := eff_bind_ok.1 hr
    cases hd2
    obtain ⟨d3, htable, hr⟩ := eff_bind_ok.1 hr
    cases hr
    exact setSlot_formed (putTable_formed (h1 _) htable)

theorem examine_formed {f : Frame0} {b : Build} {c : Cand} {r : Build} (h : b.d.formed) (hr : examine f b c = .ok r) : r.d.formed := by
  unfold examine at hr
  dsimp only at hr
  split at hr
  · cases hr; exact deferSlot_formed h
  split at hr
  · cases hr; exact deferSlot_formed h
  split at hr
  · cases hr; exact deferSlot_formed h
  split at hr
  · exact admitOne_formed h hr
  · cases hr; exact deferSlot_formed h

theorem examineAll_formed {f : Frame0} {b : Build} {l : List Cand} {r : Build} (h : b.d.formed) (hr : examineAll f b l = .ok r) :
    r.d.formed := by
  induction l generalizing b with
  | nil => cases hr; exact h
  | cons c rest ih =>
    unfold examineAll at hr
    split at hr
    · cases hr; exact h
    split at hr
    · cases hr
    next hexam => exact ih (examine_formed h hexam) hr

theorem buildStep_formed {d0 d : Dev} {cr p mi : Nat} {m : Model} {cs : List Cand} (h0 : d0.formed) (h : d.formed) :
    (buildStep d0 d cr p mi m cs).formed := by
  unfold buildStep
  extract_lets q f b0
  split
  · exact accessFault_formed h
  next b hexam =>
    split
    · refine relieve_formed (setSteps_formed (h0.foldl (fun d x hd => ?_) _))
      split
      · exact setSlot_formed hd
      · exact hd
    · exact finishBuild_formed (examineAll_formed (b := b0) h hexam)

theorem stepBuildD_formed {p : Nat} {d : Dev} (h : d.formed) : (stepBuildD p d).formed := by
  grind [stepBuildD, chooseResident_formed, coxSettle_formed, buildStep_formed]

/-! ## Tree compaction -/

theorem bitsPut_wf {m : Memory} {a n v : Nat} (h : Memory.wf m = true) : Memory.wf (bitsPut m a n v) = true := memPuts_wf _ _ _ h

theorem eq_of_have {α β : Type} {v : α} {f : α → β} {c : β} (h : (have x := v; f x) = c) : f v = c := h

theorem copyPos_formed {m : Model} {cr : Nat} {l : PageList} {layer src dst : Nat} {d r : Dev} (h : d.formed)
    (hr : copyPos m cr l layer src dst d = .ok r) : r.formed := by
  have hpier : ∀ mem, Memory.wf mem = true → Dev.formed { d with pier := { d.pier with mem := mem } } :=
    fun _ hm => ⟨h.host, hm, h.tiles⟩
  unfold copyPos at hr
  obtain ⟨se, -, hr⟩ := eff_bind_ok.1 hr
  obtain ⟨de, -, hr⟩ := eff_bind_ok.1 hr
  replace hr := eq_of_have (eq_of_have hr)
  split at hr
  · cases hr
  · cases hr
  · refine putEntry_formed (chargeCtx_formed (hpier _ ?_)) hr
    refine foldl_keeps (P := fun m => Memory.wf m = true) (fun m t hm => ?_) _ h.pier
    exact foldl_keeps (P := fun m => Memory.wf m = true) (fun m p hm => bitsPut_wf hm) _ hm

theorem compactPages_formed {m : Model} {cr c : Nat} {l : PageList} {nodes : List Nat} {d r : Dev} (h : d.formed)
    (hr : compactPages m cr c l nodes d = .ok r) : r.formed := by
  refine h.foldlM (fun d p r hd hp => ?_) _ hr
  split at hp
  · cases hp; exact hd
  · exact hd.foldlM (fun _ _ _ hd hr => copyPos_formed hd hr) _ hp

theorem compactTree_formed {d : Dev} {i : Nat} {a : Admitted} (h : d.formed) : (compactTree d i a).formed := by
  unfold compactTree
  dsimp only
  split
  · split
    · exact h
    split
    next hr =>
      obtain ⟨⟨d1, bs⟩, hread, hr⟩ := eff_bind_ok.1 hr
      exact compactPages_formed (readVaC_formed h hread) hr
    · exact accessFault_formed h
  · exact h

/-! ## Steps -/

theorem fillGrid_formed {d : Dev} {tbl : Nat} {cr : RecNo} {g : TaskDesc} {rows : Nat} (h : d.formed) : (fillGrid d tbl cr g
    rows).formed := by
  grind [fillGrid, setBuf_formed, Dev.formed.host, Dev.formed.pier, Dev.formed.tiles, formed_mk, TilesFormed.tset, Dev.formed.foldl]

theorem fillBufs_formed {d : Dev} {cr : Nat} {st : Step} {m : Model} (h : d.formed) : (fillBufs d cr st m).formed := by
  grind [fillBufs, fillGrid_formed, Dev.formed.host, Dev.formed.pier, Dev.formed.tiles, formed_mk, TilesFormed.tset, Dev.formed.foldl]

theorem repull_formed {d : Dev} {p cr : Nat} {st : Step} {m : Model} (h : d.formed) : (repull d p cr st m).formed := by
  grind [repull, roomForAll_formed, startPull_formed]

theorem deliveryStartD_formed {p : Nat} {d : Dev} (h : d.formed) : (deliveryStartD p d).formed := by
  unfold deliveryStartD
  split
  · exact h
  split
  · exact h
  split
  · exact h
  split
  · exact h
  split
  · exact repull_formed h
  split
  · exact accessFault_formed h
  · have hread : ∀ cr (l : List Nat), (l.foldl (fun d va => chargeRead d cr va 64) d).formed :=
      fun _ l => h.foldl (fun _ _ hd => chargeRead_formed hd) l
    dsimp only
    split
    · exact endStep_formed (putStep_formed (fillBufs_formed (hread _ _)))
    · exact putStep_formed (fillBufs_formed (hread _ _))

theorem queueInserts_formed {d : Dev} {i : Nat} {a : Admitted} (h : d.formed) : (queueInserts d i a).formed := by
  grind [queueInserts, Dev.formed.host, Dev.formed.pier, Dev.formed.tiles, formed_mk, TilesFormed.tset]

theorem restoreSlot_formed {d : Dev} {i : Nat} {a : Admitted} (h : d.formed) : (restoreSlot d i a).formed := by
  unfold restoreSlot
  dsimp only
  split
  · exact h
  split
  · exact accessFault_formed h
  next d1 l g fs hcut =>
    refine freeFrames_formed (setSlot_formed ?_)
    obtain ⟨⟨d2, l2, fs2⟩, hmain, hcut⟩ := eff_bind_ok.1 hcut
    dsimp only at hcut
    split at hcut
    · cases hcut; exact cutPageList_formed h hmain
    · obtain ⟨⟨d3, g3, gs⟩, hdraft, hcut⟩ := eff_bind_ok.1 hcut
      cases hcut
      exact cutPageList_formed (cutPageList_formed h hmain) hdraft

theorem handOn_formed {d : Dev} {cr num e : Nat} {a b : Admitted} (h : d.formed) : (handOn d cr num e a b).formed := by
  simp only [handOn]
  split <;> exact h

theorem leaveActive_formed {d : Dev} {i : Nat} (h : d.formed) : (leaveActive d i).formed := by
  grind [leaveActive, releaseSlot_formed, setSlot_formed, parkSlot_formed, readySlot_formed]

theorem settleAdmitted_formed {cr num : Nat} {d : Dev} {a : Admitted} (h : d.formed) : (settleAdmitted cr num d a).formed := by
  grind [settleAdmitted, leaveActive_formed, setSlot_formed, handOn_formed, restoreSlot_formed, compactTree_formed, pushSlot_formed,
    queueInserts_formed]

theorem closeStep_formed {d : Dev} {cr : Nat} {st : Step} (h : d.formed) : (closeStep d cr st).formed := by
  grind [closeStep, nextReady_formed, settleAdmitted_formed, coxSettle_formed, fencesOf_formed, setSteps_formed, Dev.formed.host,
    Dev.formed.pier, Dev.formed.tiles, formed_mk, TilesFormed.tset, Dev.formed.foldl]

theorem batchWrittenD_formed {p : Nat} {d : Dev} (h : d.formed) : (batchWrittenD p d).formed := by
  unfold batchWrittenD
  grind [writeBatch_formed, closeStep_formed]

theorem deadlinePatch_formed {d : Dev} {cr i : Nat} {st : Step} (h : d.formed) : (deadlinePatch d cr i st).formed := by
  grind [deadlinePatch, cancelEntry_formed, putStep_formed]

theorem deadlineD_formed {i : Nat} {d : Dev} (h : d.formed) : (deadlineD i d).formed := by
  grind [deadlineD, deadlinePatch_formed]

theorem vfwinD_formed {n : Nat} {v : Word64} {d : Dev} (h : d.formed) : (vfwinD n v d).formed := by
  simp only [vfwinD]
  split <;> exact h

theorem slotSelD_formed {v : Word64} {d : Dev} (h : d.formed) : (slotSelD v d).formed := by
  simp only [slotSelD]
  split <;> exact h

/-! ## Walkers and sweepers -/

theorem matchNode_formed {d : Dev} {i : Nat} (h : d.formed) : (matchNode d i).formed := by
  grind [matchNode, lruRemove_formed, setNode_formed]

theorem copySegment_formed {d0 : Dev} {cr gen : Nat} {m : Model} {l : PageList} {b node : Nat} {r} (h : d0.formed) (hr : copySegment
    d0 cr gen m l b node = .ok r) : r.formed := by
  grind [copySegment, chargeCtx_formed, putEntry_formed, Dev.formed.host, Dev.formed.pier, Dev.formed.tiles, formed_mk,
    Dev.formed.foldl, Dev.formed.foldlM, tileWf_foldl]

theorem copySegments_formed {d : Dev} {cr gen : Nat} {m : Model} {l : PageList} {b : Nat} {nodes : List Nat} {r : Dev} (h : d.formed)
    (hr : copySegments d cr gen m l b nodes = .ok r) : r.formed := by
  induction nodes generalizing d b with
  | nil => cases hr; exact h
  | cons i rest ih => grind [copySegments, copySegment_formed, matchNode_formed]

theorem startPrefixPull_formed {d : Dev} {i : Nat} {mo : Model} {obj : Word64} {m k : Nat} (h : d.formed) :
    (startPrefixPull d i mo obj m k).formed := by
  unfold startPrefixPull
  extract_lets
  split
  · exact cwEvent_formed h
  split
  · exact h
  next htake => exact setSlot_formed (addXfer_formed (cleanFrames_formed (takeFrames_formed h htake)))

theorem matchSlot_formed {d : Dev} {i : Nat} {mo : Model} {l : PageList} {nodes : List Nat} {b : Nat} (h : d.formed) : (matchSlot d
    i mo l nodes b).formed := by
  grind [matchSlot, setSlot_formed, startPrefixPull_formed]

theorem chargeTokens_formed {d : Dev} {s : Slot} {b : Nat} (h : d.formed) : (chargeTokens d s b).formed := by
  grind [chargeTokens, chargeRead_formed, Dev.formed.host, Dev.formed.pier, Dev.formed.tiles, formed_mk, TilesFormed.tset,
    Dev.formed.foldl]

theorem runLookup_formed {d : Dev} {i : Nat} (h : d.formed) : (runLookup d i).formed := by
  unfold runLookup
  extract_lets s cr b bad
  split
  · exact h
  · exact accessFault_formed h
  next mo ts _ _ =>
    extract_lets w n
    have hw : w.1.formed := walkRoot_formed (chargeTokens_formed h)
    split
    · exact lookupOver_formed hw
    split
    · exact lookupOver_formed hw
    split
    · exact accessFault_formed hw
    next hmove =>
      split
      · exact accessFault_formed (moveList_formed hw hmove)
      next hcopy => exact matchSlot_formed (copySegments_formed (moveList_formed hw hmove) hcopy)

theorem keyLookupD_formed {i : Nat} {d : Dev} (h : d.formed) : (keyLookupD i d).formed := by
  grind [keyLookupD, popOp_formed, coxSettle_formed, walksOf_formed, fwRead_formed, runLookup_formed]

theorem rootOf_formed {d : Dev} {p m : Nat} (h : d.formed) : ((rootOf d p m).1).formed := by
  grind [rootOf, takeNode_formed, Dev.formed.host, Dev.formed.pier, Dev.formed.tiles, formed_mk, TilesFormed.tset]

theorem childSpot_formed {d : Dev} {p m node : Nat} (h : d.formed) : ((childSpot d p m node).1).formed := by
  grind [childSpot, takeNode_formed, freeNode_formed, setChild_formed, setNode_formed]

theorem chainOn_formed {d : Dev} {i node : Nat} (h : d.formed) : (chainOn d i node).formed := h

theorem putSegment_formed {d : Dev} {pa : Nat} {ws : List Word64} (h : d.formed) : (putSegment d pa ws).formed := by
  grind [putSegment, pierPut_formed]

theorem keyFullFor_formed {d : Dev} {i cr : Nat} (h : d.formed) : (keyFullFor d i cr).formed := h

theorem refNode_formed {d : Dev} {i : Nat} (h : d.formed) : (refNode d i).formed := by
  grind [refNode, lruRemove_formed, setNode_formed]

theorem insertFull_formed {d : Dev} {i cr parent : Nat} {taken : List Nat} (h : d.formed) : (insertFull d i cr parent taken).formed := by
  grind [insertFull, freeNode_formed, freeEmptyDir_formed, keyFullFor_formed, settle_formed, Dev.formed.host, Dev.formed.pier,
    Dev.formed.tiles, formed_mk, TilesFormed.tset, Dev.formed.foldl]

theorem commitNode_formed {d : Dev} {i p n parent : Nat} {tokens : List Word32} {spot : Nat × Nat} {pa : Nat} {es : List Nat} {ws :
    List Word64} {r} (h : d.formed) (hr : commitNode d i p n parent tokens spot pa es ws = .ok r) : r.formed := by
  grind [commitNode, setNode_formed, putSegment_formed, chainOn_formed, setChild_formed, lruRemove_formed, setSlot_formed,
    debit_formed, mapEntries_formed]

theorem commitInsert_formed {d : Dev} {i p m parent depth : Nat} {tokens : List Word32} {es : List Nat} {ws : List Word64} {r : Dev}
    (h : d.formed) (hr : commitInsert d i p m parent depth tokens es ws = .ok r) : r.formed := by
  unfold commitInsert at hr
  extract_lets cr at hr
  have hnode : ∀ x, (takeNode (lruRemove d parent) p x).1.formed := fun x => takeNode_formed (lruRemove_formed h)
  split at hr
  next d1 hn =>
    cases hr
    exact insertFull_formed ((hnode _).fst_eq hn)
  next d1 n hn =>
    have h1 : d1.formed := (hnode _).fst_eq hn
    have hspot := childSpot_formed h1 (p := p) (m := m) (node := parent)
    split at hr
    next d2 hs =>
      cases hr
      exact insertFull_formed (hspot.fst_eq hs)
    next d2 spot hs =>
      have h2 : d2.formed := hspot.fst_eq hs
      split at hr
      · cases hr
        exact insertFull_formed h2
      next htake => exact commitNode_formed (takeSegment_formed h2 htake) hr

theorem runInsert_formed {d : Dev} {i b : Nat} {tokens : List Word32} (h : d.formed) : (runInsert d i b tokens).formed := by
  unfold runInsert
  extract_lets s cr p bad
  split
  · exact h
  next mo _ =>
    split
    · exact h
    have hroot : (match s.chainNode with | some n => (d, some n) | none => rootOf d p s.model : Dev × Option Nat).1.formed := by
      split
      · exact h
      · exact rootOf_formed h
    split
    next d1 heq => exact keyFullFor_formed (hroot.fst_eq heq)
    next d1 parent heq =>
      have h1 : d1.formed := hroot.fst_eq heq
      have hchild := findChild_formed h1 (cr := cr) (ins := true) (m := s.model) (node := parent) (ts := tokens)
      split
      · exact poisonNode_formed h1
      split
      next d2 n hc => exact chainOn_formed (refNode_formed (hchild.fst_eq hc))
      next d2 hc =>
        have h2 : d2.formed := hchild.fst_eq hc
        extract_lets es
        split
        · exact accessFault_formed h2
        split
        · exact accessFault_formed h2
        next hcommit => exact commitInsert_formed h2 hcommit

theorem leaveDone_formed {d : Dev} {i : Nat} (h : d.formed) : (leaveDone d i).formed := by
  grind [leaveDone, releaseSlot_formed]

theorem keyInsertD_formed {i : Nat} {d : Dev} (h : d.formed) : (keyInsertD i d).formed := by
  grind [keyInsertD, popOp_formed, coxSettle_formed, walksOf_formed, leaveDone_formed, fwRead_formed, runInsert_formed]

theorem keyFlushD_formed {v : Word32} {d : Dev} (h : d.formed) : (keyFlushD v d).formed := by
  simp only [keyFlushD]
  split <;> exact h

theorem keystoneFlushD_formed {p : Nat} {d : Dev} (h : d.formed) : (keystoneFlushD p d).formed := by
  grind [keystoneFlushD, evictWhile_formed, popOp_formed, coxSettle_formed, walksOf_formed, Dev.formed.host, Dev.formed.pier,
    Dev.formed.tiles, formed_mk, TilesFormed.tset]

theorem ttlSweepD_formed {st : Nat} {d : Dev} (h : d.formed) : (ttlSweepD st d).formed := by
  grind [ttlSweepD, deviceFatal_formed, Dev.formed.host, Dev.formed.pier, Dev.formed.tiles, formed_mk, TilesFormed.tset]

theorem expiryReportD_formed {i : Nat} {d : Dev} (h : d.formed) : (expiryReportD i d).formed := by
  grind [expiryReportD, fwRead_formed, coxSettle_formed, releaseSlot_formed, ctxEvent_formed, Dev.formed.host, Dev.formed.pier,
    Dev.formed.tiles, formed_mk, TilesFormed.tset]

theorem crcRetryD_formed {k : Nat} {d : Dev} (h : d.formed) : (crcRetryD k d).formed := by
  simp only [crcRetryD]
  split <;> exact h

theorem linkRetrainD_formed {k : Nat} {d : Dev} (h : d.formed) : (linkRetrainD k d).formed := by
  simp only [linkRetrainD]
  split <;> exact h

theorem retrainDoneD_formed {k : Nat} {ok : Bool} {d : Dev} (h : d.formed) : (retrainDoneD k ok d).formed := by
  grind [retrainDoneD, setLink_formed, deviceFatal_formed]

theorem refreshD_formed {stack die : Nat} {above : Bool} {d : Dev} (h : d.formed) : (refreshD stack die above d).formed := h

/-! ## Page tables -/

theorem putTabEntry_formed {d : Dev} {cr : Nat} {m : Maps} {level va v : Nat} (h : d.formed) : (putTabEntry d cr m level va
    v).formed := by
  grind [putTabEntry, chargeCtx_formed, pierPut_formed]

theorem putTab_formed {d : Dev} {cr : Nat} {m : Maps} {t : TabSpot} (h : d.formed) : (putTab d cr m t).formed := by
  grind [putTab, chargeCtx_formed, pierPut_formed, putTabEntry_formed]

theorem putMaps_formed {d : Dev} {cr : Nat} {m : Maps} {level va v : Nat} (h : d.formed) : (putMaps d cr m level va v).formed := by
  grind [putMaps, putTab_formed, putTabEntry_formed, setMaps_formed, Dev.formed.host, Dev.formed.pier, Dev.formed.tiles, formed_mk,
    TilesFormed.tset, Dev.formed.foldl]

theorem ctxTblD_formed {c : Nat} {v : Word64} {d : Dev} (h : d.formed) : (ctxTblD c v d).formed := by
  grind [ctxTblD, setReg_formed]

theorem takePage_formed {d : Dev} {q : CommitReq} {va target : Nat} {m : Maps} (h : d.formed) : (takePage d q va target m).formed := by
  grind [takePage, dropPageEnts_formed, putMaps_formed]

theorem commitPages_formed {d : Dev} {q : CommitReq} {va target done k : Nat} (h : d.formed) :
    (commitPages d q va target done k).1.formed := by
  induction k generalizing d va target done with
  | zero => exact h
  | succ j ih => grind [commitPages, takePage_formed]

theorem setCommit_formed {d : Dev} {fn : Nat} {c : Commit} (h : d.formed) : (setCommit d fn c).formed := h

theorem squash_formed {d : Dev} {cr : Nat} (h : d.formed) : (squash d cr).formed := h

theorem freezeMaps_formed {d : Dev} {cr : Nat} (h : d.formed) : (freezeMaps d cr).formed := by
  simp only [freezeMaps]
  split <;> exact h

theorem thawMaps_formed {d : Dev} {cr : Nat} (h : d.formed) : (thawMaps d cr).formed := h

theorem commitD_formed {op fn : Nat} {v : Word64} {d : Dev} (h : d.formed) : (commitD op fn v d).formed := by
  grind [commitD, setCommit_formed, commitPages_formed, freezeMaps_formed, squash_formed]

theorem commitEndD_formed {fn : Nat} {d : Dev} (h : d.formed) : (commitEndD fn d).formed := by
  simp only [commitEndD]
  split <;> exact h

/-! ## Teardown -/

theorem abortXfer_formed {d : Dev} {x : Nat} (h : d.formed) : (abortXfer d x).formed := by
  grind [abortXfer, dropPull_formed, dropTier_formed]

theorem freeSlots_formed {d : Dev} {cr : Nat} (h : d.formed) : (freeSlots d cr).formed := by
  grind [freeSlots, settleSlot_formed, releaseSlot_formed, Dev.formed.host, Dev.formed.pier, Dev.formed.tiles, formed_mk,
    TilesFormed.tset, Dev.formed.foldl]

theorem zeroOwed_formed {d : Dev} {cr : Nat} (h : d.formed) : (zeroOwed d cr).formed := by
  unfold zeroOwed
  refine formed_mk h.host h.pier ?_
  dsimp only
  refine h.tiles.tmap fun _ x hx => ?_
  exact tileWf_foldl (f := fun x (z : RecNo × Nat × Nat) => zeroRange x z.2.1 z.2.2) (fun _ _ hy => zeroRange_formed hy) _ hx

theorem clearCox_formed {d : Dev} {cr : Nat} (h : d.formed) : (clearCox d cr).formed := h

theorem dropCslot_formed {d : Dev} {cr : Nat} (h : d.formed) : (dropCslot d cr).formed := by
  simp only [dropCslot]
  split <;> exact h

theorem leaveCslot_formed {d : Dev} {cr : Nat} (h : d.formed) : (leaveCslot d cr).formed := by
  grind [leaveCslot, dropCslot_formed, setReg_formed, setCtx_formed]

theorem dropDeckModels_formed {d : Dev} {p : Nat} (h : d.formed) : (dropDeckModels d p).formed := by
  grind [dropDeckModels, evictModel_formed, Dev.formed.host, Dev.formed.pier, Dev.formed.tiles, formed_mk, TilesFormed.tset,
    Dev.formed.foldl]

theorem freshTile_formed {x : Tile} : Memory.wf (freshTile x).mem = true := rfl

theorem seatCtx_formed {d : Dev} {cr : Nat} (h : d.formed) : (seatCtx d cr).formed := by
  grind [seatCtx, setCtx_formed, setReg_formed, giveCslot_formed]

theorem mapBuckets_formed {d : Dev} {p : Nat} {f : Nat → Int → Int} (h : d.formed) : (mapBuckets d p f).formed := h

theorem refillBuckets_formed {d : Dev} {p : Nat} (h : d.formed) : (refillBuckets d p).formed := h

theorem settleReset_formed {d : Dev} {p : Nat} (h : d.formed) : (settleReset d p).formed := by
  grind [settleReset, dropDeckModels_formed, setTile_formed, freshTile_formed, getTile_formed, seatCtx_formed, thawMaps_formed,
    setCtx_formed, coxSettle_formed, setPart_formed, refillBuckets_formed, Dev.formed.host, Dev.formed.pier, Dev.formed.tiles,
    formed_mk, TilesFormed.tset, Dev.formed.foldl]

theorem lcTraffic_formed {d e : Dev} {p i n : Nat} (h : d.formed) (h1 : e.formed) : (lcTraffic d e p i n).formed := by
  grind [lcTraffic, debit_formed]

theorem finishTeardown_formed {d : Dev} {cr : Nat} {own : Bool} (h : d.formed) : (finishTeardown d cr own).formed := by
  grind [finishTeardown, abortXfer_formed, zeroOwed_formed, clearCox_formed, freeSlots_formed, dropCtxEnts_formed, syncEngine_formed,
    leaveCslot_formed, setCtx_formed, ctxRecord_formed, lcTraffic_formed, accessFault_formed, settleReset_formed, coxSettle_formed,
    Dev.formed.host, Dev.formed.pier, Dev.formed.tiles, formed_mk, TilesFormed.tset, Dev.formed.foldl]

theorem teardownStartD_formed {cr : Nat} {d : Dev} (h : d.formed) : (teardownStartD cr d).formed := by
  grind [teardownStartD, Dev.formed.host, Dev.formed.pier, Dev.formed.tiles, formed_mk, TilesFormed.tset]

theorem teardownDoneD_formed {cr : Nat} {d : Dev} (h : d.formed) : (teardownDoneD cr d).formed := by
  grind [teardownDoneD, finishTeardown_formed]

theorem tearNow_formed {d : Dev} {cr : Nat} {own : Bool} (h : d.formed) : (tearNow d cr own).formed := by
  grind [tearNow, finishTeardown_formed, beginTeardown_formed]

theorem bootReadFails_formed {d : Dev} (h : d.formed) : (bootReadFails d).formed := by
  grind [bootReadFails, Dev.formed.host, Dev.formed.pier, Dev.formed.tiles, formed_mk, TilesFormed.tset]

theorem endMbx_formed {d : Dev} {fn r n : Nat} (h : d.formed) : (endMbx d fn r n).formed := h

theorem requestFails_formed {q : HostReq} {d : Dev} (h : d.formed) : (requestFails q d).formed := by
  unfold requestFails
  grind [ctxFault_formed, bootReadFails_formed, endMbx_formed, Dev.formed.host, Dev.formed.pier, Dev.formed.tiles, formed_mk]

/-! ## Saves and resumes -/

theorem unstall_formed {d : Dev} {p : Nat} (h : d.formed) : (unstall d p).formed := by
  grind [unstall, putStep_formed, Dev.formed.host, Dev.formed.pier, Dev.formed.tiles, formed_mk, TilesFormed.tset]

theorem storeTask_formed {area : Nat} {d : Dev} {q : Nat × Task × Nat} (h : d.formed) : (storeTask area d q).formed := by
  grind [storeTask, getTile_formed, pierImage_formed, pierPut_formed, Dev.formed.host, Dev.formed.pier, Dev.formed.tiles, formed_mk,
    TilesFormed.tset]

theorem storeKept_formed {area : Nat} {d : Dev} {q : Nat × Kept × Nat} (h : d.formed) : (storeKept area d q).formed := by
  grind [storeKept, pierImage_formed, getTile_formed]

theorem saveContext_formed {d0 : Dev} {p cr : Nat} (h : d0.formed) : (saveContext d0 p cr).formed := by
  grind [saveContext, unstall_formed, getTile_formed, storeKept_formed, storeTask_formed, unplaceTask_formed, setTile_formed,
    setCtx_formed, debit_formed, Dev.formed.host, Dev.formed.pier, Dev.formed.tiles, formed_mk, TilesFormed.tset, Dev.formed.foldl]

theorem returnKept_formed {v : Saved} {area : Nat} {d : Dev} {q : Nat × Kept} (h : d.formed) : (returnKept v area d q).formed :=
  setTile_formed h (tileWf_foldl_fst (fun _ _ hp => putSaved_formed hp) _ (getTile_formed h))

theorem returnTask_formed {d : Dev} {sv : SavedTask} (h : d.formed) : (returnTask d sv).formed := by
  grind [returnTask, setDeque_formed, catchFault_formed]

theorem restoreContext_formed {d : Dev} {cr : Nat} (h : d.formed) : (restoreContext d cr).formed := by
  grind [restoreContext, setCtx_formed, debit_formed, accessFault_formed, returnTask_formed, returnKept_formed, Dev.formed.host,
    Dev.formed.pier, Dev.formed.tiles, formed_mk, TilesFormed.tset, Dev.formed.foldl]

/-! ## Slices and switches -/

theorem oneRound_formed {d : Dev} {slice : Nat} {l : List Nat} (h : d.formed) : (oneRound d slice l).1.formed := by
  induction l generalizing d with
  | nil => exact h
  | cons c r ih => grind [oneRound, setCtx_formed]

theorem rounds_formed {d : Dev} {slice : Nat} {l : List Nat} {k : Nat} (h : d.formed) : (rounds d slice l k).1.formed := by
  induction k generalizing d with
  | zero => exact h
  | succ j ih => grind [rounds, oneRound_formed]

theorem pickNext_formed {d : Dev} {p : Nat} {out : Option Nat} (h : d.formed) : ((pickNext d p out).1).formed := by
  grind [pickNext, rounds_formed]

theorem countLc_formed {d : Dev} {p : Nat} (h : d.formed) : (countLc d p).formed := by
  simp only [countLc]
  split <;> exact h

theorem startSlice_formed {d : Dev} {p cr : Nat} (h : d.formed) : (startSlice d p cr).formed := h

theorem handOver_formed {d : Dev} {p : Nat} {out : Option Nat} (h : d.formed) : (handOver d p out).formed := by
  simp only [handOver]
  split <;> exact h

theorem nextContext_formed {d : Dev} {p : Nat} {out : Option Nat} (h : d.formed) : (nextContext d p out).formed := by
  grind [nextContext, countLc_formed, coxSettle_formed, setPart_formed, dropDeckModels_formed, pickNext_formed, ctxFault_formed,
    restoreContext_formed, startSlice_formed]

theorem contextSwitchD_formed {p : Nat} {d : Dev} (h : d.formed) : (contextSwitchD p d).formed := by
  grind [contextSwitchD, nextContext_formed, handOver_formed]

theorem renew_formed {d : Dev} {p cr : Nat} (h : d.formed) : (renew d p cr).formed := by
  grind [renew, pickNext_formed, countLc_formed, startSlice_formed]

theorem endSlice_formed {d : Dev} {p : Nat} {noGrace : Bool} (h : d.formed) : (endSlice d p noGrace).formed := by
  simp only [endSlice]
  split <;> exact h

theorem sliceEndD_formed {p : Nat} {d : Dev} (h : d.formed) : (sliceEndD p d).formed := by
  grind [sliceEndD, renew_formed, endSlice_formed]

theorem requestSave_formed {d : Dev} {p cr : Nat} (h : d.formed) : (requestSave d p cr).formed := by
  grind [requestSave, setCtx_formed, setPart_formed, setTile_formed, getTile_formed, Dev.formed.host, Dev.formed.pier,
    Dev.formed.tiles, formed_mk, TilesFormed.tset, Dev.formed.foldl]

theorem graceD_formed {p : Nat} {d : Dev} (h : d.formed) : (graceD p d).formed := by
  grind [graceD, renew_formed, setCtx_formed, requestSave_formed]

theorem saveDoneD_formed {p : Nat} {d : Dev} (h : d.formed) : (saveDoneD p d).formed := by
  grind [saveDoneD, ctxFault_formed, dropRequest_formed, saveContext_formed, setPart_formed, coxSettle_formed, setCtx_formed]

theorem overrunD_formed {cr : Nat} {d : Dev} (h : d.formed) : (overrunD cr d).formed := by
  grind [overrunD, deviceFatal_formed, ctxFault_formed, keyInsertD_formed, Dev.formed.host, Dev.formed.pier, Dev.formed.tiles,
    formed_mk, TilesFormed.tset]

theorem swapOutD_formed {cr : Nat} {d : Dev} (h : d.formed) : (swapOutD cr d).formed := by
  grind [swapOutD, accessFault_formed, hostPut_formed, ctxFault_formed, dropCtxEnts_formed, leaveCslot_formed, charge_formed,
    coxSettle_formed, setCtx_formed, Dev.formed.host, Dev.formed.pier, Dev.formed.tiles, formed_mk, memCells_wf, memZero_wf]

theorem swapInD_formed {cr : Nat} {d : Dev} (h : d.formed) : (swapInD cr d).formed := by
  grind [swapInD, ctxFault_formed, pierImage_formed, coxSettle_formed, charge_formed, setCtx_formed]

/-! ## Contexts and partitions -/

theorem setCtxStatus_formed {d : Dev} {fn r cr : Nat} (h : d.formed) : (setCtxStatus d fn r cr).formed := h

theorem createCtx_formed {d : Dev} {r fn vctx p : Nat} {be : Bool} {swap : Word64} (h : d.formed) : (createCtx d r fn vctx p be
    swap).formed := by
  simp only [createCtx]
  split <;> exact h

theorem createD_formed {fn : Nat} {d : Dev} (h : d.formed) : (createD fn d).formed := by
  grind [createD, setCtxStatus_formed, coxSettle_formed, createCtx_formed]

theorem destroyCtx_formed {d0 : Dev} {cr : Nat} (h : d0.formed) : (destroyCtx d0 cr).formed := by
  grind [destroyCtx, finishTeardown_formed, dropCtxEnts_formed, dropCslot_formed, clearCox_formed, zeroOwed_formed, catchDrop_formed,
    abortXfer_formed, Dev.formed.host, Dev.formed.pier, Dev.formed.tiles, formed_mk, TilesFormed.tset, Dev.formed.foldl]

theorem destroyD_formed {fn : Nat} {d : Dev} (h : d.formed) : (destroyD fn d).formed := by
  grind [destroyD, setCtxStatus_formed, coxSettle_formed, destroyCtx_formed]

theorem armD_formed {fn : Nat} {d : Dev} (h : d.formed) : (armD fn d).formed := by
  grind [armD, setCtxStatus_formed, coxSettle_formed, seatCtx_formed, thawMaps_formed, setCtx_formed]

theorem setClassD_formed {fn : Nat} {d : Dev} (h : d.formed) : (setClassD fn d).formed := by
  grind [setClassD, setCtxStatus_formed, setCtx_formed]

theorem ctxSelD_formed {fn : Nat} {v : Word64} {d : Dev} (h : d.formed) : (ctxSelD fn v d).formed := by
  grind [ctxSelD, setFnReg_formed, Dev.formed.host, Dev.formed.pier, Dev.formed.tiles, formed_mk, TilesFormed.tset]

theorem limitBuckets_formed {d : Dev} {p : Nat} (h : d.formed) : (limitBuckets d p).formed := h

theorem regulatorD_formed {d : Dev} (h : d.formed) : (regulatorD d).formed := by
  grind [regulatorD, mapBuckets_formed, Dev.formed.host, Dev.formed.pier, Dev.formed.tiles, formed_mk, TilesFormed.tset,
    Dev.formed.foldl]

theorem resetPartition_formed {d : Dev} {p : Nat} (h : d.formed) : (resetPartition d p).formed := by
  grind [resetPartition, beginTeardown_formed, dropRequest_formed, settleReset_formed, setPart_formed, Dev.formed.host,
    Dev.formed.pier, Dev.formed.tiles, formed_mk, TilesFormed.tset, Dev.formed.foldl]

theorem partResetD_formed {v : Word32} {d : Dev} (h : d.formed) : (partResetD v d).formed := by
  grind [partResetD, setPart_formed, resetPartition_formed]

/-! ## The host interface -/

theorem doorbellD_formed {fn vctx : Nat} {v : Word64} {d : Dev} (h : d.formed) : (doorbellD fn vctx v d).formed := by
  simp only [doorbellD]
  split <;> exact h

theorem ringFreed_formed {d : Dev} {r : RingId} (h : d.formed) : (ringFreed d r).formed := by
  unfold ringFreed
  grind [coxSettle_formed, flushOwed_formed]

theorem ringConsD_formed {r : RingId} {v : Word64} {d : Dev} (h : d.formed) : (ringConsD r v d).formed := by
  unfold ringConsD
  grind [ringFreed_formed, setRing_formed]

theorem ringEnableD_formed {r : RingId} {v : Word64} {d : Dev} (h : d.formed) : (ringEnableD r v d).formed := by
  grind [ringEnableD, ringFreed_formed, setRing_formed]

theorem moderationD_formed {r : RingId} {d : Dev} (h : d.formed) : (moderationD r d).formed := by
  grind [moderationD, setRing_formed, sendMsix_formed]

theorem dropFn_formed {d : Dev} {fn : Nat} (h : d.formed) : (dropFn d fn).formed := by
  grind [dropFn, destroyCtx_formed, tearNow_formed, forgetModel_formed, Dev.formed.host, Dev.formed.pier, Dev.formed.tiles, formed_mk,
    TilesFormed.tset, Dev.formed.foldl]

theorem resetFnRegs_formed {d : Dev} {fn : Nat} (h : d.formed) : (resetFnRegs d fn).formed := h

theorem resetVf_formed {d : Dev} {fn : Nat} (h : d.formed) : (resetVf d fn).formed := by
  grind [resetVf, resetFnRegs_formed, dropFn_formed, coxSettle_formed, setFn_formed]

theorem vfFlrD_formed {fn : Nat} {d : Dev} (h : d.formed) : (vfFlrD fn d).formed := by
  grind [vfFlrD, resetVf_formed]

theorem resetVfs_formed {d : Dev} (h : d.formed) : (resetVfs d).formed := by
  grind [resetVfs, resetVf_formed, Dev.formed.host, Dev.formed.pier, Dev.formed.tiles, formed_mk, TilesFormed.tset, Dev.formed.foldl]

theorem pfFlrD_formed {d : Dev} (h : d.formed) : (pfFlrD d).formed := by
  grind [pfFlrD, resetFnRegs_formed, dropFn_formed, resetVfs_formed, coxSettle_formed, Dev.formed.host, Dev.formed.pier,
    Dev.formed.tiles, formed_mk, TilesFormed.tset]

theorem flushPend_formed {d : Dev} {fn : Nat} (h : d.formed) : (flushPend d fn).formed := by
  grind [flushPend, sendMsix_formed, Dev.formed.host, Dev.formed.pier, Dev.formed.tiles, formed_mk, TilesFormed.tset,
    Dev.formed.foldl]

theorem configD_formed {fn : Nat} {f : CfgField} {d : Dev} (h : d.formed) : (configD fn f d).formed := by
  have hhif : ∀ x, Dev.formed { d with hif := x } := fun _ => h
  unfold configD
  grind [setFn_formed, flushPend_formed, resetVfs_formed]

/-! ## OTP and images -/

theorem setGen_formed {d : Dev} {r i : Nat} {g : Gen} (h : d.formed) : (setGen d r i g).formed := h

theorem retireGen_formed {d : Dev} {r i : Nat} (h : d.formed) : (retireGen d r i).formed := h

theorem rollover_formed {d : Dev} {r : Nat} {data : List Byte} {readBack : Bool} (h : d.formed) : ((rollover d r data
    readBack).1).formed := by
  grind [rollover, setGen_formed, retireGen_formed]

theorem setBits_formed {d : Dev} {r : Nat} {v : Word64} {readBack : Bool} (h : d.formed) : ((setBits d r v readBack).1).formed := by
  grind [setBits, rollover_formed, setGen_formed]

theorem extendM_formed {d : Dev} {i : Nat} {h : BitVec 512} (hd : d.formed) : (extendM d i h).formed := hd

/-! ## Ports -/

theorem portGo_formed {d : Dev} {l : Nat} {st : PortState} (h : d.formed) : (portGo d l st).formed := by
  grind [portGo, setPort_formed, devRecord_formed]

theorem portsStart_formed {d : Dev} (h : d.formed) : (portsStart d).formed := by
  grind [portsStart, portGo_formed, Dev.formed.host, Dev.formed.pier, Dev.formed.tiles, formed_mk, TilesFormed.tset, Dev.formed.foldl]

theorem portsDisable_formed {d : Dev} (h : d.formed) : (portsDisable d).formed := by
  grind [portsDisable, portGo_formed, Dev.formed.host, Dev.formed.pier, Dev.formed.tiles, formed_mk, TilesFormed.tset,
    Dev.formed.foldl]

theorem portEvent_formed {l : Nat} {st : PortState} {st2 : Dev → PortState} {d : Dev} (h : d.formed) : (portEvent l st st2 d).formed := by
  unfold portEvent
  split
  · exact portGo_formed h
  · exact h

theorem portTimeoutD_formed {l : Nat} {d : Dev} (h : d.formed) : (portTimeoutD l d).formed := by
  grind [portTimeoutD, portEvent_formed]

theorem portRefLossD_formed {d : Dev} (h : d.formed) : (portRefLossD d).formed := by
  grind [portRefLossD, portsDisable_formed, Dev.formed.host, Dev.formed.pier, Dev.formed.tiles, formed_mk, TilesFormed.tset]

theorem portRefReturnD_formed {d : Dev} (h : d.formed) : (portRefReturnD d).formed := by
  grind [portRefReturnD, portsStart_formed, Dev.formed.host, Dev.formed.pier, Dev.formed.tiles, formed_mk, TilesFormed.tset]

theorem msecCtrlD_formed {l : Nat} {v : Word64} {d : Dev} (h : d.formed) : (msecCtrlD l v d).formed := by
  simp only [msecCtrlD]
  split <;> exact h

theorem saSlotD_formed {l s r : Nat} {v : Word64} {d : Dev} (h : d.formed) : (saSlotD l s r v d).formed := by
  simp only [saSlotD]
  split <;> exact h

/-! ## Boot -/

theorem setStage_formed {d : Dev} {n : Nat} (h : d.formed) : (setStage d n).formed := h

theorem bootFail_formed {d : Dev} {n code : Nat} (h : d.formed) : (bootFail d n code).formed := h

theorem retireOlder_formed {d : Dev} {r : Nat} (h : d.formed) : (retireOlder d r).formed := by
  grind [retireOlder, retireGen_formed, Dev.formed.host, Dev.formed.pier, Dev.formed.tiles, formed_mk, TilesFormed.tset,
    Dev.formed.foldl]

theorem romDone_formed {d : Dev} {vid sid : Nat} (h : d.formed) : (romDone d vid sid).formed := h

theorem fruRead_formed {d : Dev} {f : FruRead} (h : d.formed) : (fruRead d f).formed := by
  cases f with
  | busy =>
    unfold fruRead
    dsimp only
    split
    · exact romDone_formed h
    · exact h
  | data bs =>
    unfold fruRead
    dsimp only
    split <;> exact romDone_formed h

theorem romInitD_formed {selfTest : Bool} {f : FruRead} {d : Dev} (h : d.formed) : (romInitD selfTest f d).formed := by
  grind [romInitD, retireOlder_formed, bootFail_formed, fruRead_formed, Dev.formed.host, Dev.formed.pier, Dev.formed.tiles, formed_mk,
    TilesFormed.tset, Dev.formed.foldl]

theorem bootLoadD_formed {d : Dev} (h : d.formed) : (bootLoadD d).formed := by
  grind [bootLoadD, bootFail_formed, setStage_formed]

theorem startSvn_formed {d : Dev} {bs : List Byte} {readBack : Bool} (h : d.formed) : ((startSvn d bs readBack).1).formed := by
  grind [startSvn, rollover_formed, setBits_formed]

theorem deriveAk_formed {d : Dev} (h : d.formed) : (deriveAk d).formed := h

theorem startFw_formed {d : Dev} {bs : List Byte} {readBack : Bool} (h : d.formed) : (startFw d bs readBack).formed := by
  grind [startFw, startSvn_formed, bootFail_formed, setReg_formed, setStage_formed, deriveAk_formed, Dev.formed.host, Dev.formed.pier,
    Dev.formed.tiles, formed_mk, TilesFormed.tset]

theorem fwLoadedD_formed {readBack : Bool} {d : Dev} (h : d.formed) : (fwLoadedD readBack d).formed := by
  grind [fwLoadedD, bootFail_formed, startFw_formed, extendM_formed]

theorem pierDoneD_formed {codes : BitVec 16} {d : Dev} (h : d.formed) : (pierDoneD codes d).formed := by
  have hpier : Dev.formed { d with pier := { d.pier with mem := [], poison := [] } } := ⟨h.host, rfl, h.tiles⟩
  grind [pierDoneD, bootFail_formed, setReg_formed, setStage_formed]

theorem writePart_formed {d : Dev} {x : PartSec} (h : d.formed) : (writePart d x).formed := by
  grind [writePart, setReg_formed, Dev.formed.host, Dev.formed.pier, Dev.formed.tiles, formed_mk, TilesFormed.tset, Dev.formed.foldl]

theorem applySi_formed {d : Dev} {i : Img} (h : d.formed) : (applySi d i).formed := by
  unfold applySi
  extract_lets es d1 d2 d3
  have h1 : d1.formed := by
    refine Dev.formed.foldl (fun d x hd => ?_) _ h
    exact setReg_formed (setReg_formed (writePart_formed hd))
  clear_value d1
  have h2 : d2.formed := by
    refine Dev.formed.foldl (fun d n hd => ?_) _ h1
    exact setReg_formed (setReg_formed hd)
  clear_value d2
  have h3 : d3.formed := setReg_formed (setReg_formed h2)
  clear_value d3
  refine formed_mk h3.host h3.pier fun p hp => ?_
  obtain ⟨t, -, rfl⟩ := List.mem_map.1 hp
  exact Tile.init_formed

theorem siRefuse_formed {d : Dev} {code : Nat} (h : d.formed) : (siRefuse d code).formed := h

theorem siApplyD_formed {d : Dev} (h : d.formed) : (siApplyD d).formed := by
  grind [siApplyD, siRefuse_formed, portsStart_formed, extendM_formed, applySi_formed]

theorem loadSiD_formed {d : Dev} (h : d.formed) : (loadSiD d).formed := by
  grind [loadSiD, siRefuse_formed, Dev.formed.host, Dev.formed.pier, Dev.formed.tiles, formed_mk, TilesFormed.tset]

theorem bootReadyD_formed {d : Dev} (h : d.formed) : (bootReadyD d).formed := by
  simp only [bootReadyD]
  split <;> exact h

theorem quiesceSetD_formed {d : Dev} (h : d.formed) : (quiesceSetD d).formed := by
  grind [quiesceSetD, endSlice_formed, Dev.formed.host, Dev.formed.pier, Dev.formed.tiles, formed_mk, TilesFormed.tset,
    Dev.formed.foldl]

theorem quiesceClearD_formed {d : Dev} (h : d.formed) : (quiesceClearD d).formed := by
  grind [quiesceClearD, coxSettle_formed, Dev.formed.host, Dev.formed.pier, Dev.formed.tiles, formed_mk, TilesFormed.tset]

theorem endReload_formed {d : Dev} {code : Nat} (h : d.formed) : (endReload d code).formed := h

theorem reloadD_formed {v : Word32} {d : Dev} (h : d.formed) : (reloadD v d).formed := by
  grind [reloadD, endReload_formed, setPart_formed, endSlice_formed, Dev.formed.host, Dev.formed.pier, Dev.formed.tiles, formed_mk,
    TilesFormed.tset]

theorem gateTile_formed {x : Tile} {gate : BitVec 10} (h : Memory.wf x.mem = true) : Memory.wf (gateTile x gate).mem = true := h

theorem applyPi_formed {d : Dev} {p : Nat} {x : PartSec} {bs : List Byte} (h : d.formed) : (applyPi d p x bs).formed := by
  grind [applyPi, writePart_formed, setReg_formed, setTile_formed, freshTile_formed, getTile_formed, gateTile_formed,
    dropCtxEnts_formed, extendM_formed, limitBuckets_formed, Dev.formed.host, Dev.formed.pier, Dev.formed.tiles, formed_mk,
    Dev.formed.foldl, Dev.formed.foldlM, tileWf_foldl]

theorem afterReload_formed {d : Dev} {p : Nat} {out : Option Nat} (h : d.formed) : (afterReload d p out).formed := by
  grind [afterReload, resetPartition_formed, nextContext_formed, coxSettle_formed, setPart_formed, dropDeckModels_formed]

theorem reloadApplyD_formed {d : Dev} (h : d.formed) : (reloadApplyD d).formed := by
  grind [reloadApplyD, handOver_formed, setPart_formed, afterReload_formed, endReload_formed, dropDeckModels_formed, applyPi_formed,
    Dev.formed.host, Dev.formed.pier, Dev.formed.tiles, formed_mk, TilesFormed.tset]

/-! ## The root of trust -/

theorem truDone_formed {d : Dev} {code n : Nat} (h : d.formed) : (truDone d code n).formed := h

theorem truRespond_formed {d : Dev} {bs : List Byte} (h : d.formed) : (truRespond d bs).formed := by
  grind [truRespond, hostPut_formed, truDone_formed]

theorem truRequest_formed {d : Dev} {n : Nat} {act : List Byte → Dev} (hact : ∀ bs, (act bs).formed) (h : d.formed) :
    (truRequest d n act).formed := by
  unfold truRequest
  split
  · exact truDone_formed h
  · exact hact _

theorem getIdentityD_formed {d : Dev} (h : d.formed) : (getIdentityD d).formed := by
  grind [getIdentityD, truDone_formed, truRespond_formed]

theorem attestD_formed {d : Dev} (h : d.formed) : (attestD d).formed := by
  grind [attestD, truDone_formed, truRequest_formed, truRespond_formed]

theorem challengeD_formed {d : Dev} (h : d.formed) : (challengeD d).formed := by
  have htru : ∀ (d : Dev) t, d.formed → Dev.formed { d with tru := t } := fun _ _ hd => hd
  unfold challengeD
  grind [hostPut_formed, truDone_formed]

theorem signedCmd_formed {d : Dev} {op : Nat} {q : SignedReq} {argOk busy : Bool} {hash : Option (List Byte)}
    {act : Dev → List Byte → Dev} (hact : ∀ d m, d.formed → (act d m).formed) (h : d.formed) :
    (signedCmd d op q argOk busy hash act).formed := by
  have htru : ∀ t, Dev.formed { d with tru := t } := fun _ => h
  grind [signedCmd, truDone_formed]

theorem truSigned_formed {d : Dev} {n : Nat} {act : SignedReq → Dev} (hact : ∀ q, (act q).formed) (h : d.formed) :
    (truSigned d n act).formed := by
  unfold truSigned
  split
  · exact h
  · exact truRequest_formed (fun _ => hact _) h

theorem otpDone_formed {m : List Byte} {r : Dev × Nat} (h : r.1.formed) : (otpDone m r).formed := by
  grind [otpDone, truDone_formed, pushTap_formed, extendM_formed]

theorem otpOwnerD_formed {readBack : Bool} {d : Dev} (h : d.formed) : (otpOwnerD readBack d).formed :=
  truSigned_formed (fun _ => signedCmd_formed (fun _ _ hd => otpDone_formed (rollover_formed hd)) h) h

theorem otpSvnD_formed {readBack : Bool} {d : Dev} (h : d.formed) : (otpSvnD readBack d).formed :=
  truSigned_formed (fun _ => signedCmd_formed (fun _ _ hd => by grind [truDone_formed, otpDone_formed, setBits_formed]) h) h

theorem refurbish_formed {d : Dev} {readBack : Bool} (h : d.formed) : ((refurbish d readBack).1).formed := by
  grind [refurbish, rollover_formed, Dev.formed.host, Dev.formed.pier, Dev.formed.tiles, formed_mk, TilesFormed.tset]

theorem otpLifecycleD_formed {readBack : Bool} {d : Dev} (h : d.formed) : (otpLifecycleD readBack d).formed :=
  truSigned_formed (fun _ =>
    signedCmd_formed (fun _ _ hd => by grind [truDone_formed, otpDone_formed, setBits_formed, refurbish_formed]) h) h

theorem eraseAll_formed {d : Dev} (h : d.formed) : (eraseAll d).formed :=
  ⟨h.host, filter_wfFrom (fun c => decide (c.1 < 0x8000000)) 0 _ h.pier,
    h.tiles.tmap (f := fun _ x => { x with mem := [], bad := [], fixups := [] }) fun _ _ _ => rfl⟩

theorem recordOpening_formed {d : Dev} {inPlace roll : Bool} (h : d.formed) : ((recordOpening d inPlace roll).1).formed := by
  grind [recordOpening, setBits_formed, rollover_formed]

theorem openDebug_formed {d : Dev} {m : List Byte} {scope : Nat} {inPlace roll : Bool} (h : d.formed) : (openDebug d m scope inPlace
    roll).formed := by
  unfold openDebug
  grind [recordOpening_formed, eraseAll_formed, truDone_formed, extendM_formed, Dev.formed.host, Dev.formed.pier, Dev.formed.tiles,
    formed_mk]

theorem debugUnlockD_formed {inPlace roll : Bool} {d : Dev} (h : d.formed) : (debugUnlockD inPlace roll d).formed := by
  grind [debugUnlockD, truSigned_formed, signedCmd_formed, openDebug_formed]

/-! ## The tollhouse -/

theorem noteSat_formed {d : Dev} {before after : CSet} (h : d.formed) : (noteSat d before after).formed := by
  grind [noteSat, devRecord_formed, Dev.formed.host, Dev.formed.pier, Dev.formed.tiles, formed_mk, TilesFormed.tset]

theorem addTo_formed {d : Dev} {a : Adds} {k : Nat} (h : d.formed) : (addTo d a k).formed := by
  grind [addTo, noteSat_formed, Dev.formed.host, Dev.formed.pier, Dev.formed.tiles, formed_mk, TilesFormed.tset]

theorem count_formed {d : Dev} {p : PartId} {fn : Func} {m vid : BitVec 14} {a : Adds} (h : d.formed) : (count d p fn m vid
    a).formed := by
  grind [count, addTo_formed, noteSat_formed, Dev.formed.host, Dev.formed.pier, Dev.formed.tiles, formed_mk, TilesFormed.tset]

theorem register_formed {d : Dev} {p : PartId} {fn : Func} {m vid : BitVec 14} (h : d.formed) : (register d p fn m vid).formed := h

theorem popTap_formed {d : Dev} (h : d.formed) : (popTap d).formed := h

theorem dropBad_formed {d : Dev} {k : Nat} (h : d.formed) : (dropBad d k).formed := by
  induction k generalizing d with
  | zero => exact h
  | succ j ih =>
    have htoll : ∀ t, Dev.formed { popTap d with toll := t } := fun _ => popTap_formed h
    grind [dropBad]

theorem takeTap_formed {d : Dev} {f : TapEvent → Option (Dev → Dev)} (hf : ∀ e g d, f e = some g → d.formed → (g d).formed)
    (h : d.formed) : (takeTap d f).formed := by
  grind [takeTap, dropBad_formed, popTap_formed]

theorem tapStepD_formed {p : Nat} {d : Dev} (h : d.formed) : (tapStepD p d).formed := by
  grind [tapStepD, takeTap_formed, count_formed]

theorem tapEgressD_formed {d : Dev} (h : d.formed) : (tapEgressD d).formed := by
  grind [tapEgressD, takeTap_formed, count_formed]

theorem tapIngressD_formed {d : Dev} (h : d.formed) : (tapIngressD d).formed := by
  grind [tapIngressD, takeTap_formed, count_formed]

theorem tapRegisterD_formed {model : Nat} {d : Dev} (h : d.formed) : (tapRegisterD model d).formed := by
  grind [tapRegisterD, takeTap_formed, register_formed]

theorem tapOtpD_formed {d : Dev} (h : d.formed) : (tapOtpD d).formed := by
  refine takeTap_formed (fun e g d hg hd => ?_) h
  split at hg
  · cases hg
    exact hd
  · cases hg

theorem accSendD_formed {k : Nat} {crcOk : Bool} {d : Dev} (h : d.formed) : (accSendD k crcOk d).formed := by
  grind [accSendD, sendAcc_formed, pushTap_formed, dropBad_formed, Dev.formed.host, Dev.formed.pier, Dev.formed.tiles, formed_mk,
    TilesFormed.tset]

theorem writeLedger_formed {d : Dev} (h : d.formed) : (writeLedger d).formed := h

theorem tollOnD_formed {selfTest : Bool} {d : Dev} (h : d.formed) : (tollOnD selfTest d).formed := by
  grind [tollOnD, writeLedger_formed, dropBad_formed, Dev.formed.host, Dev.formed.pier, Dev.formed.tiles, formed_mk, TilesFormed.tset]

theorem dropUnknown_formed {d : Dev} {k : Nat} (h : d.formed) : (dropUnknown d k).formed := by
  induction k generalizing d with
  | zero => exact h
  | succ j ih => grind [dropUnknown, endMbx_formed]

theorem tollDone_formed {d : Dev} {fn code n : Nat} (h : d.formed) : (tollDone d fn code n).formed := by
  grind [tollDone, endMbx_formed, dropUnknown_formed]

theorem tollPost_formed {d : Dev} {fn : Nat} {op : BitVec 8} (h : d.formed) : (tollPost d fn op).formed := by
  grind [tollPost, dropUnknown_formed, Dev.formed.host, Dev.formed.pier, Dev.formed.tiles, formed_mk, TilesFormed.tset]

theorem tollRespond_formed {d : Dev} {fn : Nat} {bs : List Byte} (h : d.formed) : (tollRespond d fn bs).formed := by
  grind [tollRespond, hostPut_formed, tollDone_formed]

theorem tollRequest_formed {d : Dev} {fn n : Nat} {act : List Byte → Dev} (hact : ∀ bs, (act bs).formed) (h : d.formed) :
    (tollRequest d fn n act).formed := by
  unfold tollRequest
  split
  · exact tollDone_formed h
  · exact hact _

theorem getKeyD_formed {fn : Nat} {d : Dev} (h : d.formed) : (getKeyD fn d).formed := by
  grind [getKeyD, tollRespond_formed]

theorem tollReportD_formed {fn : Nat} {d : Dev} (h : d.formed) : (tollReportD fn d).formed := by
  unfold tollReportD
  split
  · exact h
  refine tollRequest_formed (fun q => ?_) h
  grind [tollDone_formed, tollRespond_formed, formed_mk, Dev.formed.host, Dev.formed.pier, Dev.formed.tiles]

theorem tollChallengeD_formed {fn : Nat} {d : Dev} (h : d.formed) : (tollChallengeD fn d).formed := by
  have htru : ∀ (d : Dev) t, d.formed → Dev.formed { d with tru := t } := fun _ _ hd => hd
  have htoll : ∀ (d : Dev) t, d.formed → Dev.formed { d with toll := t } := fun _ _ hd => hd
  unfold tollChallengeD
  grind [hostPut_formed, tollDone_formed]

theorem timeTokenD_formed {fn : Nat} {d : Dev} (h : d.formed) : (timeTokenD fn d).formed := by
  have htoll : ∀ (d : Dev) t, d.formed → Dev.formed { d with toll := t } := fun _ _ hd => hd
  unfold timeTokenD
  split
  · exact h
  split
  · exact tollDone_formed h
  refine tollRequest_formed (fun q => ?_) h
  grind [tollDone_formed, writeLedger_formed]

theorem refurbD_formed {fn : Nat} {d : Dev} (h : d.formed) : (refurbD fn d).formed := by
  have htoll : ∀ (d : Dev) t, d.formed → Dev.formed { d with toll := t } := fun _ _ hd => hd
  unfold refurbD
  split
  · exact h
  split
  · exact tollDone_formed h
  refine tollRequest_formed (fun q => ?_) h
  grind [tollDone_formed, writeLedger_formed]

/-! ## Resets and power -/

theorem resetDevice_formed {d : Dev} {now : Word64} {cause : BitVec 3} {toll : Toll} {clk : Clk} (h : d.formed) :
    (resetDevice d now cause toll clk).formed :=
  ⟨h.host, h.pier, Dev.init_formed.tiles⟩

theorem convResetD_formed {cause : ConvReset} {d : Dev} (h : d.formed) : (convResetD cause d).formed := by
  unfold convResetD
  grind [resetDevice_formed, Dev.formed.host, Dev.formed.pier, Dev.formed.tiles, formed_mk]

theorem resetAssertD_formed {longEnough : Bool} {d : Dev} (h : d.formed) : (resetAssertD longEnough d).formed := by
  grind [resetAssertD, resetDevice_formed, Dev.formed.host, Dev.formed.pier, Dev.formed.tiles, formed_mk, TilesFormed.tset]

theorem railsRise_formed {d : Dev} (h : d.formed) : (railsRise d).formed := by
  simp only [railsRise]
  split <;> exact h

theorem pwrGoodD_formed {d : Dev} (h : d.formed) : (pwrGoodD d).formed := by
  simp only [pwrGoodD]
  split <;> exact h

theorem powerDownD_formed {cause : PowerLoss} {d : Dev} (h : d.formed) : (powerDownD cause d).formed :=
  ⟨h.host, rfl, Dev.init_formed.tiles⟩

theorem setReach_formed {d : Dev} {r n : Nat} (h : d.formed) : (setReach d r n).formed := h

theorem setDelay_formed {d : Dev} (h : d.formed) : (setDelay d).formed := h

theorem powerSampleD_formed {w : Nat} {d : Dev} (h : d.formed) : (powerSampleD w d).formed := by
  simp only [powerSampleD]
  split <;> exact h

theorem powerLoopD_formed {d : Dev} (h : d.formed) : (powerLoopD d).formed := by
  grind [powerLoopD, setDelay_formed, setReach_formed, Dev.formed.host, Dev.formed.pier, Dev.formed.tiles, formed_mk,
    TilesFormed.tset]

theorem rampDoneD_formed {r : Nat} {d : Dev} (h : d.formed) : (rampDoneD r d).formed := by
  grind [rampDoneD, setReach_formed]

/-! ## Register writes -/

theorem setMsix_formed {d : Dev} {fn voff : Nat} {v : Word64} (h : d.formed) : (setMsix d fn voff v).formed := by
  grind [setMsix, flushPend_formed, setFnReg_formed]

theorem msixWrite_formed {d : Dev} {fn voff : Nat} {w : AccWidth} {v : Word64} (h : d.formed) : (msixWrite d fn voff w v).formed := by
  unfold msixWrite
  grind [setMsix_formed]

theorem pageWrite_formed {d : Dev} {fn off : Nat} {v : Word64} (h : d.formed) : (pageWrite d fn off v).formed := by
  simp only [pageWrite]
  split <;> exact h

theorem pfWrite_formed {d : Dev} {off : Nat} {v : Word64} (h : d.formed) : (pfWrite d off v).formed := by
  grind [pfWrite, setReg_formed, setPort_formed, tollPost_formed, truDone_formed, setRing_formed, pageWrite_formed, Dev.formed.host,
    Dev.formed.pier, Dev.formed.tiles, formed_mk, TilesFormed.tset]

theorem vfWrite_formed {d : Dev} {fn off : Nat} {v : Word64} (h : d.formed) : (vfWrite d fn off v).formed := by
  grind [vfWrite, tollPost_formed, pageWrite_formed, setFnReg_formed]

theorem registerWriteD_formed {fn off : Nat} {w : AccWidth} {v : Word64} {be : BitVec 8} {d : Dev} (h : d.formed) : (registerWriteD
    fn off w v be d).formed := by
  unfold registerWriteD
  grind [msixWrite_formed, pfWrite_formed, vfWrite_formed]

/-! ## The step -/

theorem onDev_formed {s u : State} {f : Dev → Dev} (hu : onDev s f = .next u) (hf : (f s.dev).formed) : u.dev.formed := by
  cases hu
  exact hf

theorem onObj_formed {s u : State} {i n : Nat} {f : Dev → Dev} (hu : onObj i n s f = .next u)
    (hf : (f s.dev).formed) : u.dev.formed := by
  unfold onObj at hu
  split at hu
  · exact onDev_formed hu hf
  · cases hu

/-- Every command keeps the canonical form: the table of their meanings, with the lemma of each. -/
theorem exec_formed {s u : State} (c : Instr) (h : s.dev.formed) (hu : exec c s = .next u) : u.dev.formed := by
  cases c with
  | registerWrite => exact onDev_formed hu (registerWriteD_formed h)
  | nop => exact onDev_formed hu (seqTask_formed h)
  | jmp => exact onDev_formed hu (seqTask_formed h)
  | br => exact onDev_formed hu (seqTask_formed h)
  | loop => exact onDev_formed hu (seqTask_formed h)
  | wait => exact onDev_formed hu (seqTile_formed (by grind [waitE]) h)
  | endTask => exact onDev_formed hu (seqTask_formed h)
  | taskEnd => exact onDev_formed hu (taskEndD_formed h)
  | li => exact onDev_formed hu (seqTask_formed h)
  | lih => exact onDev_formed hu (seqTask_formed h)
  | add => exact onDev_formed hu (aluD_formed h)
  | sub => exact onDev_formed hu (aluD_formed h)
  | and => exact onDev_formed hu (aluD_formed h)
  | or => exact onDev_formed hu (aluD_formed h)
  | xor => exact onDev_formed hu (aluD_formed h)
  | shl => exact onDev_formed hu (aluD_formed h)
  | shr => exact onDev_formed hu (aluD_formed h)
  | mul => exact onDev_formed hu (aluD_formed h)
  | ldw => exact onDev_formed hu (loadD_formed h)
  | ldd => exact onDev_formed hu (loadD_formed h)
  | stw => exact onDev_formed hu (storeD_formed h)
  | std => exact onDev_formed hu (storeD_formed h)
  | movda => exact onDev_formed hu (movda_formed h)
  | movad => exact onDev_formed hu (movad_formed h)
  | aclr => exact onDev_formed hu (aclr_formed h)
  | mmcfg => exact onDev_formed hu (seqTask_formed h)
  | matmul => exact onDev_formed hu (matmul_formed h)
  | scull => exact onDev_formed hu (seqTile_formed (fun _ _ _ _ _ hx hr => enqueue_formed hx hr) h)
  | scorr => exact onDev_formed hu (seqTile_formed (fun _ _ _ _ _ hx hr => enqueue_formed hx hr) h)
  | stageOperands => exact onDev_formed hu (stageD_formed h)
  | stagingDone => exact onDev_formed hu (stagingDoneD_formed h)
  | passIssue => exact onDev_formed hu (passIssue_formed h)
  | passDrain => exact onDev_formed hu (drainD_formed h)
  | scullResultsWritten => exact onDev_formed hu (drainD_formed h)
  | vadd => exact onDev_formed hu (laneOp_formed h)
  | vsub => exact onDev_formed hu (laneOp_formed h)
  | vmul => exact onDev_formed hu (laneOp_formed h)
  | vfma => exact onDev_formed hu (laneOp_formed h)
  | vmax => exact onDev_formed hu (laneOp_formed h)
  | vmin => exact onDev_formed hu (laneOp_formed h)
  | vcmp => exact onDev_formed hu (laneOp_formed h)
  | vcvt => exact onDev_formed hu (laneOp_formed h)
  | vfunc => exact onDev_formed hu (laneOp_formed h)
  | vred => exact onDev_formed hu (seqTile_formed (by grind [holdIf, eff_bind_ok]) h)
  | vld => exact onDev_formed hu (seqTile_formed (by grind [eff_bind_ok]) h)
  | vst => exact onDev_formed hu (seqTile_formed (by grind [eff_bind_ok, deckWrite_formed, winWrite_formed]) h)
  | vlda => exact onDev_formed hu (seqTile_formed (by grind [eff_bind_ok]) h)
  | vsta => exact onDev_formed hu (seqTile_formed (by grind [eff_bind_ok, deckWrite_formed, winWrite_formed]) h)
  | ocfg => exact onDev_formed hu (seqTask_formed h)
  | cvt => exact onDev_formed hu (cvt_formed h)
  | cvts => exact onDev_formed hu (cvts_formed h)
  | conversionDone => cases hu; exact taskPart_formed (fun _ _ _ hx hr => convDone_formed hx hr) h
  | hstend => exact onDev_formed hu (seqTile_formed (by grind [eff_bind_ok, deckWrite_formed, winWrite_formed]) h)
  | flagrd => exact onDev_formed hu (seqTile_formed (by grind [eff_bind_ok]) h)
  | flagclr => exact onDev_formed hu (seqTile_formed (by grind [eff_bind_ok]) h)
  | dma => exact onDev_formed hu (dmaD_formed h)
  | pgather => exact onDev_formed hu (pageMoveD_formed h)
  | pscatter => exact onDev_formed hu (pageMoveD_formed h)
  | slidePageRunahead => exact onDev_formed hu (runAheadD_formed h)
  | slidePageDemand => exact onDev_formed hu (demandD_formed h)
  | dmaTransferDone => exact onDev_formed hu (dmaDoneD_formed h)
  | fetch => exact onDev_formed hu (remoteD_formed h)
  | put => exact onDev_formed hu (remoteD_formed h)
  | trestleSub => exact onDev_formed hu (subD_formed h)
  | mcast => exact onDev_formed hu (mcastD_formed h)
  | trestleTransferDone => exact onDev_formed hu (trestleDoneD_formed h)
  | bufferFillDone => cases hu; exact fillDoneD_formed h
  | multicastDeliveryDone => cases hu; exact deliveryD_formed h
  | holderRelease => cases hu; exact holderReleaseD_formed h
  | remoteRead => exact onDev_formed hu (remoteReadD_formed h)
  | remoteWrite => exact onDev_formed hu (remoteWriteD_formed h)
  | sbwait => exact onDev_formed hu (seqTile_formed (by grind [eff_bind_ok]) h)
  | sbdrain => exact onDev_formed hu (seqTile_formed (by grind [eff_bind_ok]) h)
  | sbcount => exact onDev_formed hu (seqTile_formed (by grind [eff_bind_ok]) h)
  | report => exact onDev_formed hu (reportD_formed h)
  | savePoint => exact onDev_formed hu (seqTile_formed (by grind [eff_bind_ok]) h)
  | holdWindowEnd => exact onDev_formed hu (holdEnd_formed h)
  | eccWriteBack => exact onDev_formed hu (writeBack_formed h)
  | unitOff => exact onDev_formed hu (unitOff_formed h)
  | unitWakeDone => exact onDev_formed hu (unitWake_formed h)
  | taskIntake => exact onDev_formed hu (intakeD_formed h)
  | intakeResume => exact onDev_formed hu (intakeResumeD_formed h)
  | taskPop => exact onDev_formed hu (popD_formed h)
  | taskSteal => exact onDev_formed hu (stealD_formed h)
  | taskStart => exact onDev_formed hu (startD_formed h)
  | completionRecordWritten => exact onDev_formed hu (complD_formed h)
  | taskWatchdogExpiry => exact onDev_formed hu (watchdogD_formed h)
  | modelRegister => exact onDev_formed hu (modelRegisterD_formed h)
  | modelUnregister => exact onDev_formed hu (modelUnregisterD_formed h)
  | seqAdd => exact onDev_formed hu (seqAddD_formed h)
  | seqAppend => exact onDev_formed hu (seqAppendD_formed h)
  | seqPark => exact onDev_formed hu (seqParkD_formed h)
  | seqResume => exact onDev_formed hu (seqResumeD_formed h)
  | seqCancel => exact onDev_formed hu (seqCancelD_formed h)
  | seqRetire => exact onDev_formed hu (seqRetireD_formed h)
  | stepPolicy => exact onDev_formed hu (stepPolicyD_formed h)
  | prefixLookup => exact onDev_formed hu (prefixLookupD_formed h)
  | fence => exact onDev_formed hu (fenceD_formed h)
  | stepBuild => exact onDev_formed hu (stepBuildD_formed h)
  | stepDeliveryStart => exact onDev_formed hu (deliveryStartD_formed h)
  | resultBatchWritten => exact onDev_formed hu (batchWrittenD_formed h)
  | deadlinePass => exact onDev_formed hu (deadlineD_formed h)
  | coxVfwinWrite => exact onDev_formed hu (vfwinD_formed h)
  | coxSlotSelWrite => exact onDev_formed hu (slotSelD_formed h)
  | keystoneLookup => exact onDev_formed hu (keyLookupD_formed h)
  | keystoneInsert => exact onDev_formed hu (keyInsertD_formed h)
  | keyFlush => exact onDev_formed hu (keyFlushD_formed h)
  | keystoneFlush => exact onDev_formed hu (keystoneFlushD_formed h)
  | ttlSweep => exact onDev_formed hu (ttlSweepD_formed h)
  | expiryReport => exact onDev_formed hu (expiryReportD_formed h)
  | frameZero => exact onDev_formed hu (frameZeroD_formed h)
  | pierCrcRetry => exact onDev_formed hu (crcRetryD_formed h)
  | pierLinkRetrain => exact onDev_formed hu (linkRetrainD_formed h)
  | pierRefresh => exact onDev_formed hu (refreshD_formed h)
  | flowCreate => exact onDev_formed hu (flowCreateD_formed h)
  | chunkSend => exact onDev_formed hu (chunkSendD_formed h)
  | ackFrameArrival => exact onObj_formed hu (ackArrivalD_formed h)
  | dataFrameArrival => exact onObj_formed hu (dataArrivalD_formed h)
  | abortFrameArrival => exact onObj_formed hu (abortArrivalD_formed h)
  | requestFrameArrival => exact onObj_formed hu (requestArrivalD_formed h)
  | frameDiscard => exact onObj_formed hu (frameDiscardD_formed h)
  | ackTimerExpiry => exact onDev_formed hu (ackTimerD_formed h)
  | rtoExpiry => exact onDev_formed hu (rtoD_formed h)
  | requestRetransmit => exact onDev_formed hu (requestAgainD_formed h)
  | flowTimeout => exact onDev_formed hu (flowTimeoutD_formed h)
  | rateIncrease => exact onDev_formed hu (rateD_formed h)
  | map => exact onDev_formed hu (commitD_formed h)
  | unmap => exact onDev_formed hu (commitD_formed h)
  | commitEnd => exact onDev_formed hu (commitEndD_formed h)
  | xltCtxTblWrite => exact onDev_formed hu (ctxTblD_formed h)
  | pcieErrorCompletion => exact onDev_formed hu (requestFails_formed h)
  | pcieCompletionTimeout => exact onDev_formed hu (requestFails_formed h)
  | teardownStart => exact onDev_formed hu (teardownStartD_formed h)
  | teardownDone => exact onDev_formed hu (teardownDoneD_formed h)
  | sliceEnd => exact onDev_formed hu (sliceEndD_formed h)
  | graceExpiry => exact onDev_formed hu (graceD_formed h)
  | preemptSaveDone => exact onDev_formed hu (saveDoneD_formed h)
  | contextSwitch => exact onDev_formed hu (contextSwitchD_formed h)
  | nonpreemptOverrun => exact onDev_formed hu (overrunD_formed h)
  | swapOutDone => exact onDev_formed hu (swapOutD_formed h)
  | swapInDone => exact onDev_formed hu (swapInD_formed h)
  | create => exact onDev_formed hu (createD_formed h)
  | destroy => exact onDev_formed hu (destroyD_formed h)
  | arm => exact onDev_formed hu (armD_formed h)
  | setClass => exact onDev_formed hu (setClassD_formed h)
  | pmgCtxSelWrite => exact onDev_formed hu (ctxSelD_formed h)
  | partitionReset => exact onDev_formed hu (partResetD_formed h)
  | regulatorPeriod => exact onDev_formed hu (regulatorD_formed h)
  | commandDoorbell => exact onDev_formed hu (doorbellD_formed h)
  | ringConsWrite => exact onDev_formed hu (ringConsD_formed h)
  | ringEnable => exact onDev_formed hu (ringEnableD_formed h)
  | msixModerationExpiry => exact onDev_formed hu (moderationD_formed h)
  | vfFlr => exact onDev_formed hu (vfFlrD_formed h)
  | pfFlr => exact onDev_formed hu (pfFlrD_formed h)
  | pcieConventionalReset => exact onDev_formed hu (convResetD_formed h)
  | romInit => exact onDev_formed hu (romInitD_formed h)
  | fruEepromRetry => exact onDev_formed hu (by grind [fruRead_formed])
  | load => exact onDev_formed hu (bootLoadD_formed h)
  | firmwareImageLoaded => exact onDev_formed hu (fwLoadedD_formed h)
  | pierBringupDone => exact onDev_formed hu (pierDoneD_formed h)
  | structureImageApply => exact onDev_formed hu (siApplyD_formed h)
  | loadSi => exact onDev_formed hu (loadSiD_formed h)
  | bootReady => exact onDev_formed hu (bootReadyD_formed h)
  | quiesceSet => exact onDev_formed hu (quiesceSetD_formed h)
  | quiesceClear => exact onDev_formed hu (quiesceClearD_formed h)
  | partitionReload => exact onDev_formed hu (reloadD_formed h)
  | partitionReloadApply => exact onDev_formed hu (reloadApplyD_formed h)
  | getIdentity => exact onDev_formed hu (getIdentityD_formed h)
  | attest => exact onDev_formed hu (attestD_formed h)
  | challenge => exact onDev_formed hu (challengeD_formed h)
  | challengeLapse => cases hu; exact h
  | debugUnlock => exact onDev_formed hu (debugUnlockD_formed h)
  | otpOwner => exact onDev_formed hu (otpOwnerD_formed h)
  | otpSvn => exact onDev_formed hu (otpSvnD_formed h)
  | otpLifecycle => exact onDev_formed hu (otpLifecycleD_formed h)
  | tollPowerOn => exact onDev_formed hu (tollOnD_formed h)
  | tapStep => exact onDev_formed hu (tapStepD_formed h)
  | tapEgress => exact onDev_formed hu (tapEgressD_formed h)
  | tapIngress => exact onDev_formed hu (tapIngressD_formed h)
  | tapRegister => exact onDev_formed hu (tapRegisterD_formed h)
  | tapOtpState => exact onDev_formed hu (tapOtpD_formed h)
  | tapAccumulatorSend => exact onDev_formed hu (accSendD_formed h)
  | getKey => exact onDev_formed hu (getKeyD_formed h)
  | tollReport => exact onDev_formed hu (tollReportD_formed h)
  | tollChallenge => exact onDev_formed hu (tollChallengeD_formed h)
  | tollChallengeLapse => cases hu; exact h
  | timeToken => exact onDev_formed hu (timeTokenD_formed h)
  | refurbReset => exact onDev_formed hu (refurbD_formed h)
  | ledgerWrite => exact onDev_formed hu (by split <;> [exact writeLedger_formed h; exact h])
  | poweredSecond => exact onDev_formed hu (by dsimp only; split <;> exact h)
  | msecCtrlWrite => exact onObj_formed hu (msecCtrlD_formed h)
  | saSlotWrite => exact onObj_formed hu (saSlotD_formed h)
  | portAnDone => exact onObj_formed hu (portEvent_formed h)
  | portTrainingDone => exact onObj_formed hu (portEvent_formed h)
  | portAligned => exact onObj_formed hu (portEvent_formed h)
  | portStateTimeout => exact onObj_formed hu (portTimeoutD_formed h)
  | portFailedHoldEnd => exact onObj_formed hu (portEvent_formed h)
  | portLinkDown => exact onObj_formed hu (portEvent_formed h)
  | portReferenceLoss => exact onDev_formed hu (portRefLossD_formed h)
  | portReferenceReturn => exact onDev_formed hu (portRefReturnD_formed h)
  | systemReferenceLoss => exact onDev_formed hu (by dsimp only; split <;> exact h)
  | powerSample => exact onDev_formed hu (powerSampleD_formed h)
  | powerControlLoop => exact onDev_formed hu (powerLoopD_formed h)
  | supplyRampDone => exact onDev_formed hu (rampDoneD_formed h)
  | pwrCapChange => cases hu; exact h
  | pwrCapInForce => exact onDev_formed hu (by dsimp only; split <;> exact h)
  | inrushDone => cases hu; exact railsRise_formed (d := { s.dev with clk := _ }) h
  | pwrEnRise => cases hu; exact railsRise_formed (d := { s.dev with clk := _ }) h
  | pwrGoodRise => exact onDev_formed hu (pwrGoodD_formed h)
  | powerDown => exact onDev_formed hu (powerDownD_formed h)
  | resetNAssert => exact onDev_formed hu (resetAssertD_formed h)
  | resetNRise => cases hu; exact h
  | perstNRise => cases hu; exact h
  | thermalTrip => exact onDev_formed hu (by dsimp only; split <;> exact h)
  | stackLinkRetrainDone => exact onDev_formed hu (retrainDoneD_formed h)
  | configSpaceWrite => exact onDev_formed hu (configD_formed h)

theorem idle_formed {s : State} (h : s.dev.formed) : (idle s).dev.formed := by
  unfold idle
  split <;> exact h

theorem step_formed {s u : State} (h : s.dev.formed) (hu : step s = .next u) : u.dev.formed := by
  unfold step at hu
  split at hu
  · cases hu
    exact idle_formed h
  next c rest _ => exact exec_formed (s := { s with pending := rest }) c h hu

/-- Settles O60: every meaning of the dispatch table keeps host memory, pier and every tile's window in canonical form. -/
theorem stepKeepsMemoryForm : Obligations.StepKeepsMemoryForm := by
  intro s u hs hu
  exact (safe_iff_formed u).2 (step_formed ((safe_iff_formed s).1 hs) hu)

end Sys2Proof.Machine

/-! PROOFS. The moves between deck and accumulator, and the clearing of slots (R105, R165). -/

namespace Sys2Proof.Machine

/-! ## The effect of a check, a read and a write -/

@[simp] theorem holdIf_false : holdIf false = .ok () := rfl
@[simp] theorem holdIf_true : holdIf true = .error .wait := rfl
@[simp] theorem faultIf_false (c : Nat) : faultIf false c = .ok () := rfl
@[simp] theorem eff_ok_bind {α β : Type} (a : α) (f : α → Eff β) : ((Except.ok a : Eff α) >>= f) = f a := rfl
@[simp] theorem eff_error_bind {α β : Type} (e : Stop) (f : α → Eff β) : ((Except.error e : Eff α) >>= f) = .error e := rfl
@[simp] theorem eff_pure {α : Type} (a : α) : (pure a : Eff α) = .ok a := rfl

theorem mapM_ok {ε α β : Type} {f : α → Except ε β} {g : α → β} : ∀ {l : List α}, (∀ a ∈ l, f a = .ok (g a)) → l.mapM f = .ok (l.map g)
  | [], _ => rfl
  | a :: l, h => by
    rw [List.mapM_cons, h a List.mem_cons_self, mapM_ok fun b hb => h b (List.mem_cons_of_mem a hb)]
    rfl

theorem winReadable_reads {x : Tile} {off n : Nat} (h : winReadable x off n = true) : winRead x off n = .ok (memGets x.mem off n) := by
  simp only [winReadable, Bool.and_eq_true, Bool.not_eq_true', Option.isNone_iff_eq_none] at h
  obtain ⟨⟨hwaking, hoff⟩, hbad⟩ := h
  simp [winRead, hwaking, hoff, hbad]

theorem winWritable_writes {x : Tile} {off n : Nat} {bs : List Byte} (h : winWritable x off n = true) (hlen : bs.length = n) :
    winWrite x off bs = .ok (tilePut x off bs) := by
  simp only [winWritable, Bool.and_eq_true, Bool.not_eq_true'] at h
  obtain ⟨⟨hwaking, hoff⟩, hdraining⟩ := h
  simp [winWrite, hlen, hwaking, hoff, hdraining]

@[simp] theorem memGets_length (m : Memory) (a n : Nat) : (memGets m a n).length = n := by simp [memGets]

theorem memGets_byte {m : Memory} {a n i : Nat} (hi : i < n) : (memGets m a n).getD i 0 = memGet m (a + i) := by
  simp [memGets, List.getD_eq_getElem?_getD, hi]

theorem toLe_leNat (bs : List Byte) : toLe bs.length (leNat bs) = bs := by
  induction bs with
  | nil => rfl
  | cons b r ih =>
    have hb : b.toNat < 256 := b.isLt
    have hrest : (b.toNat + 256 * leNat r) / 256 = leNat r := by omega
    have hfirst : BitVec.ofNat 8 (b.toNat + 256 * leNat r) = b := BitVec.eq_of_toNat_eq (by rw [BitVec.toNat_ofNat]; omega)
    rw [leNat, List.length_cons, toLe, hrest, ih, hfirst]

theorem toLe_mem32 (m : Memory) (a : Nat) : toLe 4 (mem32 m a).toNat = memGets m a 4 := by
  have hlt : leNat (memGets m a 4) < 2 ^ 32 := by simpa [memGets] using leNat_lt (memGets m a 4)
  rw [mem32, BitVec.toNat_ofNat, Nat.mod_eq_of_lt hlt]
  simpa using toLe_leNat (memGets m a 4)

theorem flatten_length_of_const {α : Type} {n : Nat} : ∀ {l : List (List α)}, (∀ bs ∈ l, bs.length = n) → l.flatten.length = l.length * n
  | [], _ => by simp
  | bs :: l, h => by
    rw [List.flatten_cons, List.length_append, h bs List.mem_cons_self, flatten_length_of_const fun c hc => h c (List.mem_cons_of_mem bs hc),
      List.length_cons, Nat.succ_mul, Nat.add_comm]

/-! ## MOVDA and MOVAD (R105, R165) -/

section
variable {s : State} {f : Fetch} {x : Tile} {k : Task} {w p : Word64} {a : Nat}

theorem exec_movda (h : atInstr s.dev f 0x14 none = some (x, k, w, p)) (hslot : passHeld k [fld w 54 2] = false)
    (ha : deckOperand k (fld w 34 5) (offOf w) (128 * (fld w 39 7 + 1)) true = .ok a)
    (hr : deckReadable x a (128 * (fld w 39 7 + 1)) = true)
    (hw : winWritable x (elemOff k (fld w 54 2) (128 * fld w 46 7)) (512 * (fld w 39 7 + 1)) = true) :
    exec (.movda f) s = .next (s.withTask f.tile (tilePut x (elemOff k (fld w 54 2) (128 * fld w 46 7))
      (memGets x.mem (4 * a) (512 * (fld w 39 7 + 1)))) k) := by
  obtain ⟨hheld, hread⟩ := deckReadable_reads hr
  rw [show 4 * (128 * (fld w 39 7 + 1)) = 512 * (fld w 39 7 + 1) by ring] at hread
  exact onDev_seqTile h (by simp [ha, hheld, hslot, hread, winWritable_writes hw])

/-- MOVAD writes the bytes that it reads from the slot, whichever arrangement it reads. -/
theorem exec_movad {n : Nat} {bs : List Byte} (h : atInstr s.dev f 0x15 none = some (x, k, w, p))
    (hslot : passHeld k [fld w 54 2] = false)
    (hn : n = if bitOf w 53 then (fld w 50 3 + 1) * (fld w 39 11 + 1) else 128 * (fld w 39 7 + 1))
    (ha : deckOperand k (fld w 34 5) (offOf w) n true = .ok a) (hw : deckWritable x a n = true)
    (hbytes : movadBytes x k w = .ok bs) (hlen : bs.length = 4 * n) :
    exec (.movad f) s = .next (s.withTask f.tile (tilePut x (4 * a) bs) k) := by
  subst hn
  obtain ⟨hheld, hwrite⟩ := deckWritable_writes hw
  exact onDev_seqTile h (by simp [ha, hheld, hslot, hbytes, hwrite bs hlen])

theorem movadBytes_array (harray : bitOf w 53 = false)
    (hr : winReadable x (elemOff k (fld w 54 2) (128 * fld w 46 7)) (512 * (fld w 39 7 + 1)) = true) :
    movadBytes x k w = .ok (memGets x.mem (elemOff k (fld w 54 2) (128 * fld w 46 7)) (512 * (fld w 39 7 + 1))) := by
  simp [movadBytes, harray, winReadable_reads hr]

theorem movadBytes_thin (hthin : bitOf w 53 = true) (hr : ∀ i, i < (fld w 50 3 + 1) * (fld w 39 11 + 1) →
      winReadable x (elemOff k (fld w 54 2) (i % (fld w 39 11 + 1) * 8 + i / (fld w 39 11 + 1))) 4 = true) :
    movadBytes x k w = .ok (((List.range ((fld w 50 3 + 1) * (fld w 39 11 + 1))).map (fun i =>
      toLe 4 (mem32 x.mem (elemOff k (fld w 54 2) (i % (fld w 39 11 + 1) * 8 + i / (fld w 39 11 + 1)))).toNat)).flatten) := by
  simp only [toLe_mem32]
  have hread := mapM_ok (l := List.range ((fld w 50 3 + 1) * (fld w 39 11 + 1))) fun i hi => winReadable_reads (hr i (List.mem_range.1 hi))
  simp [movadBytes, hthin, hread]

end

/-! ## ACLR (R165) -/

theorem bitOf_setFld_bit {n : Nat} {w : BitVec n} {p b : Nat} {v : Bool} (hb : b < n) :
    bitOf (setFld w p 1 (b2n v)) b = if b = p then v else bitOf w b := by
  have hone : (BitVec.ofNat n (1 <<< p))[b] = decide (b = p) := by
    rw [← BitVec.getLsbD_eq_getElem, BitVec.getLsbD_ofNat, Nat.one_shiftLeft, Nat.testBit_two_pow]
    simp [hb, eq_comm]
  have hval : bitOf (setFld w p 1 (b2n v)) b = ((bitOf w b && !decide (b = p)) || (v && decide (b = p))) := by
    cases v <;> simp [bitOf, setFld, b2n, hb, hone]
  rw [hval]
  by_cases hp : b = p <;> simp [hp]

theorem clearSlot_mem (x : Tile) (k : Task) (j : Nat) : (clearSlot x k j).mem = memZero x.mem (elemOff k j 0) 65536 := rfl

theorem bitOf_clearSlot {x : Tile} {k : Task} {j b : Nat} (hb : b < 4) :
    bitOf (clearSlot x k j).sat b = if b = physSlot k j then false else bitOf x.sat b :=
  bitOf_setFld_bit hb

/-- Slots cleared one after another. -/
def clearSlots (x : Tile) (k : Task) (js : List Nat) : Tile := js.foldl (fun x j => clearSlot x k j) x

section
variable {k : Task} {js : List Nat}

theorem memGet_clearSlots (x : Tile) (i : Nat) : memGet (clearSlots x k js).mem i =
    if ∃ j ∈ js, elemOff k j 0 ≤ i ∧ i < elemOff k j 0 + 65536 then 0 else memGet x.mem i := by
  induction js generalizing x with
  | nil => simp [clearSlots]
  | cons j js ih =>
    rw [clearSlots, List.foldl_cons, ← clearSlots, ih, clearSlot_mem, memGet_memZero]
    simp only [List.exists_mem_cons_iff]
    split <;> split <;> grind

theorem bitOf_clearSlots (x : Tile) {b : Nat} (hb : b < 4) : bitOf (clearSlots x k js).sat b =
    if ∃ j ∈ js, physSlot k j = b then false else bitOf x.sat b := by
  induction js generalizing x with
  | nil => simp [clearSlots]
  | cons j js ih =>
    rw [clearSlots, List.foldl_cons, ← clearSlots, ih, bitOf_clearSlot hb]
    simp only [List.exists_mem_cons_iff]
    split <;> grind

theorem clearSlots_frame (x : Tile) :
    { clearSlots x k js with mem := x.mem, bad := x.bad, fixups := x.fixups, sat := x.sat } = x := by
  induction js generalizing x with
  | nil => rfl
  | cons j js ih =>
    exact congrArg (fun y : Tile => { y with mem := x.mem, bad := x.bad, fixups := x.fixups, sat := x.sat }) (ih (clearSlot x k j))

theorem passHeld_of_each (h : ∀ j ∈ js, passHeld k [j] = false) : passHeld k js = false := by
  simp only [passHeld, List.any_eq_false, List.any_eq_true, not_exists, not_and, List.contains_eq_mem, decide_eq_true_eq,
    List.mem_singleton] at h ⊢
  intro q hq j hj hmem
  exact h j hmem q hq j hj rfl

end

/-- The slots that an ACLR names. -/
def clearedOf (w : Word64) : List Nat := (List.range 4).filter (fun j => bitOf w (52 + j))

theorem mem_clearedOf {w : Word64} {j : Nat} : j ∈ clearedOf w ↔ j < 4 ∧ bitOf w (52 + j) = true := by simp [clearedOf]

theorem exec_aclr {s : State} {f : Fetch} {x : Tile} {k : Task} {w p : Word64} (h : atInstr s.dev f 0x16 none = some (x, k, w, p))
    (hfree : ∀ j ∈ clearedOf w, passHeld k [j] = false ∧ winWritable x (elemOff k j 0) 65536 = true) :
    exec (.aclr f) s = .next (s.withTask f.tile (clearSlots x k (clearedOf w)) k) := by
  have hheld : passHeld k (clearedOf w) = false := passHeld_of_each fun j hj => (hfree j hj).1
  have hgates : ∀ j ∈ clearedOf w, anyGate x (elemOff k j 0) 65536 .waking = false ∧ anyGate x (elemOff k j 0) 65536 .off = false ∧
      anyGate x (elemOff k j 0) 65536 .draining = false := fun j hj => by
    simpa [winWritable, and_assoc] using (hfree j hj).2
  have hwaking : ((clearedOf w).map fun j => elemOff k j 0).any (fun o => anyGate x o 65536 .waking) = false := by
    simpa using fun j hj => (hgates j hj).1
  have hoff : ((clearedOf w).map fun j => elemOff k j 0).any (fun o => anyGate x o 65536 .off || anyGate x o 65536 .draining) = false := by
    simpa using fun j hj => (hgates j hj).2
  refine onDev_seqTile h ?_
  dsimp only
  rw [← clearedOf, hheld, hwaking, hoff]
  rfl

/-- Settles O4: each move is one write of the tile's window with the bytes that it reads, and ACLR clears the named slots one after
another. -/
theorem slotAccess : Obligations.SlotAccess := by
  refine ⟨fun s f x k w p a hs hslot => ⟨fun h ha hr hw => ?movda, fun h harray ha hw hr => ?array, fun h hthin ha hw hr => ?thin⟩,
    fun s f x k w p h hfree => ?aclr⟩
  case movda => exact ⟨_, exec_movda h hslot ha hr hw, stored _ _ _ (atInstr_memWf hs h)⟩
  case array =>
    refine ⟨_, exec_movad h hslot (by simp [harray]) ha hw (movadBytes_array harray hr) ?_, stored _ _ _ (atInstr_memWf hs h)⟩
    rw [memGets_length]
    ring
  case thin =>
    refine ⟨_, exec_movad h hslot (by simp [hthin]) ha hw (movadBytes_thin hthin hr) ?_, stored _ _ _ (atInstr_memWf hs h)⟩
    rw [flatten_length_of_const (n := 4) (by simp), List.length_map, List.length_range, Nat.mul_comm]
  case aclr =>
    have hnamed : ∀ j, j ∈ clearedOf w → passHeld k [j] = false ∧ winWritable x (elemOff k j 0) 65536 = true :=
      fun j hj => hfree j (mem_clearedOf.1 hj).1 (mem_clearedOf.1 hj).2
    refine ⟨_, exec_aclr h hnamed, fun j i hj hbit hlo hhi => ?_, fun j hj hbit hp => ?_, fun i hout => ?_, fun b hb hout => ?_,
      clearSlots_frame x⟩
    · rw [memGet_clearSlots, if_pos ⟨j, mem_clearedOf.2 ⟨hj, hbit⟩, hlo, hhi⟩]
    · rw [bitOf_clearSlots x hp, if_pos ⟨j, mem_clearedOf.2 ⟨hj, hbit⟩, rfl⟩]
    · rw [memGet_clearSlots, if_neg]
      rintro ⟨j, hmem, hlo, hhi⟩
      have := hout j (mem_clearedOf.1 hmem).1 (mem_clearedOf.1 hmem).2
      omega
    · rw [bitOf_clearSlots x hb, if_neg]
      rintro ⟨j, hmem, heq⟩
      exact hout j (mem_clearedOf.1 hmem).1 (mem_clearedOf.1 hmem).2 heq

end Sys2Proof.Machine

/-! PROOFS. Configuration, flags, the save point and the waits of a task (R162, R163, R167, R180, R186, R192, R195). -/

namespace Sys2Proof.Machine

section
variable {s : State} {f : Fetch} {op : Nat} {x : Tile} {k : Task} {w p : Word64} {a : Nat}

theorem onDev_seqTile_wait {pre : Option Nat} {act : Tile → Task → Word64 → Word64 → Eff (Tile × Task)}
    (h : atInstr s.dev f op pre = some (x, k, w, p)) (ha : act x k w p = .error .wait) : onDev s (seqTile f op pre act) = .next s := by
  rw [onDev_eq, seqTile_wait h ha]

/-! ## WAIT (R162) -/

theorem testBit_fld {lo len i : Nat} : (fld w lo len).testBit i = (decide (i < len) && bitOf w (lo + i)) := by
  rw [fld, Nat.testBit_mod_two_pow, Nat.testBit_shiftRight]
  rfl

theorem testBit_waitDma {i : Nat} (hi : i < 16) : (fld w 0 32 % 0x10000).testBit i = bitOf w i := by
  rw [show (0x10000 : Nat) = 2 ^ 16 from rfl, Nat.testBit_mod_two_pow, testBit_fld]
  simp [hi, show i < 32 by omega]

theorem testBit_waitTr {i : Nat} (hi : i < 8) : (fld w 0 32 / 0x10000 % 0x100).testBit i = bitOf w (16 + i) := by
  rw [show (0x100 : Nat) = 2 ^ 8 from rfl, show (0x10000 : Nat) = 2 ^ 16 from rfl, Nat.testBit_mod_two_pow, Nat.testBit_div_two_pow,
    testBit_fld]
  simp [hi, Nat.add_comm i 16, show 16 + i < 32 by omega]

theorem tagsZero_iff {tags : Tbl Nat} {mask n : Nat} :
    tagsZero tags mask n = true ↔ ∀ i, i < n → mask.testBit i = true → tget tags i 0 = 0 := by
  simp [tagsZero, imp_iff_not_or]

/-- The test that WAIT makes. -/
def waitTest (k : Task) (w : Word64) : Bool :=
  tagsZero k.dmaTag (fld w 0 32 % 0x10000) 16 && tagsZero k.trTag (fld w 0 32 / 0x10000 % 0x100) 8
    && (!(fld w 0 32).testBit 24 || passIdle k) && (!(fld w 0 32).testBit 26 || k.convs.isEmpty)

theorem waitTest_iff : waitTest k w = true ↔ waitIdle k w := by
  have hdma : tagsZero k.dmaTag (fld w 0 32 % 0x10000) 16 = true ↔ ∀ i, i < 16 → bitOf w i = true → tget k.dmaTag i 0 = 0 :=
    tagsZero_iff.trans (forall₂_congr fun i hi => by rw [testBit_waitDma hi])
  have htr : tagsZero k.trTag (fld w 0 32 / 0x10000 % 0x100) 8 = true ↔ ∀ i, i < 8 → bitOf w (16 + i) = true → tget k.trTag i 0 = 0 :=
    tagsZero_iff.trans (forall₂_congr fun i hi => by rw [testBit_waitTr hi])
  rw [waitTest, testBit_fld, testBit_fld]
  simp only [Bool.and_eq_true, hdma, htr, waitIdle, and_assoc]
  simp [imp_iff_not_or, passIdle]

theorem exec_wait_idle (h : atInstr s.dev f 0x04 none = some (x, k, w, p)) (hidle : waitIdle k w) :
    exec (.wait f) s = .next (s.withTask f.tile x k) :=
  onDev_seqTile h (if_pos (waitTest_iff.2 hidle))

theorem exec_wait_busy (h : atInstr s.dev f 0x04 none = some (x, k, w, p)) (hbusy : ¬ waitIdle k w) :
    exec (.wait f) s = .next s :=
  onDev_seqTile_wait h (if_neg (mt waitTest_iff.1 hbusy))

/-! ## The scoreboard (R192) -/

theorem sbNamed_iff {n : Nat} : sbNamed x w a n ↔
    x.sb.any (fun e => (if e.write then bitOf w 36 else bitOf w 35) && sbOverlap e a n) = true := by
  simp [sbNamed, List.any_eq_true]

theorem exec_sbwait_free (h : atInstr s.dev f 0x80 none = some (x, k, w, p))
    (ha : deckOperand k (fld w 51 5) (offOf w) (fld w 37 14) false = .ok a) (hfree : ¬ sbNamed x w a (fld w 37 14)) :
    exec (.sbwait f) s = .next (s.withTask f.tile x k) := by
  rw [sbNamed_iff, Bool.not_eq_true] at hfree
  exact onDev_seqTile h (by simp [ha, hfree])

theorem exec_sbwait_held (h : atInstr s.dev f 0x80 none = some (x, k, w, p))
    (ha : deckOperand k (fld w 51 5) (offOf w) (fld w 37 14) false = .ok a) (hheld : sbNamed x w a (fld w 37 14)) :
    exec (.sbwait f) s = .next s := by
  rw [sbNamed_iff] at hheld
  exact onDev_seqTile_wait h (by simp [ha, hheld])

theorem exec_sbdrain_empty (h : atInstr s.dev f 0x81 none = some (x, k, w, p)) (hempty : x.sb = []) :
    exec (.sbdrain f) s = .next (s.withTask f.tile x k) :=
  onDev_seqTile h (by simp [hempty])

theorem exec_sbdrain_held (h : atInstr s.dev f 0x81 none = some (x, k, w, p)) (hheld : x.sb ≠ []) :
    exec (.sbdrain f) s = .next s := by
  have hsb : x.sb.isEmpty = false := by simpa using hheld
  exact onDev_seqTile_wait h (by simp [hsb])

/-! ## Flags (R186) -/

theorem exec_flagrd (h : atInstr s.dev f 0x54 none = some (x, k, w, p)) (hdone : k.convs = []) :
    exec (.flagrd f) s = .next (s.withTask f.tile x (setR k (rdOf w) (k.flags.zeroExtend 64))) :=
  onDev_seqTile h (by simp [hdone, rdOf])

theorem exec_flagclr (h : atInstr s.dev f 0x55 none = some (x, k, w, p)) (hdone : k.convs = []) :
    exec (.flagclr f) s = .next (s.withTask f.tile x { k with flags := k.flags &&& ~~~ w.extractLsb' 0 8 }) :=
  onDev_seqTile h (by simp [hdone])

end

/-- Settles O5: the configuration and flag instructions are one write each, and a wait's test is what its words name. -/
theorem configFlagsAndWaits : Obligations.ConfigFlagsAndWaits := by
  refine ⟨fun s f x k w p => ⟨?mmcfg, ?ocfg, fun hdone h => ?flagclr, ?save, fun hdone h => ?flagrd, ?sbcount⟩,
    fun s f x k w p a => ⟨exec_wait_idle, exec_wait_busy, exec_sbwait_free, exec_sbwait_held, exec_sbdrain_empty, exec_sbdrain_held, ?endTask⟩⟩
  case mmcfg => exact fun h => onDev_seqTask h rfl
  case ocfg => exact fun h => onDev_seqTask h rfl
  case flagclr => exact exec_flagclr h hdone
  case save => exact fun h => onDev_seqTile h rfl
  case flagrd => exact ⟨_, exec_flagrd h hdone, setR_writes k (rdOf w) _⟩
  case sbcount => exact fun h => ⟨_, onDev_seqTile h rfl, setR_writes k (rdOf w) _⟩
  case endTask => exact fun h => onDev_seqTask h rfl

end Sys2Proof.Machine

/-! PROOFS. The vector instructions (R61, R62, R107 to R110, R176 to R179). -/

namespace Sys2Proof.Machine

/-! ## Lanes -/

theorem getV_setV {k : Task} {n m i j : Nat} {v : Word32} (hi : i < 64) (hj : j < 64) :
    getV (setV k n i v) m j = if m = n ∧ j = i then v else getV k m j := by
  have hkey : m * 64 + j = n * 64 + i ↔ m = n ∧ j = i := by omega
  simp only [getV, setV, tget_tset, hkey]

theorem getV_setVs {n m j : Nat} (hj : j < 64) : ∀ {vs : List Word32} {k : Task} {i : Nat}, i + vs.length ≤ 64 →
    getV (setVs k n i vs) m j = if m = n ∧ i ≤ j ∧ j < i + vs.length then vs.getD (j - i) 0 else getV k m j
  | [], k, i, _ => by
    rw [setVs, List.length_nil, if_neg (by omega)]
  | v :: r, k, i, hfit => by
    rw [List.length_cons] at hfit
    rw [setVs, getV_setVs hj (by omega), getV_setV (by omega) hj, List.length_cons]
    by_cases hm : m = n
    · obtain hlt | rfl | hgt := lt_trichotomy j i
      · simp [hm, show ¬ i + 1 ≤ j by omega, show ¬ i ≤ j by omega, show j ≠ i by omega]
      · simp [hm]
      · obtain ⟨e, rfl⟩ := Nat.exists_eq_add_of_lt hgt
        have hsub : i + e + 1 - i = e + 1 := by omega
        have hsub' : i + e + 1 - (i + 1) = e := by omega
        simp [hm, hsub, hsub', show i + 1 ≤ i + e + 1 by omega, show i ≤ i + e + 1 by omega, show i + e + 1 ≠ i by omega,
          show i + e + 1 < i + 1 + r.length ↔ i + e + 1 < i + (r.length + 1) by omega]
    · simp [hm]

theorem setVs_frame {n : Nat} : ∀ {vs : List Word32} {k : Task} {i : Nat}, { setVs k n i vs with v := k.v } = k
  | [], _, _ => rfl
  | v :: r, k, i => congrArg (fun k1 : Task => { k1 with v := k.v }) (setVs_frame (vs := r) (k := setV k n i v) (i := i + 1))

/-- A whole register of 64 lanes written: its lanes, the other registers, and the rest of the task. -/
theorem setVs_writes {k : Task} {n : Nat} {g : Nat → Word32} {vs : List Word32} (hvs : vs = (List.range 64).map g) :
    (∀ i, i < 64 → getV (setVs k n 0 vs) n i = g i) ∧ (∀ m i, m ≠ n → i < 64 → getV (setVs k n 0 vs) m i = getV k m i) ∧
      { setVs k n 0 vs with v := k.v } = k := by
  have hlen : vs.length = 64 := by simp [hvs]
  refine ⟨fun i hi => ?_, fun m i hm hi => ?_, setVs_frame⟩
  · rw [getV_setVs hi (by omega), if_pos ⟨rfl, by omega, by omega⟩, hvs]
    simp [List.getD_eq_getElem?_getD, hi]
  · rw [getV_setVs hi (by omega), if_neg (by tauto)]

theorem lanes_getD {k : Task} {n i : Nat} (hi : i < 64) : (lanes k n).getD i 0 = getV k n i := by
  simp [lanes, List.getD_eq_getElem?_getD, hi]

theorem operandB_getD {k : Task} {w : Word64} {i : Nat} (hi : i < 64) : (operandB k w).getD i 0 = laneB k w i := by
  have hbroadcast : ∀ v : Word32, (List.replicate 64 v).getD i 0 = v := fun v => by
    rw [List.getD_eq_getElem?_getD, List.getElem?_replicate_of_lt hi, Option.getD_some]
  rw [laneB, operandB]
  by_cases hall : fld w 42 2 = 0
  · rw [if_pos hall, if_pos hall, lanes_getD hi]
  · rw [if_neg hall, if_neg hall]
    by_cases hone : fld w 42 2 = 1
    · rw [if_pos hone, if_pos hone, hbroadcast]
    · rw [if_neg hone, if_neg hone, hbroadcast]

/-! ## The ten operations -/

section
variable {s : State} {mk : Fetch → Instr} {op : Nat}

theorem writesVd_of_laneOp {g : Word64 → Word32 → Word32 → Word32 → Word32} (hexec : ∀ f, exec (mk f) s = onDev s (laneOp f op g)) :
    writesVd s mk op (fun k w i => g w (getV k (fld w 50 3) i) (laneB k w i) (getV k (fld w 44 3) i)) := by
  intro f x k w p h hfree
  refine ⟨_, (hexec f).trans (onDev_seqTile h (by rw [hfree]; rfl)), setVs_writes (List.map_congr_left fun i hi => ?_)⟩
  have hi64 : i < 64 := List.mem_range.1 hi
  rw [lanes_getD hi64, lanes_getD hi64, operandB_getD hi64]

theorem fld_lt (w : Word64) (lo len : Nat) : fld w lo len < 2 ^ len := Nat.mod_lt _ (Nat.two_pow_pos len)

theorem vred_writesVd : writesVd s .vred 0x49 (fun k w i =>
    if i = fld w 36 6 then treeOf (redOp (fld w 29 3)) 6 (lanes k (fld w 50 3)) else getV k (fld w 53 3) i) := by
  intro f x k w p h hfree
  refine ⟨setV k (fld w 53 3) (fld w 36 6) (treeOf (redOp (fld w 29 3)) 6 (lanes k (fld w 50 3))),
    onDev_seqTile h (by rw [hfree]; rfl), fun i hi => ?_, fun m i hm hi => ?_, rfl⟩
  · rw [getV_setV (fld_lt w 36 6) hi]
    simp
  · rw [getV_setV (fld_lt w 36 6) hi, if_neg (fun h => hm h.1)]

end

/-- Settles O6: each operation is one write of the 64 lanes of VD, VRED of one lane. -/
theorem vectorResults : Obligations.VectorResults := by
  refine fun s => ⟨?vadd, ?vsub, ?vmul, ?vfma, ?vmax, ?vmin, ?vcmp, ?vcvt, ?vfunc, vred_writesVd⟩
  case vadd => exact writesVd_of_laneOp (g := fun _ a b _ => add32 a b) fun _ => rfl
  case vsub => exact writesVd_of_laneOp (g := fun _ a b _ => sub32 a b) fun _ => rfl
  case vmul => exact writesVd_of_laneOp (g := fun _ a b _ => mul32 a b) fun _ => rfl
  case vfma => exact writesVd_of_laneOp (g := fun _ a b c => fma32 a b c) fun _ => rfl
  case vmax => exact writesVd_of_laneOp (g := fun _ a b _ => max32 a b) fun _ => rfl
  case vmin => exact writesVd_of_laneOp (g := fun _ a b _ => min32 a b) fun _ => rfl
  case vcmp => exact writesVd_of_laneOp (g := fun w a b _ => cmp32 (fld w 29 3) a b) fun _ => rfl
  case vcvt => exact writesVd_of_laneOp (g := fun w a _ _ => if fld w 29 3 = 0 then f2i32 a else i2f32 a) fun _ => rfl
  case vfunc => exact writesVd_of_laneOp (g := fun w a _ _ => vfunc (fld w 29 3) a) fun _ => rfl

/-! ## Vector moves (R179) -/

theorem leAt_memGets {m : Memory} {a n i c : Nat} (hi : i + c ≤ n) : leAt (memGets m a n) i c = leNat (memGets m (a + i) c) := by
  have hsub : ((memGets m a n).drop i).take c = memGets m (a + i) c := by
    apply List.ext_getElem
    · simp only [List.length_take, List.length_drop, memGets_length]
      omega
    · intro j hj hj'
      simp [memGets, Nat.add_assoc]
  rw [leAt, sub, hsub, memGets_length, Nat.sub_self, List.replicate_zero, List.append_nil]

theorem bytesWords_memGets {m : Memory} {a : Nat} :
    bytesWords 64 (memGets m a 256) = (List.range 64).map (fun i => mem32 m (a + 4 * i)) := by
  refine List.map_congr_left fun i hi => ?_
  have hi64 : i < 64 := List.mem_range.1 hi
  rw [leAt_memGets (by omega), mem32]

@[simp] theorem vBytes_length (k : Task) (n : Nat) : (vBytes k n).length = 256 := by
  rw [vBytes, flatten_length_of_const (n := 4) (by simp)]
  simp [lanes]

section
variable {s : State} {f : Fetch} {x : Tile} {k : Task} {w p : Word64} {a : Nat}

theorem exec_vld (h : atInstr s.dev f 0x4C none = some (x, k, w, p)) (ha : deckOperand k (fld w 45 5) (offOf w) 64 false = .ok a)
    (hr : deckReadable x a 64 = true) (hfree : vHeld k (fld w 53 3) = false) :
    exec (.vld f) s = .next (s.withTask f.tile x (setVs k (fld w 53 3) 0 (bytesWords 64 (memGets x.mem (4 * a) 256)))) := by
  obtain ⟨hheld, hread⟩ := deckReadable_reads hr
  exact onDev_seqTile h (by simp [ha, hheld, hfree, hread])

theorem exec_vlda (h : atInstr s.dev f 0x4E none = some (x, k, w, p)) (hslot : passHeld k [fld w 51 2] = false)
    (hfree : vHeld k (fld w 53 3) = false) (hr : winReadable x (elemOff k (fld w 51 2) (halfRow w)) 256 = true) :
    exec (.vlda f) s = .next (s.withTask f.tile x (setVs k (fld w 53 3) 0
      (bytesWords 64 (memGets x.mem (elemOff k (fld w 51 2) (halfRow w)) 256)))) :=
  onDev_seqTile h (by simp [hslot, hfree, winReadable_reads hr])

theorem exec_vst (h : atInstr s.dev f 0x4D none = some (x, k, w, p)) (ha : deckOperand k (fld w 45 5) (offOf w) 64 true = .ok a)
    (hw : deckWritable x a 64 = true) : exec (.vst f) s = .next (s.withTask f.tile (tilePut x (4 * a) (vBytes k (fld w 53 3))) k) := by
  obtain ⟨hheld, hwrite⟩ := deckWritable_writes hw
  exact onDev_seqTile h (by simp [ha, hheld, hwrite])

theorem exec_vsta (h : atInstr s.dev f 0x4F none = some (x, k, w, p)) (hslot : passHeld k [fld w 51 2] = false)
    (hw : winWritable x (elemOff k (fld w 51 2) (halfRow w)) 256 = true) :
    exec (.vsta f) s = .next (s.withTask f.tile (tilePut x (elemOff k (fld w 51 2) (halfRow w)) (vBytes k (fld w 53 3))) k) :=
  onDev_seqTile h (by simp [hslot, winWritable_writes hw])

end

/-- Settles O7: a load is one write of the lanes of VD with the words that it reads, a store one write of the tile's window. -/
theorem vectorMoves : Obligations.VectorMoves := by
  refine fun s f x k w p a hs => ⟨fun h ha hr hfree => ?vld, fun h hslot hfree hr => ?vlda, fun h ha hw => ?vst, fun h hslot hw => ?vsta⟩
  case vld => exact ⟨_, exec_vld h ha hr hfree, setVs_writes bytesWords_memGets⟩
  case vlda => exact ⟨_, exec_vlda h hslot hfree hr, setVs_writes bytesWords_memGets⟩
  case vst => exact ⟨_, exec_vst h ha hw, stored _ _ _ (atInstr_memWf hs h)⟩
  case vsta => exact ⟨_, exec_vsta h hslot hw, stored _ _ _ (atInstr_memWf hs h)⟩

end Sys2Proof.Machine

/-! PROOFS. The staging queue, its staging and issue, and the results of a pass (R50 to R54, R85, R90 to R98, R129, R168 to R175). -/

namespace Sys2Proof.Machine

/-! ## A part of a tile's task -/

@[simp] theorem getTile_setTile_same (d : Dev) (t : Nat) (x : Tile) : getTile (setTile d t x) t = x := tget_tset_same _ _ _ _

theorem taskPart_ok {d : Dev} {t : Nat} {pc : BitVec 32} {k : Task} {r : Tile × Task} {act : Tile → Task → Eff (Tile × Task)}
    (hrun : (getTile d t).run = some k) (ha : act (getTile d t) k = .ok r) :
    taskPart t d pc act = setTile d t { r.1 with run := some r.2 } := by
  simp [taskPart, hrun, ha]

@[simp] theorem applyEcc_run (x : Tile) (e : Ecc) : (applyEcc x e).run = x.run := by cases e <;> rfl

/-! ## The queue and its head (R92, R93, R96, R202) -/

theorem enqueue_ok {x : Tile} {k : Task} {w p : Word64} {kind : QKind} {q : QEntry} {rs : List Rng} (hroom : k.queue.length < 2)
    (hrs : opRanges k q = .ok rs)
    (hq : q = { id := k.nextId, kind := kind, word := w, pre := p, aAddr := getR k (4 * qAb kind w), asAddr := getR k (4 * qAb kind w + 1),
                wAddr := getR k (4 * qAb kind w + 2), wsAddr := getR k (4 * qAb kind w + 3), mm := k.mm,
                pc := k.pc - (if kind = .scull then 4 else 2), ranges := [], data := none }) :
    enqueue kind x k w p = .ok (x, { k with queue := k.queue ++ [q], nextId := k.nextId + 1 }) := by
  have hnotFull : ¬ 2 ≤ k.queue.length := by omega
  simp only [enqueue, hnotFull, decide_false, holdIf_false, eff_ok_bind, ← hq, hrs]

theorem issueHead_ok {x : Tile} {k : Task} {q : QEntry} {rest : List QEntry} {st : Staged} (hqueue : k.queue = q :: rest)
    (hdata : q.data = some st) (hranges : q.ranges = []) (hdrained : ∀ p, p ∈ k.passes → (p.q.kind = .matmul ↔ q.kind = .matmul))
    (hfree : ∀ c, c ∈ k.convs → ∀ j, j ∈ c.slots → j ∉ entrySlots q) :
    issueHead x k = .ok (x, { k with queue := rest, passes := k.passes ++ [{ q := q, data := st, vec := if q.kind = .scull then vecRows k q else [] }]
                                     held := if q.kind = .matmul then st.act else k.held }) := by
  have hpasses : k.passes.all (fun p => decide ((p.q.kind ≠ .matmul) = (q.kind ≠ .matmul))) = true := by
    simpa [not_iff_not] using hdrained
  have hconvs : k.convs.any (fun c => c.slots.any (fun j => (entrySlots q).contains j)) = false := by
    simpa using hfree
  simp only [issueHead, hqueue, hdata, hranges, hpasses, hconvs]
  rfl

/-- Settles O8: each of the three instructions is one entry put last in the queue, and the head of the queue issues when none of the
conditions of R93 and R96 holds it. -/
theorem queueAndIssue : Obligations.QueueAndIssue := by
  refine ⟨fun s f x k w p kind q rs hroom hrs hq => ⟨fun hkind h hshape => ?matmul, fun hkind h => ?scull, fun hkind h => ?scorr⟩,
    fun s t k q rest st hrun hrunning hqueue hdata hranges hdrained hfree hdma => ?issue⟩
  case matmul =>
    subst hkind
    have hreuse : (bitOf w 12 && decide (k.shape ≠ some (shapeOf w))) = false := by simpa using hshape
    exact onDev_seqTile h (by simp only [hreuse, faultIf_false, eff_ok_bind, enqueue_ok hroom hrs hq])
  case scull => exact onDev_seqTile h (enqueue_ok hroom hrs (hkind ▸ hq))
  case scorr => exact onDev_seqTile h (enqueue_ok hroom hrs (hkind ▸ hq))
  case issue =>
    refine onDev_next ?_
    rw [passIssue, if_neg (by simp [hrunning])]
    have hissue := issueHead_ok (x := getTile s.dev t.toNat) hqueue hdata hranges hdrained hfree
    refine taskPart_ok hrun (Eq.trans ?_ hissue)
    simp only [hqueue, List.head?_cons, hdma, Bool.false_eq_true, if_false]

end Sys2Proof.Machine

/-! PROOFS. Staging: the feed buffers, the captured rows and the STAGE entries (R85, R91, R95, R129). -/

namespace Sys2Proof.Machine

/-! ## Feed buffers and rows -/

theorem freeBuf_ok {busy : List Nat} (h : someFree busy = true) : ∃ b, freeBuf busy = .ok b ∧ b < 2 ∧ b ∉ busy := by
  obtain ⟨b, hfind⟩ := List.find?_isSome.2 (by simpa [someFree] using h : ∃ b ∈ List.range 2, (!busy.contains b) = true) |> Option.isSome_iff_exists.1
  have hmem := List.mem_of_find?_eq_some hfind
  have hfree := List.find?_some hfind
  exact ⟨b, by rw [freeBuf, hfind], by simpa using hmem, by simpa using hfree⟩

/-- The feed buffer that a staging fills with activations, none for a pass that uses none (R91, R95). -/
def actFor (k : Task) (i : Nat) (q : QEntry) (rs : List Rng) : Eff (Option Nat) :=
  if qReuse q then pure (prevAct k i) else if fillsAct rs then (freeBuf (actBusy k)).map some else pure none

theorem actFor_ok {k : Task} {i : Nat} {q : QEntry} {rs : List Rng}
    (hfree : (qReuse q || !fillsAct rs || someFree (actBusy k)) = true) :
    ∃ a, actFor k i q rs = .ok a ∧ (qReuse q = true → a = prevAct k i) ∧
      (qReuse q = false → fillsAct rs = true → ∃ b, a = some b ∧ b < 2 ∧ b ∉ actBusy k) := by
  unfold actFor
  by_cases hreuse : qReuse q = true
  · exact ⟨prevAct k i, by simp [hreuse], fun _ => rfl, fun h => absurd hreuse (by simp [h])⟩
  · by_cases hfills : fillsAct rs = true
    · obtain ⟨b, hb, hlt, hbusy⟩ := freeBuf_ok (busy := actBusy k) (by simpa [hreuse, hfills] using hfree)
      exact ⟨some b, by simp [hreuse, hfills, hb, Except.map], fun h => absurd h hreuse, fun _ _ => ⟨b, rfl, hlt, hbusy⟩⟩
    · exact ⟨none, by simp [hreuse, hfills], fun h => absurd h hreuse, fun _ h => absurd h hfills⟩

theorem rngRows_ok {x : Tile} {r : Rng}
    (h : ∀ i, i < r.rows → winReadable x (4 * (r.phys + r.extra + i * r.stride)) (4 * r.words) = true) : rngRows x r = .ok (rowsNow x r) :=
  mapM_ok fun i hi => winReadable_reads (h i (List.mem_range.1 hi))

theorem rowsOf_map {x : Tile} {rs : List Rng} {r : Rng} {n : Nat} (h : rs.find? (fun r => r.num = n) = some r) :
    rowsOf (rs.map (fun r => (r, rowsNow x r))) n = rowsNow x r := by
  rw [rowsOf, List.find?_map]
  simp [h]

theorem foldl_sbAdd {write : Bool} {owner : Rng → SbOwner} : ∀ {rs : List Rng} {x : Tile},
    rs.foldl (fun x r => sbAdd x r.phys (rngSpan r) write (owner r)) x =
      { x with sb := x.sb ++ rs.map (fun r => { first := r.phys / 16, last := (r.phys + rngSpan r - 1) / 16, write := write, owner := owner r }) }
  | [], x => by simp
  | r :: rs, x => by
    rw [List.foldl_cons, foldl_sbAdd]
    simp [sbAdd]

/-! ## Staging of one entry (R91) -/

/-- The value table that a staging captures: two words at the start of the scale region of a W2 weight (R35, R36). -/
def tableOf (x : Tile) (q : QEntry) (rs : List Rng) : List Byte :=
  if qWfmt q = 8 then (rs.find? (fun r => r.num = 3)).elim [] (fun r => memGets x.mem (4 * r.phys) 8) else []

/-- The tile after the staging of entry `q` in buffers `a` and `b`. -/
def stagedTile (x : Tile) (q : QEntry) (rs : List Rng) (a : Option Nat) (b : Nat) : Tile :=
  let rows := rs.map (fun r => (r, rowsNow x r))
  { x with
    sb := x.sb ++ rs.map (fun r => { first := r.phys / 16, last := (r.phys + rngSpan r - 1) / 16, write := false, owner := .stage q.id r.num })
    wtBuf := tset x.wtBuf b { rows := rowsOf rows 2, scales := rowsOf rows 3, table := tableOf x q rs }
    actBuf := if fillsAct rs then tset x.actBuf (a.getD 0) { rows := rowsOf rows 0, scales := rowsOf rows 1, table := [] } else x.actBuf }

section
variable {x : Tile} {k : Task} {i : Nat} {q : QEntry} {rs : List Rng}

theorem stageReady_iff : stageReady x k q rs = true ↔ someFree (wtBusy k) = true ∧ (qReuse q || !fillsAct rs || someFree (actBusy k)) = true ∧
    (∀ r ∈ rs, readHeld x r.phys (rngSpan r) = false ∧
      (∀ i, i < r.rows → winReadable x (4 * (r.phys + r.extra + i * r.stride)) (4 * r.words) = true) ∧
      (r.num = 3 → qWfmt q = 8 → winReadable x (4 * r.phys) 8 = true ∧ w2TableOk q (memGets x.mem (4 * r.phys) 8) = true)) ∧
    x.sb.length + rs.length ≤ 16 ∧ (qWfmt q = 8 → ∃ r ∈ rs, r.num = 3) := by
  simp only [stageReady, Bool.and_eq_true, and_assoc, List.all_eq_true, decide_eq_true_eq, Bool.not_eq_true', List.mem_range]
  simp [imp_iff_not_or, or_assoc]

theorem w2Table_ok (hready : stageReady x k q rs = true) : w2TableOk q (tableOf x q rs) = true := by
  obtain ⟨-, -, hrs, -, htable⟩ := stageReady_iff.1 hready
  by_cases hw2 : qWfmt q = 8
  · obtain ⟨r0, hmem, hnum⟩ := htable hw2
    have hsome : (rs.find? (fun r => r.num = 3)).isSome = true := List.find?_isSome.2 ⟨r0, hmem, by simpa using hnum⟩
    obtain ⟨r, hfind⟩ := Option.isSome_iff_exists.1 hsome
    obtain ⟨-, -, hw2r⟩ := hrs r (List.mem_of_find?_eq_some hfind)
    rw [tableOf, if_pos hw2, hfind]
    exact (hw2r (by simpa using List.find?_some hfind) hw2).2
  · simp [w2TableOk, hw2]

theorem tableRead_ok {r : Rng} (hready : stageReady x k q rs = true) (hfind : rs.find? (fun r => r.num = 3) = some r) (hw2 : qWfmt q = 8) :
    deckRead x r.phys 2 = .ok (tableOf x q rs) := by
  obtain ⟨-, -, hrs, -⟩ := stageReady_iff.1 hready
  obtain ⟨-, -, hw2r⟩ := hrs r (List.mem_of_find?_eq_some hfind)
  have hread := winReadable_reads (hw2r (by simpa using List.find?_some hfind) hw2).1
  simp [tableOf, hw2, deckRead, hread, hfind]

/-- The last part of a staging: the check of the value table and the capture. -/
def stageFill (x : Tile) (k : Task) (i : Nat) (q : QEntry) (rs : List Rng) (a : Option Nat) (w : Nat)
    (rows : List (Rng × List (List Byte))) (table : List Byte) : Eff (Tile × Task) := do
  faultIf (!w2TableOk q table) fFormatPair
  let x1 := rs.foldl (fun x r => sbAdd x r.phys (rngSpan r) false (.stage q.id r.num)) x
  let x2 := { x1 with wtBuf := tset x1.wtBuf w { rows := rowsOf rows 2, scales := rowsOf rows 3, table := table } }
  let x3 := if fillsAct rs then
    { x2 with actBuf := tset x2.actBuf (a.getD 0) { rows := rowsOf rows 0, scales := rowsOf rows 1, table := [] } } else x2
  .ok (x3, { k with queue := k.queue.set i { q with data := some { act := a, wt := w }, ranges := rs.map (fun r => r.num) } })

/-- The part of a staging that follows the choice of the activation buffer. -/
def stageWith (x : Tile) (k : Task) (i : Nat) (q : QEntry) (rs : List Rng) (a : Option Nat) : Eff (Tile × Task) := do
  let w ← freeBuf (wtBusy k)
  let rows ← rs.mapM (fun r => (rngRows x r).map (fun bs => (r, bs)))
  match rs.find? (fun r => r.num = 3) with
  | some r => if qWfmt q = 8 then deckRead x r.phys 2 >>= stageFill x k i q rs a w rows else stageFill x k i q rs a w rows []
  | none => stageFill x k i q rs a w rows []

theorem stageEntry_eq (hrs : opRanges k q = .ok rs) (hheld : rs.any (fun r => readHeld x r.phys (rngSpan r)) = false)
    (hroom : x.sb.length + rs.length ≤ 16) : stageEntry x k i q = actFor k i q rs >>= stageWith x k i q rs := by
  unfold stageEntry actFor
  simp only [hrs, eff_ok_bind, hheld, holdIf_false, sbRoom, Nat.not_lt.2 hroom, decide_false]
  by_cases hreuse : qReuse q = true
  · rw [if_pos hreuse, if_pos hreuse]
    rfl
  · rw [if_neg hreuse, if_neg hreuse]
    by_cases hfills : fillsAct rs = true
    · rw [if_pos hfills]
      exact if_pos hfills
    · rw [if_neg hfills]
      exact if_neg hfills

theorem stageFill_ok {a : Option Nat} {b : Nat} (hready : stageReady x k q rs = true) :
    stageFill x k i q rs a b (rs.map (fun r => (r, rowsNow x r))) (tableOf x q rs) = .ok (stagedTile x q rs a b,
      { k with queue := k.queue.set i { q with data := some { act := a, wt := b }, ranges := rs.map (fun r => r.num) } }) := by
  simp only [stageFill, w2Table_ok hready, Bool.not_true, faultIf_false, eff_ok_bind, foldl_sbAdd, stagedTile]
  split <;> rfl

theorem stageWith_ok {a : Option Nat} {b : Nat} (hready : stageReady x k q rs = true) (hb : freeBuf (wtBusy k) = .ok b) :
    stageWith x k i q rs a = .ok (stagedTile x q rs a b,
      { k with queue := k.queue.set i { q with data := some { act := a, wt := b }, ranges := rs.map (fun r => r.num) } }) := by
  obtain ⟨-, -, hall, -⟩ := stageReady_iff.1 hready
  have hrows : rs.mapM (fun r => (rngRows x r).map (fun bs => (r, bs))) = .ok (rs.map (fun r => (r, rowsNow x r))) :=
    mapM_ok fun r hr => by rw [rngRows_ok (hall r hr).2.1]; rfl
  have hfill := stageFill_ok (i := i) (a := a) (b := b) hready
  unfold stageWith
  simp only [hb, hrows, eff_ok_bind]
  split
  next r hfind =>
    split
    next hw2 => rw [tableRead_ok hready hfind hw2, eff_ok_bind, hfill]
    next hw2 => rwa [tableOf, if_neg hw2] at hfill
  next hfind => simpa [tableOf, hfind] using hfill

theorem stageEntry_ok (hrs : opRanges k q = .ok rs) (hready : stageReady x k q rs = true) :
    ∃ a b, (qReuse q = true → a = prevAct k i) ∧
      (qReuse q = false → fillsAct rs = true → ∃ c, a = some c ∧ c < 2 ∧ c ∉ actBusy k) ∧ b < 2 ∧ b ∉ wtBusy k ∧
      stageEntry x k i q = .ok (stagedTile x q rs a b,
        { k with queue := k.queue.set i { q with data := some { act := a, wt := b }, ranges := rs.map (fun r => r.num) } }) := by
  obtain ⟨hwt, hact, hall, hroom, -⟩ := stageReady_iff.1 hready
  obtain ⟨a, ha, hreuse, hfills⟩ := actFor_ok (i := i) hact
  obtain ⟨b, hb, hlt, hbusy⟩ := freeBuf_ok hwt
  have hheld : rs.any (fun r => readHeld x r.phys (rngSpan r)) = false := by simpa using fun r hr => (hall r hr).1
  exact ⟨a, b, hreuse, hfills, hlt, hbusy, by rw [stageEntry_eq hrs hheld hroom, ha, eff_ok_bind, stageWith_ok hready hb]⟩

end

theorem stageD_ok {s : State} {t : TileId} {ecc : Ecc} {x y : Tile} {k k' : Task} {i : Nat} {q : QEntry}
    (hrun : (getTile s.dev t.toNat).run = some k) (hrunning : (getTile s.dev t.toNat).stopped = false)
    (hx : x = applyEcc (getTile s.dev t.toNat) ecc) (hnext : unstaged k = some (i, q)) (hstage : stageEntry x k i q = .ok (y, k')) :
    exec (.stageOperands t ecc) s = .next (s.withTask t y k') := by
  refine onDev_next ?_
  have hrunx : (getTile (setTile s.dev t.toNat x) t.toNat).run = some k := by simp [hx, hrun]
  simp only [stageD, hrun, hnext, hrunning, Bool.false_eq_true, if_false, ← hx]
  rw [taskPart_ok hrunx (r := (y, k')) (by simpa using hstage), setTile_setTile]

/-! ## The end of staging (R129) -/

theorem find_staging {r : Nat} {before after : List QEntry} {q : QEntry} (hbefore : ∀ e, e ∈ before → r ∉ e.ranges) (hq : r ∈ q.ranges) :
    (before ++ q :: after).zipIdx.find? (fun p => p.1.ranges.contains r) = some (q, before.length) := by
  have hnone : before.zipIdx.find? (fun p => p.1.ranges.contains r) = none := by
    rw [List.find?_eq_none]
    intro p hp
    simpa using hbefore p.1 (List.fst_mem_of_mem_zipIdx hp)
  rw [List.zipIdx_append, List.find?_append, hnone, List.zipIdx_cons, List.find?_cons_of_pos (by simpa using hq)]
  simp

theorem exec_stagingDone {s : State} {t : TileId} {k : Task} {q : QEntry} {r : BitVec 2} {before after : List QEntry}
    (hrun : (getTile s.dev t.toNat).run = some k) (hqueue : k.queue = before ++ q :: after)
    (hbefore : ∀ e, e ∈ before → r.toNat ∉ e.ranges) (hq : r.toNat ∈ q.ranges) :
    exec (.stagingDone t r) s = .next (s.withTask t (sbDel (getTile s.dev t.toNat) (.stage q.id r.toNat))
      { k with queue := before ++ { q with ranges := q.ranges.erase r.toNat } :: after }) := by
  have hfind := find_staging (after := after) hbefore hq
  rw [← hqueue] at hfind
  have hset : k.queue.set before.length { q with ranges := q.ranges.erase r.toNat } =
      before ++ { q with ranges := q.ranges.erase r.toNat } :: after := by simp [hqueue]
  exact onDev_next (taskPart_ok (r := (_, _)) hrun (by simp only [hfind, hset]; rfl))

/-- Settles O9: a staging is its choice of feed buffers and one capture in them; the end of a range's staging removes that range's
entry. -/
theorem staging : Obligations.Staging := by
  refine fun s t ecc x k q hrun => ⟨fun i rs hrunning hx hnext hrs hready => ?stage,
    fun r before after hqueue hbefore hq => exec_stagingDone hrun hqueue hbefore hq⟩
  case stage =>
    obtain ⟨a, b, hreuse, hfills, hlt, hbusy, hstage⟩ := stageEntry_ok (i := i) hrs hready
    refine ⟨{ act := a, wt := b }, _, stageD_ok hrun hrunning hx hnext hstage, rfl, hlt, hbusy, fun c hc => ?_, fun r hr => ?_,
      fun r hr => ⟨?_, fun hw2 => ?_⟩, hreuse, fun hnone => ?_, fun hr hf => ?_⟩
    · simp [stagedTile, tget_tset, hc]
    · simp [stagedTile, rowsOf_map hr]
    · simp [stagedTile, rowsOf_map hr]
    · simp [stagedTile, tableOf, hw2, hr]
    · simp [stagedTile, hnone]
    · obtain ⟨c, rfl, hc, hfree⟩ := hfills hr hf
      refine ⟨c, rfl, hc, hfree, fun e he => ?_, fun r hr => ?_, fun r hr => ?_⟩
      · simp [stagedTile, hf, tget_tset, he]
      · simp [stagedTile, hf, rowsOf_map hr]
      · simp [stagedTile, hf, rowsOf_map hr]

end Sys2Proof.Machine

/-! PROOFS. The results of a pass: its output elements one after another (R50 to R54, R90, R98, R105, R106, R175). -/

namespace Sys2Proof.Machine

/-- Everything of a tile but its window, error marks and SAT bits is as in another. -/
def sameButElems (x y : Tile) : Prop := { y with mem := x.mem, bad := x.bad, fixups := x.fixups, sat := x.sat } = x

theorem sameButElems.refl (x : Tile) : sameButElems x x := rfl

theorem sameButElems.trans {x y z : Tile} (hxy : sameButElems x y) (hyz : sameButElems y z) : sameButElems x z := by
  have hback := congrArg (fun u : Tile => { u with mem := x.mem, bad := x.bad, fixups := x.fixups, sat := x.sat }) hyz
  exact Eq.trans hback hxy

theorem sameButElems.bufs {x y : Tile} (h : sameButElems x y) : y.actBuf = x.actBuf ∧ y.wtBuf = x.wtBuf := by
  have hact := congrArg Tile.actBuf h
  have hwt := congrArg Tile.wtBuf h
  exact ⟨hact, hwt⟩

theorem products_congr {x y : Tile} (h : sameButElems x y) (p : Pass) (m n : Nat) : products y p m n = products x p m n := by
  obtain ⟨hact, hwt⟩ := h.bufs
  have ha : passAct y p = passAct x p := by simp only [passAct, hact]
  have hw : passWt y p = passWt x p := by simp only [passWt, hwt]
  unfold products actVal wtVal escVal
  simp only [ha, hw]

section
variable {k : Task} {p : Pass}

/-- The value of an output element after a pass (R50, R53). -/
def passValue (x : Tile) (k : Task) (p : Pass) (old : Word32) (mn : Nat × Nat) : Word32 :=
  (accumulate (intPair (qAfmt p.q)) (taskExact k) (qInit p.q) (qShift p.q) old (products x p mn.1 mn.2)).1

theorem passElem_mem (x : Tile) (mn : Nat × Nat) : (passElem k p x mn).mem =
    memPuts x.mem (passOff k p.q mn) (toLe 4 (passValue x k p (mem32 x.mem (passOff k p.q mn)) mn).toNat) := by
  have hput : ∀ (y : Tile) j i v, (putElems y k j i [v]).mem = memPuts y.mem (elemOff k j i) (toLe 4 v.toNat) := by
    simp [putElems, tilePut]
  dsimp only [passElem]
  split
  · exact hput ..
  · exact hput ..

theorem passElem_frame (x : Tile) (mn : Nat × Nat) : sameButElems x (passElem k p x mn) := by
  dsimp only [passElem]
  split <;> rfl

/-- The words of two output elements at different offsets lie apart. -/
theorem passOff_apart {q : QEntry} {mn mn' : Nat × Nat} (h : passOff k q mn ≠ passOff k q mn') :
    passOff k q mn + 4 ≤ passOff k q mn' ∨ passOff k q mn' + 4 ≤ passOff k q mn := by
  unfold passOff elemOff at *
  omega

theorem mem32_memPuts_same {m : Memory} {a : Nat} {v : Word32} (hm : Memory.wf m = true) : mem32 (memPuts m a (toLe 4 v.toNat)) a = v := by
  have hread := memGets_memPuts m a (toLe 4 v.toNat) hm
  rw [toLe_length] at hread
  rw [mem32, hread, leNat_toLe]
  exact BitVec.eq_of_toNat_eq (by rw [BitVec.toNat_ofNat]; have := v.isLt; omega)

theorem mem32_congr {m m' : Memory} {a : Nat} (h : ∀ i, a ≤ i → i < a + 4 → memGet m i = memGet m' i) : mem32 m a = mem32 m' a := by
  rw [mem32, mem32, memGets, memGets]
  exact congrArg (fun l => BitVec.ofNat 32 (leNat l)) (List.map_congr_left fun i hi => h _ (by omega) (by simpa using hi))

/-- The elements of a pass, one after another: each is written once, from what it held before the pass. -/
theorem passElems_wrote : ∀ {cells : List (Nat × Nat)} {x : Tile}, Memory.wf x.mem = true → (cells.map (passOff k p.q)).Nodup →
    sameButElems x (cells.foldl (passElem k p) x) ∧
    (∀ mn ∈ cells, mem32 (cells.foldl (passElem k p) x).mem (passOff k p.q mn) =
      passValue x k p (mem32 x.mem (passOff k p.q mn)) mn) ∧
    (∀ i, (∀ mn ∈ cells, i < passOff k p.q mn ∨ passOff k p.q mn + 4 ≤ i) → memGet (cells.foldl (passElem k p) x).mem i = memGet x.mem i)
  | [], x, _, _ => ⟨.refl x, fun _ h => absurd h List.not_mem_nil, fun _ _ => rfl⟩
  | c :: cells, x, hx, hnodup => by
    obtain ⟨hfresh, hrest⟩ := List.nodup_cons.1 hnodup
    have hapart : ∀ mn ∈ cells, passOff k p.q mn + 4 ≤ passOff k p.q c ∨ passOff k p.q c + 4 ≤ passOff k p.q mn := fun mn hmn =>
      passOff_apart fun heq => hfresh (heq ▸ List.mem_map_of_mem hmn)
    have hframe := passElem_frame (k := k) (p := p) x c
    have hwf : Memory.wf (passElem k p x c).mem = true := by rw [passElem_mem]; exact memPuts_wf _ _ _ hx
    have hsame : ∀ mn ∈ cells, mem32 (passElem k p x c).mem (passOff k p.q mn) = mem32 x.mem (passOff k p.q mn) := fun mn hmn => by
      rw [passElem_mem, mem32, memGets_memPuts_out _ _ _ _ _ hx (by rw [toLe_length]; exact hapart mn hmn), ← mem32]
    have hval : ∀ old mn, passValue (passElem k p x c) k p old mn = passValue x k p old mn := fun old mn => by
      rw [passValue, products_congr hframe, passValue]
    obtain ⟨hframe', hcells, hout⟩ := passElems_wrote (x := passElem k p x c) hwf hrest
    refine ⟨hframe.trans hframe', fun mn hmn => ?_, fun i hi => ?_⟩
    · rw [List.foldl_cons]
      obtain rfl | hmem := List.mem_cons.1 hmn
      · have hlast : mem32 (cells.foldl (passElem k p) (passElem k p x mn)).mem (passOff k p.q mn) =
            mem32 (passElem k p x mn).mem (passOff k p.q mn) :=
          mem32_congr fun i hlo hhi => hout i fun mn' hmn' => by have := hapart mn' hmn'; omega
        rw [hlast, passElem_mem, mem32_memPuts_same hx]
      · rw [hcells mn hmem, hsame mn hmem, hval]
    · rw [List.foldl_cons, hout i fun mn hmn => hi mn (List.mem_cons_of_mem c hmn), passElem_mem, memGet_memPuts _ _ _ _ hx, toLe_length,
        if_neg]
      have := hi c List.mem_cons_self
      omega

/-! ## The whole pass -/

theorem setSats_frame {js : List Nat} (x : Tile) : sameButElems x (js.foldl (fun x j => setSat x k j false) x) ∧
    (js.foldl (fun x j => setSat x k j false) x).mem = x.mem :=
  foldl_keeps (P := fun y : Tile => sameButElems x y ∧ y.mem = x.mem) (f := fun x j => setSat x k j false) (fun _ _ hy => ⟨hy.1.trans rfl, hy.2⟩) js ⟨.refl x, rfl⟩

theorem passReady_iff {x : Tile} : passReady x k p = true ↔ (∀ j ∈ passSlots p.q, winWritable x (elemOff k j 0) 65536 = true) ∧
    ((passCells p.q).map (passOff k p.q)).Nodup ∧
    (qInit p.q = true ∨ x.bad.find? (fun b => ((passCells p.q).map (fun mn => passOff k p.q mn / 4)).contains b) = none) := by
  simp [passReady, and_assoc]

theorem passResults_gates {x : Tile} (hready : passReady x k p = true) :
    ((passSlots p.q).map fun j => elemOff k j 0).any (fun o => anyGate x o 65536 .waking) = false ∧
    ((passSlots p.q).map fun j => elemOff k j 0).any (fun o => anyGate x o 65536 .off || anyGate x o 65536 .draining) = false := by
  obtain ⟨hgates, -⟩ := passReady_iff.1 hready
  have heach : ∀ j ∈ passSlots p.q, anyGate x (elemOff k j 0) 65536 .waking = false ∧ anyGate x (elemOff k j 0) 65536 .off = false ∧
      anyGate x (elemOff k j 0) 65536 .draining = false := fun j hj => by simpa [winWritable, and_assoc] using hgates j hj
  exact ⟨by simpa using fun j hj => (heach j hj).1, by simpa using fun j hj => (heach j hj).2⟩

theorem passResults_unchanged {x : Tile} (hready : passReady x k p = true) (hkind : p.q.kind = .scorr) (hescape : hasEscape x p = false) :
    passResults x k p = .ok x := by
  obtain ⟨hwaking, hoff⟩ := passResults_gates hready
  unfold passResults
  dsimp only
  rw [hwaking, hoff, holdIf_false, faultIf_false, eff_ok_bind, eff_ok_bind, if_pos (by simp [hkind, hescape])]

theorem passResults_ok {x : Tile} (hready : passReady x k p = true) (hwrites : p.q.kind ≠ .scorr ∨ hasEscape x p = true) :
    passResults x k p = .ok ((passCells p.q).foldl (passElem k p)
      (if qInit p.q then (passSlots p.q).foldl (fun x j => setSat x k j false) x else x)) := by
  obtain ⟨hwaking, hoff⟩ := passResults_gates hready
  obtain ⟨-, -, hbad⟩ := passReady_iff.1 hready
  have hwrites' : ¬ (decide (p.q.kind = .scorr) && !hasEscape x p) = true := by
    obtain h | h := hwrites <;> simp [h]
  unfold passResults
  dsimp only
  rw [hwaking, hoff, holdIf_false, faultIf_false, eff_ok_bind, eff_ok_bind, if_neg hwrites']
  obtain hinit | hclean := hbad
  · rw [if_pos hinit, if_pos hinit]
  · split
    next b hfind =>
      split at hfind
      · cases hfind
      · exact absurd (hfind.symm.trans hclean) (Option.some_ne_none b)
    next => rfl

theorem passResults_wrote {x y : Tile} (hx : Memory.wf x.mem = true) (hready : passReady x k p = true)
    (hy : y = (passCells p.q).foldl (passElem k p) (if qInit p.q then (passSlots p.q).foldl (fun x j => setSat x k j false) x else x)) :
    passWrote x y k p ∧ sameButElems x y := by
  obtain ⟨-, hnodup, -⟩ := passReady_iff.1 hready
  have hstart : ∃ x1, x1 = (if qInit p.q then (passSlots p.q).foldl (fun x j => setSat x k j false) x else x) ∧ sameButElems x x1 ∧
      x1.mem = x.mem := by
    refine ⟨_, rfl, ?_⟩
    split
    · exact setSats_frame x
    · exact ⟨.refl x, rfl⟩
  obtain ⟨x1, hx1, hframe, hmem⟩ := hstart
  rw [← hx1] at hy
  subst hy
  obtain ⟨hframe', hcells, hout⟩ := passElems_wrote (k := k) (p := p) (x := x1) (by rw [hmem]; exact hx) hnodup
  refine ⟨⟨fun mn hmn => ?_, fun i hi => ?_⟩, hframe.trans hframe'⟩
  · rw [hcells mn hmn, hmem, passValue, products_congr hframe]
  · rw [hout i hi, hmem]

end

section
variable {s : State} {t : TileId} {y : Tile} {k : Task} {p : Pass} {rest : List Pass}

theorem drainD_ok {scullPath : Bool} (hrun : (getTile s.dev t.toNat).run = some k) (hpasses : k.passes = p :: rest)
    (hpath : p.q.kind ≠ .matmul ↔ scullPath = true) (hresults : passResults (getTile s.dev t.toNat) k p = .ok y) :
    onDev s (drainD t.toNat scullPath) = .next (s.withTask t y { k with passes := rest }) := by
  refine onDev_next ?_
  have hsame : ¬ (p.q.kind ≠ .matmul) ≠ (scullPath = true) := not_not.2 (propext hpath)
  rw [drainD, hrun]
  dsimp only
  rw [hpasses]
  dsimp only
  rw [if_neg hsame]
  exact taskPart_ok (r := (y, { k with passes := rest })) hrun (by rw [hresults]; rfl)

theorem exec_passDrain (hrun : (getTile s.dev t.toNat).run = some k) (hpasses : k.passes = p :: rest) (hkind : p.q.kind = .matmul)
    (hresults : passResults (getTile s.dev t.toNat) k p = .ok y) :
    exec (.passDrain t) s = .next (s.withTask t y { k with passes := rest }) :=
  drainD_ok hrun hpasses (by simp [hkind]) hresults

theorem exec_scullResultsWritten (hrun : (getTile s.dev t.toNat).run = some k) (hpasses : k.passes = p :: rest) (hkind : p.q.kind ≠ .matmul)
    (hresults : passResults (getTile s.dev t.toNat) k p = .ok y) :
    exec (.scullResultsWritten t) s = .next (s.withTask t y { k with passes := rest }) :=
  drainD_ok hrun hpasses (by simp [hkind]) hresults

end

/-- Settles O10: a pass that may write does it by its output elements one after another, each at its own offset. -/
theorem passResultsHold : Obligations.PassResults := by
  rintro s t x k p rest hs rfl hrun hpasses hready
  have hx := safe_tile hs t.toNat
  by_cases hunchanged : p.q.kind = .scorr ∧ hasEscape (getTile s.dev t.toNat) p = false
  · obtain ⟨hkind, hescape⟩ := hunchanged
    have hresults := passResults_unchanged hready hkind hescape
    refine ⟨_, fun h => exec_passDrain hrun hpasses h hresults, fun h => exec_scullResultsWritten hrun hpasses h hresults, fun h => ?_,
      fun _ _ => rfl, rfl⟩
    simp [hkind, hescape] at h
  · have hwrites : p.q.kind ≠ .scorr ∨ hasEscape (getTile s.dev t.toNat) p = true := by
      simpa [imp_iff_not_or] using hunchanged
    have hresults := passResults_ok hready hwrites
    obtain ⟨hwrote, hframe⟩ := passResults_wrote hx hready rfl
    exact ⟨_, fun h => exec_passDrain hrun hpasses h hresults, fun h => exec_scullResultsWritten hrun hpasses h hresults, fun _ => hwrote,
      fun hk he => absurd ⟨hk, he⟩ hunchanged, hframe⟩

end Sys2Proof.Machine

/-! PROOFS. Conversions: the issue, the end, and the histogram record (R63, R68, R77, R78, R81 to R84, R129, R181, R185). -/

namespace Sys2Proof.Machine

/-- A choice of what to run before the same rest. -/
theorem eff_ite_bind {α β : Type} {c : Prop} [Decidable c] {x y : Eff α} {f : α → Eff β} :
    (if c then x >>= f else y >>= f) = (if c then x else y) >>= f := by split <;> rfl

/-! ## Issue (R63, R181, R185) -/

theorem claimRanges_mem {x x1 : Tile} {rs : List Rng} {i : Nat} (h : claimRanges x rs i = .ok x1) : x1.mem = x.mem := by
  obtain ⟨_, -, h⟩ := eff_bind_ok.1 h
  obtain ⟨_, -, h⟩ := eff_bind_ok.1 h
  obtain ⟨_, -, h⟩ := eff_bind_ok.1 h
  obtain ⟨_, -, h⟩ := eff_bind_ok.1 h
  cases h
  rw [foldl_sbAdd (owner := fun _ => .conv i)]

theorem optRange_ok {c : Prop} [Decidable c] {k : Task} {num : Nat} {a : Word64} {rows stride words : Nat} {rs : List Rng}
    (h : if c then rs = [] else ∃ r, rs = [r] ∧ mkRng k num a 0 rows stride words true = .ok r) :
    (if c then pure [] else (mkRng k num a 0 rows stride words true).map (fun r => [r])) = (.ok rs : Eff (List Rng)) := by
  split at h
  next hc => rw [if_pos hc, h]; rfl
  next hc =>
    obtain ⟨r, rfl, hr⟩ := h
    rw [if_neg hc, hr]
    rfl

theorem cvtPlain_rows (c : CvtMode) (zs : List (List Machine.Num)) :
    (cvtPlain c zs).rows = zs.map (fun r => r.map (fun z => (cvtElem c z).1)) := by
  simp [cvtPlain]

section
variable {s : State} {f : Fetch} {x x1 : Tile} {k : Task} {w p : Word64}

theorem exec_cvt {m n sm : Nat} {cm : CvtMode} {e : Rng} {sr xr : List Rng} {zs : List (List Machine.Num)} {o : CvtOut}
    (h : atInstr s.dev f 0x50 (some 0x56) = some (x, k, w, p)) (hslots : passHeld k (cvtSlots w) = false) (hm : m = fld w 47 9 + 1)
    (hn : n = fld w 36 11 + 1) (hsm : sm = fld w 19 8) (hcm : cm = { tfmt := fld w 27 4, clip := bitOf w 18, flush := taskFlush k })
    (he : mkRng k 0 (getR k (4 * fld w 6 3)) 0 m k.oc.eStride.toNat (rowBytes (fld w 27 4) n / 4) true = .ok e)
    (hsr : if smFmt sm = 0 then sr = [] else ∃ r, sr = [r] ∧ mkRng k 1 (getR k (4 * fld w 6 3 + 1)) 0 (scaleShape sm m n).1
        k.oc.sStride.toNat (cdiv ((scaleShape sm m n).2 * scaleBytes (smFmt sm)) 4) true = .ok r)
    (hxr : if fld w 16 2 = 0 then xr = [] else ∃ r, xr = [r] ∧ mkRng k 2 (getR k (4 * fld w 6 3 + 2)) 0 m k.oc.xStride.toNat
        (cdiv n 32) true = .ok r)
    (hzs : cvtValues x k w p = .ok zs) (hclaim : claimRanges x (e :: (sr ++ xr)) k.nextId = .ok x1)
    (ho : o = (if smFmt sm = 0 then cvtPlain cm zs else if smDir sm then cvtDir1 cm sm n zs else cvtDir0 cm sm (fld w 16 2) zs)) :
    exec (.cvt f) s = .next (s.withTask f.tile (cvtCount x1 k w zs).1 { k with
        convs := k.convs ++ [{ id := k.nextId
                               writes := rowCells e (fmtWidth (fld w 27 4)) o.rows
                                 ++ sr.flatMap (fun r => rowCells r (8 * scaleBytes (smFmt sm)) o.scales)
                                 ++ xr.flatMap (fun r => rowCells r 32 o.escs)
                               flags := (cvtCount x1 k w zs).2 ||| o.flags, slots := cvtSlots w }]
        nextId := k.nextId + 1 }) := by
  subst hm hn hsm hcm ho
  refine onDev_seqTile h ?_
  simp only [hslots, holdIf_false, eff_ok_bind, he, eff_ite_bind, optRange_ok hsr, optRange_ok hxr, hzs, hclaim]

theorem exec_cvts {rs : List Rng} {zs : List (List Machine.Num)} (h : atInstr s.dev f 0x51 (some 0x56) = some (x, k, w, p))
    (hslots : passHeld k (cvtSlots w) = false)
    (hrs : (List.range (if bitOf w 4 then 2 else 3)).mapM (fun i => mkRng k i (getR k (4 * fld w 6 3 + i)) 0 (fld w 47 9 + 1)
        k.oc.eStride.toNat (alignUp (cdiv ((fld w 36 11 + 1) * (if bitOf w 4 then 8 else 16)) 8) 4 / 4) true) = .ok rs)
    (hzs : cvtValues x k w p = .ok zs) (hclaim : claimRanges x rs k.nextId = .ok x1) :
    ∃ c, exec (.cvts f) s = .next (s.withTask f.tile (cvtCount x1 k w zs).1 { k with convs := k.convs ++ [c], nextId := k.nextId + 1 }) ∧
      c.id = k.nextId ∧ c.slots = cvtSlots w ∧
      c.writes = rs.flatMap (fun r => rowCells r (if bitOf w 4 then 8 else 16)
        (zs.map (fun row => row.map (fun z => (if bitOf w 4 then (split2 (bitOf w 18) z).1 else split3 z).getD r.num 0)))) := by
  refine ⟨_, onDev_seqTile h (by simp only [hslots, holdIf_false, eff_ok_bind, hrs, hzs, hclaim]; rfl), rfl, rfl, ?_⟩
  simp only [List.map_map, Function.comp_def]
  cases bitOf w 4 <;> rfl

end

/-- Settles O11: either conversion registers the ranges of its destinations and carries their cells; the deck stays. -/
theorem conversionIssue : Obligations.ConversionIssue := by
  refine ⟨fun s f x x1 k w p m n sm cm e sr xr zs o h hslots hm hn hsm hcm he hsr hxr hzs hclaim ho => ?cvt,
    fun s f x x1 k w p rs zs h hslots hrs hzs hclaim => ?cvts⟩
  case cvt =>
    refine ⟨exec_cvt h hslots hm hn hsm hcm he hsr hxr hzs hclaim ho, fun hplain => ?_, rfl, claimRanges_mem hclaim⟩
    rw [ho, if_pos hplain, cvtPlain_rows]
  case cvts =>
    obtain ⟨c, hexec, hid, hslots', hwrites⟩ := exec_cvts h hslots hrs hzs hclaim
    exact ⟨c, _, hexec, hid, hslots', hwrites, rfl, (claimRanges_mem hclaim : x1.mem = x.mem)⟩

/-! ## The end of a conversion (R68, R129) -/

theorem memGet_memCells_out {i : Nat} : ∀ {cs : List Host.Cell} {m : Memory}, Memory.wf m = true → (∀ b, (i, b) ∉ cs) →
    memGet (memCells m cs) i = memGet m i
  | [], _, _, _ => rfl
  | (a, b) :: cs, m, hm, hout => by
    have hne : i ≠ a := fun heq => hout b (heq ▸ List.mem_cons_self)
    rw [memCells, memGet_memCells_out (memPut_wf m a b hm) fun b' hb => hout b' (List.mem_cons_of_mem _ hb), memGet_memPut m a i b hm,
      if_neg hne]

theorem memGet_memCells_in {i : Nat} {v : Byte} : ∀ {cs : List Host.Cell} {m : Memory}, Memory.wf m = true →
    (cs.map (fun c => c.1)).Nodup → (i, v) ∈ cs → memGet (memCells m cs) i = v
  | (a, b) :: cs, m, hm, hnodup, hmem => by
    obtain ⟨hfresh, hrest⟩ := List.nodup_cons.1 hnodup
    obtain heq | hlater := List.mem_cons.1 hmem
    · cases heq
      rw [memCells, memGet_memCells_out (memPut_wf m i v hm) fun b' hb => hfresh (List.mem_map_of_mem (f := fun c => c.1) hb),
        memGet_memPut m i i v hm, if_pos rfl]
    · rw [memCells, memGet_memCells_in (memPut_wf m a b hm) hrest hlater]

theorem exec_conversionDone {s : State} {t : TileId} {k : Task} {c : Conv} {rest : List Conv}
    (hrun : (getTile s.dev t.toNat).run = some k) (hconvs : k.convs = c :: rest) :
    exec (.conversionDone t) s = .next (s.withTask t (sbDel (putCells (getTile s.dev t.toNat) c.writes) (.conv c.id))
      { k with convs := rest, flags := k.flags ||| c.flags }) :=
  onDev_next (f := fun d => taskPart t.toNat d 0 convDone) (taskPart_ok (r := (_, _)) hrun (by simp only [convDone, hconvs]; rfl))

/-! ## The histogram record (R81 to R84) -/

@[simp] theorem histRecord_length (x : Tile) : (histRecord x).length = 264 := by
  rw [histRecord, List.length_append, List.length_append, flatten_length_of_const (n := 4) (by simp)]
  simp

theorem exec_hstend {s : State} {f : Fetch} {x : Tile} {k : Task} {w p : Word64} {a : Nat}
    (h : atInstr s.dev f 0x53 none = some (x, k, w, p)) (ha : deckOperand k (fld w 51 5) (offOf w) 66 true = .ok a)
    (hw : deckWritable x a 66 = true) (hdone : k.convs = []) :
    exec (.hstend f) s = .next (s.withTask f.tile { tilePut x (4 * a) (histRecord x) with hist := [], histSat := false } k) := by
  obtain ⟨hheld, hwrite⟩ := deckWritable_writes hw
  exact onDev_seqTile h (by simp [ha, hheld, hdone, hwrite (histRecord x) (histRecord_length x)])

/-- Settles O12: the end of a conversion writes its cells, HSTEND the record of the counters. -/
theorem conversionEnd : Obligations.ConversionEnd := by
  refine fun s hs => ⟨fun t k c rest hrun hconvs hnodup => ?done, fun f x k w p a h ha hw hdone => ?hstend⟩
  case done =>
    have hm := safe_tile hs t.toNat
    exact ⟨_, exec_conversionDone hrun hconvs, fun i b hb => memGet_memCells_in hm hnodup hb, fun i hout => memGet_memCells_out hm hout, rfl⟩
  case hstend => exact ⟨_, exec_hstend h ha hw hdone, stored x (4 * a) (histRecord x) (atInstr_memWf hs h)⟩

end Sys2Proof.Machine

/-! PROOFS. Transfers go into flight (R129 to R131, R149, R187 to R191, R227, R257, R260). -/

namespace Sys2Proof.Machine

theorem onDev_seqStep {s : State} {f : Fetch} {op : Nat} {pre : Option Nat} {x : Tile} {k : Task} {w p : Word64} {d2 : Dev}
    {act : Dev → Nat → Tile → Task → Word64 → Word64 → Eff Dev} (h : atInstr s.dev f op pre = some (x, k, w, p))
    (ha : act (setTile s.dev f.tile.toNat x) f.tile.toNat x k w p = .ok d2) :
    onDev s (seqStep f op pre act) = .next { s with dev := d2 } := by
  rw [onDev_eq, seqStep_ok h ha]

/-! ## The scoreboard of a transfer (R129 to R131) -/

section
variable {x : Tile} {unscb write : Bool} {rs : List (Nat × Nat)}

theorem scoreFree_free (h : scoreFree x unscb write rs = true) :
    (!unscb && rs.any (fun r => if write then writeHeld x r.1 r.2 else readHeld x r.1 r.2)) = false := by
  cases unscb
  · cases write <;> simp_all [scoreFree]
  · rfl

theorem scoreFree_room (h : scoreFree x unscb write rs = true) (hscored : (write && !unscb) = true) : sbRoom x rs.length = .ok () := by
  obtain ⟨rfl, hunscb⟩ := Bool.and_eq_true_iff.1 hscored
  rw [Bool.not_eq_true'] at hunscb
  subst hunscb
  have hroom : x.sb.length + rs.length ≤ 16 := by
    simp only [scoreFree, Bool.false_or, Bool.and_eq_true, Bool.not_true, decide_eq_true_eq] at h
    exact h.2
  simp [sbRoom, Nat.not_lt.2 hroom]

theorem foldl_sbAdd_pairs {i : Nat} : ∀ {rs : List (Nat × Nat)} {x : Tile}, rs.foldl (fun x r => sbAdd x r.1 r.2 true (.xfer i)) x =
    { x with sb := x.sb ++ rs.map (fun r => { first := r.1 / 16, last := (r.1 + r.2 - 1) / 16, write := true, owner := .xfer i }) }
  | [], x => by simp
  | r :: rs, x => by
    rw [List.foldl_cons, foldl_sbAdd_pairs]
    simp [sbAdd]

/-- The tile with the WRITE entries of a scored transfer into deck. -/
def scoredTile (x : Tile) (i : Nat) (unscb write : Bool) (rs : List (Nat × Nat)) : Tile :=
  if write && !unscb then rs.foldl (fun x r => sbAdd x r.1 r.2 true (.xfer i)) x else x

theorem scoredTile_eq {i : Nat} : scoredTile x i unscb write rs = { x with sb := x.sb ++ scoreOf i unscb write rs } := by
  unfold scoredTile scoreOf
  split
  · exact foldl_sbAdd_pairs
  · simp

end

theorem ofNat_tile (t : TileId) : BitVec.ofNat 8 t.toNat = t := BitVec.eq_of_toNat_eq (by simp)

/-- The state after a launch, whatever the tile was before. -/
theorem launch_eq {s : State} {t : TileId} {x y : Tile} {k : Task} {xf : Xfer} (hid : xf.id = s.dev.nextX) :
    ({ s with dev := launch (setTile s.dev t.toNat x) t.toNat y k xf } : State) = s.withXfer t y k xf := by
  simp [launch, State.withXfer, hid]

/-! ## DMA (R187) -/

section
variable {s : State} {f : Fetch} {x : Tile} {k : Task} {w p : Word64} {a : Nat}

theorem addrCheck_passes {va stride : Word64} (hva : va.toNat % 4 = 0) (hlow : va.toNat < 2 ^ 48) (hstride : stride.toNat % 4 = 0) :
    faultIf (fld va 48 16 ≠ 0 || va.toNat % 4 ≠ 0 || stride.toNat % 4 ≠ 0) fXlateInvalid = .ok () := by
  have hhigh : fld va 48 16 = 0 := by
    rw [fld, Nat.shiftRight_eq_div_pow, Nat.div_eq_of_lt hlow, Nat.zero_mod]
  simp [hhigh, hva, hstride]

/-- The transfer that a DMA instruction puts in flight. -/
def dmaXfer (d : Dev) (t : Nat) (k : Task) (w : Word64) : Xfer :=
  { newXfer d (if fld w 54 2 = 0 then .dmaIn else .dmaOut) t k w (fld w 40 4)
      (groupPages (dmaSegs w (getR k (fld w 44 5)) (getR k (fld w 44 5 + 1)))).length (bitOf w 39) with
    a0 := getR k (fld w 49 5), a2 := getR k (fld w 44 5), a3 := getR k (fld w 44 5 + 1) }

theorem exec_dma (h : atInstr s.dev f 0x60 none = some (x, k, w, p)) (hva : (getR k (fld w 44 5)).toNat % 4 = 0)
    (hlow : (getR k (fld w 44 5)).toNat < 2 ^ 48) (hstride : (getR k (fld w 44 5 + 1)).toNat % 4 = 0)
    (ha : deckOperand k (fld w 49 5) 0 ((fld w 26 13 + 1) * fld w 12 14) (fld w 54 2 = 0) = .ok a)
    (hroom : inFlight (setTile s.dev f.tile.toNat x) f.tile.toNat dmaClass < 16)
    (hfree : scoreFree x (bitOf w 39) (fld w 54 2 = 0) [(a, (fld w 26 13 + 1) * fld w 12 14)] = true) :
    exec (.dma f) s = .next (s.withXfer f.tile
      (scoredTile x s.dev.nextX (bitOf w 39) (fld w 54 2 = 0) [(a, (fld w 26 13 + 1) * fld w 12 14)])
      { k with dmaTag := tset k.dmaTag (fld w 40 4) (tget k.dmaTag (fld w 40 4) 0 + 1) }
      (dmaXfer s.dev f.tile.toNat k w)) := by
  have hheld := scoreFree_free hfree
  have hsb := scoreFree_room hfree
  simp only [List.any_cons, List.any_nil, Bool.or_false, List.length_singleton, decide_eq_true_eq] at hheld hsb
  rw [← launch_eq (x := x) rfl]
  refine onDev_seqStep h ?_
  dsimp only
  rw [addrCheck_passes hva hlow hstride, eff_ok_bind, ha, eff_ok_bind, decide_eq_false (Nat.not_le.2 hroom), holdIf_false, eff_ok_bind]
  rw [hheld, holdIf_false, eff_ok_bind]
  by_cases hscored : (decide (fld w 54 2 = 0) && !bitOf w 39) = true
  · rw [if_pos hscored, hsb hscored]
    rfl
  · rw [if_neg hscored]
    rfl

/-! ## PGATHER and PSCATTER (R188, R189) -/

/-- The transfer that a PGATHER or PSCATTER puts in flight. -/
def moveXfer (d : Dev) (t : Nat) (k : Task) (w : Word64) (gather : Bool) : Xfer :=
  { newXfer d (if gather then .gather else .scatter) t k w (fld w 20 4)
      (((getS k (fld w 42 4)).toNat + (fld w 32 10 + 1) - 1) / gRun (geoOf (getR k (fld w 46 5 + 1))) + 1
        - (getS k (fld w 42 4)).toNat / gRun (geoOf (getR k (fld w 46 5 + 1)))) (bitOf w 19) with
    a0 := getR k (fld w 51 5), a1 := getR k (fld w 51 5 + 1), a2 := getR k (fld w 46 5), a3 := getR k (fld w 46 5 + 1)
    a4 := getS k (fld w 42 4) }

theorem onDev_pageMove {op : Nat} {gather : Bool} {rs : List (Nat × Nat)} (h : atInstr s.dev f op none = some (x, k, w, p))
    (hlow : (getR k (fld w 46 5)).toNat < 2 ^ 48)
    (hgeo : geoFault (geoOf (getR k (fld w 46 5 + 1))) (fld w 24 8) (getR k (fld w 46 5)).toNat (getS k (fld w 42 4)).toNat (bitOf w 18)
        = none)
    (hrs : moveRanges k w gather = .ok rs) (hroom : inFlight (setTile s.dev f.tile.toNat x) f.tile.toNat dmaClass < 16)
    (hfree : scoreFree x (bitOf w 19) gather rs = true) :
    onDev s (pageMoveD f op gather) = .next (s.withXfer f.tile (scoredTile x s.dev.nextX (bitOf w 19) gather rs)
      { k with dmaTag := tset k.dmaTag (fld w 20 4) (tget k.dmaTag (fld w 20 4) 0 + 1) } (moveXfer s.dev f.tile.toNat k w gather)) := by
  have hheld := scoreFree_free hfree
  have hsb := scoreFree_room hfree
  have hhigh : fld (getR k (fld w 46 5)) 48 16 = 0 := by
    rw [fld, Nat.shiftRight_eq_div_pow, Nat.div_eq_of_lt hlow, Nat.zero_mod]
  rw [← launch_eq (x := x) rfl]
  unfold moveRanges at hrs
  refine onDev_seqStep h ?_
  dsimp only
  rw [hhigh, hgeo]
  dsimp only
  rw [show decide (0 ≠ 0) = false from rfl, faultIf_false, eff_ok_bind, hrs, eff_ok_bind, decide_eq_false (Nat.not_le.2 hroom),
    holdIf_false, eff_ok_bind, hheld, holdIf_false, eff_ok_bind]
  by_cases hscored : (gather && !bitOf w 19) = true
  · rw [if_pos hscored, hsb hscored]
    rfl
  · rw [if_neg hscored]
    rfl

end

/-- Settles O13: each instruction is one launch, with the entries of its ranges in the scoreboard. -/
theorem slideIssue : Obligations.SlideIssue := by
  refine ⟨fun s f x k w p a h hva hlow hstride ha hroom hfree => ?dma, fun s f x k w p gather rs h hlow hgeo hrs hroom hfree => ?move⟩
  case dma =>
    have hexec := exec_dma h hva hlow hstride ha hroom hfree
    rw [scoredTile_eq] at hexec
    exact ⟨_, hexec, rfl, rfl, ofNat_tile f.tile, rfl, rfl, rfl, rfl, rfl, rfl, rfl, rfl, rfl⟩
  case move =>
    have hmove := onDev_pageMove h hlow hgeo hrs hroom hfree
    rw [scoredTile_eq] at hmove
    have hexec : exec (if gather then .pgather f else .pscatter f) s = onDev s (pageMoveD f (if gather then 0x61 else 0x62) gather) := by
      cases gather <;> rfl
    refine ⟨_, hexec.trans hmove, rfl, rfl, ofNat_tile f.tile, rfl, rfl, rfl, rfl, rfl, rfl, rfl, rfl, rfl, rfl⟩

end Sys2Proof.Machine

/-! PROOFS. Remote access: FETCH and PUT at issue, and their reads and writes at the target (R134 to R136, R142, R149, R191, R227,
R229). -/

namespace Sys2Proof.Machine

/-! ## What the engines and the regulators leave unchanged -/

theorem syncEngineAs_eq (d : Dev) (e : Nat) (st : EngState) : ∃ es, syncEngineAs d e st = { d with engines := es } := by
  unfold syncEngineAs
  split
  · exact ⟨_, rfl⟩
  · dsimp only
    split <;> exact ⟨_, rfl⟩

theorem syncEngine_eq (d : Dev) (t : Nat) : ∃ es, syncEngine d t = { d with engines := es } := syncEngineAs_eq _ _ _

theorem charge_eq (d : Dev) (p i n : Nat) (be : Bool) : ∃ b, charge d p i n be = { d with pmg := { d.pmg with buckets := b } } := by
  unfold charge
  split <;> exact ⟨_, rfl⟩

theorem chargeCtx_eq (d : Dev) (cr i n : Nat) : ∃ b, chargeCtx d cr i n = { d with pmg := { d.pmg with buckets := b } } := charge_eq _ _ _ _ _

theorem chargeBridge_eq (d : Dev) (cr a b n : Nat) : ∃ l, chargeBridge d cr a b n = { d with pmg := { d.pmg with buckets := l } } := by
  unfold chargeBridge
  split
  · exact chargeCtx_eq _ _ _ _
  · split
    · exact chargeCtx_eq _ _ _ _
    · exact ⟨_, rfl⟩

/-! ## Counted units (R149) -/

/-- A tile whose gates differ at most in what they count. -/
def sameButCounts (x y : Tile) : Prop := { y with gates := x.gates } = x ∧ ∀ u, (gateOf y u).st = (gateOf x u).st

theorem sameButCounts.trans {x y z : Tile} (hxy : sameButCounts x y) (hyz : sameButCounts y z) : sameButCounts x z := by
  refine ⟨?_, fun u => (hyz.2 u).trans (hxy.2 u)⟩
  have hback := congrArg (fun v : Tile => { v with gates := x.gates }) hyz.1
  exact Eq.trans hback hxy.1

theorem setGate_counts (x : Tile) (u : Nat) (g : GateUnit) (hst : g.st = (gateOf x u).st) :
    sameButCounts x { x with gates := tset x.gates u g } := by
  refine ⟨rfl, fun v => ?_⟩
  simp only [gateOf, tget_tset]
  split
  next hv => rw [hst, hv]; rfl
  next => rfl

theorem countRange_counts (x : Tile) (off n : Nat) : sameButCounts x (countRange x off n).1 := by
  refine foldl_keeps (P := fun p : Tile × List Nat => sameButCounts x p.1) (fun p u hp => ?_) _ ⟨rfl, fun _ => rfl⟩
  dsimp only
  split
  · exact hp
  · exact hp.trans (setGate_counts _ _ _ rfl)

/-! ## FETCH and PUT at issue (R191, R227) -/

section
variable {s : State} {f : Fetch} {x : Tile} {k : Task} {w p : Word64} {a : Nat}

/-- The tile and the units that a FETCH counts at issue; a PUT counts none. -/
def countedAt (x : Tile) (isFetch : Bool) (a n : Nat) : Tile × List Nat := if isFetch then countRange x (4 * a) (4 * n) else (x, [])

/-- The transfer that a FETCH or PUT puts in flight. -/
def remoteXfer (d : Dev) (t : Nat) (k : Task) (w : Word64) (isFetch : Bool) (counted : List Nat) : Xfer :=
  { newXfer d (if isFetch then .fetch else .put) t k w (fld w 25 3) (fld w 28 14) (bitOf w 24) with
    a0 := getR k (fld w 51 5), a1 := BitVec.ofNat 64 (fld (getR k (fld w 46 5)) 0 18)
    peer := BitVec.ofNat 8 (fld (getS k (fld w 42 4)) 0 8), counted := counted }

theorem countedAt_sb (isFetch : Bool) (n : Nat) : (countedAt x isFetch a n).1.sb = x.sb := by
  unfold countedAt
  split
  · have hsb := congrArg Tile.sb (countRange_counts x (4 * a) (4 * n)).1
    exact hsb
  · rfl

theorem onDev_remote {op : Nat} {isFetch : Bool} (h : atInstr s.dev f op none = some (x, k, w, p))
    (hlow : (getR k (fld w 46 5)).toNat < 2 ^ 48) (hpeer : mappedOut s.dev (fld (getS k (fld w 42 4)) 0 8) = false)
    (ha : deckOperand k (fld w 51 5) 0 (fld w 28 14) isFetch = .ok a)
    (hroom : inFlight (setTile s.dev f.tile.toNat x) f.tile.toNat trestleClass < 16)
    (hfree : scoreFree x (bitOf w 24) isFetch [(a, fld w 28 14)] = true) :
    onDev s (remoteD f op isFetch) = .next (s.withXfer f.tile
      (scoredTile (countedAt x isFetch a (fld w 28 14)).1 s.dev.nextX (bitOf w 24) isFetch [(a, fld w 28 14)])
      { k with trTag := tset k.trTag (fld w 25 3) (tget k.trTag (fld w 25 3) 0 + 1) }
      (remoteXfer s.dev f.tile.toNat k w isFetch (countedAt x isFetch a (fld w 28 14)).2)) := by
  have hheld := scoreFree_free hfree
  have hsb := scoreFree_room hfree
  have hhigh : fld (getR k (fld w 46 5)) 48 16 = 0 := by
    rw [fld, Nat.shiftRight_eq_div_pow, Nat.div_eq_of_lt hlow, Nat.zero_mod]
  have hmapped : mappedOut (setTile s.dev f.tile.toNat x) (fld (getS k (fld w 42 4)) 0 8) = false := hpeer
  simp only [List.any_cons, List.any_nil, Bool.or_false, List.length_singleton] at hheld hsb
  rw [← launch_eq (x := x) rfl]
  refine onDev_seqStep h ?_
  dsimp only
  rw [hhigh, hmapped, show (decide (0 ≠ 0) || false) = false from rfl, faultIf_false, eff_ok_bind, ha, eff_ok_bind,
    decide_eq_false (Nat.not_le.2 hroom), holdIf_false, eff_ok_bind, hheld, holdIf_false, eff_ok_bind]
  by_cases hscored : (isFetch && !bitOf w 24) = true
  · rw [if_pos hscored, hsb hscored]
    rfl
  · rw [if_neg hscored]
    rfl

theorem fld_low_toNat (v : Word64) : (BitVec.ofNat 64 (fld v 0 18)).toNat = fld v 0 18 := by
  have := fld_lt v 0 18
  rw [BitVec.toNat_ofNat]
  omega

end

theorem getTile_setTile_self (d : Dev) (t u : Nat) : getTile (setTile d t (getTile d t)) u = getTile d u := by
  rw [getTile_setTile]
  split
  next h => rw [h]
  next => rfl

/-! ## Remote reads and writes (R134 to R136, R229) -/

section
variable {s : State} {i : Nat} {xf : Xfer}

theorem remoteReadD_ok (hxf : tfind s.dev.xfers i = some xf) (hwaiting : xf.remote = .waiting) (hkind : isRemoteRead xf.kind = true)
    (hfirst : earlierUnserved s.dev xf isRemoteRead = false) (howns : ownsTarget (getTile s.dev xf.peer.toNat) xf = true)
    (hfits : xf.a1.toNat + xf.pages ≤ 196608) (hr : deckReadable (getTile s.dev xf.peer.toNat) xf.a1.toNat xf.pages = true) :
    ∃ l, remoteReadD i .ok s.dev = { setTile s.dev xf.peer.toNat (getTile s.dev xf.peer.toNat) with
      pmg := { s.dev.pmg with buckets := l }
      xfers := tset s.dev.xfers i
        { xf with remote := .served (memGets (getTile s.dev xf.peer.toNat).mem (4 * xf.a1.toNat) (4 * xf.pages)) } } := by
  obtain ⟨hheld, hread⟩ := deckReadable_reads hr
  obtain ⟨l, hl⟩ := chargeBridge_eq (setTile s.dev xf.peer.toNat (getTile s.dev xf.peer.toNat)) xf.cr.toNat xf.peer.toNat xf.tile.toNat
    (4 * xf.pages)
  refine ⟨l, ?_⟩
  simp [remoteReadD, hxf, hwaiting, hkind, hfirst, applyEcc, howns, Nat.not_lt.2 hfits, hheld, hread, hl]

theorem remoteWriteD_ok {k : Task} {us : List Nat} (hxf : tfind s.dev.xfers i = some xf) (hwaiting : xf.remote = .waiting)
    (hkind : xf.kind = .put) (hfirst : earlierWrite s.dev xf.tile xf.peer xf.id = false)
    (howns : ownsTarget (getTile s.dev xf.peer.toNat) xf = true) (hrun : (getTile s.dev xf.tile.toNat).run = some k)
    (hrange : inFetchRange s.dev (getTile s.dev xf.peer.toNat) xf.a1.toNat xf.pages = some us)
    (hgate : gateCheck (getTile s.dev xf.peer.toNat) { xf with counted := us } (4 * xf.a1.toNat) (4 * xf.pages) true = .ok ())
    (hr : winReadable (getTile s.dev xf.tile.toNat) (deckByte k xf 0 0) (4 * xf.pages) = true) :
    ∃ l, remoteWriteD i s.dev = { setTile s.dev xf.peer.toNat (tilePut (getTile s.dev xf.peer.toNat) (4 * xf.a1.toNat)
        (memGets (getTile s.dev xf.tile.toNat).mem (deckByte k xf 0 0) (4 * xf.pages))) with
      pmg := { s.dev.pmg with buckets := l }, xfers := tset s.dev.xfers i { xf with remote := .served [] } } := by
  obtain ⟨l, hl⟩ := chargeBridge_eq (setTile s.dev xf.peer.toNat (tilePut (getTile s.dev xf.peer.toNat) (4 * xf.a1.toNat)
    (memGets (getTile s.dev xf.tile.toNat).mem (deckByte k xf 0 0) (4 * xf.pages)))) xf.cr.toNat xf.tile.toNat xf.peer.toNat (4 * xf.pages)
  refine ⟨l, ?_⟩
  have hgo : (decide (xf.kind ≠ .put) || decide (xf.remote ≠ .waiting) || earlierWrite s.dev xf.tile xf.peer xf.id) = false := by
    simp [hkind, hwaiting, hfirst]
  simp only [remoteWriteD, hxf, hgo, hrun, howns, hrange, hgate, winReadable_reads hr, memGets_length, hl]
  rfl

theorem remoteReadD_foreign (hxf : tfind s.dev.xfers i = some xf) (hwaiting : xf.remote = .waiting) (hkind : isRemoteRead xf.kind = true)
    (hfirst : earlierUnserved s.dev xf isRemoteRead = false) (howns : ownsTarget (getTile s.dev xf.peer.toNat) xf = false) :
    remoteReadD i .ok s.dev = trestleFault s.dev xf fXlatePerm 0 := by
  simp [remoteReadD, hxf, hwaiting, hkind, hfirst, applyEcc, howns]

theorem remoteWriteD_foreign (hxf : tfind s.dev.xfers i = some xf) (hwaiting : xf.remote = .waiting) (hkind : xf.kind = .put)
    (hfirst : earlierWrite s.dev xf.tile xf.peer xf.id = false) (howns : ownsTarget (getTile s.dev xf.peer.toNat) xf = false)
    (hrun : (getTile s.dev xf.tile.toNat).run.isSome = true) : remoteWriteD i s.dev = trestleFault s.dev xf fXlatePerm 0 := by
  obtain ⟨k, hk⟩ := Option.isSome_iff_exists.1 hrun
  simp [remoteWriteD, hxf, hwaiting, hkind, hfirst, howns, hk]

end

/-- Settles O14: a FETCH or PUT is one launch, and each part of it at its target one read or one write there. -/
theorem remoteAccess : Obligations.RemoteAccess := by
  refine ⟨fun s f x k w p isFetch a h hlow hpeer ha hroom hfree => ?issue, fun s i xf y hs hxf hwaiting hy =>
    ⟨fun hkind hfirst howns hfits hr => ?read, fun k us hkind hfirst howns hrun hrange hgate hr => ?write, fun hforeign => ?foreign⟩⟩
  case issue =>
    have hexec : exec (if isFetch then .fetch f else .put f) s = onDev s (remoteD f (if isFetch then 0x70 else 0x71) isFetch) := by
      cases isFetch <;> rfl
    have hremote := onDev_remote h hlow hpeer ha hroom hfree
    rw [scoredTile_eq, countedAt_sb] at hremote
    have hcounts : sameButCounts x (countedAt x isFetch a (fld w 28 14)).1 := by
      unfold countedAt
      split
      · exact countRange_counts _ _ _
      · exact ⟨rfl, fun _ => rfl⟩
    have hframe := congrArg (fun y : Tile => { y with sb := x.sb ++ scoreOf s.dev.nextX (bitOf w 24) isFetch [(a, fld w 28 14)] }) hcounts.1
    have hput : isFetch = false → (countedAt x isFetch a (fld w 28 14)).1.gates = x.gates := fun hfetch => by simp [countedAt, hfetch]
    exact ⟨_, _, hexec.trans hremote, hframe, hcounts.2, hput, rfl, rfl, ofNat_tile f.tile, rfl, rfl, rfl, rfl, fld_low_toNat _,
      Nat.mod_eq_of_lt (fld_lt _ 0 8), rfl⟩
  case read =>
    subst hy
    obtain ⟨l, hl⟩ := remoteReadD_ok hxf hwaiting hkind hfirst howns hfits hr
    refine ⟨_, onDev_next hl, rfl, ⟨rfl, rfl, fun u => ?_⟩, ?_⟩
    · exact congrArg Tile.mem (getTile_setTile_self s.dev xf.peer.toNat u)
    · exact (tfind_tset _ _ _ _).trans (if_pos rfl)
  case write =>
    subst hy
    obtain ⟨l, hl⟩ := remoteWriteD_ok hxf hwaiting hkind hfirst howns hrun hrange hgate hr
    have htile : ∀ u, getTile (remoteWriteD i s.dev) u = if u = xf.peer.toNat then tilePut (getTile s.dev xf.peer.toNat) (4 * xf.a1.toNat)
        (memGets (getTile s.dev xf.tile.toNat).mem (deckByte k xf 0 0) (4 * xf.pages)) else getTile s.dev u := fun u => by
      rw [hl]
      exact getTile_setTile ..
    obtain ⟨hread, hout, -⟩ := stored (getTile s.dev xf.peer.toNat) (4 * xf.a1.toNat)
      (memGets (getTile s.dev xf.tile.toNat).mem (deckByte k xf 0 0) (4 * xf.pages)) (safe_tile hs xf.peer.toNat)
    rw [memGets_length] at hread hout
    refine ⟨_, onDev_eq _ _, rfl, ⟨by rw [hl]; rfl, by rw [hl]; rfl, fun u hu => by rw [htile, if_neg hu]⟩, ?_, ?_, fun j hj => ?_⟩
    · rw [hl]
      exact (tfind_tset _ _ _ _).trans (if_pos rfl)
    · rw [htile, if_pos rfl, hread]
    · rw [htile, if_pos rfl, hout j hj]
  case foreign =>
    subst hy
    exact ⟨fun hkind hfirst => onDev_next (remoteReadD_foreign hxf hwaiting hkind hfirst hforeign),
      fun hkind hfirst hrun => onDev_next (remoteWriteD_foreign hxf hwaiting hkind hfirst hforeign hrun)⟩

end Sys2Proof.Machine

/-! PROOFS. Subscriptions and multicasts on the buffer table (R205, R213 to R218). -/

namespace Sys2Proof.Machine

theorem launch_fields (d : Dev) (t : Nat) (y : Tile) (k : Task) (xf : Xfer) : ∃ es, launch d t y k xf =
    { setTile d t { y with run := some k } with xfers := tset d.xfers xf.id xf, nextX := d.nextX + 1, engines := es } := by
  obtain ⟨es, hes⟩ := syncEngine_eq { setTile d t { y with run := some k } with xfers := tset d.xfers xf.id xf, nextX := d.nextX + 1 } t
  exact ⟨es, hes⟩

theorem chargeTree_eq (d : Dev) (cr t : Nat) (members : List BufRange) (n : Nat) :
    ∃ l, chargeTree d cr t members n = { d with pmg := { d.pmg with buckets := l } } := by
  unfold chargeTree
  split
  · exact chargeBridge_eq _ _ _ _ _
  · exact ⟨_, rfl⟩

theorem launch_chargeTree (d : Dev) (cr t : Nat) (members : List BufRange) (n : Nat) (y : Tile) (k : Task) (xf : Xfer) :
    ∃ es l, launch (chargeTree d cr t members n) t y k xf = { setTile d t { y with run := some k } with
      xfers := tset d.xfers xf.id xf, nextX := d.nextX + 1, engines := es, pmg := { d.pmg with buckets := l } } := by
  obtain ⟨l, hl⟩ := chargeTree_eq d cr t members n
  obtain ⟨es, hes⟩ := launch_fields (chargeTree d cr t members n) t y k xf
  exact ⟨es, l, by rw [hes, hl]; rfl⟩

theorem getBuf_tset (d : Dev) (p b : Nat) (x : Buf) : getBuf (setBuf d p b x) p b = x := tget_tset_same _ _ _ _

/-- A change of tile `t` that leaves its window as it was leaves every memory as it was. -/
theorem sameMem_of_tile {d d' : Dev} {t : Nat} {y : Tile} (hhost : d'.host = d.host) (hpier : d'.pier = d.pier)
    (htiles : d'.tiles = tset d.tiles t y) (hmem : y.mem = (getTile d t).mem) : sameMem d d' := by
  refine ⟨hhost, by rw [hpier], fun u => ?_⟩
  rw [getTile, htiles, tget_tset]
  split
  next hu => rw [hu, hmem]
  next => rfl

/-! ## The entry that a SUB meets (R214, R216, R218) -/

theorem nearestHolder_cons (t : Nat) (h : BufRange) (hs : List BufRange) : ∃ g, nearestHolder t (h :: hs) = some g := by
  refine Option.isSome_iff_exists.1 (foldl_keeps (P := fun o : Option BufRange => o.isSome = true) (fun o g ho => ?_) hs rfl)
  obtain ⟨g', rfl⟩ := Option.isSome_iff_exists.1 ho
  dsimp only
  split <;> rfl

/-- Whether a SUB reads an entry's data from a holder of it. -/
def readsHolder (b : Buf) : Prop := b.holders ≠ [] ∧ ((b.pier = true ∧ b.st = .held) ∨ (b.pier = false ∧ b.produced = true))

/-- What a SUB makes of its entry and of its transfer. -/
structure SubOutcome (b : Buf) (xf : Xfer) (t w : Nat) (b' : Buf) (xf' : Xfer) : Prop where
  tag : xf'.tag = xf.tag
  tile : xf'.tile = xf.tile
  id : xf'.id = xf.id
  late : readsHolder b → ∃ h, nearestHolder t b.holders = some h ∧ xf'.kind = .lateSub ∧ xf'.peer = h.tile ∧ xf'.a1 = BitVec.ofNat 64 h.word
  early : ¬ readsHolder b → xf'.kind = xf.kind
  fill : b.pier = true → b.st = .idle ∨ (b.st = .held ∧ b.holders = []) → b'.st = .filling ∧
    b'.src = some { tile := BitVec.ofNat 8 t, word := w, xfer := xf.id, rel := false }
  join : (b.pier = true ∧ b.st = .filling) ∨ (b.pier = false ∧ b.produced = false) →
    b'.subs = b.subs ++ [{ tile := BitVec.ofNat 8 t, word := w, xfer := xf.id, rel := false }]

theorem resolveSub_ok {b : Buf} {xf : Xfer} {t w : Nat} (hheld : b.pier = false → b.produced = true → b.holders ≠ []) :
    ∃ b' xf', resolveSub b xf t w = .ok (b', xf') ∧ SubOutcome b xf t w b' xf' := by
  unfold resolveSub
  dsimp only
  cases hpier : b.pier with
  | true =>
    cases hst : b.st with
    | idle => exact ⟨_, _, rfl, by constructor <;> simp_all [readsHolder]⟩
    | filling => exact ⟨_, _, rfl, by constructor <;> simp_all [readsHolder]⟩
    | held =>
      cases hholders : b.holders with
      | nil => exact ⟨_, _, rfl, by constructor <;> simp_all [readsHolder]⟩
      | cons h hs =>
        obtain ⟨g, hg⟩ := nearestHolder_cons t h hs
        rw [hg]
        exact ⟨_, _, rfl, by constructor <;> simp_all [readsHolder]⟩
  | false =>
    cases hproduced : b.produced with
    | false => exact ⟨_, _, rfl, by constructor <;> simp_all [readsHolder]⟩
    | true =>
      obtain ⟨h, hs, hholders⟩ := List.exists_cons_of_ne_nil (hheld hpier hproduced)
      obtain ⟨g, hg⟩ := nearestHolder_cons t h hs
      rw [hholders, hg]
      exact ⟨_, _, rfl, by constructor <;> simp_all [readsHolder]⟩

/-! ## SUB and MCAST (R191, R218) -/

section
variable {s : State} {f : Fetch} {x : Tile} {k : Task} {w p : Word64} {a bt : Nat} {b : Buf}

/-- The transfer of a SUB before its entry is resolved. -/
def subXfer (d : Dev) (t : Nat) (k : Task) (w : Word64) (counted : List Nat) : Xfer :=
  { newXfer d .sub t k w (fld w 25 3) (fld w 28 14) false with
    a0 := getR k (fld w 51 5), buf := BitVec.ofNat 16 (fld w 0 16), counted := counted }

theorem exec_sub_held (h : atInstr s.dev f 0x72 none = some (x, k, w, p))
    (ha : deckOperand k (fld w 51 5) 0 (fld w 28 14) true = .ok a)
    (hbt : bt = bufTable (getCtx s.dev k.work.cr.toNat).part.toNat k.work.step)
    (hb : sizeBuf (getBuf s.dev bt (fld w 0 16)) (fld w 28 14) k.work.cr = .ok b)
    (hholds : ∃ h, h ∈ b.holders ∧ h.tile = f.tile ∧ h.word = a) :
    exec (.trestleSub f) s = .next (s.withTask f.tile x k) := by
  subst hbt
  have hany : b.holders.any (fun h => h.tile.toNat = f.tile.toNat && h.word = a) = true := by
    obtain ⟨r, hr, htile, hword⟩ := hholds
    exact List.any_eq_true.2 ⟨r, hr, by simp [htile, hword]⟩
  refine (onDev_seqStep (d2 := setTile (setTile s.dev f.tile.toNat x) f.tile.toNat { x with run := some k }) h ?_).trans ?_
  · dsimp only
    rw [ha, eff_ok_bind, getCtx_setTile, getBuf_setTile, hb, eff_ok_bind, if_pos hany]
  · rw [setTile_setTile]
    rfl

theorem onDev_sub (h : atInstr s.dev f 0x72 none = some (x, k, w, p)) (ha : deckOperand k (fld w 51 5) 0 (fld w 28 14) true = .ok a)
    (hbt : bt = bufTable (getCtx s.dev k.work.cr.toNat).part.toNat k.work.step)
    (hb : sizeBuf (getBuf s.dev bt (fld w 0 16)) (fld w 28 14) k.work.cr = .ok b)
    (hnew : ∀ h, h ∈ b.holders → ¬ (h.tile = f.tile ∧ h.word = a))
    (hroom : inFlight (setTile s.dev f.tile.toNat x) f.tile.toNat trestleClass < 16)
    (hfree : scoreFree x false true [(a, fld w 28 14)] = true) {b' : Buf} {xf : Xfer}
    (hresolve : resolveSub b (subXfer s.dev f.tile.toNat k w (countRange x (4 * a) (4 * fld w 28 14)).2) f.tile.toNat a = .ok (b', xf)) :
    exec (.trestleSub f) s = .next { s with
      dev := launch (setBuf (setTile s.dev f.tile.toNat x) bt (fld w 0 16) b') f.tile.toNat
        (sbAdd (countRange x (4 * a) (4 * fld w 28 14)).1 a (fld w 28 14) true (.xfer s.dev.nextX))
        { k with trTag := tset k.trTag (fld w 25 3) (tget k.trTag (fld w 25 3) 0 + 1) } xf } := by
  subst hbt
  have hany : b.holders.any (fun h => h.tile.toNat = f.tile.toNat && h.word = a) = false := by
    simpa [BitVec.toNat_inj] using hnew
  have hheld := scoreFree_free hfree
  have hsb := scoreFree_room hfree rfl
  simp only [List.any_cons, List.any_nil, Bool.or_false, List.length_singleton, Bool.not_false, Bool.true_and, if_true] at hheld hsb
  refine onDev_seqStep h ?_
  dsimp only
  rw [ha, eff_ok_bind, getCtx_setTile, getBuf_setTile, hb, eff_ok_bind, if_neg (by simp [hany]), decide_eq_false (Nat.not_le.2 hroom),
    holdIf_false, eff_ok_bind, hheld, holdIf_false, eff_ok_bind, hsb, eff_ok_bind]
  exact congrArg (· >>= _) hresolve

/-- The transfer of an MCAST. -/
def mcastXfer (d : Dev) (t : Nat) (k : Task) (w : Word64) : Xfer :=
  { newXfer d .mcast t k w (fld w 25 3) (fld w 28 14) false with a0 := getR k (fld w 51 5), buf := BitVec.ofNat 16 (fld w 0 16) }

/-- The entry of an MCAST: held by the range at word `a` of tile `t`, with its bytes due to the subscribers so far. -/
def mcastBuf (b : Buf) (t : TileId) (a i : Nat) (bs : List Byte) : Buf :=
  { b with
    produced := true, st := .held, sending := b.subs, subs := [], holders := [{ tile := t, word := a, xfer := i, rel := false }]
    src := some { tile := t, word := a, xfer := i, rel := false }, sentAt := i, data := bs }

theorem onDev_mcast (h : atInstr s.dev f 0x73 none = some (x, k, w, p))
    (ha : deckOperand k (fld w 51 5) 0 (fld w 28 14) false = .ok a)
    (hbt : bt = bufTable (getCtx s.dev k.work.cr.toNat).part.toNat k.work.step)
    (hpier : (getBuf s.dev bt (fld w 0 16)).pier = false) (hfirst : (getBuf s.dev bt (fld w 0 16)).produced = false)
    (hb : sizeBuf (getBuf s.dev bt (fld w 0 16)) (fld w 28 14) k.work.cr = .ok b)
    (hroom : inFlight (setTile s.dev f.tile.toNat x) f.tile.toNat trestleClass < 16) (hr : deckReadable x a (fld w 28 14) = true) :
    exec (.mcast f) s = .next { s with
      dev := launch (chargeTree (setBuf (setTile s.dev f.tile.toNat x) bt (fld w 0 16)
          (mcastBuf b f.tile a s.dev.nextX (memGets x.mem (4 * a) (4 * fld w 28 14)))) k.work.cr.toNat f.tile.toNat b.subs (4 * fld w 28 14))
        f.tile.toNat x { k with trTag := tset k.trTag (fld w 25 3) (tget k.trTag (fld w 25 3) 0 + 1) }
        (mcastXfer s.dev f.tile.toNat k w) } := by
  subst hbt
  obtain ⟨hheld, hread⟩ := deckReadable_reads hr
  refine onDev_seqStep h ?_
  dsimp only
  rw [ha, eff_ok_bind, getCtx_setTile, getBuf_setTile, hpier, hfirst, Bool.or_false, faultIf_false, eff_ok_bind, hb, eff_ok_bind,
    decide_eq_false (Nat.not_le.2 hroom), holdIf_false, eff_ok_bind, hheld, holdIf_false, eff_ok_bind, hread, eff_ok_bind, memGets_length,
    ofNat_tile]
  rfl

end

/-- Settles O15: a SUB resolves its entry once and is launched, an MCAST makes its tile the holder of its entry. -/
theorem distribution : Obligations.Distribution := by
  refine ⟨fun s f x k w p a bt b h ha hbt hb => ⟨exec_sub_held h ha hbt hb, fun hnew hroom hfree hheld => ?sub⟩,
    fun s f x k w p a bt b h ha hbt hpier hfirst hb hroom hr => ?mcast⟩
  case sub =>
    obtain ⟨b', xf, hresolve, ho⟩ := resolveSub_ok (xf := subXfer s.dev f.tile.toNat k w (countRange x (4 * a) (4 * fld w 28 14)).2)
      (t := f.tile.toNat) (w := a) hheld
    have hexec := onDev_sub h ha hbt hb hnew hroom hfree hresolve
    obtain ⟨es, hes⟩ := launch_fields (setBuf (setTile s.dev f.tile.toNat x) bt (fld w 0 16) b') f.tile.toNat
      (sbAdd (countRange x (4 * a) (4 * fld w 28 14)).1 a (fld w 28 14) true (.xfer s.dev.nextX))
      { k with trTag := tset k.trTag (fld w 25 3) (tget k.trTag (fld w 25 3) 0 + 1) } xf
    rw [hes] at hexec
    have hbuf := getBuf_tset (setTile s.dev f.tile.toNat x) bt (fld w 0 16) b'
    have hmem := congrArg Tile.mem (countRange_counts x (4 * a) (4 * fld w 28 14)).1
    refine ⟨_, hexec, rfl, sameMem_of_tile rfl rfl (tset_tset ..) (Eq.trans hmem (atInstr_mem h)), ⟨xf, ?_, ho.tag,
      ho.tile.trans (ofNat_tile f.tile), ?_⟩, fun hp hst => ?_, fun hj => ?_⟩
    · exact (tfind_tset _ _ _ _).trans (if_pos ho.id.symm)
    · split
      next hreads => exact ho.late hreads
      next hreads => exact ho.early hreads
    · have hfill := ho.fill hp hst
      rw [ofNat_tile] at hfill
      exact ⟨(congrArg Buf.st hbuf).trans hfill.1, (congrArg Buf.src hbuf).trans hfill.2⟩
    · have hjoin := ho.join hj
      rw [ofNat_tile] at hjoin
      exact (congrArg Buf.subs hbuf).trans hjoin
  case mcast =>
    have hexec := onDev_mcast h ha hbt hpier hfirst hb hroom hr
    obtain ⟨es, l, hes⟩ := launch_chargeTree (setBuf (setTile s.dev f.tile.toNat x) bt (fld w 0 16)
        (mcastBuf b f.tile a s.dev.nextX (memGets x.mem (4 * a) (4 * fld w 28 14)))) k.work.cr.toNat f.tile.toNat b.subs (4 * fld w 28 14) x
      { k with trTag := tset k.trTag (fld w 25 3) (tget k.trTag (fld w 25 3) 0 + 1) } (mcastXfer s.dev f.tile.toNat k w)
    rw [hes] at hexec
    have hmem := atInstr_mem h
    refine ⟨_, hexec, rfl, sameMem_of_tile rfl rfl (tset_tset ..) hmem, ⟨mcastXfer s.dev f.tile.toNat k w, ?_, rfl, rfl,
      ofNat_tile f.tile⟩, ?_⟩
    · exact (tfind_tset _ _ _ _).trans (if_pos rfl)
    · exact getBuf_tset _ _ _ _

end Sys2Proof.Machine

/-! PROOFS. Pages of a Slide transfer: demanded, run ahead, and the transfer's end (R129, R149, R190, R259, R425, R427). -/

namespace Sys2Proof.Machine

/-! ## What moves beside a page: counts, marks, caches, links -/

/-- A device whose memories, transfers, buffers, steps, faults and contexts are those of another, and whose tiles differ at most in
gates and error marks. -/
structure SameCore (d d' : Dev) : Prop where
  host : d'.host = d.host
  pier : d'.pier.mem = d.pier.mem
  xfers : d'.xfers = d.xfers
  nextX : d'.nextX = d.nextX
  bufs : d'.bufs = d.bufs
  cox : d'.cox = d.cox
  flt : d'.flt = d.flt
  ctxs : d'.pmg.ctxs = d.pmg.ctxs
  tile : ∀ u, { getTile d' u with gates := (getTile d u).gates, bad := (getTile d u).bad, fixups := (getTile d u).fixups } = getTile d u

namespace SameCore

theorem refl (d : Dev) : SameCore d d := ⟨rfl, rfl, rfl, rfl, rfl, rfl, rfl, rfl, fun _ => rfl⟩

theorem trans {a b c : Dev} (hab : SameCore a b) (hbc : SameCore b c) : SameCore a c where
  host := hbc.host.trans hab.host
  pier := hbc.pier.trans hab.pier
  xfers := hbc.xfers.trans hab.xfers
  nextX := hbc.nextX.trans hab.nextX
  bufs := hbc.bufs.trans hab.bufs
  cox := hbc.cox.trans hab.cox
  flt := hbc.flt.trans hab.flt
  ctxs := hbc.ctxs.trans hab.ctxs
  tile := fun u => by
    have hback := congrArg (fun y : Tile => { y with gates := (getTile a u).gates, bad := (getTile a u).bad, fixups := (getTile a u).fixups })
      (hbc.tile u)
    exact Eq.trans hback (hab.tile u)

variable {d d' : Dev}

theorem mem (h : SameCore d d') (u : Nat) : (getTile d' u).mem = (getTile d u).mem := by
  have := congrArg Tile.mem (h.tile u)
  exact this

theorem run (h : SameCore d d') (u : Nat) : (getTile d' u).run = (getTile d u).run := by
  have := congrArg Tile.run (h.tile u)
  exact this

theorem sb (h : SameCore d d') (u : Nat) : (getTile d' u).sb = (getTile d u).sb := by
  have := congrArg Tile.sb (h.tile u)
  exact this

theorem sameMem (h : SameCore d d') : sameMem d d' := ⟨h.host, h.pier, h.mem⟩

theorem setTile {t : Nat} {y : Tile} (hy : { y with gates := (getTile d t).gates, bad := (getTile d t).bad, fixups := (getTile d t).fixups } =
    getTile d t) : SameCore d (setTile d t y) where
  host := rfl
  pier := rfl
  xfers := rfl
  nextX := rfl
  bufs := rfl
  cox := rfl
  flt := rfl
  ctxs := rfl
  tile := fun u => by
    rw [getTile_setTile]
    split
    next hu => rw [hu]; exact hy
    next => rfl

theorem foldl {α : Type} {f : Dev → α → Dev} (hf : ∀ d a, SameCore d (f d a)) (l : List α) : SameCore d (l.foldl f d) :=
  foldl_keeps (P := SameCore d) (fun _ a h => h.trans (hf _ a)) l (refl d)

end SameCore

theorem setLink_core (d : Dev) (k : Nat) (x : Link) : SameCore d (setLink d k x) := ⟨rfl, rfl, rfl, rfl, rfl, rfl, rfl, rfl, fun _ => rfl⟩
theorem setTlb_core (d : Dev) (e : Nat) (x : Tlb) : SameCore d (setTlb d e x) := ⟨rfl, rfl, rfl, rfl, rfl, rfl, rfl, rfl, fun _ => rfl⟩
theorem linkPass_core (d : Dev) (a n : Nat) : SameCore d (linkPass d a n) := SameCore.foldl (fun d k => setLink_core d k _) _

theorem passVa_core (d : Dev) (cr : Nat) (mdl : Option Nat) (va n : Nat) (write : Bool) : SameCore d (passVa d cr mdl va n write) := by
  unfold passVa
  split
  · exact linkPass_core _ _ _
  · exact .refl d

theorem charge_core (d : Dev) (p i n : Nat) (be : Bool) : SameCore d (charge d p i n be) := by
  unfold charge
  split
  · exact ⟨rfl, rfl, rfl, rfl, rfl, rfl, rfl, rfl, fun _ => rfl⟩
  · exact .refl d

theorem chargeCtx_core (d : Dev) (cr i n : Nat) : SameCore d (chargeCtx d cr i n) := charge_core _ _ _ _ _

theorem chargeRead_core (d : Dev) (cr va n : Nat) : SameCore d (chargeRead d cr va n) := by
  unfold chargeRead
  split
  · exact chargeCtx_core _ _ _ _
  · split
    · exact chargeCtx_core _ _ _ _
    · exact .refl d

theorem walkTlb_core (d : Dev) (e cr : Nat) (l : Leaf) : SameCore d (walkTlb d e cr l) := (chargeCtx_core _ _ _ _).trans (setTlb_core _ _ _)

theorem touchTlb_core (d : Dev) (e cr : Nat) (mdl : Option Nat) (va : Nat) (write : Bool) : SameCore d (touchTlb d e cr mdl va write) := by
  unfold touchTlb
  split
  · exact .refl d
  · exact .refl d
  · dsimp only
    split
    · exact setTlb_core _ _ _
    · split
      · exact .refl d
      · split
        · exact (walkTlb_core _ _ _ _).trans (setTlb_core _ _ _)
        · exact setTlb_core _ _ _

theorem touchPage_core (d : Dev) (xf : Xfer) (mdl : Option Nat) (i : Nat) : SameCore d (touchPage d xf mdl i) :=
  SameCore.foldl (fun _ _ => touchTlb_core _ _ _ _ _ _) _

theorem setReg_core (d : Dev) (a : Nat) (v : Word64) : SameCore d (setReg d a v) := ⟨rfl, rfl, rfl, rfl, rfl, rfl, rfl, rfl, fun _ => rfl⟩

theorem withdrawFrame_core (d : Dev) (w : Nat) : SameCore d (withdrawFrame d w) := by
  unfold withdrawFrame
  dsimp only
  split
  · exact .refl d
  · have hlist : SameCore d { d with pier := { d.pier with withdrawn := 16 * w / 65536 :: d.pier.withdrawn } } :=
      ⟨rfl, rfl, rfl, rfl, rfl, rfl, rfl, rfl, fun _ => rfl⟩
    split
    · exact hlist.trans (setReg_core _ _ _)
    · exact hlist.trans (setReg_core _ _ _)

theorem applyEcc_core (x : Tile) (e : Ecc) :
    { applyEcc x e with gates := x.gates, bad := x.bad, fixups := x.fixups } = x := by cases e <;> rfl

theorem pageEcc_core (d : Dev) (xf : Xfer) (e : Ecc) : SameCore d (pageEcc d xf e) := by
  cases e with
  | ok => exact .refl d
  | corrected w =>
    unfold pageEcc
    dsimp only
    split
    · exact SameCore.setTile (applyEcc_core _ _)
    · exact .refl d
  | uncorrectable w =>
    unfold pageEcc
    dsimp only
    split
    · exact SameCore.setTile (applyEcc_core _ _)
    · refine SameCore.trans ?_ (withdrawFrame_core _ _)
      exact ⟨rfl, rfl, rfl, rfl, rfl, rfl, rfl, rfl, fun _ => rfl⟩

theorem syncEngineAs_core (d : Dev) (e : Nat) (st : EngState) : SameCore d (syncEngineAs d e st) := by
  obtain ⟨es, hes⟩ := syncEngineAs_eq d e st
  rw [hes]
  exact ⟨rfl, rfl, rfl, rfl, rfl, rfl, rfl, rfl, fun _ => rfl⟩

theorem syncEngines_core (d : Dev) (es : Tbl Engine) : SameCore d { d with engines := es } :=
  ⟨rfl, rfl, rfl, rfl, rfl, rfl, rfl, rfl, fun _ => rfl⟩

theorem syncEngine_core (d : Dev) (t : Nat) : SameCore d (syncEngine d t) := syncEngineAs_core _ _ _

/-! ## Counts of gate units (R149) -/

/-- A tile that differs from another at most in its gates. -/
def sameButGates (x y : Tile) : Prop := { y with gates := x.gates } = x

theorem sameButGates.trans {x y z : Tile} (hxy : sameButGates x y) (hyz : sameButGates y z) : sameButGates x z := by
  have hback := congrArg (fun v : Tile => { v with gates := x.gates }) hyz
  exact Eq.trans hback hxy

theorem sameButGates.core {x y : Tile} (h : sameButGates x y) : { y with gates := x.gates, bad := x.bad, fixups := x.fixups } = x := by
  have hback := congrArg (fun v : Tile => { v with bad := x.bad, fixups := x.fixups }) h
  exact hback

theorem uncount_gates (x : Tile) (us : List Nat) : sameButGates x (uncount x us) :=
  foldl_keeps (P := sameButGates x) (f := fun x u => { x with gates := tset x.gates u (unitDrained { gateOf x u with dma := (gateOf x u).dma - 1 }) })
    (fun _ _ h => h.trans rfl) us rfl

theorem uncountOut_core (d : Dev) (us : List (Nat × Nat)) : SameCore d (uncountOut d us) :=
  SameCore.foldl (fun _ _ => SameCore.setTile (uncount_gates _ _).core) us

/-- A transfer that differs from another at most in the units that it counts. -/
def sameButUnits (xf xf' : Xfer) : Prop := { xf' with counted := xf.counted, outCount := xf.outCount } = xf

theorem sameButUnits.trans {a b c : Xfer} (hab : sameButUnits a b) (hbc : sameButUnits b c) : sameButUnits a c := by
  have hback := congrArg (fun v : Xfer => { v with counted := a.counted, outCount := a.outCount }) hbc
  exact Eq.trans hback hab

theorem countPage_same (x : Tile) (k : Task) (xf : Xfer) (i : Nat) :
    sameButGates x (countPage x k xf i).1 ∧ sameButUnits xf (countPage x k xf i).2 := by
  refine foldl_keeps (P := fun p : Tile × Xfer => sameButGates x p.1 ∧ sameButUnits xf p.2) (fun p u hp => ?_) _ ⟨rfl, rfl⟩
  dsimp only
  split
  · exact hp
  · exact ⟨hp.1.trans rfl, hp.2.trans rfl⟩

theorem countOut_same (d : Dev) (xf : Xfer) (i : Nat) : SameCore d (countOut d xf i).1 ∧ sameButUnits xf (countOut d xf i).2 := by
  refine foldl_keeps (P := fun p : Dev × Xfer => SameCore d p.1 ∧ sameButUnits xf p.2) (fun p u hp => ?_) _ ⟨.refl d, rfl⟩
  dsimp only
  split
  · exact hp
  · exact ⟨hp.1.trans (SameCore.setTile rfl), hp.2.trans rfl⟩

theorem countedPage_same (d : Dev) (xf : Xfer) (k : Task) (i : Nat) :
    SameCore d (countedPage d xf k i).1 ∧ sameButUnits xf (countedPage d xf k i).2 := by
  unfold countedPage
  dsimp only
  split
  · obtain ⟨hgates, hunits⟩ := countPage_same (getTile d xf.tile.toNat) k xf i
    exact ⟨SameCore.setTile hgates.core, hunits⟩
  · exact countOut_same d xf i

theorem countOut_tiles (d : Dev) (xf : Xfer) (i : Nat) : ∃ ts, (countOut d xf i).1 = { d with tiles := ts } := by
  refine foldl_keeps (P := fun p : Dev × Xfer => ∃ ts, p.1 = { d with tiles := ts }) (fun p u hp => ?_) _ ⟨d.tiles, rfl⟩
  dsimp only
  split
  · exact hp
  · obtain ⟨ts, hts⟩ := hp
    exact ⟨_, by rw [hts]; rfl⟩

theorem countOut_counts (d : Dev) (xf : Xfer) (i t : Nat) : sameButCounts (getTile d t) (getTile (countOut d xf i).1 t) := by
  refine foldl_keeps (P := fun p : Dev × Xfer => sameButCounts (getTile d t) (getTile p.1 t)) (fun p u hp => ?_) _ ⟨rfl, fun _ => rfl⟩
  dsimp only
  split
  · exact hp
  · rw [getTile_setTile]
    split
    next ht => subst ht; exact hp.trans (setGate_counts _ _ _ rfl)
    next => exact hp

theorem winReadable_counts {x y : Tile} (h : sameButCounts x y) (off n : Nat) : winReadable y off n = winReadable x off n := by
  have hbad : y.bad = x.bad := (congrArg Tile.bad h.1 :)
  simp only [winReadable, anyGate, tileBad, h.2, hbad]

section
variable {xf xf' : Xfer}

theorem sameButUnits.fields (h : sameButUnits xf xf') : xf'.kind = xf.kind ∧ xf'.tile = xf.tile ∧ xf'.cr = xf.cr ∧ xf'.id = xf.id ∧
    xf'.next = xf.next ∧ dmaPages xf' = dmaPages xf ∧ ∀ k j o, deckByte k xf' j o = deckByte k xf j o :=
  ⟨(congrArg Xfer.kind h :), (congrArg Xfer.tile h :), (congrArg Xfer.cr h :), (congrArg Xfer.id h :), (congrArg Xfer.next h :),
    (congrArg dmaPages h :), fun k j o => (congrArg (fun x => deckByte k x j o) h :)⟩

/-! ## One piece of a DMA (R187, R425) -/

variable {d : Dev} {x : Tile} {k : Task} {mdl : Option Nat} {o va n a : Nat} {bs : List Byte}

theorem moveDma_in (hkind : xf.kind = .dmaIn) (hpage : (dmaPages xf).getD xf.next [] = [(o, va, n)])
    (hread : readVa d xf.cr.toNat mdl va n (.cache (engineOf xf.tile.toNat)) = .ok bs)
    (hgate : gateCheck x xf (deckByte k xf 0 o) n true = .ok ()) :
    moveDma d xf x k mdl = .ok (passVa (chargeRead (setTile d xf.tile.toNat (tilePut (getTile d xf.tile.toNat) (deckByte k xf 0 o) bs))
      xf.cr.toNat va n) xf.cr.toNat mdl va n false) := by
  unfold moveDma
  dsimp only
  rw [hpage, List.foldlM_cons, if_pos hkind, hread, hgate]
  rfl

theorem writePages_one (hx : xlate d xf.cr.toNat mdl va true (.cache (engineOf xf.tile.toNat)) = .ok (.pier a))
    (hlink : linkHeld d a bs.length = false) (hpos : 0 < bs.length) (hfits : va % 0x10000 + bs.length ≤ 0x10000) (counted : List (Nat × Nat)) :
    writePages d xf.cr.toNat mdl va bs counted (bs.length / 0x10000 + 2) (.cache (engineOf xf.tile.toNat)) =
      .ok (chargeCtx (pierPut d a bs) xf.cr.toNat 0 bs.length) := by
  have hne : bs ≠ [] := List.ne_nil_of_length_pos hpos
  have htake : bs.take (0x10000 - va % 0x10000) = bs := List.take_of_length_le (by omega)
  have hdrop : bs.drop (0x10000 - va % 0x10000) = [] := List.drop_of_length_le (by omega)
  have hpage : writePage d xf.cr.toNat mdl va bs counted (.cache (engineOf xf.tile.toNat)) =
      .ok (chargeCtx (pierPut d a bs) xf.cr.toNat 0 bs.length) := by
    simp [writePage, hx, holdsLink, hlink]
  have hrest : ∀ d' va' k', writePages d' xf.cr.toNat mdl va' [] counted k' (.cache (engineOf xf.tile.toNat)) = .ok d' := by
    intro d' va' k'
    cases k' <;> simp [writePages]
  rw [writePages, if_neg hne]
  dsimp only
  rw [htake, hdrop, hpage]
  exact hrest _ _ _

theorem moveDma_out (hkind : xf.kind = .dmaOut) (hpage : (dmaPages xf).getD xf.next [] = [(o, va, n)])
    (hr : winReadable (getTile d xf.tile.toNat) (deckByte k xf 0 o) n = true)
    (hx : xlate d xf.cr.toNat mdl va true (.cache (engineOf xf.tile.toNat)) = .ok (.pier a)) (hlink : linkHeld d a n = false)
    (hpos : 0 < n) (hfits : va % 0x10000 + n ≤ 0x10000) :
    moveDma d xf x k mdl = .ok (passVa (chargeCtx (pierPut d a (memGets (getTile d xf.tile.toNat).mem (deckByte k xf 0 o) n)) xf.cr.toNat 0 n)
      xf.cr.toNat mdl va n true) := by
  have hwrite := writePages_one (bs := memGets (getTile d xf.tile.toNat).mem (deckByte k xf 0 o) n) hx (by rwa [memGets_length])
    (by rwa [memGets_length]) (by rwa [memGets_length]) xf.outCount
  unfold moveDma
  dsimp only
  rw [hpage, List.foldlM_cons, if_neg (by simp [hkind]), winReadable_reads hr]
  rw [memGets_length] at hwrite
  simp only [ofEff, memGets_length, bind, Except.bind, hwrite]
  rfl

end

theorem movePage_dma {d : Dev} {xf : Xfer} {x : Tile} {k : Task} (hkind : xf.kind = .dmaIn ∨ xf.kind = .dmaOut) :
    movePage d xf x k = moveDma d xf x k (stepModel d xf.cr.toNat k.work.step) := by
  obtain h | h := hkind <;> simp only [movePage, h]

/-! ## A page is done (R425) -/

/-- A transfer whose page has moved: its next page is demanded, and it counts the units that are left. -/
def movedXfer (xf : Xfer) (k : Task) : Xfer :=
  { xf with
    next := xf.next + 1, ahead := xf.ahead.filter (fun p => xf.next + 1 < p.1)
    counted := xf.counted.filter (fun u => (unitsLeft k xf (xf.next + 1)).contains u)
    outCount := xf.outCount.filter (fun p => (outLeft xf (xf.next + 1)).contains p) }

theorem pageMoved_eq (d : Dev) (xf : Xfer) (k : Task) : ∃ d' z, SameCore d d' ∧ pageMoved d xf k = { d' with xfers := tset d.xfers xf.id z } ∧
    z.next = xf.next + 1 := by
  have htile : SameCore d (setTile d xf.tile.toNat (uncount (getTile d xf.tile.toNat)
      (xf.counted.filter (fun u => !(unitsLeft k xf (xf.next + 1)).contains u)))) := SameCore.setTile (uncount_gates _ _).core
  have hout := uncountOut_core (setTile d xf.tile.toNat (uncount (getTile d xf.tile.toNat)
      (xf.counted.filter (fun u => !(unitsLeft k xf (xf.next + 1)).contains u))))
    (xf.outCount.filter (fun p => !(outLeft xf (xf.next + 1)).contains p))
  refine ⟨_, movedXfer xf k, htile.trans hout, ?_, rfl⟩
  rw [← (htile.trans hout).xfers]
  rfl

/-- The device after a page of transfer `i` has moved: everything but the transfer's own place as the move left it. -/
theorem demand_done {d : Dev} {xf xf1 : Xfer} {mdl : Option Nat} (k : Task) :
    ∃ u z, syncEngine (pageMoved (touchPage d xf mdl xf.next) xf1 k) xf.tile.toNat = u ∧ u.host = d.host ∧ u.pier.mem = d.pier.mem ∧
      (∀ t, (getTile u t).mem = (getTile d t).mem) ∧ u.xfers = tset d.xfers xf1.id z ∧ z.next = xf1.next + 1 := by
  have htouch := touchPage_core d xf mdl xf.next
  obtain ⟨d', z, hcore, hmoved, hnext⟩ := pageMoved_eq (touchPage d xf mdl xf.next) xf1 k
  obtain ⟨es, hes⟩ := syncEngine_eq (pageMoved (touchPage d xf mdl xf.next) xf1 k) xf.tile.toNat
  have hall := htouch.trans hcore
  rw [hes, hmoved, htouch.xfers]
  exact ⟨_, z, rfl, hall.host, hall.pier, hall.mem, rfl, hnext⟩

/-! ## A demanded page (R425, R427) -/

section
variable {s : State} {i : Nat} {xf xf1 : Xfer} {k : Task} {y : Tile} {o va n a : Nat} {bs : List Byte}

theorem demandD_ok {d1 d2 : Dev} (hxf : tfind s.dev.xfers i = some xf) (hrun : (getTile s.dev xf.tile.toNat).run = some k)
    (hmay : mayMove s.dev xf = true) (hheld : pageHeld k xf = false) (hcount : countedPage s.dev xf k xf.next = (d1, xf1))
    (hmove : movePage d1 xf1 (getTile d1 xf.tile.toNat) k = .ok d2) :
    demandD i .ok s.dev =
      syncEngine (pageMoved (touchPage d2 xf (stepModel s.dev xf.cr.toNat k.work.step) xf.next) xf1 k) xf.tile.toNat := by
  simp [demandD, hxf, hrun, hmay, hheld, pageEcc, hcount, hmove]

theorem demand_in (hxf : tfind s.dev.xfers i = some xf) (hid : xf.id = i) (hrun : (getTile s.dev xf.tile.toNat).run = some k)
    (hmay : mayMove s.dev xf = true) (hheld : pageHeld k xf = false) (hpage : (dmaPages xf).getD xf.next [] = [(o, va, n)])
    (hkind : xf.kind = .dmaIn) (hcount : countPage (getTile s.dev xf.tile.toNat) k xf xf.next = (y, xf1))
    (hread : readVa (setTile s.dev xf.tile.toNat y) xf.cr.toNat (stepModel s.dev xf.cr.toNat k.work.step) va n
      (.cache (engineOf xf.tile.toNat)) = .ok bs)
    (hgate : gateCheck y xf1 (deckByte k xf 0 o) n true = .ok ()) :
    ∃ u z, demandD i .ok s.dev = u ∧ u.host = s.dev.host ∧ u.pier.mem = s.dev.pier.mem ∧
      (∀ t, (getTile u t).mem = if t = xf.tile.toNat then (tilePut y (deckByte k xf 0 o) bs).mem else (getTile s.dev t).mem) ∧
      tfind u.xfers i = some z ∧ z.next = xf.next + 1 := by
  have hunits : sameButUnits xf xf1 := by
    have := (countPage_same (getTile s.dev xf.tile.toNat) k xf xf.next).2
    rwa [hcount] at this
  obtain ⟨hkind1, htile1, hcr1, hid1, hnext1, hpages1, hbyte1⟩ := hunits.fields
  have hcounted : countedPage s.dev xf k xf.next = (setTile s.dev xf.tile.toNat y, xf1) := by
    simp [countedPage, intoDeck, hkind, hcount]
  have hmove := (movePage_dma (d := setTile s.dev xf.tile.toNat y) (x := y) (k := k) (.inl (hkind1.trans hkind))).trans
    (moveDma_in (hkind1.trans hkind) (by rw [hpages1, hnext1, hpage]) (by rw [hcr1, htile1]; exact hread) (by rw [hbyte1]; exact hgate))
  rw [htile1, hbyte1, getTile_setTile_same, setTile_setTile] at hmove
  obtain ⟨u, z, hu, hhost, hpier, hmem, hxfers, hz⟩ := demand_done (xf := xf) (xf1 := xf1) (mdl := stepModel s.dev xf.cr.toNat k.work.step)
    (d := passVa (chargeRead (setTile s.dev xf.tile.toNat (tilePut y (deckByte k xf 0 o) bs)) xf1.cr.toNat va n) xf1.cr.toNat
      (stepModel (setTile s.dev xf.tile.toNat y) xf1.cr.toNat k.work.step) va n false) k
  have hcore := (chargeRead_core (setTile s.dev xf.tile.toNat (tilePut y (deckByte k xf 0 o) bs)) xf1.cr.toNat va n).trans
    (passVa_core _ xf1.cr.toNat (stepModel (setTile s.dev xf.tile.toNat y) xf1.cr.toNat k.work.step) va n false)
  refine ⟨u, z, (demandD_ok hxf hrun hmay hheld hcounted (by rw [getTile_setTile_same]; exact hmove)).trans hu, hhost.trans hcore.host, hpier.trans hcore.pier, fun t => ?_, ?_,
    hz.trans (by rw [hnext1])⟩
  · rw [hmem, hcore.mem, getTile_setTile]
    split <;> rfl
  · rw [hxfers, hid1, hid, tfind_tset, if_pos rfl]

theorem demand_out (hxf : tfind s.dev.xfers i = some xf) (hid : xf.id = i) (hrun : (getTile s.dev xf.tile.toNat).run = some k)
    (hmay : mayMove s.dev xf = true) (hheld : pageHeld k xf = false) (hpage : (dmaPages xf).getD xf.next [] = [(o, va, n)])
    (hkind : xf.kind = .dmaOut) (hr : winReadable (getTile s.dev xf.tile.toNat) (deckByte k xf 0 o) n = true) (hpos : 0 < n)
    (hfits : va % 0x10000 + n ≤ 0x10000)
    (hx : xlate s.dev xf.cr.toNat (stepModel s.dev xf.cr.toNat k.work.step) va true (.cache (engineOf xf.tile.toNat)) = .ok (.pier a))
    (hlink : linkHeld s.dev a n = false) :
    ∃ u z, demandD i .ok s.dev = u ∧ u.host = s.dev.host ∧ (∀ t, (getTile u t).mem = (getTile s.dev t).mem) ∧
      u.pier.mem = memPuts s.dev.pier.mem a (memGets (getTile s.dev xf.tile.toNat).mem (deckByte k xf 0 o) n) ∧
      tfind u.xfers i = some z ∧ z.next = xf.next + 1 := by
  obtain ⟨hcore0, hunits⟩ := countOut_same s.dev xf xf.next
  obtain ⟨ts, hts⟩ := countOut_tiles s.dev xf xf.next
  generalize hxf1 : (countOut s.dev xf xf.next).2 = xf1 at hunits
  obtain ⟨hkind1, htile1, hcr1, hid1, hnext1, hpages1, hbyte1⟩ := hunits.fields
  have hcounts := countOut_counts s.dev xf xf.next xf.tile.toNat
  rw [hts] at hcore0 hcounts
  have hcounted : countedPage s.dev xf k xf.next = ({ s.dev with tiles := ts }, xf1) := by
    have hkindOut : intoDeck xf.kind = false := by rw [hkind]; rfl
    rw [countedPage, hkindOut, if_neg Bool.false_ne_true, ← hts, ← hxf1]
  have hmem : (getTile { s.dev with tiles := ts } xf1.tile.toNat).mem = (getTile s.dev xf.tile.toNat).mem := by
    rw [htile1]
    exact hcore0.mem _
  have hmove := (movePage_dma (d := { s.dev with tiles := ts }) (x := getTile { s.dev with tiles := ts } xf.tile.toNat) (k := k)
    (.inr (hkind1.trans hkind))).trans (moveDma_out (a := a) (hkind1.trans hkind) (by rw [hpages1, hnext1, hpage])
      (by rw [hbyte1, htile1, winReadable_counts hcounts]; exact hr) (by rw [hcr1, htile1]; exact hx) hlink hpos hfits)
  rw [hmem, hbyte1] at hmove
  obtain ⟨u, z, hu, hhost, hpier, hmemu, hxfers, hz⟩ := demand_done (xf := xf) (xf1 := xf1) (mdl := stepModel s.dev xf.cr.toNat k.work.step)
    (d := passVa (chargeCtx (pierPut { s.dev with tiles := ts } a (memGets (getTile s.dev xf.tile.toNat).mem (deckByte k xf 0 o) n))
      xf1.cr.toNat 0 n) xf1.cr.toNat (stepModel { s.dev with tiles := ts } xf1.cr.toNat k.work.step) va n true) k
  have hcore := (chargeCtx_core (pierPut { s.dev with tiles := ts } a (memGets (getTile s.dev xf.tile.toNat).mem (deckByte k xf 0 o) n))
    xf1.cr.toNat 0 n).trans
    (passVa_core _ xf1.cr.toNat (stepModel { s.dev with tiles := ts } xf1.cr.toNat k.work.step) va n true)
  refine ⟨u, z, (demandD_ok hxf hrun hmay hheld hcounted hmove).trans hu, hhost.trans hcore.host, fun t => ?_,
    hpier.trans hcore.pier, ?_, hz.trans (by rw [hnext1])⟩
  · rw [hmemu, hcore.mem]
    exact hcore0.mem t
  · rw [hxfers, hid1, hid, tfind_tset, if_pos rfl]

end

/-! ## A page run ahead (R259, R425) -/

theorem runAheadD_ok {d : Dev} {i : Nat} {xf : Xfer} {k : Task} {ecc : Ecc} (hxf : tfind d.xfers i = some xf)
    (hrun : (getTile d xf.tile.toNat).run = some k) (hmay : mayMove d xf = true)
    (hheld : pageHeld k { xf with next := xf.next + 1 + xf.ahead.length } = false) (hpages : xf.next + 1 + xf.ahead.length < xf.pages)
    (hahead : xf.ahead.length < runAhead d) :
    ∃ d' ok z, SameCore d d' ∧ runAheadD i ecc d = { d' with xfers := tset d.xfers i z } ∧ z.next = xf.next ∧
      z.ahead = xf.ahead ++ [(xf.next + 1 + xf.ahead.length, ok)] := by
  have hguard : (!mayMove d xf || pageHeld k { xf with next := xf.next + 1 + xf.ahead.length } || decide (xf.pages ≤ xf.next + 1 + xf.ahead.length) ||
      decide (runAhead d ≤ xf.ahead.length)) = false := by
    simp only [hmay, hheld, Bool.not_true, Bool.false_or, Bool.or_eq_false_iff, decide_eq_false_iff_not]
    omega
  have hecc := pageEcc_core d xf ecc
  obtain ⟨hcount, hunits⟩ := countedPage_same (pageEcc d xf ecc) xf k (xf.next + 1 + xf.ahead.length)
  have htouch := (hecc.trans hcount).trans (touchPage_core _ xf (stepModel d xf.cr.toNat k.work.step) (xf.next + 1 + xf.ahead.length))
  unfold runAheadD
  simp only [hxf, hrun]
  rw [if_neg (by rw [hguard]; exact Bool.false_ne_true)]
  split
  · obtain ⟨es, hes⟩ := syncEngine_eq { touchPage (countedPage (pageEcc d xf ecc) xf k (xf.next + 1 + xf.ahead.length)).1 xf
      (stepModel d xf.cr.toNat k.work.step) (xf.next + 1 + xf.ahead.length) with
        xfers := tset (touchPage (countedPage (pageEcc d xf ecc) xf k (xf.next + 1 + xf.ahead.length)).1 xf
          (stepModel d xf.cr.toNat k.work.step) (xf.next + 1 + xf.ahead.length)).xfers i
          { (countedPage (pageEcc d xf ecc) xf k (xf.next + 1 + xf.ahead.length)).2 with
            ahead := xf.ahead ++ [(xf.next + 1 + xf.ahead.length, true)] } } xf.tile.toNat
    rw [hes, htouch.xfers]
    obtain ⟨-, -, -, -, hnext, -, -⟩ := hunits.fields
    exact ⟨_, true, _, htouch.trans (syncEngines_core _ es), rfl, hnext, rfl⟩
  · obtain ⟨es, hes⟩ := syncEngineAs_eq { pageEcc d xf ecc with
        xfers := tset (pageEcc d xf ecc).xfers i { xf with ahead := xf.ahead ++ [(xf.next + 1 + xf.ahead.length, false)] } }
      (engineOf xf.tile.toNat) .squashing
    rw [hes, hecc.xfers]
    exact ⟨_, false, _, hecc.trans (syncEngines_core _ es), rfl, rfl, rfl⟩

/-! ## The end of a transfer (R129, R190) -/

/-- The task after one of its transfers has ended: the count of the transfer's tag is one lower (R190, R191). -/
def tagLowered (k : Task) (tag : Nat) (trestle : Bool) : Task :=
  if trestle then { k with trTag := tagDown k.trTag tag } else { k with dmaTag := tagDown k.dmaTag tag }

theorem tget_tagDown (tags : Tbl Nat) (tag n : Nat) : tget (tagDown tags tag) n 0 = if n = tag then tget tags n 0 - 1 else tget tags n 0 := by
  rw [tagDown, tget_tset]
  split
  next h => rw [h]
  next => rfl

/-- The device after a transfer has ended: its entries and its count are gone, and it is out of flight. -/
theorem endXfer_eq {d : Dev} {xf : Xfer} {k : Task} (b : Bool) (hxf : tfind d.xfers xf.id = some xf)
    (hrun : (getTile d xf.tile.toNat).run = some k) :
    ∃ d', SameCore (setTile d xf.tile.toNat { sbDel (getTile d xf.tile.toNat) (.xfer xf.id) with run := some (tagLowered k xf.tag b) }) d' ∧
      endXfer d xf b = { d' with xfers := tdel d.xfers xf.id } := by
  have hmap : (sbDel (getTile d xf.tile.toNat) (.xfer xf.id)).run.map (fun k =>
      if b then { k with trTag := tagDown k.trTag xf.tag } else { k with dmaTag := tagDown k.dmaTag xf.tag }) =
      some (tagLowered k xf.tag b) := by
    have : (sbDel (getTile d xf.tile.toNat) (.xfer xf.id)).run = some k := hrun
    rw [this]
    rfl
  unfold endXfer
  dsimp only
  rw [hmap]
  have hfind : tfind (setTile d xf.tile.toNat { sbDel (getTile d xf.tile.toNat) (.xfer xf.id) with
      run := some (tagLowered k xf.tag b) }).xfers xf.id = some xf := hxf
  simp only [dropXfer, hfind]
  have hcore := (SameCore.setTile (d := setTile d xf.tile.toNat { sbDel (getTile d xf.tile.toNat) (.xfer xf.id) with
    run := some (tagLowered k xf.tag b) }) (t := xf.tile.toNat) (uncount_gates _ xf.counted).core).trans (uncountOut_core _ xf.outCount)
  exact ⟨_, hcore, by rw [hcore.xfers]; rfl⟩

theorem safe_host {s : State} (h : s.safe = true) : Memory.wf s.dev.host = true := by
  simp only [State.safe, Bool.and_eq_true] at h
  exact h.1.1

theorem safe_pier {s : State} (h : s.safe = true) : Memory.wf s.dev.pier.mem = true := by
  simp only [State.safe, Bool.and_eq_true] at h
  exact h.1.2

theorem dmaDoneD_ok {d : Dev} {xf : Xfer} {k : Task} (hxf : tfind d.xfers xf.id = some xf) (hrun : (getTile d xf.tile.toNat).run = some k)
    (hclass : dmaClass xf.kind = true) (hpages : xf.pages ≤ xf.next) :
    ∃ u, dmaDoneD xf.id d = u ∧ sameMem d u ∧ u.xfers = tdel d.xfers xf.id ∧
      (getTile u xf.tile.toNat).run = some (tagLowered k xf.tag false) ∧
      (getTile u xf.tile.toNat).sb = (getTile d xf.tile.toNat).sb.filter (fun e => e.owner ≠ .xfer xf.id) := by
  obtain ⟨d', hcore, hend⟩ := endXfer_eq false hxf hrun
  obtain ⟨es, hes⟩ := syncEngine_eq (endXfer d xf false) xf.tile.toNat
  have hdone : dmaDoneD xf.id d = syncEngine (endXfer d xf false) xf.tile.toNat := by simp [dmaDoneD, hxf, hclass, hpages]
  rw [hend] at hes hdone
  refine ⟨_, hdone.trans hes, ⟨hcore.host, hcore.pier, fun t => (hcore.mem t).trans ?_⟩, rfl, ?_, ?_⟩
  · rw [getTile_setTile]
    split
    next h => rw [h]; rfl
    next => rfl
  · refine (hcore.run xf.tile.toNat).trans ?_
    rw [getTile_setTile_same]
  · refine (hcore.sb xf.tile.toNat).trans ?_
    rw [getTile_setTile_same]
    rfl

/-- Settles O16: a demanded page of a DMA is one piece; a page run ahead leaves only its note; the end of a transfer drops it. -/
theorem slidePages : Obligations.SlidePages := by
  refine ⟨?_, ?_⟩
  · intro s i xf xf1 k y o va n hs hxf hid hrun hmay hheld hpage
    refine ⟨fun bs hkind hcount hread hgate => ?_, fun a hkind hr hpos hfits hx hlink => ?_⟩
    · obtain ⟨u, z, hu, hhost, hpier, hmem, hz, hnext⟩ := demand_in hxf hid hrun hmay hheld hpage hkind hcount hread hgate
      have hy : y.mem = (getTile s.dev xf.tile.toNat).mem := by
        have hgates := (countPage_same (getTile s.dev xf.tile.toNat) k xf xf.next).1
        rw [hcount] at hgates
        exact (congrArg Tile.mem hgates :)
      obtain ⟨hin, hout, -⟩ := stored y (deckByte k xf 0 o) bs (hy ▸ safe_tile hs _)
      refine ⟨{ s with dev := u }, onDev_next (f := demandD i .ok) hu, rfl, ⟨hhost, hpier, fun t ht => by rw [hmem, if_neg ht]⟩,
        ⟨z, hz, hnext⟩, ?_, fun j hj => ?_⟩
      · rw [hmem, if_pos rfl]
        exact hin
      · rw [hmem, if_pos rfl, hout j hj, hy]
    · obtain ⟨u, z, hu, hhost, hmem, hpier, hz, hnext⟩ := demand_out hxf hid hrun hmay hheld hpage hkind hr hpos hfits hx hlink
      have hwf := safe_pier hs
      have hin := memGets_memPuts s.dev.pier.mem a (memGets (getTile s.dev xf.tile.toNat).mem (deckByte k xf 0 o) n) hwf
      rw [memGets_length] at hin
      refine ⟨{ s with dev := u }, onDev_next (f := demandD i .ok) hu, rfl, hhost, hmem, ⟨z, hz, hnext⟩, ?_, fun j hj => ?_⟩
      · rw [hpier]
        exact hin
      · rw [hpier, memGet_memPuts _ _ _ _ hwf, memGets_length, if_neg (by omega)]
  · intro s i xf k hxf hrun
    refine ⟨fun ecc hmay hheld hpages hahead => ?_, fun hclass hpages hid => ?_⟩
    · obtain ⟨d', ok, z, hcore, hu, hnext, hz⟩ := runAheadD_ok (ecc := ecc) hxf hrun hmay hheld hpages hahead
      exact ⟨{ s with dev := _ }, ok, z, onDev_next (f := runAheadD i ecc) hu, rfl, hcore.sameMem, hcore.flt, hcore.ctxs,
        by rw [tfind_tset, if_pos rfl], hnext, hz⟩
    · subst hid
      obtain ⟨u, hu, hmem, hxfers, hrun', hsb⟩ := dmaDoneD_ok hxf hrun hclass hpages
      exact ⟨{ s with dev := u }, _, onDev_next (f := dmaDoneD xf.id) hu, rfl, hmem, by rw [hxfers, tfind_tdel, if_pos rfl], hrun', rfl,
        tget_tagDown k.dmaTag xf.tag, hsb⟩

end Sys2Proof.Machine

/-! PROOFS. What writing through translations changes, and the taking of a command (R480, R486). -/

namespace Sys2Proof.Machine

/-! ## Writes through translations -/

/-- A device that differs from another at most in its memories, their marks, and the regulators' buckets. -/
def sameButMemory (d d' : Dev) : Prop :=
  ∃ h p ts b, d' = { d with host := h, pier := p, tiles := ts, pmg := { d.pmg with buckets := b } }

theorem sameButMemory.refl (d : Dev) : sameButMemory d d := ⟨_, _, _, _, rfl⟩

theorem sameButMemory.trans {a b c : Dev} (hab : sameButMemory a b) (hbc : sameButMemory b c) : sameButMemory a c := by
  obtain ⟨_, _, _, _, rfl⟩ := hab
  obtain ⟨_, _, _, _, rfl⟩ := hbc
  exact ⟨_, _, _, _, rfl⟩

theorem chargeCtx_sameButMemory (d : Dev) (cr i n : Nat) : sameButMemory d (chargeCtx d cr i n) := by
  obtain ⟨b, hb⟩ := chargeCtx_eq d cr i n
  exact ⟨_, _, _, _, hb⟩

theorem chargeRead_sameButMemory (d : Dev) (cr va n : Nat) : sameButMemory d (chargeRead d cr va n) := by
  unfold chargeRead
  split
  · exact chargeCtx_sameButMemory _ _ _ _
  · split
    · exact chargeCtx_sameButMemory _ _ _ _
    · exact .refl d

theorem writePage_sameButMemory {d r : Dev} {cr va : Nat} {mdl : Option Nat} {bs : List Byte} {counted : List (Nat × Nat)} {via : Via}
    (hr : writePage d cr mdl va bs counted via = .ok r) : sameButMemory d r := by
  unfold writePage at hr
  split at hr
  case h_1 => cases hr
  case h_2 a _ =>
    split at hr
    · cases hr
    · cases hr
      exact sameButMemory.trans ⟨_, _, _, _, rfl⟩ (chargeCtx_sameButMemory (pierPut d a bs) cr 0 bs.length)
  case h_3 a _ =>
    cases hr
    exact sameButMemory.trans ⟨_, _, _, _, rfl⟩ (chargeCtx_sameButMemory { d with host := memPuts d.host a bs } cr 4 bs.length)
  case h_4 =>
    dsimp only at hr
    split at hr
    · cases hr
    · split at hr
      · cases hr
      · cases hr
        exact ⟨_, _, _, _, rfl⟩

theorem writePages_sameButMemory {d r : Dev} {cr va k : Nat} {mdl : Option Nat} {bs : List Byte} {counted : List (Nat × Nat)} {via : Via}
    (hr : writePages d cr mdl va bs counted k via = .ok r) : sameButMemory d r := by
  induction k generalizing d va bs with
  | zero => cases hr; exact .refl _
  | succ j ih =>
    rw [writePages] at hr
    split at hr
    · cases hr; exact .refl _
    · dsimp only at hr
      split at hr
      · cases hr
      next d' hpage => exact (writePage_sameButMemory hpage).trans (ih hr)

theorem writeVa_sameButMemory {d r : Dev} {cr va : Nat} {mdl : Option Nat} {bs : List Byte} {via : Via}
    (hr : writeVa d cr mdl va bs via = .ok r) : sameButMemory d r := writePages_sameButMemory hr

/-! ## Taking a command (R480, R486) -/

theorem getRing_setRing_same (d : Dev) (k : Nat) (x : Ring) : getRing (setRing d k x) k = x := by
  rw [getRing_setRing, if_pos rfl]

theorem advanceCons_ok {d d1 : Dev} {k cr : Nat} (h : advanceCons d k cr = (d1, none)) :
    sameButMemory (setRing d k { getRing d k with cons := (getRing d k).cons + 1 }) d1 := by
  unfold advanceCons at h
  dsimp only at h
  split at h
  · cases h; exact .refl _
  · split at h
    next d2 hwrite => cases h; exact writeVa_sameButMemory hwrite
    next => cases h

/-- What `takes` says of the machine: the context may take a command, its entry is the one read, and CONS has advanced. -/
theorem takes_some {d d1 : Dev} {fn vctx : Nat} {want : List Byte → Bool} {t : Taken} (h : takes d fn vctx want = some (d1, t)) :
    ctxOf d fn vctx = some t.cr ∧ mayTake d t.cr (ringKey fn vctx 0) = true ∧ t.fn = fn ∧
      readVa d t.cr none ((getRing d (ringKey fn vctx 0)).ba.toNat
        + 64 * ((getRing d (ringKey fn vctx 0)).cons.toNat % ringSize (getRing d (ringKey fn vctx 0)))) 64 = .ok t.e ∧
      knownOps.contains (leAt t.e 0 1) = true ∧ want t.e = true ∧ reservedOk t.e = true ∧
      advanceCons (chargeRead d t.cr (getRing d (ringKey fn vctx 0)).ba.toNat 64) (ringKey fn vctx 0) t.cr = (d1, none) := by
  unfold takes at h
  split at h
  · cases h
  next cr hcr =>
    split at h
    next e hmay hread =>
      split at h
      next hop =>
        split at h
        next d2 hadv =>
          cases h
          simp only [Bool.and_eq_true] at hop
          exact ⟨hcr, hmay, rfl, hread, hop.1.1, hop.1.2, hop.2, hadv⟩
        next => cases h
      next => cases h
    next => cases h

/-- Settles O23: charging the read and writing CONS back change memories and buckets only, and CONS is stored in the ring itself. -/
theorem commandTaken : Obligations.CommandTaken := by
  intro d d1 fn vctx want t h
  obtain ⟨hctx, -, -, hread, -, -, -, hadv⟩ := takes_some h
  obtain ⟨h0, p0, ts0, b0, hcharge⟩ := chargeRead_sameButMemory d t.cr (getRing d (ringKey fn vctx 0)).ba.toNat 64
  rw [hcharge] at hadv
  obtain ⟨h1, p1, ts1, b1, rfl⟩ := advanceCons_ok hadv
  have hring := getRing_setRing_same d (ringKey fn vctx 0)
    { getRing d (ringKey fn vctx 0) with cons := (getRing d (ringKey fn vctx 0)).cons + 1 }
  exact ⟨(congrArg Ring.cons hring :), (congrArg Ring.prod hring :), rfl, rfl, rfl, rfl, hctx, hread⟩

end Sys2Proof.Machine

/-! PROOFS. The whole block: the queue, the idle tick, the reset state, and that every command answers (log 2, log 3). -/

namespace Sys2Proof.Machine

/-- A command goes on with its device changed, or it names an object that does not exist and is not well-formed. -/
def answers (c : Instr) (s : State) (o : Answer) : Prop :=
  (∃ d, o = .next { s with dev := d }) ∨ (o = .fault .noSuchObject ∧ c.wf = false)

theorem onObj_answers {c : Instr} {s : State} {i n : Nat} {f : Dev → Dev} (hwf : n ≤ i → c.wf = false) : answers c s (onObj i n s f) := by
  obtain h | h := Nat.lt_or_ge i n
  · exact .inl ⟨_, onObj_lt i n s f h⟩
  · exact .inr ⟨onObj_ge i n s f h, hwf h⟩

theorem lportOk_ge {l : Nat} (h : 160 ≤ l) : lportOk l = false := by simp [lportOk, h]

theorem lportOk_and_ge {l : Nat} {b : Bool} (h : 160 ≤ l) : (lportOk l && b) = false := by rw [lportOk_ge h, Bool.false_and]

theorem exec_answers (c : Instr) (s : State) : answers c s (exec c s) := by
  cases c with
  | ackFrameArrival => exact onObj_answers lportOk_and_ge
  | dataFrameArrival => exact onObj_answers lportOk_and_ge
  | abortFrameArrival => exact onObj_answers lportOk_and_ge
  | requestFrameArrival => exact onObj_answers lportOk_and_ge
  | frameDiscard => exact onObj_answers lportOk_and_ge
  | portAnDone => exact onObj_answers lportOk_ge
  | portTrainingDone => exact onObj_answers lportOk_ge
  | portAligned => exact onObj_answers lportOk_ge
  | portStateTimeout => exact onObj_answers lportOk_ge
  | portFailedHoldEnd => exact onObj_answers lportOk_ge
  | portLinkDown => exact onObj_answers lportOk_ge
  | msecCtrlWrite => exact onObj_answers lportOk_ge
  | saSlotWrite => exact onObj_answers lportOk_ge
  | _ => exact .inl ⟨_, rfl⟩

theorem idle_pending (s : State) : (idle s).pending = s.pending := by
  unfold idle
  split <;> rfl

theorem step_next_of_queueWf {s : State} (h : s.queueWf = true) : ∃ u, step s = .next u ∧ u.queueWf = true := by
  obtain ⟨pending, d⟩ := s
  cases pending with
  | nil => exact ⟨idle ⟨[], d⟩, rfl, by rw [State.queueWf, idle_pending]; rfl⟩
  | cons c rest =>
    obtain ⟨hc, hrest⟩ := Bool.and_eq_true_iff.mp (List.all_cons.symm.trans h)
    obtain ⟨d', hnext⟩ | ⟨-, hbad⟩ := exec_answers c { pending := rest, dev := d }
    · exact ⟨_, hnext, hrest⟩
    · rw [hbad] at hc
      cases hc

/-- Settles O1: a step on a queue is by definition the command in front of it. -/
theorem stepRunsFrontCommand : Obligations.StepRunsFrontCommand := fun _ _ _ => rfl

/-- Settles O58: command by command; the commands of a logical port alone can name an object that does not exist. -/
theorem commandsAlwaysAnswer : Obligations.CommandsAlwaysAnswer := ⟨exec_answers, fun _ => step_next_of_queueWf⟩

/-- Settles O56: on an empty queue the step is the idle tick. -/
theorem idleTick : Obligations.IdleTick := by
  intro d
  refine ⟨fun hgood hreset hrun => ?_, fun hoff => ?_⟩
  · simp [step, idle, hgood, hreset, hrun]
  · obtain h | h | h := hoff <;> simp [step, idle, h]

theorem regReset_credits {n : Nat} (h : n < 4096) : regReset (0x0810000 + 32 * n + 8) = 64 * 2 ^ 28 := by
  have h1 : 0x0810000 + 32 * n + 8 ≠ 0x0800008 := by omega
  have h2 : 0x0810000 + 32 * n + 8 ≠ 0x0800010 := by omega
  have h3 : 0x0810000 ≤ 0x0810000 + 32 * n + 8 ∧ 0x0810000 + 32 * n + 8 < 0x0810000 + 32 * 4096 ∧ (0x0810000 + 32 * n + 8) % 32 = 8 := by
    omega
  rw [regReset, if_neg h1, if_neg h2, if_pos h3]

/-- Settles O57: the reset state's tables are empty, and each register read falls back to its reset value. -/
theorem resetState : Obligations.ResetState := by
  refine ⟨rfl, rfl, rfl, fun _ => rfl, fun _ => rfl, fun _ => rfl, fun _ => rfl, by decide, fun n hn => ?_, by decide, by decide⟩
  have hreg : reg State.reset.dev (0x0810000 + 32 * n + 8) = BitVec.ofNat 64 (regReset (0x0810000 + 32 * n + 8)) := rfl
  rw [hreg, regReset_credits hn]
  decide

end Sys2Proof.Machine

/-! PROOFS. The end of trestle transfers, buffer fills and deliveries (R149, R191, R211, R213, R215, R216, R225, R226, R229). -/

namespace Sys2Proof.Machine

theorem chargeTree_core (d : Dev) (cr t : Nat) (members : List BufRange) (n : Nat) : SameCore d (chargeTree d cr t members n) := by
  obtain ⟨l, hl⟩ := chargeTree_eq d cr t members n
  rw [hl]
  exact ⟨rfl, rfl, rfl, rfl, rfl, rfl, rfl, rfl, fun _ => rfl⟩

theorem touchFill_core (d : Dev) (b : Buf) (k : Task) (t : Nat) : SameCore d (touchFill d b k t) :=
  SameCore.foldl (fun _ _ => touchTlb_core _ _ _ _ _ _) _

section
variable {d d1 : Dev} {xf : Xfer} {k : Task} {bs : List Byte}

theorem deliver_ok (hgate : gateCheck (getTile d xf.tile.toNat) xf (deckByte k xf 0 0) bs.length true = .ok ()) :
    deliver d xf k bs = .ok (setTile d xf.tile.toNat (tilePut (getTile d xf.tile.toNat) (deckByte k xf 0 0) bs)) := by
  unfold deliver
  dsimp only
  rw [hgate, eff_ok_bind]

/-- A device after transfer `xf` has ended with tile `t`'s window left as `m`: its tag is lowered, the transfer is gone, the other
memories and the buffer tables stay. -/
structure XferEnded (d u : Dev) (xf : Xfer) (k : Task) (m : Memory) : Prop where
  host : u.host = d.host
  pier : u.pier.mem = d.pier.mem
  mem : ∀ t, (getTile u t).mem = if t = xf.tile.toNat then m else (getTile d t).mem
  xfers : u.xfers = tdel d.xfers xf.id
  bufs : u.bufs = d.bufs
  nextX : u.nextX = d.nextX
  run : (getTile u xf.tile.toNat).run = some (tagLowered k xf.tag true)

/-- The transfer ends from a device that the delivery left as another, beside charges and touched translations. -/
theorem endXfer_ended {y : Tile} (hxf : tfind d.xfers xf.id = some xf) (hrun : y.run = some k)
    (hcore : SameCore (setTile d xf.tile.toNat y) d1) : XferEnded d (endXfer d1 xf true) xf k y.mem := by
  have hrun1 : (getTile d1 xf.tile.toNat).run = some k := by
    rw [hcore.run, getTile_setTile_same]
    exact hrun
  have hxf1 : tfind d1.xfers xf.id = some xf := by
    rw [hcore.xfers]
    exact hxf
  obtain ⟨d2, hcore2, hend⟩ := endXfer_eq true hxf1 hrun1
  rw [hend]
  refine ⟨hcore2.host.trans hcore.host, hcore2.pier.trans hcore.pier, fun t => (hcore2.mem t).trans ?_, ?_,
    hcore2.bufs.trans hcore.bufs, hcore2.nextX.trans hcore.nextX, ?_⟩
  · rw [getTile_setTile]
    split
    next h =>
      refine (hcore.mem xf.tile.toNat).trans ?_
      rw [getTile_setTile_same]
    next h =>
      refine (hcore.mem t).trans ?_
      rw [getTile_setTile, if_neg h]
  · exact congrArg (tdel · xf.id) hcore.xfers
  · refine (hcore2.run xf.tile.toNat).trans ?_
    rw [getTile_setTile_same]

namespace XferEnded

variable {u : Dev} {m : Memory}

theorem tag (h : XferEnded d u xf k m) :
    ∃ k', (getTile u xf.tile.toNat).run = some k' ∧ { k' with trTag := k.trTag } = k ∧
      ∀ n, tget k'.trTag n 0 = if n = xf.tag then tget k.trTag n 0 - 1 else tget k.trTag n 0 :=
  ⟨_, h.run, rfl, tget_tagDown k.trTag xf.tag⟩

theorem gone (h : XferEnded d u xf k m) : tfind u.xfers xf.id = none := by rw [h.xfers, tfind_tdel, if_pos rfl]

theorem sameMemBut (h : XferEnded d u xf k m) : sameMemBut d u xf.tile.toNat :=
  ⟨h.host, h.pier, fun t ht => by rw [h.mem, if_neg ht]⟩

theorem sameMem (h : XferEnded d u xf k (getTile d xf.tile.toNat).mem) : sameMem d u :=
  ⟨h.host, h.pier, fun t => by rw [h.mem]; split <;> simp_all⟩

end XferEnded

/-- The bytes of a delivery read back, and every other byte of the tile's window stays. -/
theorem delivered {u : Dev} {off : Nat} (hwf : Memory.wf (getTile d xf.tile.toNat).mem = true)
    (hmem : (getTile u xf.tile.toNat).mem = (tilePut (getTile d xf.tile.toNat) off bs).mem) :
    memGets (getTile u xf.tile.toNat).mem off bs.length = bs ∧
      ∀ j, j < off ∨ off + bs.length ≤ j → memGet (getTile u xf.tile.toNat).mem j = memGet (getTile d xf.tile.toNat).mem j := by
  rw [hmem]
  obtain ⟨hin, hout, -⟩ := stored (getTile d xf.tile.toNat) off bs hwf
  exact ⟨hin, hout⟩

end

/-! ## Buffer fills and deliveries -/

section
variable {s : State} {p : PartId} {bn : BitVec 16} {r : BufRange} {xf : Xfer} {k : Task} {bs : List Byte}

theorem pickTable_self {d : Dev} {p bn : Nat} {c : Buf → Bool} (h : c (getBuf d p bn) = true) : pickTable d p bn c = p := if_pos h

theorem fillDoneD_ok {d : Dev} {p bn : Nat} {b : Buf} (hb : getBuf d p bn = b) (hpier : b.pier = true) (hst : b.st = .filling)
    (hsrc : b.src = some r) (hxf : tfind d.xfers r.xfer = some xf) (hid : xf.id = r.xfer) (htile : xf.tile = r.tile)
    (hrun : (getTile d r.tile.toNat).run = some k) (hfill : fillBytes d b k r.tile.toNat = .ok bs)
    (hgate : gateCheck (getTile d r.tile.toNat) xf (deckByte k xf 0 0) bs.length true = .ok ()) :
    ∃ v es, XferEnded d v xf k (tilePut (getTile d xf.tile.toNat) (deckByte k xf 0 0) bs).mem ∧
      fillDoneD p bn .ok d = { setBuf { v with nextX := v.nextX + 1 } p bn
        { b with st := .held, holders := [r], sending := b.subs, subs := [], data := bs, sentAt := d.nextX } with engines := es } := by
  rw [← htile] at hrun hfill hgate
  have hcore := ((touchFill_core (setTile d xf.tile.toNat (tilePut (getTile d xf.tile.toNat) (deckByte k xf 0 0) bs)) b k xf.tile.toNat).trans
    (chargeCtx_core _ b.cr.toNat 0 bs.length)).trans (chargeTree_core _ b.cr.toNat xf.tile.toNat b.subs bs.length)
  have hended := endXfer_ended (y := tilePut (getTile d xf.tile.toNat) (deckByte k xf 0 0) bs) (hid ▸ hxf) hrun hcore
  obtain ⟨es, hes⟩ := syncEngine_eq (setBuf { endXfer (chargeTree (chargeCtx (touchFill (setTile d xf.tile.toNat (tilePut
    (getTile d xf.tile.toNat) (deckByte k xf 0 0) bs)) b k xf.tile.toNat) b.cr.toNat 0 bs.length) b.cr.toNat xf.tile.toNat b.subs bs.length)
    xf true with nextX := (endXfer (chargeTree (chargeCtx (touchFill (setTile d xf.tile.toNat (tilePut
    (getTile d xf.tile.toNat) (deckByte k xf 0 0) bs)) b k xf.tile.toNat) b.cr.toNat 0 bs.length) b.cr.toNat xf.tile.toNat b.subs bs.length)
    xf true).nextX + 1 } p bn
      { b with st := .held, holders := [r], sending := b.subs, subs := [], data := bs, sentAt := d.nextX }) xf.tile.toNat
  refine ⟨_, es, hended, Eq.trans ?_ hes⟩
  rw [fillDoneD]
  simp only [hb, hpier, hst, hsrc, hxf, ← htile, hrun, pageEcc, hfill, deliver_ok hgate, hended.nextX]

theorem deliveryD_ok {d : Dev} {p bn : Nat} {b : Buf} (hb : getBuf d p bn = b)
    (hsend : b.sending.find? (fun q => q.tile.toNat = r.tile.toNat) = some r)
    (hxf : tfind d.xfers r.xfer = some xf) (hid : xf.id = r.xfer) (htile : xf.tile = r.tile)
    (hrun : (getTile d r.tile.toNat).run = some k) (hearly : ∀ h, b.src = some h → earlierWrite d h.tile r.tile b.sentAt = false)
    (hgate : gateCheck (getTile d r.tile.toNat) xf (deckByte k xf 0 0) b.data.length true = .ok ()) :
    ∃ v, XferEnded d v xf k (tilePut (getTile d xf.tile.toNat) (deckByte k xf 0 0) b.data).mem ∧
      deliveryD p bn r.tile.toNat d = setBuf v p bn
        { b with sending := b.sending.filter (fun q => q.xfer ≠ r.xfer), holders := b.holders ++ [r] } := by
  rw [← htile] at hrun hgate hsend
  have hended := endXfer_ended (y := tilePut (getTile d xf.tile.toNat) (deckByte k xf 0 0) b.data) (hid ▸ hxf) hrun
    (.refl (setTile d xf.tile.toNat (tilePut (getTile d xf.tile.toNat) (deckByte k xf 0 0) b.data)))
  refine ⟨_, hended, ?_⟩
  rw [deliveryD, hb]
  simp only [← htile, hsend, hxf, hrun, deliver_ok hgate]
  cases hsrc : b.src with
  | none => rfl
  | some h => simp [htile, hearly h hsrc]

end

theorem setTile_self_core (d : Dev) (t : Nat) : SameCore (setTile d t (getTile d t)) d where
  host := rfl
  pier := rfl
  xfers := rfl
  nextX := rfl
  bufs := rfl
  cox := rfl
  flt := rfl
  ctxs := rfl
  tile := fun u => by rw [getTile_setTile]; split <;> simp_all

section
variable {d : Dev} {xf : Xfer} {k : Task} {bs : List Byte}

theorem trestleDoneD_put (hxf : tfind d.xfers xf.id = some xf) (hrun : (getTile d xf.tile.toNat).run = some k)
    (hkind : xf.kind = .put) (hremote : xf.remote = .served bs) : trestleDoneD xf.id d = endXfer d xf true := by
  simp only [trestleDoneD, hxf, hrun, hkind, hremote]

theorem trestleDoneD_mcast (hxf : tfind d.xfers xf.id = some xf) (hrun : (getTile d xf.tile.toNat).run = some k)
    (hkind : xf.kind = .mcast) (hsent : (getBuf d (xferPart d xf k) xf.buf.toNat).sending = []) :
    trestleDoneD xf.id d = endXfer d xf true := by
  simp only [trestleDoneD, hxf, hrun, hkind, hsent, List.isEmpty_nil, if_true]

/-- A served FETCH or late SUB ends with its bytes delivered; a late SUB also makes its tile a holder (R191, R216). -/
theorem trestleDoneD_served (hxf : tfind d.xfers xf.id = some xf) (hrun : (getTile d xf.tile.toNat).run = some k)
    (hremote : xf.remote = .served bs)
    (hgate : gateCheck (getTile d xf.tile.toNat) xf (deckByte k xf 0 0) bs.length true = .ok ()) :
    (xf.kind = .fetch → trestleDoneD xf.id d = endXfer (setTile d xf.tile.toNat (tilePut (getTile d xf.tile.toNat) (deckByte k xf 0 0) bs)) xf true) ∧
      (xf.kind = .lateSub → trestleDoneD xf.id d =
        addHolder (endXfer (setTile d xf.tile.toNat (tilePut (getTile d xf.tile.toNat) (deckByte k xf 0 0) bs)) xf true)
          (xferPart d xf k) xf.buf.toNat { tile := xf.tile, word := deckByte k xf 0 0 / 4, xfer := xf.id, rel := false }) := by
  constructor <;> intro hkind <;> simp only [trestleDoneD, hxf, hrun, hkind, hremote, deliver_ok hgate]

end

theorem addHolder_holders (d : Dev) (p bn : Nat) (r : BufRange) :
    (getBuf (addHolder d p bn r) p bn).holders = (getBuf d p bn).holders ++ [r] := by
  rw [addHolder, getBuf_tset]

/-- Settles O17: each end is a delivery, where bytes arrive, and the end of its transfer; the buffer entry is stored last. -/
theorem trestleDelivery : Obligations.TrestleDelivery := by
  refine ⟨?_, ?_⟩
  · rintro s _ xf k bs hs hxf rfl hrun
    have hwf := safe_tile hs xf.tile.toNat
    have hquiet := endXfer_ended hxf hrun (setTile_self_core s.dev xf.tile.toNat)
    obtain ⟨k', hrun', hk', htag⟩ := hquiet.tag
    refine ⟨fun hkind hremote => ?_, fun hkind hsent => ?_, fun hkind hremote hgate => ?_⟩
    · have hput := trestleDoneD_put hxf hrun hkind hremote
      exact ⟨_, k', onDev_next (f := trestleDoneD xf.id) hput, rfl, hquiet.sameMem, hquiet.gone, hrun', hk', htag⟩
    · exact ⟨_, onDev_next (f := trestleDoneD xf.id) (trestleDoneD_mcast hxf hrun hkind hsent), rfl, hquiet.sameMem, hquiet.gone⟩
    · have hended := endXfer_ended (y := tilePut (getTile s.dev xf.tile.toNat) (deckByte k xf 0 0) bs) hxf hrun (.refl _)
      obtain ⟨hin, hout⟩ := delivered hwf ((hended.mem _).trans (if_pos rfl))
      obtain ⟨k', hrun', hk', htag⟩ := hended.tag
      obtain ⟨hfetch, hlate⟩ := trestleDoneD_served hxf hrun hremote hgate
      obtain hkind | hkind := hkind
      · exact ⟨_, k', onDev_next (f := trestleDoneD xf.id) (hfetch hkind), rfl, hended.sameMemBut, hended.gone, hrun', hk', htag, hin, hout,
          fun h => absurd (hkind.symm.trans h) (by decide)⟩
      · refine ⟨_, k', onDev_next (f := trestleDoneD xf.id) (hlate hkind), rfl, hended.sameMemBut, hended.gone, hrun', hk', htag, hin, hout,
          fun _ => ?_⟩
        have hbufs := congrArg (fun bufs => (tget bufs (xferPart s.dev xf k * 65536 + xf.buf.toNat) Buf.init).holders) hended.bufs
        exact (addHolder_holders _ _ _ _).trans (congrArg (· ++ _) hbufs)
  · intro s p bn r xf k b hs hxf hid htile hrun hb
    have hwf := safe_tile hs xf.tile.toNat
    refine ⟨fun bs hpier hst hsrc hfill hgate => ?_, fun hsend hearly hgate => ?_⟩
    · have hpick : pickTable s.dev p.toNat bn.toNat (fun b => b.st = .filling) = p.toNat := pickTable_self (by simp [← hb, hst])
      obtain ⟨v, es, hended, hu⟩ := fillDoneD_ok hb.symm hpier hst hsrc hxf hid htile hrun hfill hgate
      obtain ⟨hin, hout⟩ := delivered hwf ((hended.mem _).trans (if_pos rfl))
      have hexec : exec (.bufferFillDone p bn .ok) s = _ := onDev_next (f := fun d => fillDoneD (pickTable d p.toNat bn.toNat
        (fun b => b.st = .filling)) bn.toNat .ok d) (by rw [hpick, hu])
      rw [← htile, ← hid]
      exact ⟨_, hexec, rfl, hended.sameMemBut, hended.gone, tget_tset_same _ _ _ _, hin, hout⟩
    · have hpick : pickTable s.dev p.toNat bn.toNat (fun b => b.sending.any (fun q => q.tile = r.tile)) = p.toNat :=
        pickTable_self (by rw [← hb, List.any_eq_true]; exact ⟨r, List.mem_of_find?_eq_some hsend, by simp⟩)
      obtain ⟨v, hended, hu⟩ := deliveryD_ok hb.symm hsend hxf hid htile hrun hearly hgate
      obtain ⟨hin, hout⟩ := delivered hwf ((hended.mem _).trans (if_pos rfl))
      have hexec : exec (.multicastDeliveryDone p bn r.tile) s = _ := onDev_next (f := fun d => deliveryD (pickTable d p.toNat bn.toNat
        (fun b => b.sending.any (fun q => q.tile = r.tile))) bn.toNat r.tile.toNat d) (by rw [hpick, hu])
      rw [← htile] at hexec
      rw [← htile, ← hid]
      refine ⟨_, hexec, rfl, hended.sameMemBut, hended.gone, by rw [hid]; exact tget_tset_same _ _ _ _, hin, hout⟩

end Sys2Proof.Machine

/-! PROOFS. The release of ranges, the hold window, the ECC write-back and the gating of units (R141, R148, R151, R199, R217). -/

namespace Sys2Proof.Machine

theorem tget_tmap {α : Type} (t : Tbl α) (f : Nat → α → α) (i : Nat) (v : α) (hv : f i v = v) : tget (tmap t f) i v = f i (tget t i v) := by
  induction t with
  | nil => exact hv.symm
  | cons p rest ih =>
    by_cases h : p.1 = i
    · subst h
      simp [tmap, tget]
    · simpa [tmap, tget, h] using ih

theorem getTile_holdEnd (p t : Nat) (d : Dev) : getTile (holdEnd p d) t =
    if tileIn d p t = true ∧ (getTile d t).preReq = true then { getTile d t with windowOver := true, stopped := true } else getTile d t := by
  rw [getTile, holdEnd]
  dsimp only
  rw [tget_tmap _ _ _ _ (by simp [Tile.init])]
  simp only [Bool.and_eq_true]
  rfl

theorem payOwed_none {d : Dev} (h : d.cat.owed = []) : payOwed d = d := by
  have hcat : { d.cat with owed := [] } = d.cat := by rw [← h]
  rw [payOwed, h, hcat]
  rfl

theorem holderReleaseD_ok {d : Dev} {p bn t : Nat} {h : BufRange}
    (hfind : (getBuf d p bn).holders.find? (fun g => g.tile.toNat = t && g.rel) = some h) :
    (sourcing d (getBuf d p bn) h = false → holderReleaseD p bn t d = setBuf d p bn
      { getBuf d p bn with
        holders := (getBuf d p bn).holders.filter (fun g => g ≠ h)
        st := if (getBuf d p bn).pier = true ∧ (getBuf d p bn).holders.filter (fun g => g ≠ h) = [] then .idle else (getBuf d p bn).st }) ∧
      (sourcing d (getBuf d p bn) h = true → holderReleaseD p bn t d = d) := by
  constructor <;> intro hsource <;> simp [holderReleaseD, hfind, hsource]

section
variable {s : State} {t : TileId} {u : BitVec 4} {g : GateUnit}

theorem gateOf_tset (x : Tile) (u v : Nat) (g : GateUnit) :
    gateOf { x with gates := tset x.gates u g } v = if v = u then g else gateOf x v := tget_tset _ _ _ _ _

/-- The tile whose unit `u` has woken: zeroed, and ON or DRAINING (R148). -/
def woken (x : Tile) (u : Nat) (g : GateUnit) : Tile :=
  { zeroRange x (unitRange u).1 (unitRange u).2 with
    gates := tset x.gates u { g with st := if g.gated then .draining else .on } }

theorem unitWake_waking {d : Dev} {t u : Nat} (hu : u < 10) (hst : (gateOf (getTile d t) u).st = .waking) :
    unitWake t u d = payOwed (setTile d t (woken (getTile d t) u (gateOf (getTile d t) u))) := by
  simp only [unitWake, hu, hst, decide_true, Bool.and_self, if_true]
  rfl

end

/-- Settles O18: each command changes one entry, one gate or one word; the hold window stops the tiles of its partition in one map. -/
theorem gatingAndRelease : Obligations.GatingAndRelease := by
  refine ⟨⟨?_, ?_, ?_⟩, ?_⟩
  · rintro s p bn t h b rfl hfind
    have hany : (getBuf s.dev p.toNat bn.toNat).holders.any (fun g => g.tile = t && g.rel) = true := by
      have hp := List.find?_some hfind
      simp only [Bool.and_eq_true, decide_eq_true_eq] at hp
      exact List.any_eq_true.mpr ⟨h, List.mem_of_find?_eq_some hfind, by simp [BitVec.eq_of_toNat_eq hp.1, hp.2]⟩
    have hpick := pickTable_self (c := fun b => b.holders.any (fun g => g.tile = t && g.rel)) hany
    obtain ⟨hfree, hheld⟩ := holderReleaseD_ok hfind
    refine ⟨fun hsource => ?_, fun hsource => ?_⟩
    · have hexec : exec (.holderRelease p bn t) s = _ := onDev_next (f := fun d => holderReleaseD (pickTable d p.toNat bn.toNat (fun b =>
        b.holders.any (fun g => g.tile = t && g.rel))) bn.toNat t.toNat d) (by rw [hpick, hfree hsource])
      exact ⟨_, hexec, rfl, ⟨rfl, rfl, fun _ => rfl⟩, rfl, rfl, getBuf_tset _ _ _ _⟩
    · exact onDev_next (f := fun d => holderReleaseD (pickTable d p.toNat bn.toNat (fun b => b.holders.any (fun g => g.tile = t && g.rel)))
        bn.toNat t.toNat d) (by rw [hpick, hheld hsource])
  · intro s p
    exact ⟨_, rfl, rfl, rfl, fun t => getTile_holdEnd p.toNat t s.dev⟩
  · intro s t w v hs hfix
    have hwrite : writeBack t.toNat w.toNat s.dev = setTile s.dev t.toNat { getTile s.dev t.toNat with
        mem := memSet32 (getTile s.dev t.toNat).mem (4 * w.toNat) v
        fixups := tdel (getTile s.dev t.toNat).fixups w.toNat } := by
      simp only [writeBack, hfix]
    have hwf := safe_tile hs t.toNat
    refine ⟨_, onDev_next (f := writeBack t.toNat w.toNat) hwrite, memGets_memPuts _ _ _ hwf, (tfind_tdel _ _ _).trans (if_pos rfl),
      fun i hi => ?_, rfl⟩
    refine (memGet_memPuts _ _ _ _ hwf).trans (if_neg ?_)
    rw [toLe_length]
    omega
  · rintro s t u g hu rfl
    refine ⟨fun hdrain hgated hdma => ?_, fun hnot => ?_, fun hwake => ?_, fun hnot => ?_⟩
    · exact onDev_next (f := unitOff t.toNat u.toNat) (by simp [unitOff, hu, hdrain, hgated, hdma])
    · refine onDev_next (f := unitOff t.toNat u.toNat) ?_
      rw [unitOff]
      refine if_neg ?_
      simp only [Bool.and_eq_true, decide_eq_true_eq]
      rintro ⟨⟨⟨-, hst⟩, hgated⟩, hdma⟩
      obtain h | h | h := hnot
      · exact h hst
      · simp [hgated] at h
      · omega
    · refine ⟨woken (getTile s.dev t.toNat) u.toNat (gateOf (getTile s.dev t.toNat) u.toNat),
        onDev_next (f := unitWake t.toNat u.toNat) (unitWake_waking hu hwake), fun howed => payOwed_none howed, ?_, fun i => ?_, fun v hv => ?_⟩
      · exact (gateOf_tset _ _ _ _).trans (if_pos rfl)
      · exact memGet_memZero _ _ _ _
      · exact (gateOf_tset _ _ _ _).trans (if_neg hv)
    · refine onDev_next (f := unitWake t.toNat u.toNat) (if_neg ?_)
      simp [hnot]

end Sys2Proof.Machine

/-! PROOFS. Outcome reports, the patch of the step built ahead, and the end of a task (R163, R193, R194, R217, R234, R288). -/

namespace Sys2Proof.Machine

/-! ## Fields of a word -/

theorem testBit_ones_shift (len lo i : Nat) : ((2 ^ len - 1) <<< lo).testBit i = (decide (lo ≤ i) && decide (i < lo + len)) := by
  rw [Nat.testBit_shiftLeft, Nat.testBit_two_pow_sub_one]
  by_cases h : lo ≤ i
  · simp only [h, decide_true, Bool.true_and]
    exact decide_eq_decide.mpr (by omega)
  · simp [h]

theorem testBit_field_shift (len lo v i : Nat) :
    ((v % 2 ^ len) <<< lo).testBit i = (decide (lo ≤ i) && decide (i < lo + len) && v.testBit (i - lo)) := by
  rw [Nat.testBit_shiftLeft, Nat.testBit_mod_two_pow]
  by_cases h : lo ≤ i
  · simp only [h, decide_true, Bool.true_and]
    congr 1
    exact decide_eq_decide.mpr (by omega)
  · simp [h]

theorem bitOf_setFld {n : Nat} (w : BitVec n) (lo len v i : Nat) (hi : i < n) :
    bitOf (setFld w lo len v) i = if lo ≤ i ∧ i < lo + len then v.testBit (i - lo) else bitOf w i := by
  simp only [bitOf, setFld, BitVec.getLsbD_or, BitVec.getLsbD_and, BitVec.getLsbD_not, BitVec.getLsbD_ofNat, hi, decide_true,
    Bool.true_and, testBit_ones_shift, testBit_field_shift]
  by_cases h : lo ≤ i ∧ i < lo + len
  · simp [h]
  · rw [if_neg h, ← Bool.decide_and, decide_eq_false h]
    simp

theorem testBit_fld_bit {n : Nat} (w : BitVec n) (lo len i : Nat) : (fld w lo len).testBit i = (decide (i < len) && bitOf w (lo + i)) := by
  rw [fld, Nat.testBit_mod_two_pow, Nat.testBit_shiftRight]
  rfl

theorem fld_setFld_same {n : Nat} (w : BitVec n) {lo len : Nat} (v : Nat) (h : lo + len ≤ n) : fld (setFld w lo len v) lo len = v % 2 ^ len := by
  refine Nat.eq_of_testBit_eq fun i => ?_
  rw [testBit_fld_bit, Nat.testBit_mod_two_pow]
  by_cases hi : i < len
  · rw [bitOf_setFld _ _ _ _ _ (by omega), if_pos (by omega), Nat.add_sub_cancel_left]
  · simp [hi]

theorem fld_setFld_apart {n : Nat} (w : BitVec n) {lo len lo' len' : Nat} (v : Nat) (h : lo' + len' ≤ lo ∨ lo + len ≤ lo') (hn : lo' + len' ≤ n) :
    fld (setFld w lo len v) lo' len' = fld w lo' len' := by
  refine Nat.eq_of_testBit_eq fun i => ?_
  rw [testBit_fld_bit, testBit_fld_bit]
  by_cases hi : i < len'
  · rw [bitOf_setFld _ _ _ _ _ (by omega), if_neg (by omega)]
  · simp [hi]

/-! ## The steps of a context -/

section
variable {d : Dev} {cr num : Nat} {st st' : Step}

theorem getSteps_setSteps_same (d : Dev) (cr : Nat) (x : CtxSteps) : getSteps (setSteps d cr x) cr = x := by
  rw [getSteps_setSteps, if_pos rfl]

theorem stepOf_num (h : stepOf d cr num = some st) : st.num = num := by
  have := List.find?_some h
  simpa using this

/-- `putStep` replaces the context's steps of the same number and keeps every other. -/
theorem stepOf_putStep : stepOf (putStep d cr st') cr num = (stepOf d cr num).map (fun q => if q.num = st'.num then st' else q) := by
  have hlist (c n : Option Step) (g : Step → Step) : [c.map g, n.map g].filterMap id = ([c, n].filterMap id).map g := by
    cases c <;> cases n <;> rfl
  simp only [stepOf, putStep, getSteps_setSteps_same, hlist, List.find?_map]
  congr 2
  funext q
  simp only [Function.comp_apply]
  split
  next h => rw [h]
  next => rfl

theorem stepOf_putStep_same (h : stepOf d cr st'.num = some st) : stepOf (putStep d cr st') cr st'.num = some st' := by
  rw [stepOf_putStep, h, Option.map_some, if_pos (stepOf_num h)]

theorem stepOf_putStep_none (h : stepOf d cr num = none) : stepOf (putStep d cr st') cr num = none := by
  rw [stepOf_putStep, h, Option.map_none]

end

/-! ## REPORT (R193, R194) -/

theorem onDev_seqStep_fault {s : State} {f : Fetch} {op : Nat} {pre : Option Nat} {x : Tile} {k : Task} {w p : Word64} {c i : Nat}
    {act : Dev → Nat → Tile → Task → Word64 → Word64 → Eff Dev} (h : atInstr s.dev f op pre = some (x, k, w, p))
    (ha : act (setTile s.dev f.tile.toNat x) f.tile.toNat x k w p = .error (.fault c i)) :
    ∃ k0, (getTile s.dev f.tile.toNat).run = some k0 ∧
      onDev s (seqStep f op pre act) = .next { s with dev := tileFault (setTile s.dev f.tile.toNat x) f.tile.toNat k0 k0.pc c i } := by
  obtain ⟨k0, hk0, hfault⟩ := seqStep_fault h ha
  exact ⟨k0, issuing_run hk0, by rw [onDev_eq, hfault]⟩

section
variable {s : State} {f : Fetch} {x : Tile} {k : Task} {w p : Word64} {a e : Nat} {st : Step} {adm : Admitted}

theorem reportD_ok {r : Eff (Option Outcome)} (h : atInstr s.dev f 0xF1 none = some (x, k, w, p))
    (ha : deckOperand k (fld w 51 5) (offOf w) 68 false = .ok a) (hheld : readHeld x a 68 = false) (h4 : deckReadable x a 4 = true)
    (htoks : deckReadable x (a + 4) (min 64 (leAt (memGets x.mem (4 * a) 16) 8 1)) = true)
    (hst : stepOf s.dev k.work.cr.toNat k.work.step = some st) (hadm : seqEntry st (leAt (memGets x.mem (4 * a) 16) 4 3) = some (e, adm))
    (hr : reportCheck adm k.work.withdrawn (memGets x.mem (4 * a) 16) (bytesWords (min 64 (leAt (memGets x.mem (4 * a) 16) 8 1))
      (memGets x.mem (4 * a + 16) (4 * min 64 (leAt (memGets x.mem (4 * a) 16) 8 1)))) = r) :
    (∀ o, r = .ok o → exec (.report f) s = .next { s with
      dev := patchVerify (putStep (s.withTask f.tile x k).dev k.work.cr.toNat
        (setEntry st e { adm with reported := true, outcome := o })) k.work.cr.toNat k.work.step e }) ∧
      (∀ c i, r = .error (.fault c i) → ∃ k0, (getTile s.dev f.tile.toNat).run = some k0 ∧
        exec (.report f) s = .next { s with dev := tileFault (setTile s.dev f.tile.toNat x) f.tile.toNat k0 k0.pc c i }) := by
  have hhead := (deckReadable_reads h4).2
  have hbody := (deckReadable_reads htoks).2
  have hstep : stepOf (setTile s.dev f.tile.toNat x) k.work.cr.toNat k.work.step = some st := hst
  rw [show 4 * (a + 4) = 4 * a + 16 from Nat.mul_add 4 a 4] at hbody
  refine ⟨fun o ho => ?_, fun c i hc => ?_⟩
  · refine onDev_seqStep h ?_
    simp only [ha, hheld, hhead, hbody, hstep, hadm, hr, ho, holdIf_false, eff_ok_bind, setTile_setTile]
    rfl
  · refine onDev_seqStep_fault h ?_
    simp only [ha, hheld, hhead, hbody, hstep, hadm, hr, hc, holdIf_false, eff_ok_bind, eff_error_bind]

theorem reportCheck_fault {b : Bool} {h : List Byte} {toks : List Word32} {c i : Nat}
    (hc : reportCheck adm b h toks = .error (.fault c i)) :
    i = 0 ∧ (c = fStaleHandle ∨ c = fIllegalInstr) ∧ (c = fStaleHandle ↔ leAt h 0 4 ≠ adm.handle.toNat) := by
  unfold reportCheck at hc
  split at hc
  next hstale =>
    cases hc
    exact ⟨rfl, .inl rfl, fun _ => hstale, fun _ => rfl⟩
  next hhandle =>
    split at hc
    · cases hc
      exact ⟨rfl, .inr rfl, fun h => absurd h (by decide), fun h => absurd h hhandle⟩
    · split at hc <;> cases hc

theorem patchVerify_none {d : Dev} {cr num e : Nat} (h : stepOf d cr (num + 1) = none) : patchVerify d cr num e = d := by
  unfold patchVerify
  rw [h]
  cases stepOf d cr num <;> rfl

theorem patchVerify_kind {d : Dev} {cr num e : Nat} (h : ∀ st a, stepOf d cr num = some st → st.admitted[e]? = some a → a.kind ≠ 2) :
    patchVerify d cr num e = d := by
  unfold patchVerify
  split
  next st nx hst _ =>
    split
    · rfl
    next a ha =>
      split
      · exact if_pos (by rw [decide_eq_true (h st a hst ha), Bool.true_or])
      · rfl
  · rfl

end

/-! ## The patch of the step built ahead (R288) -/

/-- The entry of an admitted slot patched to position `c` with `s` splits and the pending token `tok` (R288). -/
def patchedEntry (b : Admitted) (c s : Nat) (tok : Option Word32) : List Word64 :=
  setEnt (setEnt (setEnt b.entry 3 0 32 c) 4 24 32 ((tok.getD 0).toNat)) 0 42 5 (s - 1)

theorem setEnt_getD (ent : List Word64) {q lo len v : Nat} (i : Nat) (hq : q < ent.length) :
    (setEnt ent q lo len v).getD i 0 = if i = q then setFld (ent.getD q 0) lo len v else ent.getD i 0 := by
  simp only [setEnt, List.getD_eq_getElem?_getD, List.getElem?_set, hq, if_true]
  by_cases h : q = i
  · simp [h]
  · simp [h, Ne.symm h]

theorem patchedEntry_position (b : Admitted) (c s : Nat) (tok : Option Word32) (h : 4 < b.entry.length) :
    fld ((patchedEntry b c s tok).getD 3 0) 0 32 = c % 2 ^ 32 := by
  have h3 : 3 < b.entry.length := by omega
  have h4 : 4 < (setEnt b.entry 3 0 32 c).length := by simpa [setEnt] using h
  have h0 : 0 < (setEnt (setEnt b.entry 3 0 32 c) 4 24 32 ((tok.getD 0).toNat)).length := by simp [setEnt]; omega
  rw [patchedEntry, setEnt_getD _ _ h0, if_neg (by decide), setEnt_getD _ _ h4, if_neg (by decide), setEnt_getD _ _ h3, if_pos rfl,
    fld_setFld_same _ _ (by decide)]

theorem mem_dropTodo {st : Step} {c : Work → Bool} {v : Work} (h : v ∈ (dropTodo st c).todo) :
    ∃ w, w ∈ st.todo ∧ c w = false ∧ v.excl = w.excl ∧ v.split = w.split := by
  obtain ⟨w, hw, rfl⟩ := List.mem_map.mp h
  obtain ⟨hmem, hc⟩ := List.mem_filter.mp hw
  exact ⟨w, hmem, by simpa using hc, rfl, rfl⟩

/-! ## The end of a task (R163, R217, R234) -/

theorem endDone_iff {x : Tile} {k : Task} : endDone x k = true ↔ k.ending = true ∧ k.queue = [] ∧ k.passes = [] ∧ k.convs = [] ∧
    (∀ n, n < 16 → tget k.dmaTag n 0 = 0) ∧ (∀ n, n < 8 → tget k.trTag n 0 = 0) ∧ x.sb = [] := by
  have hdma (n : Nat) (hn : n < 16) : Nat.testBit 0xFFFF n = true := (Nat.testBit_two_pow_sub_one 16 n).trans (decide_eq_true hn)
  have htr (n : Nat) (hn : n < 8) : Nat.testBit 0xFF n = true := (Nat.testBit_two_pow_sub_one 8 n).trans (decide_eq_true hn)
  simp only [endDone, passIdle, Bool.and_eq_true, tagsZero_iff, List.isEmpty_iff, and_assoc]
  simp +contextual [hdma, htr]

/-- The record that a task leaves when it ends (R234). -/
def endedOf (s : State) (t : TileId) (k : Task) : Ended :=
  { work := k.work, flags := k.flags
    satSet := (List.range k.slotMap.length).any (fun j => getSat (getTile s.dev t.toNat) k j)
    start := k.start, finish := s.dev.now, away := k.away, resumes := k.resumes }

theorem taskEnd_done {s : State} {t : TileId} {k : Task} (hrun : (getTile s.dev t.toNat).run = some k)
    (hdone : endDone (getTile s.dev t.toNat) k = true) :
    ∃ u, exec (.taskEnd t) s = .next u ∧ u.pending = s.pending ∧ sameMem s.dev u.dev ∧ (getTile u.dev t.toNat).run = none ∧
      (getTile u.dev t.toNat).ended = some (endedOf s t k) ∧ ∀ v, v ≠ t.toNat → getTile u.dev v = getTile s.dev v := by
  have hend : ∃ kp, taskEndD t.toNat s.dev = markRelease (setTile s.dev t.toNat { getTile s.dev t.toNat with
      run := none, ended := some (endedOf s t k), kept := kp }) t.toNat ((keptOf k).regions.map (fun r => r.2)) := by
    simp only [taskEndD, hrun, hdone]
    exact ⟨_, rfl⟩
  obtain ⟨kp, hend⟩ := hend
  refine ⟨_, onDev_next (f := taskEndD t.toNat) hend, rfl, sameMem_of_tile rfl rfl rfl rfl, ?_, ?_, fun v hv => ?_⟩
  · exact congrArg Tile.run (getTile_setTile_same _ _ _)
  · exact congrArg Tile.ended (getTile_setTile_same _ _ _)
  · exact (getTile_setTile _ _ _ _).trans (if_neg hv)

theorem taskEnd_held {s : State} {t : TileId} {k : Task} (hrun : (getTile s.dev t.toNat).run = some k)
    (hdone : endDone (getTile s.dev t.toNat) k = false) : exec (.taskEnd t) s = .next s := by
  refine onDev_next (f := taskEndD t.toNat) ?_
  simp only [taskEndD, hrun, hdone]
  rfl

theorem patchVerify_ok {d : Dev} {cr num e e2 : Nat} {st nx : Step} {a b : Admitted} {o : Outcome} {m : Model}
    (hst : stepOf d cr num = some st) (hnx : stepOf d cr (num + 1) = some nx) (ha : st.admitted[e]? = some a)
    (ho : a.outcome = some o) (hka : a.kind = 2) (hkb : b.kind = 2) (hfind : findEntry d nx a.slot.toNat = some (e2, b))
    (hm : getModel d nx.model = some m) :
    patchVerify d cr num e = rewriteEntry
      (putStep d cr (dropTodo nx (fun w => w.excl = some e2 && (match w.split with
        | some i => decide ((splitsOf (a.c + o.accept + 1 + b.t) m.splitLen (2 ^ m.runLog2)).1 ≤ i)
        | none => false)))) cr
      (dropTodo nx (fun w => w.excl = some e2 && (match w.split with
        | some i => decide ((splitsOf (a.c + o.accept + 1 + b.t) m.splitLen (2 ^ m.runLog2)).1 ≤ i)
        | none => false))) e2
      { b with
        c := a.c + o.accept + 1, pendBefore := o.tokens.getLast?
        entry := patchedEntry b (a.c + o.accept + 1) (splitsOf (a.c + o.accept + 1 + b.t) m.splitLen (2 ^ m.runLog2)).1 o.tokens.getLast? } := by
  unfold patchVerify
  simp only [hst, hnx, ha, ho, hfind, hm, hka, hkb, ne_eq, not_true_eq_false]
  rfl

/-- Settles O19: the report's record is checked once and its outcome patches the next step; a task ends when END's conditions hold. -/
theorem reportAndTaskEnd : Obligations.ReportAndTaskEnd := by
  refine ⟨?_, ?_, ?_⟩
  · rintro s f x k w p a e st adm _ _ h ha h68 rfl rfl h4 htoks hst hadm
    obtain ⟨hok, hfault⟩ := reportD_ok h ha (deckReadable_reads h68).1 h4 htoks hst hadm rfl
    refine ⟨fun o ho => ⟨hok o ho, fun hnone => ?_⟩, fun c i hc => ?_⟩
    · rw [hok o ho]
      have hnum := stepOf_num hst
      refine congrArg (fun d => Host.Outcome.next { s with dev := d }) ?_
      obtain hkind | hnext := hnone
      · refine patchVerify_kind fun st' a' hst' ha' => ?_
        have hput : stepOf (putStep (s.withTask f.tile x k).dev k.work.cr.toNat (setEntry st e { adm with reported := true, outcome := o }))
            k.work.cr.toNat k.work.step = some (setEntry st e { adm with reported := true, outcome := o }) := by
          rw [← hnum]
          exact stepOf_putStep_same (st := st) (by rw [← hnum] at hst; exact hst)
        cases hput.symm.trans hst'
        have hentry := (List.getElem?_set (l := st.admitted) (i := e) (j := e)).symm.trans ha'
        rw [if_pos rfl] at hentry
        split at hentry
        · cases hentry
          exact hkind
        · cases hentry
      · exact patchVerify_none (stepOf_putStep_none hnext)
    · obtain ⟨rfl, hcode, hiff⟩ := reportCheck_fault hc
      exact ⟨hcode, hiff, hfault c 0 hc⟩
  · intro d cr num e e2 st nx a b o m hst hnx ha ho hka hkb hfind hlen hm
    refine ⟨_, _, patchVerify_ok hst hnx ha ho hka hkb hfind hm, rfl, rfl, patchedEntry_position _ _ _ _ hlen, rfl, ?_⟩
    intro v hv hexcl j hj
    obtain ⟨w, -, hkeep, hexcl', hsplit⟩ := mem_dropTodo hv
    rw [hexcl] at hexcl'
    rw [hj] at hsplit
    rw [← hexcl', ← hsplit] at hkeep
    simpa using hkeep
  · intro s t k hrun
    refine ⟨fun hend hq hp hc hdma htr hsb => ?_, fun hnot => taskEnd_held hrun ?_⟩
    · obtain ⟨u, hu, hpend, hmem, hnone, hended, hother⟩ := taskEnd_done hrun (endDone_iff.mpr ⟨hend, hq, hp, hc, hdma, htr, hsb⟩)
      exact ⟨u, _, hu, hpend, hmem, hnone, hended, rfl, rfl, rfl, rfl, hother⟩
    · refine Bool.eq_false_iff.mpr fun hdone => ?_
      obtain ⟨hend, hq, hp, hc, hdma, htr, hsb⟩ := endDone_iff.mp hdone
      obtain h | h | h | h | ⟨n, hn, h⟩ | ⟨n, hn, h⟩ | h := hnot
      · exact Bool.false_ne_true (h.symm.trans hend)
      · exact h hq
      · exact h hp
      · exact h hc
      · exact h (hdma n hn)
      · exact h (htr n hn)
      · exact h hsb

end Sys2Proof.Machine

/-! PROOFS. Intake, pops and steals of the dispatcher (R230, R231, R235, R236, R242, R586). -/

namespace Sys2Proof.Machine

theorem chargeRead_eq (d : Dev) (cr va n : Nat) : ∃ b, chargeRead d cr va n = { d with pmg := { d.pmg with buckets := b } } := by
  unfold chargeRead
  split
  · exact chargeCtx_eq _ _ _ _
  · split
    · exact chargeCtx_eq _ _ _ _
    · exact ⟨_, rfl⟩

theorem noteChecked_eq (d : Dev) (w : Work) :
    ∃ b l, noteChecked d w = { d with pmg := { d.pmg with buckets := b }, cat := { d.cat with checked := l } } := by
  unfold noteChecked
  split
  · exact ⟨_, _, rfl⟩
  · obtain ⟨b, hb⟩ := chargeRead_eq d w.cr.toNat (descCodeVa w.desc) (4 * descBound w.desc 0)
    dsimp only
    rw [hb]
    exact ⟨_, _, rfl⟩

theorem getDeque_setDeque (d : Dev) (t v : Nat) (q : List Work) : getDeque (setDeque d t q) v = if v = t then q else getDeque d v :=
  tget_tset _ _ _ _ _

theorem admitTask_place {d : Dev} {w : Work} {t : Nat} (hwait : waitOver d w = true) (ht : targetTile d w = some t)
    (hroom : (getDeque d t).length < 64) : admitTask d w = some (pushHead d t w) := by
  rw [admitTask, if_pos hwait, placeTask, ht]
  exact if_neg (Nat.not_le.mpr hroom)

theorem admitTask_hold {d : Dev} {w : Work} (hwait : waitOver d w = false) (hroom : d.cat.hold.length < 8192) :
    admitTask d w = some { d with cat := { d.cat with hold := d.cat.hold ++ [w] } } := by
  rw [admitTask, hwait, if_neg Bool.false_ne_true, if_neg (Nat.not_le.mpr hroom)]

/-- The task that intake takes, with its context's number in its descriptor (R230). -/
def delivered0 (d : Dev) (cr : Nat) (w0 : Work) : Work :=
  { w0 with ctx := BitVec.ofNat 7 (ctxNo d cr), desc := { w0.desc with q0 := setFld w0.desc.q0 24 7 (ctxNo d cr) } }

section
variable {d d3 : Dev} {p cr t : Nat} {st : Step} {w0 w : Work} {rest : List Work}

theorem intakeD_admit (hserved : servedCtx d p = some cr) (hstalled : tfind d.cat.stalled p = none)
    (hst : deliveringStep d cr = some st) (htodo : st.todo = w0 :: rest)
    (hcheck : intakeCheck (putStep d cr { st with todo := rest }) (delivered0 d cr w0) = none)
    (hadmit : admitTask (noteChecked (putStep d cr { st with todo := rest }) (delivered0 d cr w0)) (delivered0 d cr w0) = some d3) :
    intakeD p d = d3 := by
  unfold delivered0 at hcheck hadmit
  simp only [intakeD, hserved, hstalled, hst, htodo, hcheck, hadmit]

theorem intakeD_refuse {r : Refused} (hserved : servedCtx d p = some cr) (hstalled : tfind d.cat.stalled p = none)
    (hst : deliveringStep d cr = some st) (htodo : st.todo = w0 :: rest)
    (hcheck : intakeCheck (putStep d cr { st with todo := rest }) (delivered0 d cr w0) = some r) (hcode : r.code ≠ 0) :
    intakeD p d = catchFault (putStep d cr { st with todo := rest }) (delivered0 d cr w0) r := by
  unfold delivered0 at hcheck ⊢
  simp only [intakeD, hserved, hstalled, hst, htodo, hcheck, if_neg hcode]

theorem intakeResumeD_place (hserved : servedCtx d p = some cr) (hhold : d.cat.hold = []) (hstalled : tfind d.cat.stalled p = some w)
    (hadmit : admitTask d w = some d3) : intakeResumeD p d = { d3 with cat := { d3.cat with stalled := tdel d3.cat.stalled p } } := by
  have hheld : releaseHeld d = d := by rw [releaseHeld, hhold]; rfl
  simp only [intakeResumeD, hserved, hheld, hstalled, hadmit]

end

/-- Settles O20: the three outcomes of intake, and the placing of a stalled task. -/
theorem intake : Obligations.Intake := by
  intro s p cr hserved
  refine ⟨?_, fun w t hhold hstalled hwait ht hroom => ?_⟩
  · rintro st w0 _ rest _ _ hstalled hst htodo rfl rfl rfl
    obtain ⟨b, l, hnote⟩ := noteChecked_eq (putStep s.dev cr { st with todo := rest }) (delivered0 s.dev cr w0)
    refine ⟨fun t hcheck hwait ht hroom => ?_, fun hcheck hwait hroom => ?_, fun r hr hcode => ?_⟩
    · have hroom2 : (getDeque (noteChecked (putStep s.dev cr { st with todo := rest }) (delivered0 s.dev cr w0)) t).length < 64 := by
        rw [hnote]
        exact hroom
      have hu := intakeD_admit hserved hstalled hst htodo hcheck (admitTask_place hwait ht hroom2)
      rw [hnote] at hu
      exact ⟨_, onDev_next (f := intakeD p.toNat) hu, rfl, rfl, ⟨rfl, rfl, fun _ => rfl⟩, (getDeque_setDeque _ _ _ _).trans (if_pos rfl),
        fun v hv => (getDeque_setDeque _ _ _ _).trans (if_neg hv), rfl⟩
    · have hroom2 : (noteChecked (putStep s.dev cr { st with todo := rest }) (delivered0 s.dev cr w0)).cat.hold.length < 8192 := by
        rw [hnote]
        exact hroom
      have hu := intakeD_admit hserved hstalled hst htodo hcheck (admitTask_hold hwait hroom2)
      rw [hnote] at hu
      exact ⟨_, onDev_next (f := intakeD p.toNat) hu, rfl, rfl, rfl, rfl, rfl⟩
    · exact onDev_next (f := intakeD p.toNat) (intakeD_refuse hserved hstalled hst htodo hr hcode)
  · have hu := intakeResumeD_place hserved hhold hstalled (admitTask_place hwait ht hroom)
    exact ⟨_, onDev_next (f := intakeResumeD p.toNat) hu, rfl, rfl, rfl, (getDeque_setDeque _ _ _ _).trans (if_pos rfl),
      fun v hv => (getDeque_setDeque _ _ _ _).trans (if_neg hv), (tfind_tdel _ _ _).trans (if_pos rfl)⟩

/-! ## Pops and steals (R235, R236) -/

theorem findSome?_past {α β : Type} {g : α → Option β} {vs ws : List α} {v : α} {b : β} (hskip : ∀ q, q ∈ vs → g q = none) (hv : g v = some b) :
    (vs ++ v :: ws).findSome? g = some b := by
  rw [List.findSome?_append, List.findSome?_eq_none_iff.mpr hskip, Option.none_or, List.findSome?_cons, hv]

section
variable {d : Dev} {t p cr : Nat} {w : Work} {a : List Nat × Tbl Nat}

theorem idleTile_of_none {x : Tile} (hinbox : x.inbox = none) (hrun : x.run = none) (hended : x.ended = none) : idleTile x = true := by
  simp [idleTile, hinbox, hrun, hended]

theorem popD_fit {rest : List Work} (hp : partOfTile d t = some p) (hserved : servedCtx d p = some cr) (hidle : idleTile (getTile d t) = true)
    (hdeque : getDeque d t = rest ++ [w]) (hzero : (getTile d t).zeroing = []) (hfit : fitOn d w t = some a) :
    popD t d = setDeque (setTile d t { getTile d t with inbox := some (w, a.1, a.2) }) t rest := by
  simp [popD, hp, hserved, hdeque, hidle, hzero, hfit, popTail]

theorem stealD_fit {vs ws : List Nat} {v : Nat} {rest : List Work} (hp : partOfTile d t = some p) (hserved : servedCtx d p = some cr)
    (hidle : idleTile (getTile d t) = true) (hempty : getDeque d t = [])
    (hprobe : (probeOrder t).filter (fun v => tileIn d p v && !mappedOut d v) = vs ++ v :: ws)
    (hskip : ∀ q, q ∈ vs → getDeque d q = [] ∨ ∃ h r, getDeque d q = h :: r ∧ fitOn d h t = none)
    (hdeque : getDeque d v = w :: rest) (hfit : fitOn d w t = some a) :
    stealD t d = setDeque (setTile d t { getTile d t with inbox := some ({ w with stolen := true }, a.1, a.2) }) v rest := by
  unfold stealD
  simp only [hp, hserved, hidle, hempty, hprobe]
  rw [findSome?_past (b := (v, w, rest, a))]
  · rfl
  · intro q hq
    obtain hnone | ⟨h, r, hsome, hno⟩ := hskip q hq
    · simp only [hnone]
    · simp only [hsome, hno, Option.map_none]
  · simp only [hdeque, hfit, Option.map_some]

end

/-- Settles O21: a pop takes the tail of the tile's own deque, a steal the head of the first deque in its probe order that fits. -/
theorem popAndSteal : Obligations.PopAndSteal := by
  intro s t p cr hp hserved hinbox hrun hended
  have hidle := idleTile_of_none hinbox hrun hended
  refine ⟨fun w rest a hdeque hzero hfit => ?_, fun rest vs ws v w a hempty hprobe hskip hdeque hfit => ?_⟩
  · refine ⟨_, onDev_next (f := popD t.toNat) (popD_fit hp hserved hidle hdeque hzero hfit), rfl,
      (getDeque_setDeque _ _ _ _).trans (if_pos rfl), getTile_setTile_same _ _ _, fun v hv => ⟨?_, ?_⟩⟩
    · exact (getDeque_setDeque _ _ _ _).trans (if_neg hv)
    · exact (getTile_setTile _ _ _ _).trans (if_neg hv)
  · exact ⟨_, onDev_next (f := stealD t.toNat) (stealD_fit hp hserved hidle hempty hprobe hskip hdeque hfit), rfl,
      (getDeque_setDeque _ _ _ _).trans (if_pos rfl), getTile_setTile_same _ _ _,
      fun q hq => (getDeque_setDeque _ _ _ _).trans (if_neg hq), fun q hq => (getTile_setTile _ _ _ _).trans (if_neg hq)⟩

end Sys2Proof.Machine

/-! PROOFS. The start of a task, its completion record and its watchdog (R111, R112, R134, R201, R217, R237, R239, R240, R245). -/

namespace Sys2Proof.Machine

/-! ## The task that starts (R111, R112, R201) -/

section
variable (w : Work) (slots : List Nat) (bases : Tbl Nat) (now : Word64)

theorem taskIndex_lt : taskIndex w < 2 ^ 64 := (fld_lt w.desc.q0 0 24).trans (by decide)

theorem freshTask_getR (n : Nat) : getR (freshTask w slots bases now) n =
    if n = 32 then w.desc.q7 else if n = 33 then BitVec.ofNat 64 (taskIndex w) else 0 := by
  simp only [getR, freshTask, tget, eq_comm (b := n)]

end

section
variable {d : Dev} {t : Nat} {w : Work} {slots : List Nat} {bases : Tbl Nat}

theorem startD_fresh {d1 : Dev} (hinbox : (getTile d t).inbox = some (w, slots, bases)) (hsaved : savedOf d w = none)
    (hheld : startHeld d t w bases = false)
    (hload : codeLoad (installTask d t (freshTask w slots bases d.now)) t (freshTask w slots bases d.now) = .ok d1) : startD t d = d1 := by
  simp only [startD, hinbox, hheld, hsaved, hload]
  rfl

theorem codeLoad_none {k : Task} (h : bitOf k.work.desc.q0 35 = false) : codeLoad d t k = .ok d := by
  rw [codeLoad, h]
  rfl

theorem codeLoad_image {k : Task} {bs : List Byte} (h : bitOf k.work.desc.q0 35 = true) (hread : readImage d k.work = .ok bs) :
    codeLoad d t k = .ok (chargeRead (setTile d t (tilePut (getTile d t) (4 * tget k.base 0 0) bs)) k.work.cr.toNat
      (descCodeVa k.work.desc) bs.length) := by
  rw [codeLoad, if_pos h, hread]
  rfl

theorem getTile_markRelease (d : Dev) (t : Nat) (keep : List (Nat × Nat)) (u : Nat) : getTile (markRelease d t keep) u = getTile d u := rfl

/-- The tile that has taken task `k` over. -/
def installed (x : Tile) (k : Task) : Tile :=
  { x with inbox := none, kept := none, owner := k.work.ctx, ownerValid := true, run := some k, stopped := x.preReq && x.windowOver }

theorem getTile_installTask (d : Dev) (t u : Nat) (k : Task) :
    getTile (installTask d t k) u = if u = t then installed (getTile d t) k else getTile d u := by
  rw [installTask]
  exact getTile_setTile _ _ _ _

theorem installTask_sameMem (d : Dev) (t : Nat) (k : Task) : sameMem d (installTask d t k) := sameMem_of_tile rfl rfl rfl rfl

end

/-! ## The completion record (R239, R240) -/

theorem noteDone_more {d : Dev} {r : DoneRec} {st : Step} (hhold : d.cat.hold = []) (hst : stepOf d r.cr.toNat r.step = some st)
    (htodo : st.todo ≠ []) : noteDone d r = { d with cat := { d.cat with done := d.cat.done ++ [r] } } := by
  have hheld : releaseHeld { d with cat := { d.cat with done := d.cat.done ++ [r] } } = { d with cat := { d.cat with done := d.cat.done ++ [r] } } := by
    rw [releaseHeld, hhold]
    rfl
  have hstep : stepOf { d with cat := { d.cat with done := d.cat.done ++ [r] } } r.cr.toNat r.step = some st := hst
  have hover : stepOver { d with cat := { d.cat with done := d.cat.done ++ [r] } } r.cr st = false := by
    simp [stepOver, htodo]
  rw [noteDone, hheld, endStep, hstep]
  exact if_pos (by rw [hover]; rfl)

/-- What the dispatcher records of an ended task (R240, R243). -/
def doneOf (d : Dev) (e : Ended) : DoneRec :=
  { cr := e.work.cr, step := e.work.step, index := taskIndex e.work
    flags := if e.satSet then (e.flags ||| chainFlags d e.work) ||| flAccSat else e.flags ||| chainFlags d e.work
    withdrawn := false, ticks := e.finish.toNat - e.start.toNat - e.away }

theorem complD_more {d d1 : Dev} {t : Nat} {e : Ended} {st : Step} (hended : (getTile d t).ended = some e) (hhold : d.cat.hold = [])
    (hst : stepOf d e.work.cr.toNat e.work.step = some st) (htodo : st.todo ≠ [])
    (hwrite : writeVa d e.work.cr.toNat (stepModel d e.work.cr.toNat e.work.step) (descComplVa e.work.desc)
      (complBytes (taskIndex e.work) (getCtx d e.work.cr.toNat).vctx.toNat e.work.stolen t e.flags.toNat
          (e.flags ||| chainFlags d e.work).toNat 0 e.start.toNat e.finish.toNat (Config.freeCycles d.fresh).toNat
          e.resumes.toNat) = .ok d1) :
    complD t d = { setTile { d1 with fresh := d1.fresh + 1 } t { getTile d1 t with ended := none } with
      cat := { d1.cat with done := d1.cat.done ++ [doneOf d e] } } ∧ d1.cat = d.cat := by
  have hsame := writeVa_sameButMemory hwrite
  have hcat : d1.cat = d.cat := by
    obtain ⟨_, _, _, _, rfl⟩ := hsame
    rfl
  have hst1 : stepOf (setTile { d1 with fresh := d1.fresh + 1 } t { getTile d1 t with ended := none }) e.work.cr.toNat e.work.step = some st := by
    obtain ⟨_, _, _, _, rfl⟩ := hsame
    exact hst
  refine ⟨Eq.trans ?_ (noteDone_more (r := doneOf d e) (hcat ▸ hhold) hst1 htodo), hcat⟩
  simp only [complD, hended, hwrite]
  rfl

/-- Settles O22: what a task starts with, its completion record, and its watchdog's two sides. -/
theorem taskStartAndCompletion : Obligations.TaskStartAndCompletion := by
  refine ⟨?_, fun s t => ⟨?_, ?_⟩⟩
  · intro s t w slots bases hs hinbox hsaved hheld
    refine ⟨freshTask w slots bases s.dev.now, freshTask_getR .., ?_, fun n h0 h1 => ?_, fun _ _ => rfl, BitVec.toNat_ofNat _ _, rfl, rfl, fun hno => ?_,
      fun bs hyes hread => ?_⟩
    · rw [getS, freshTask_getR]
      exact (BitVec.toNat_ofNat _ _).trans (Nat.mod_eq_of_lt (taskIndex_lt w))
    · rw [freshTask_getR, if_neg h0, if_neg h1]
    · have hu := startD_fresh hinbox hsaved hheld (codeLoad_none hno)
      have htile := (getTile_installTask s.dev t.toNat t.toNat (freshTask w slots bases s.dev.now)).trans (if_pos rfl)
      exact ⟨_, onDev_next (f := startD t.toNat) hu, rfl, installTask_sameMem _ _ _, congrArg Tile.run htile, congrArg Tile.owner htile,
        congrArg Tile.ownerValid htile, congrArg Tile.inbox htile⟩
    · have hu := startD_fresh hinbox hsaved hheld (codeLoad_image hyes hread)
      obtain ⟨b, hb⟩ := chargeRead_eq (setTile (installTask s.dev t.toNat (freshTask w slots bases s.dev.now)) t.toNat (tilePut
        (getTile (installTask s.dev t.toNat (freshTask w slots bases s.dev.now)) t.toNat) (4 * tget bases 0 0) bs)) w.cr.toNat
        (descCodeVa w.desc) bs.length
      have htile := (getTile_installTask s.dev t.toNat t.toNat (freshTask w slots bases s.dev.now)).trans (if_pos rfl)
      have hmem (v : Nat) : (getTile (installTask s.dev t.toNat (freshTask w slots bases s.dev.now)) v).mem = (getTile s.dev v).mem :=
        (installTask_sameMem s.dev t.toNat _).2.2 v
      obtain ⟨hin, hout, -⟩ := stored (getTile (installTask s.dev t.toNat (freshTask w slots bases s.dev.now)) t.toNat) (4 * tget bases 0 0) bs
        (by rw [hmem]; exact safe_tile hs _)
      have hput := getTile_setTile_same (installTask s.dev t.toNat (freshTask w slots bases s.dev.now)) t.toNat (tilePut
        (getTile (installTask s.dev t.toNat (freshTask w slots bases s.dev.now)) t.toNat) (4 * tget bases 0 0) bs)
      rw [hmem] at hout
      refine ⟨_, onDev_next (f := startD t.toNat) (hu.trans hb), rfl, ⟨rfl, rfl, fun v hv => ?_⟩, ?_, ?_, ?_, fun i hi => ?_⟩
      · refine (congrArg Tile.mem ((getTile_setTile _ _ _ _).trans (if_neg hv))).trans (hmem v)
      · exact (congrArg Tile.run hput).trans (congrArg Tile.run htile)
      · exact (congrArg Tile.owner hput).trans (congrArg Tile.owner htile)
      · exact (congrArg (fun y : Tile => memGets y.mem (4 * tget bases 0 0) bs.length) hput).trans hin
      · exact (congrArg (fun y : Tile => memGet y.mem i) hput).trans (hout i hi)
  · rintro e st _ d1 hended hhold hst htodo rfl hwrite
    obtain ⟨hu, hcat⟩ := complD_more hended hhold hst htodo hwrite
    refine ⟨_, doneOf s.dev e, onDev_next (f := complD t.toNat) hu, rfl, sameMem_of_tile rfl rfl rfl rfl, ?_, ?_, rfl, rfl, rfl, rfl⟩
    · exact congrArg Tile.ended (getTile_setTile_same _ _ _)
    · rw [hcat]
  · intro k hrun
    refine ⟨fun h => ?_, fun h => ?_⟩
    · exact onDev_next (f := watchdogD t.toNat) (by simp only [watchdogD, hrun, if_neg (Nat.not_lt.mpr h)]; rfl)
    · exact onDev_next (f := watchdogD t.toNat) (by simp only [watchdogD, hrun, if_pos h])

end Sys2Proof.Machine

/-! PROOFS. Registration of models and the end of one (R280, R488). -/

namespace Sys2Proof.Machine

/-! ## Commands of the ring (R480, R486) -/

theorem takeCmd_ok {d d1 : Dev} {fn vctx : Nat} {want : List Byte → Bool} {t : Taken} {act : Dev → Taken → Dev}
    (h : takes d fn vctx want = some (d1, t)) : takeCmd d fn vctx want act = coxSettle (act d1 t) := by
  obtain ⟨hctx, hmay, hfn, hread, hknown, hwant, hreserved, hadv⟩ := takes_some h
  have ht : ({ cr := t.cr, fn := fn, e := t.e } : Taken) = t := by rw [← hfn]
  unfold takeCmd
  simp only [hctx, hmay, hread, hknown, hwant, hreserved, hadv, ht]
  rfl

/-- A command whose meaning is `takeCmd` with `act` does `act` to what it takes. -/
theorem onDev_takes {s : State} {d d2 : Dev} {fn vctx : Nat} {want : List Byte → Bool} {t : Taken} {act : Dev → Taken → Dev}
    (h : takes s.dev fn vctx want = some (d, t)) (hact : act d t = d2) :
    Host.Outcome.next { s with dev := takeCmd s.dev fn vctx want act } = (Host.Outcome.next (s.settled d2) : Answer) := by
  rw [takeCmd_ok h, hact]
  rfl

/-! ## Reads that are charged -/

/-- A device that differs from another at most in the regulators' buckets. -/
def sameButBuckets (d d' : Dev) : Prop := ∃ b, d' = { d with pmg := { d.pmg with buckets := b } }

theorem sameButBuckets.trans {a b c : Dev} (hab : sameButBuckets a b) (hbc : sameButBuckets b c) : sameButBuckets a c := by
  obtain ⟨_, rfl⟩ := hab
  obtain ⟨_, rfl⟩ := hbc
  exact ⟨_, rfl⟩

theorem readVaC_charged {d d1 : Dev} {cr va n : Nat} {mdl : Option Nat} {bs : List Byte} (h : readVaC d cr mdl va n = .ok (d1, bs)) :
    sameButBuckets d d1 := by
  unfold readVaC at h
  cases hread : readVa d cr mdl va n with
  | error e => rw [hread] at h; cases h
  | ok r =>
    rw [hread] at h
    cases h
    exact chargeRead_eq d cr va n

theorem readRecords_charged {d d1 : Dev} {cr va size n : Nat} {l : List (List Byte)} (h : readRecords d cr va size n = .ok (d1, l)) :
    sameButBuckets d d1 := by
  unfold readRecords at h
  cases hread : readVaC d cr none va (size * n) with
  | error e => rw [hread] at h; cases h
  | ok r =>
    rw [hread] at h
    cases h
    exact readVaC_charged hread

/-! ## The lowest free number -/

theorem findFrom_first {p : Nat → Bool} {lo n i : Nat} (hlo : lo ≤ i) (hi : i < lo + n) (hp : p i = true)
    (hfirst : ∀ j, lo ≤ j → j < i → p j = false) : findFrom p lo n = some i := by
  induction n generalizing lo with
  | zero => omega
  | succ k ih =>
    rw [findFrom]
    obtain rfl | hne := Nat.eq_or_lt_of_le hlo
    · rw [if_pos hp]
    · rw [hfirst lo (Nat.le_refl lo) hne, if_neg Bool.false_ne_true]
      exact ih hne (by omega) fun j hj => hfirst j (by omega)

/-! ## MODEL_REGISTER and its end (R280, R488) -/

section
variable {d d1 d2 d3 : Dev} {t : Taken} {b : List Byte} {gs ds : List (List Byte)}

theorem modelRegisterT_read (hnew : modelOf d t.fn (leAt t.e 12 2) = none) (hroom : d.cox.models.length < 16384)
    (halign : leAt t.e 16 8 % 64 = 0) (hread : readVaC d t.cr none (leAt t.e 16 8) 128 = .ok (d1, b)) (hdesc : descOk b = true)
    (hgs : readRecords d1 t.cr (leAt b 64 8) 64 (leAt b 42 2) = .ok (d2, gs))
    (hds : readRecords d2 t.cr (leAt b 72 8) 16 (leAt b 44 2) = .ok (d3, ds)) :
    (refusal d3 (modelOfDesc d3 t (leAt t.e 12 2) b (gs.map descOf) (ds.map deckOf)) ((leAt b 41 1).testBit 7) = none →
      modelRegisterT d t = reply (enterModel d3 t (leAt t.e 12 2) (modelOfDesc d3 t (leAt t.e 12 2) b (gs.map descOf) (ds.map deckOf))) t 0) ∧
    (∀ c, refusal d3 (modelOfDesc d3 t (leAt t.e 12 2) b (gs.map descOf) (ds.map deckOf)) ((leAt b 41 1).testBit 7) = some c →
      modelRegisterT d t = refuseModel d3 t c) := by
  have hlimit : ¬ modelLimit ≤ d.cox.models.length := Nat.not_le.mpr hroom
  constructor
  · intro hrefusal
    simp only [modelRegisterT, hnew, Option.isSome_none, Bool.false_eq_true, if_false, hlimit, halign, ne_eq, not_true_eq_false, hread, hdesc,
      Bool.not_true, hgs, hds, hrefusal]
  · intro c hrefusal
    simp only [modelRegisterT, hnew, Option.isSome_none, Bool.false_eq_true, if_false, hlimit, halign, ne_eq, not_true_eq_false, hread, hdesc,
      Bool.not_true, hgs, hds, hrefusal]

theorem enterModel_lowest {vid i : Nat} {m : Model} (hi : i < 16384) (hfree : getModel d i = none) (hfirst : ∀ j, j < i → getModel d j ≠ none) :
    enterModel d t vid m = pushTap { setModel { d with fresh := d.fresh + 1 } i { m with attn := some (Config.attn d.fresh) } with
      cox := { (setModel { d with fresh := d.fresh + 1 } i { m with attn := some (Config.attn d.fresh) }).cox with
        vmods := tset d.cox.vmods (t.fn * 16384 + vid) i } } (.register m.part m.fn (BitVec.ofNat 14 i) m.vid) := by
  have hfind : findFrom (fun i => (getModel d i).isNone) 0 modelLimit = some i :=
    findFrom_first (Nat.zero_le i) (by rw [modelLimit]; omega) (by rw [hfree]; rfl) fun j _ hj => by
      cases hj' : getModel d j with
      | none => exact absurd hj' (hfirst j hj)
      | some _ => rfl
  rw [enterModel, hfind]
  rfl

theorem forgetModel_gone {i : Nat} {m : Model} (hm : getModel d i = some m) :
    ∃ d2, forgetModel d i = d2 ∧ getModel d2 i = none ∧ modelOf d2 m.fn.toNat m.vid.toNat = none := by
  unfold forgetModel
  rw [hm]
  exact ⟨_, rfl, (tfind_tdel _ _ _).trans (if_pos rfl), (tfind_tdel _ _ _).trans (if_pos rfl)⟩

theorem modelUnregisterT_free {i : Nat} (hi : modelOf d t.fn (leAt t.e 12 2) = some i) (huse : modelInUse d i = false) :
    modelUnregisterT d t = reply (forgetModel d i) t 0 := by
  simp only [modelUnregisterT, hi, huse]
  rfl

theorem modelUnregisterT_used {i : Nat} (hi : modelOf d t.fn (leAt t.e 12 2) = some i) (huse : modelInUse d i = true) :
    modelUnregisterT d t = reply d t 5 := by
  simp only [modelUnregisterT, hi, huse]
  rfl

end

/-- Settles O24: the descriptor and its records are read as charged traffic, and the model is entered under the lowest free ID. -/
theorem modelRegistration : Obligations.ModelRegistration := by
  intro s fn vctx d t
  refine ⟨?_, ?_⟩
  · rintro htakes d1 d2 d3 b gs ds _ hnew hroom halign hread hdesc hgs hds rfl
    obtain ⟨hok, hrefused⟩ := modelRegisterT_read hnew hroom halign hread hdesc hgs hds
    obtain ⟨bk, rfl⟩ := ((readVaC_charged hread).trans (readRecords_charged hgs)).trans (readRecords_charged hds)
    refine ⟨fun i hrefusal hi hfree hfirst => ?_, fun c hrefusal => onDev_takes htakes (hrefused c hrefusal)⟩
    · have henter := enterModel_lowest (d := { d with pmg := { d.pmg with buckets := bk } }) (t := t) (vid := leAt t.e 12 2) (m := modelOfDesc
        { d with pmg := { d.pmg with buckets := bk } } t (leAt t.e 12 2) b (gs.map descOf) (ds.map deckOf)) hi hfree hfirst
      rw [henter] at hok
      refine ⟨_, onDev_takes htakes (hok hrefusal), (tfind_tset _ _ _ _).trans (if_pos rfl),
        fun j hj => (tfind_tset _ _ _ _).trans (if_neg hj), (tfind_tset _ _ _ _).trans (if_pos rfl), rfl⟩
  · intro htakes i m hi hm
    refine ⟨fun huse => ?_, fun huse => ?_⟩
    · obtain ⟨d2, hforget, hgone, hid⟩ := forgetModel_gone hm
      exact ⟨d2, onDev_takes htakes (by rw [modelUnregisterT_free hi huse, hforget]), hgone, hid⟩
    · exact onDev_takes htakes (modelUnregisterT_used hi huse)

end Sys2Proof.Machine

/-! PROOFS. The commands of a slot: SEQ_ADD, SEQ_APPEND, parking, cancelling and retiring; policies, lookups and fences (R274, R277,
R279, R293, R299, R308, R310, R313, R314, R333, R334, R489, R490, R492, R493). -/

namespace Sys2Proof.Machine

/-! ## Slots that become READY and lookups that are queued (R273, R292, R332) -/

theorem getSlot_setSlot_same (d : Dev) (i : Nat) (x : Slot) : getSlot (setSlot d i x) i = x := by rw [getSlot_setSlot, if_pos rfl]

theorem getSlot_setSlot_ne {d : Dev} {i j : Nat} {x : Slot} (h : j ≠ i) : getSlot (setSlot d i x) j = getSlot d j := by
  rw [getSlot_setSlot, if_neg h]

/-- A slot that has become READY (R273, R292). -/
def readied (d : Dev) (s : Slot) : Slot :=
  { s with st := .ready, hot := false, readyAt := d.now, readySeq := d.cox.readyCtr, starved := false }

theorem makeReady_one (d : Dev) (i : Nat) :
    getSlot (makeReady d [i]) i = readied d (getSlot d i) ∧ ∀ j, j ≠ i → getSlot (makeReady d [i]) j = getSlot d j :=
  ⟨getSlot_setSlot_same _ _ _, fun _ h => getSlot_setSlot_ne h⟩

theorem queueLookup_slots (d : Dev) (i : Nat) : { getSlot (queueLookup d i) i with lookup := false } = { getSlot d i with lookup := false } ∧
    ∀ j, j ≠ i → getSlot (queueLookup d i) j = getSlot d j := by
  unfold queueLookup
  dsimp only
  split
  · have hsame := getSlot_setSlot_same d i { getSlot d i with lookup := true }
    exact ⟨congrArg (fun s : Slot => { s with lookup := false }) hsame, fun j h => getSlot_setSlot_ne h⟩
  · exact ⟨rfl, fun _ _ => rfl⟩

theorem queueLookup_empty {d : Dev} {i : Nat} (h : (getSlot d i).segs = []) : queueLookup d i = d := by
  simp [queueLookup, h]

/-! ## SEQ_ADD (R277, R489) -/

section
variable {d : Dev} {t : Taken} {i : Nat}

theorem seqAddT_refused (hi : i = (vfWin d t.fn).1 + cHandle t % 65536) :
    ((vfWin d t.fn).2 ≤ cHandle t % 65536 → seqAddT d t = reply d t 2) ∧
      (cHandle t % 65536 < (vfWin d t.fn).2 → (getSlot d i).st = .quarantined → seqAddT d t = reply d t 4) ∧
      (cHandle t % 65536 < (vfWin d t.fn).2 → (getSlot d i).st ≠ .quarantined → (getSlot d i).st ≠ .free → seqAddT d t = reply d t 3) := by
  subst hi
  refine ⟨fun hout => ?_, fun hin hq => ?_, fun hin hq hf => ?_⟩
  · exact if_pos hout
  · exact (if_neg (Nat.not_le.mpr hin)).trans (if_pos hq)
  · exact ((if_neg (Nat.not_le.mpr hin)).trans (if_neg hq)).trans (if_pos hf)

/-- The device after SEQ_ADD has set slot `i` up as `y`. -/
def slotAdded (d : Dev) (i : Nat) (y : Slot) : Dev :=
  queueLookup (if y.segs.isEmpty then setSlot d i y else makeReady (setSlot d i y) [i]) i

theorem seqAddT_ok {m : Nat} {mo : Model} (hi : i = (vfWin d t.fn).1 + cHandle t % 65536) (hin : cHandle t % 65536 < (vfWin d t.fn).2)
    (hfree : (getSlot d i).st = .free) (hn : leAt t.e 40 4 ≤ 262144) (hdepth : leAt t.e 44 1 % 16 ≤ 8) (hmax : leAt t.e 44 1 / 16 ≤ 8)
    (hm : modelOf d t.fn (leAt t.e 12 2) = some m) (hmo : getModel d m = some mo) (hsample : mo.sampleVa ≠ 0)
    (hgroup : groupOk d (getCtx d t.cr).part.toNat (leAt t.e 14 1) mo = true) :
    seqAddT d t = complete (slotAdded d i (newSlot d t (getSlot d i) m mo)) t.cr (cNocpl t) (cId t) 0x10 0
      (viewHandle (slotAdded d i (newSlot d t (getSlot d i) m mo)) t.fn (slotHandle (slotAdded d i (newSlot d t (getSlot d i) m mo)) i)) 0 0 := by
  subst hi
  have hrange : (decide (262144 < leAt t.e 40 4) || decide (8 < leAt t.e 44 1 % 16) || decide (8 < leAt t.e 44 1 / 16)) = false := by
    simp only [Bool.or_eq_false_iff, decide_eq_false_iff_not]
    omega
  simp only [seqAddT, Nat.not_le.mpr hin, hfree, if_false, hrange, hm, hmo, hsample, hgroup, ne_eq, not_true_eq_false]
  rfl

theorem slotAdded_slots (y : Slot) :
    (y.segs = [] → getSlot (slotAdded d i y) i = y) ∧
      (y.segs ≠ [] → { getSlot (slotAdded d i y) i with lookup := false } = { readied d y with lookup := false }) ∧
      ∀ j, j ≠ i → getSlot (slotAdded d i y) j = getSlot d j := by
  refine ⟨fun hsegs => ?_, fun hsegs => ?_, fun j hj => ?_⟩
  · rw [slotAdded, hsegs]
    dsimp only [List.isEmpty_nil]
    rw [if_pos rfl, queueLookup_empty (by rw [getSlot_setSlot_same, hsegs]), getSlot_setSlot_same]
  · have hempty : y.segs.isEmpty = false := by simpa using hsegs
    rw [slotAdded, hempty, if_neg Bool.false_ne_true, (queueLookup_slots _ i).1, (makeReady_one _ i).1, getSlot_setSlot_same]
    rfl
  · rw [slotAdded, (queueLookup_slots _ i).2 j hj]
    split
    · exact getSlot_setSlot_ne hj
    · rw [(makeReady_one _ i).2 j hj, getSlot_setSlot_ne hj]

end

/-- Settles O25: the checks in their order, then the slot set up, made READY with tokens, and its lookup queued. -/
theorem sequenceAdd : Obligations.SequenceAdd := by
  intro s fn vctx d t i htakes hi
  obtain ⟨hout, hquar, hbusy⟩ := seqAddT_refused hi
  refine ⟨fun h => onDev_takes htakes (hout h), fun h hq => onDev_takes htakes (hquar h hq), fun h hq hf => onDev_takes htakes (hbusy h hq hf), ?_⟩
  intro m mo hin hfree hn hdepth hmax hm hmo hsample hgroup
  obtain ⟨hnone, htokens, hother⟩ := slotAdded_slots (d := d) (i := i) (newSlot d t (getSlot d i) m mo)
  refine ⟨_, onDev_takes htakes (seqAddT_ok hi hin hfree hn hdepth hmax hm hmo hsample hgroup), fun h0 => hnone ?_, fun h0 => ?_, hother⟩
  · simp [newSlot, h0]
  · exact htokens (by simp [newSlot, h0])

/-! ## SEQ_APPEND (R308, R490) -/

section
variable {d : Dev} {t : Taken} {i : Nat}

theorem onSlot_ok {act : Nat → Slot → Dev} (h : slotOf d t = .ok i) : onSlot d t act = act i (getSlot d i) := by rw [onSlot, h]

theorem onSlot_error {act : Nat → Slot → Dev} {n : Nat} (h : slotOf d t = .error n) : onSlot d t act = reply d t n := by rw [onSlot, h]

/-- The device after SEQ_APPEND has updated slot `i` to `y`. -/
def slotAppended (d : Dev) (t : Taken) (i : Nat) (s : Slot) : Dev :=
  let d2 := if s.st = .idle then makeReady (setSlot d i (appendTo t s)) [i] else setSlot d i (appendTo t s)
  if leAt t.e 40 4 = 0 then d2 else queueLookup d2 i

theorem slotAppended_slots (s : Slot) :
    { getSlot (slotAppended d t i s) i with lookup := false } =
        (if s.st = .idle then { readied d (appendTo t s) with lookup := false } else { appendTo t s with lookup := false }) ∧
      ∀ j, j ≠ i → getSlot (slotAppended d t i s) j = getSlot d j := by
  have hready : { getSlot (if s.st = .idle then makeReady (setSlot d i (appendTo t s)) [i] else setSlot d i (appendTo t s)) i with lookup := false } =
      (if s.st = .idle then { readied d (appendTo t s) with lookup := false } else { appendTo t s with lookup := false }) := by
    split
    · rw [(makeReady_one _ i).1, getSlot_setSlot_same]
      rfl
    · rw [getSlot_setSlot_same]
  have hother : ∀ j, j ≠ i → getSlot (if s.st = .idle then makeReady (setSlot d i (appendTo t s)) [i] else setSlot d i (appendTo t s)) j =
      getSlot d j := by
    intro j hj
    split
    · rw [(makeReady_one _ i).2 j hj, getSlot_setSlot_ne hj]
    · exact getSlot_setSlot_ne hj
  rw [slotAppended]
  split
  · exact ⟨hready, hother⟩
  · exact ⟨(queueLookup_slots _ i).1.trans hready, fun j hj => ((queueLookup_slots _ i).2 j hj).trans (hother j hj)⟩

theorem seqAppendT_refused (h : slotOf d t = .ok i)
    (hst : (getSlot d i).st = .parked ∨ (getSlot d i).st = .cancelling ∨ (getSlot d i).st = .recalling) : seqAppendT d t = reply d t 5 := by
  rw [seqAppendT, onSlot_ok h]
  obtain hst | hst | hst := hst <;> simp [hst]

/-- SEQ_APPEND of a slot that may take tokens appends on the device that the read of its token tree, if it names one, has left. -/
theorem seqAppendT_ok (h : slotOf d t = .ok i) (hst : (getSlot d i).st = .idle ∨ (getSlot d i).st = .ready ∨ (getSlot d i).st = .active)
    (hok : appendOk t (getSlot d i) = true)
    (htree : (leAt t.e 12 1).testBit 5 = true → ∃ d1 bs, readVaC d t.cr none (leAt t.e 48 8) (8 * (leAt t.e 44 1 - 1)) = .ok (d1, bs) ∧
      treeOk bs (leAt t.e 44 1) = true) :
    ∃ d1, sameButBuckets d d1 ∧ seqAppendT d t = reply (slotAppended d1 t i (getSlot d i)) t 0 := by
  have hmay : ((getSlot d i).st ≠ .idle && (getSlot d i).st ≠ .ready && (getSlot d i).st ≠ .active : Bool) = false := by
    obtain hst | hst | hst := hst <;> simp [hst]
  rw [seqAppendT, onSlot_ok h, hmay, if_neg Bool.false_ne_true, hok, Bool.not_true, if_neg Bool.false_ne_true]
  cases hbit : (leAt t.e 12 1).testBit 5 with
  | false => exact ⟨d, ⟨_, rfl⟩, rfl⟩
  | true =>
    obtain ⟨d1, bs, hread, hbs⟩ := htree hbit
    refine ⟨d1, readVaC_charged hread, ?_⟩
    simp only [hread, hbs]
    rfl

end

/-- Settles O26: the fields are set in one slot; an IDLE slot then becomes READY, and a lookup may be queued. -/
theorem sequenceAppend : Obligations.SequenceAppend := by
  intro s fn vctx d t i htakes hslot
  refine ⟨fun hst hok htree => ?_, fun hst => onDev_takes htakes (seqAppendT_refused hslot hst)⟩
  obtain ⟨_, ⟨b, rfl⟩, hdone⟩ := seqAppendT_ok hslot hst hok htree
  obtain ⟨hself, hother⟩ := slotAppended_slots (d := { d with pmg := { d.pmg with buckets := b } }) (t := t) (i := i) (getSlot d i)
  refine ⟨_, onDev_takes htakes hdone, fun hidle => hself.trans (if_neg hidle), fun hidle => ?_, hother⟩
  have hready := hself.trans (if_pos hidle)
  exact ⟨(congrArg Slot.st hready :), (congrArg Slot.readyAt hready :), (congrArg Slot.segs hready :)⟩

/-! ## Parking (R310, R313) -/

section
variable {d d1 : Dev} {t : Taken} {i : Nat}

/-- A device in which slot `i` is parked as `q` asks. -/
def slotParked (d d1 : Dev) (i : Nat) (q : ParkReq) : Dev :=
  parkBit (setSlot d1 i { getSlot d i with st := .parked, park := some q, parkPend := none, parkedAt := d.now, tierGroup := q.group }) i

theorem mem_parkBit (d : Dev) (i : Nat) : i ∈ (parkBit d i).key.parked := by
  unfold parkBit
  split
  next h => simpa using h
  next => exact List.mem_cons_self

theorem not_mem_unparkBit (d : Dev) (i : Nat) : i ∉ (unparkBit d i).key.parked := by simp [unparkBit]

theorem seqParkT_free (h : slotOf d t = .ok i) (httl : leAt t.e 12 4 ≠ 0) (hst : (getSlot d i).st = .idle ∨ (getSlot d i).st = .ready)
    (hset : setParked d i true = .ok d1) : seqParkT d t = reply (slotParked d d1 i (parkReq d t)) t 0 := by
  rw [seqParkT, onSlot_ok h]
  obtain hst | hst := hst <;> simp only [hst, httl, if_false, parkSlot, hset, slotParked]

theorem seqParkT_active (h : slotOf d t = .ok i) (httl : leAt t.e 12 4 ≠ 0) (hst : (getSlot d i).st = .active) :
    seqParkT d t = reply (setSlot d i { getSlot d i with parkPend := some (parkReq d t) }) t 0 := by
  rw [seqParkT, onSlot_ok h]
  simp only [hst, httl, if_false]

theorem seqParkT_parked (h : slotOf d t = .ok i) (httl : leAt t.e 12 4 ≠ 0) (hst : (getSlot d i).st = .parked) :
    seqParkT d t = reply (setSlot d i { getSlot d i with park := some (parkReq d t), tierGroup := (parkReq d t).group }) t 0 := by
  rw [seqParkT, onSlot_ok h]
  simp only [hst, httl, if_false]

theorem seqResumeT_pier (h : slotOf d t = .ok i) (hst : (getSlot d i).st = .parked) (hremote : (getSlot d i).remote = false)
    (hset : setParked d i false = .ok d1) :
    seqResumeT d t = reply (unparkBit (setSlot d1 i { getSlot d i with st := .idle, park := none, demote := none }) i) t 0 := by
  rw [seqResumeT, onSlot_ok h]
  simp only [hst, hremote, resumeInPier, hset, ne_eq, not_true_eq_false, if_false]

theorem seqResumeT_refused (h : slotOf d t = .ok i) (hst : (getSlot d i).st ≠ .parked) : seqResumeT d t = reply d t 5 := by
  rw [seqResumeT, onSlot_ok h]
  exact if_pos hst

end

/-- Settles O27: the state of the slot decides, and parking and resuming change the slot and its bit. -/
theorem parkAndResume : Obligations.ParkAndResume := by
  intro s fn vctx d t i hslot
  refine ⟨fun htakes httl => ⟨fun d1 hst hset => ?_, fun hst => ?_, fun hst => ?_⟩, fun htakes => ⟨fun d1 hst hremote hset => ?_, fun hst => ?_⟩⟩
  · have hpark := getSlot_setSlot_same d1 i { getSlot d i with
      st := .parked, park := some (parkReq d t), parkPend := none, parkedAt := d.now, tierGroup := (parkReq d t).group }
    exact ⟨slotParked d d1 i (parkReq d t), onDev_takes htakes (seqParkT_free hslot httl hst hset), (congrArg Slot.st hpark :),
      (congrArg Slot.park hpark :), (congrArg Slot.parkedAt hpark :), mem_parkBit _ _⟩
  · exact onDev_takes htakes (seqParkT_active hslot httl hst)
  · exact onDev_takes htakes (seqParkT_parked hslot httl hst)
  · have hidle := getSlot_setSlot_same d1 i { getSlot d i with st := .idle, park := none, demote := none }
    exact ⟨_, onDev_takes htakes (seqResumeT_pier hslot hst hremote hset), (congrArg Slot.st hidle :), (congrArg Slot.park hidle :),
      not_mem_unparkBit _ _⟩
  · exact onDev_takes htakes (seqResumeT_refused hslot hst)

/-! ## Cancelling and retiring (R274, R277, R279, R299) -/

/-- A slot that has been released: FREE with the next generation, or QUARANTINED with its own (R274, R279). -/
def freed (g : BitVec 16) (s : Slot) : Prop := (s.st = .free ∧ s.gen = nextGen g) ∨ (s.st = .quarantined ∧ s.gen = g)

theorem settleSlot_freed {d : Dev} {i : Nat} (h : (getSlot d i).st = .quarantined) : freed (getSlot d i).gen (getSlot (settleSlot d i) i) := by
  unfold settleSlot
  split
  · rw [vacateSlot, getSlot_setSlot_same]
    exact .inl ⟨rfl, rfl⟩
  · exact .inr ⟨h, rfl⟩

theorem settleSlot_setSlot_freed (d : Dev) (i : Nat) {x : Slot} (h : x.st = .quarantined) :
    freed x.gen (getSlot (settleSlot (setSlot d i x) i) i) := by
  have hfreed := settleSlot_freed (d := setSlot d i x) (i := i) (by rw [getSlot_setSlot_same, h])
  rwa [getSlot_setSlot_same] at hfreed

theorem releaseSlot_freed (d : Dev) (i : Nat) (cold : Bool) : freed (getSlot d i).gen (getSlot (releaseSlot d i cold) i) :=
  settleSlot_setSlot_freed _ i (x := { Slot.init with
    gen := (getSlot d i).gen, st := .quarantined, owner := some (getSlot d i).cr, cr := (getSlot d i).cr, fn := (getSlot d i).fn
    part := (getSlot d i).part, model := (getSlot d i).model, be := (getSlot d i).be, list := { (getSlot d i).list with frames := [] } }) rfl

section
variable {d : Dev} {t : Taken} {i : Nat}

theorem seqCancelT_release (h : slotOf d t = .ok i) (hst : (getSlot d i).st = .idle ∨ (getSlot d i).st = .ready ∨ (getSlot d i).st = .parked ∨
    ((getSlot d i).st = .active ∧ (getSlot d i).leaving = true)) : seqCancelT d t = reply (releaseSlot d i false) t 0 := by
  rw [seqCancelT, onSlot_ok h]
  obtain hst | hst | hst | ⟨hst, hleaving⟩ := hst
  · simp only [hst]
  · simp only [hst]
  · simp only [hst]
  · simp only [hst, hleaving, if_true]

theorem seqCancelT_active (h : slotOf d t = .ok i) (hst : (getSlot d i).st = .active) (hleaving : (getSlot d i).leaving = false) :
    seqCancelT d t = reply (cancelSteps (setSlot d i { getSlot d i with st := .cancelling }) (getSlot d i).cr.toNat i) t 0 := by
  rw [seqCancelT, onSlot_ok h]
  simp only [hst, hleaving, Bool.false_eq_true, if_false]

theorem seqCancelT_cancelling (h : slotOf d t = .ok i) (hst : (getSlot d i).st = .cancelling) : seqCancelT d t = reply d t 0 := by
  rw [seqCancelT, onSlot_ok h]
  simp only [hst]

theorem seqCancelT_recalling (h : slotOf d t = .ok i) (hst : (getSlot d i).st = .recalling) :
    seqCancelT d t = fencesOf (reply (releaseSlot (abandonRecall d (getSlot d i)) i false) t 0) (getSlot d i).cr.toNat := by
  rw [seqCancelT, onSlot_ok h]
  simp only [hst]

theorem seqRetireT_release (h : slotOf d t = .ok i) (hst : (getSlot d i).st = .idle ∨ (getSlot d i).st = .ready ∨ (getSlot d i).st = .parked) :
    seqRetireT d t = reply (releaseSlot d i false) t 0 := by
  rw [seqRetireT, onSlot_ok h]
  obtain hst | hst | hst := hst <;> simp only [hst]

theorem seqRetireT_active (h : slotOf d t = .ok i) (hst : (getSlot d i).st = .active) :
    seqRetireT d t = reply (setSlot d i { getSlot d i with retirePend := true }) t 0 := by
  rw [seqRetireT, onSlot_ok h]
  simp only [hst]

theorem seqRetireT_refused (h : slotOf d t = .ok i) (hst : (getSlot d i).st = .cancelling ∨ (getSlot d i).st = .recalling) :
    seqRetireT d t = reply d t 5 := by
  rw [seqRetireT, onSlot_ok h]
  obtain hst | hst := hst <;> simp only [hst]

end

/-- Settles O28: the slot's state selects the outcome, and a released slot is FREE or QUARANTINED. -/
theorem cancelAndRetire : Obligations.CancelAndRetire := by
  refine ⟨?_, fun s fn vctx d t n hslot => ⟨fun htakes => onDev_takes htakes (onSlot_error hslot), fun htakes => onDev_takes htakes (onSlot_error hslot)⟩⟩
  intro s fn vctx d t i retire hslot htakes
  have hfreed := releaseSlot_freed d i false
  cases retire with
  | false =>
    refine ⟨fun hst => ⟨_, onDev_takes htakes (seqCancelT_release hslot ?_), hfreed⟩, fun h => absurd h Bool.false_ne_true,
      fun _ hst hleaving => onDev_takes htakes (seqCancelT_active hslot hst hleaving),
      fun _ hst => onDev_takes htakes (seqCancelT_cancelling hslot hst), fun h => absurd h Bool.false_ne_true,
      fun _ hst => onDev_takes htakes (seqCancelT_recalling hslot hst)⟩
    exact hst.imp_right (Or.imp_right (Or.imp_right And.right))
  | true =>
    refine ⟨fun hst => ⟨_, onDev_takes htakes (seqRetireT_release hslot ?_), hfreed⟩,
      fun _ hst => onDev_takes htakes (seqRetireT_active hslot hst), fun h => absurd h.symm Bool.false_ne_true,
      fun h => absurd h.symm Bool.false_ne_true, fun _ hst => onDev_takes htakes (seqRetireT_refused hslot hst),
      fun h => absurd h.symm Bool.false_ne_true⟩
    exact hst.imp_right (Or.imp_right (Or.resolve_right · fun h => Bool.false_ne_true h.1.symm))

/-! ## Policies, lookups and fences (R293, R333, R492, R493) -/

theorem stepPolicyT_eq (d : Dev) (t : Taken) : stepPolicyT d t =
    if policyOk (policyOf t.e) then reply (setSteps d t.cr { getSteps d t.cr with policy := policyOf t.e }) t 0 else reply d t 8 := rfl

/-- Settles O29: a policy is stored or refused; a lookup and a fence are put at the end of their queues. -/
theorem policyLookupFence : Obligations.PolicyLookupFence := by
  intro s fn vctx d t
  refine ⟨fun htakes => ⟨fun hok => ?_, fun hbad => ?_⟩, fun htakes m hm => ?_, fun htakes => ?_⟩
  · exact onDev_takes htakes ((stepPolicyT_eq d t).trans (if_pos hok))
  · exact onDev_takes htakes ((stepPolicyT_eq d t).trans (if_neg (by rw [hbad]; exact Bool.false_ne_true)))
  · have hqueue : prefixLookupT d t = walksOf (queueOp { d with cox := { d.cox with serial := d.cox.serial + 1 } } (getCtx d t.cr).part.toNat
        (.walk (BitVec.ofNat 12 t.cr) (cId t) d.cox.serial (cNocpl t) m (BitVec.ofNat 64 (leAt t.e 32 8)) (leAt t.e 40 4)))
        (getCtx d t.cr).part.toNat := by
      simp only [prefixLookupT, hm]
    exact ⟨_, onDev_takes htakes hqueue, tget_tset_same _ _ _ _, rfl, rfl, rfl⟩
  · exact ⟨_, onDev_takes htakes rfl, tget_tset_same _ _ _ _, rfl, rfl, rfl⟩

end Sys2Proof.Machine

/-! PROOFS. The building of a step and the start of its delivery (R213, R272, R282, R285, R290, R292, R293, R557). -/

namespace Sys2Proof.Machine

/-! ## Lists in order -/

section
variable {α : Type} {key : α → Nat}

theorem mem_insertBy {before : α → α → Bool} {x y : α} {l : List α} (h : y ∈ insertBy before x l) : y = x ∨ y ∈ l := by
  induction l with
  | nil => exact .inl (List.mem_singleton.mp h)
  | cons z r ih =>
    rw [insertBy] at h
    split at h
    · exact List.mem_cons.mp h
    · obtain rfl | h := List.mem_cons.mp h
      · exact .inr List.mem_cons_self
      · exact (ih h).imp_right (List.mem_cons_of_mem z)

theorem insertBy_pairwise (x : α) {l : List α} (h : l.Pairwise (fun a b => key a ≤ key b)) :
    (insertBy (fun a b => decide (key a < key b)) x l).Pairwise (fun a b => key a ≤ key b) := by
  induction l with
  | nil => exact List.pairwise_singleton _ x
  | cons y r ih =>
    obtain ⟨hy, hr⟩ := List.pairwise_cons.mp h
    rw [insertBy]
    split
    next hlt =>
      have hlt : key x < key y := of_decide_eq_true hlt
      refine List.pairwise_cons.mpr ⟨fun b hb => ?_, h⟩
      obtain rfl | hb := List.mem_cons.mp hb
      · exact Nat.le_of_lt hlt
      · exact Nat.le_trans (Nat.le_of_lt hlt) (hy b hb)
    next hle =>
      have hle : key y ≤ key x := by simpa using hle
      refine List.pairwise_cons.mpr ⟨fun b hb => ?_, ih hr⟩
      obtain rfl | hb := mem_insertBy hb
      · exact hle
      · exact hy b hb

theorem sortBy_pairwise (l : List α) : (sortBy (fun a b => decide (key a < key b)) l).Pairwise (fun a b => key a ≤ key b) := by
  induction l with
  | nil => exact List.Pairwise.nil
  | cons x r ih => exact insertBy_pairwise x ih

end

/-! ## What a build takes (R290, R292) -/

section
variable {f : Frame0} {b b1 : Build}

/-- The tallies of a build: its limits, and an order that holds each slot examined once (R290, R292, R483). -/
def tallied (f : Frame0) (b : Build) : Prop :=
  b.adm.length ≤ 8192 ∧ b.defd.length ≤ 256 ∧ b.adm.length + b.defd.length + 1 ≤ f.room ∧ b.order.length = b.adm.length + b.defd.length

/-- A build after one more slot: it is admitted, deferred, or merely not run ahead. -/
def examinedOne (b b1 : Build) : Prop :=
  (b1.adm.length = b.adm.length + 1 ∧ b1.defd.length = b.defd.length ∧ b1.order.length = b.order.length + 1) ∨
    (b1.adm.length = b.adm.length ∧ b1.defd.length = b.defd.length + 1 ∧ b1.order.length = b.order.length + 1) ∨
    (b1.adm.length = b.adm.length ∧ b1.defd.length = b.defd.length ∧ b1.order.length = b.order.length)

theorem deferSlot_examined (b : Build) (i : Nat) (s : Slot) (o : Offer) (reason : Nat) (dropped : Bool) (want : Nat) :
    examinedOne b (deferSlot b i s o reason dropped want) := by
  unfold deferSlot
  split
  · exact .inr (.inr ⟨rfl, rfl, rfl⟩)
  · exact .inr (.inl ⟨rfl, List.length_append, List.length_append⟩)

theorem admitOne_examined {i : Nat} {s : Slot} {o : Offer} {short : Bool} {pl : Places} (h : admitOne f b i s o short pl = .ok b1) :
    examinedOne b b1 := by
  unfold admitOne at h
  obtain ⟨⟨d0, l, g⟩, -, h⟩ := eff_bind_ok.mp h
  obtain ⟨ins, -, h⟩ := eff_bind_ok.mp h
  dsimp only at h
  split at h
  · split at h
    · obtain ⟨d2, -, h⟩ := eff_bind_ok.mp h
      obtain ⟨d3, -, h⟩ := eff_bind_ok.mp h
      cases h
      exact .inl ⟨List.length_append, rfl, List.length_append⟩
    · obtain ⟨⟨d1, bs⟩, -, h⟩ := eff_bind_ok.mp h
      obtain ⟨d2, -, h⟩ := eff_bind_ok.mp h
      obtain ⟨d3, -, h⟩ := eff_bind_ok.mp h
      cases h
      exact .inl ⟨List.length_append, rfl, List.length_append⟩
  · obtain ⟨d2, -, h⟩ := eff_bind_ok.mp h
    obtain ⟨d3, -, h⟩ := eff_bind_ok.mp h
    cases h
    exact .inl ⟨List.length_append, rfl, List.length_append⟩

theorem examine_examined {c : Cand} (h : examine f b c = .ok b1) : examinedOne b b1 := by
  unfold examine at h
  dsimp only at h
  split at h
  · cases h; exact deferSlot_examined ..
  · split at h
    · cases h; exact deferSlot_examined ..
    · split at h
      · cases h; exact deferSlot_examined ..
      · split at h
        · exact admitOne_examined h
        · cases h; exact deferSlot_examined ..

theorem examineAll_tallied {l : List Cand} (hb : tallied f b) (h : examineAll f b l = .ok b1) : tallied f b1 := by
  induction l generalizing b with
  | nil => cases h; exact hb
  | cons c r ih =>
    rw [examineAll] at h
    split at h
    · cases h; exact hb
    next hmore =>
      split at h
      · cases h
      next b2 hc =>
        refine ih ?_ h
        simp only [Bool.or_eq_true, decide_eq_true_eq, not_or, Nat.not_le] at hmore
        obtain ⟨⟨hadm, hdefd⟩, hroom⟩ := hmore
        obtain ⟨-, -, -, horder⟩ := hb
        unfold tallied
        obtain ⟨ha, hd, ho⟩ | ⟨ha, hd, ho⟩ | ⟨ha, hd, ho⟩ := examine_examined hc <;> omega

end

/-! ## The built step takes its place (R272, R288) -/

theorem patchVerify_quiet {d : Dev} {cr num e : Nat} {st : Step} (hst : stepOf d cr num = some st)
    (h : ∀ a, st.admitted[e]? = some a → a.kind ≠ 2 ∨ a.outcome = none) : patchVerify d cr num e = d := by
  unfold patchVerify
  rw [hst]
  split
  next st' nx heq _ =>
    cases heq
    split
    · rfl
    next a ha =>
      split
      next o e2 b m ho _ _ =>
        obtain hkind | hnone := h a ha
        · exact if_pos (by rw [decide_eq_true hkind, Bool.true_or])
        · exact absurd (hnone.symm.trans ho) (by simp)
      · rfl
  · rfl

theorem patchReported_num {d : Dev} {cr num : Nat} {st : Step} (hcur : (getSteps d cr).cur = some st) (hnum : st.num = num) :
    patchReported d cr num = d := by
  unfold patchReported
  rw [hcur]
  cases num with
  | zero => rfl
  | succ n => exact if_pos (by omega)

theorem patchReported_quiet {d : Dev} {cr num : Nat} {st : Step} (hcur : (getSteps d cr).cur = some st)
    (h : ∀ (e : Nat) (a : Admitted), st.admitted[e]? = some a → a.kind ≠ 2 ∨ a.outcome = none) : patchReported d cr num = d := by
  unfold patchReported
  rw [hcur]
  cases num with
  | zero => rfl
  | succ n =>
    dsimp only
    split
    · rfl
    next hn =>
      have hst : stepOf d cr n = some st := by
        simp only [stepOf, hcur]
        simp [not_not.mp hn]
      exact foldl_keeps (P := fun d' => d' = d) (fun _ e hd => by rw [hd]; exact patchVerify_quiet hst (h e)) _ rfl

theorem relieve_none (d : Dev) (p : Nat) : relieve d p 0 = d := by simp [relieve]

/-! ## The end of a build -/

theorem foldl_unchanged {α β : Type} {f : β → α → β} {b : β} {l : List α} (h : ∀ a, a ∈ l → f b a = b) : l.foldl f b = b := by
  induction l with
  | nil => rfl
  | cons a r ih => rw [List.foldl_cons, h a List.mem_cons_self, ih fun x hx => h x (List.mem_cons_of_mem a hx)]

/-- A device with the memories, the steps and the resident models of another. -/
def sameWork (d d' : Dev) : Prop := sameMem d d' ∧ (∀ cr, getSteps d' cr = getSteps d cr) ∧ ∀ m, isResident d' m = isResident d m

theorem stamp_sameWork {d d' : Dev} (h : sameWork d d') {m : Nat} {x : Model} (hm : getModel d' m = some x) (t : Word64) :
    sameWork d (setModel d' m { x with lastStep := t }) := by
  obtain ⟨hmem, hsteps, hres⟩ := h
  refine ⟨hmem, hsteps, fun j => ?_⟩
  rw [← hres j]
  by_cases hj : j = m
  · simp [isResident, hj, hm]
  · simp [isResident, hj]

theorem startPull_resident {d : Dev} {cr i : Nat} {be : Bool} (h : isResident d i = true) : startPull d cr i be = d := by
  unfold isResident at h
  unfold startPull
  split
  · rfl
  next m hm =>
    simp only [hm] at h
    exact if_pos (by rw [h, Bool.true_or])

/-- A build whose models are resident, and that wanted no frame, only places its step and stamps its models. -/
theorem finishBuild_ok {f : Frame0} {b : Build} {ms : List Nat} (hms : ∀ j, j ∈ ms → isResident b.d j = true) (hwant : b.want = 0)
    (hquiet : patchReported (placeStep (settleDeficits b.d f.cr f.mi b.rows) f.cr (stepFrom f b false)) f.cr f.num =
      placeStep (settleDeficits b.d f.cr f.mi b.rows) f.cr (stepFrom f b false)) :
    ∃ d2, finishBuild f b ms = d2 ∧ sameWork (placeStep (settleDeficits b.d f.cr f.mi b.rows) f.cr (stepFrom f b false)) d2 := by
  have hchange : ms.any (fun m => !isResident b.d m) = false :=
    List.any_eq_false.mpr fun j hj => by rw [hms j hj]; exact Bool.false_ne_true
  have hstamp : sameWork (placeStep (settleDeficits b.d f.cr f.mi b.rows) f.cr (stepFrom f b false))
      (ms.foldl (fun d m => match getModel d m with | some x => setModel d m { x with lastStep := d.now } | none => d)
        (placeStep (settleDeficits b.d f.cr f.mi b.rows) f.cr (stepFrom f b false))) := by
    refine foldl_keeps (P := sameWork _) (fun d m h => ?_) ms ⟨⟨rfl, rfl, fun _ => rfl⟩, fun _ => rfl, fun _ => rfl⟩
    split
    next x hx => exact stamp_sameWork h hx _
    next => exact h
  refine ⟨_, ?_, hstamp⟩
  unfold finishBuild
  dsimp only
  rw [hchange, hquiet, hwant, relieve_none]
  exact foldl_unchanged fun j hj => startPull_resident ((hstamp.2.2 j).trans (hms j hj))

/-- The steps of a context after a built step has taken its place (R272). -/
theorem getSteps_placeStep (d : Dev) (cr mi rows : Nat) (st : Step) :
    ((getSteps d cr).cur = none → (getSteps (placeStep (settleDeficits d cr mi rows) cr st) cr).cur = some st ∧
      (getSteps (placeStep (settleDeficits d cr mi rows) cr st) cr).nextNum = (getSteps d cr).nextNum + 1) ∧
    (∀ st0, (getSteps d cr).cur = some st0 → (getSteps (placeStep (settleDeficits d cr mi rows) cr st) cr).cur = some st0 ∧
      (getSteps (placeStep (settleDeficits d cr mi rows) cr st) cr).nxt = some st ∧
      (getSteps (placeStep (settleDeficits d cr mi rows) cr st) cr).nextNum = (getSteps d cr).nextNum + 1) := by
  constructor
  · intro hcur
    simp [placeStep, settleDeficits, hcur]
  · intro st0 hcur
    simp [placeStep, settleDeficits, hcur]

section
variable {d d1 : Dev} {p cr mi : Nat} {m : Model} {f : Frame0} {b : Build}

theorem stepBuildD_ok {d2 : Dev} (hbuilds : buildsFor d p = some cr) (hmay : mayBuild d cr = true)
    (hchoose : chooseResident d cr p (candsOf d cr) = (d1, some mi)) (hm : getModel d1 mi = some m)
    (hbuild : buildStep d d1 cr p mi m (candsOf d cr) = d2) : stepBuildD p d = coxSettle d2 := by
  simp only [stepBuildD, hbuilds, hmay, hchoose, hm, hbuild]
  rfl

/-- What a build of model `mi` for context `cr` is for (R289, R290). -/
def frameOf (d : Dev) (cr p mi : Nat) (m : Model) : Frame0 :=
  { cr := cr, p := p, num := (getSteps d cr).nextNum, mi := mi, m := m
    room := ringFree (getRing d (ringKey (getCtx d cr).fn.toNat (getCtx d cr).vctx.toNat 2)) }

/-- A build before its first slot is examined. -/
def buildStart (d : Dev) (m : Model) : Build :=
  { d := d, adm := [], defd := [], order := [], sum := m.costStep, rows := 0, drows := 0, lcOut := 0, beOut := 0, anyLc := false, runs := []
    want := 0 }

theorem tallied_buildStart (h : 2 ≤ f.room) : tallied f (buildStart d m) :=
  ⟨Nat.zero_le _, Nat.zero_le _, Nat.le_of_succ_le h, rfl⟩

theorem buildStep_admitted {d0 : Dev} {cs : List Cand}
    (hall : examineAll (frameOf d cr p mi m) (buildStart d m) (sortBy examineBefore (cs.filter (fun c => c.2.1.model = mi))) = .ok b)
    (hadm : b.adm ≠ []) : buildStep d0 d cr p mi m cs = finishBuild (frameOf d cr p mi m) b (stepModels d mi cs) := by
  have hempty : b.adm.isEmpty = false := by simpa using hadm
  unfold frameOf buildStart at hall
  simp only [buildStep, hall, hempty]
  rfl

theorem buildStep_none {d0 : Dev} {cs : List Cand}
    (hall : examineAll (frameOf d cr p mi m) (buildStart d m) (sortBy examineBefore (cs.filter (fun c => c.2.1.model = mi))) = .ok b)
    (hadm : b.adm = []) : buildStep d0 d cr p mi m cs = relieve (setSteps (b.defd.foldl (fun d x =>
      if x.reason = 2 then setSlot d x.slot.toNat { getSlot d x.slot.toNat with starved := true } else d) d0) cr (getSteps d cr)) p b.want := by
  unfold frameOf buildStart at hall
  simp only [buildStep, hall, hadm]
  rfl

theorem stepBuild_starved (l : List Deferred) (d : Dev) :
    sameMem d (l.foldl (fun d x => if x.reason = 2 then setSlot d x.slot.toNat { getSlot d x.slot.toNat with starved := true } else d) d) ∧
      (l.foldl (fun d x => if x.reason = 2 then setSlot d x.slot.toNat { getSlot d x.slot.toNat with starved := true } else d) d).cox.models =
        d.cox.models := by
  refine foldl_keeps (P := fun d' => sameMem d d' ∧ d'.cox.models = d.cox.models) (fun d' x h => ?_) l ⟨⟨rfl, rfl, fun _ => rfl⟩, rfl⟩
  dsimp only
  split
  · exact h
  · exact h

end

/-! ## The start of delivery (R285) -/

theorem stepTasks_sorted {d : Dev} {cr : Nat} {st : Step} {m : Model} {ws : List Work} (h : stepTasks d cr st m = .ok ws) :
    ws.Pairwise (fun a b => taskIndex a ≤ taskIndex b) := by
  unfold stepTasks at h
  obtain ⟨gs, -, h⟩ := eff_bind_ok.mp h
  dsimp only at h
  split at h
  · obtain ⟨others, -, h⟩ := eff_bind_ok.mp h
    obtain ⟨samp, -, h⟩ := eff_bind_ok.mp h
    cases h
    exact sortBy_pairwise _
  · obtain ⟨gs2, -, h⟩ := eff_bind_ok.mp h
    obtain ⟨others, -, h⟩ := eff_bind_ok.mp h
    obtain ⟨samp, -, h⟩ := eff_bind_ok.mp h
    cases h
    exact sortBy_pairwise _

theorem deliveryStartD_ok {d : Dev} {p cr : Nat} {st : Step} {m : Model} {ws : List Work} (hdelivers : deliversFor d p = some cr)
    (hst : startable d cr = some st) (hm : getModel d st.model = some m) (hdelay : d.clk.delay = false) (hres : stepResident d st m = true)
    (hws : stepTasks d cr st m = .ok ws) (hne : ws ≠ []) :
    deliveryStartD p d = putStep (fillBufs ((templateVas d st m).foldl (fun d va => chargeRead d cr va 64) d) cr st m) cr
      { st with phase := .delivering, todo := ws, startTs := d.now } := by
  have hempty : ws.isEmpty = false := by simpa using hne
  simp only [deliveryStartD, hdelivers, hst, hm, hdelay, hres, hws, hempty]
  rfl

/-- Settles O30: the tallies are an invariant of the examination; a resident build only places its step; delivery sorts the tasks. -/
theorem stepBuildAndDelivery : Obligations.StepBuildAndDelivery := by
  refine ⟨?_, fun s p cr st m ws hdelivers hst hm hdelay hres hws hne => ⟨?_, stepTasks_sorted hws⟩⟩
  · rintro s p cr mi d1 m _ _ _ b hbuilds hmay rfl hchoose hm rfl hroom rfl hall
    have hexec {d2 : Dev} (h : buildStep s.dev d1 cr p.toNat mi m (candsOf s.dev cr) = d2) :
        exec (.stepBuild p) s = .next (s.settled d2) := onDev_next (f := stepBuildD p.toNat) (stepBuildD_ok hbuilds hmay hchoose hm h)
    obtain ⟨hfirst, hnext⟩ := getSteps_placeStep b.d cr mi b.rows (stepFrom (frameOf d1 cr p.toNat mi m) b false)
    refine ⟨examineAll_tallied (tallied_buildStart hroom) hall, fun hadm hwant hres hcur => ?_,
      fun hadm hwant hres st hcur hpatch => ?_, fun hadm hwant => ?_⟩
    · obtain ⟨hplaced, hnum⟩ := hfirst hcur
      obtain ⟨d2, hd2, hmem, hsteps, -⟩ := finishBuild_ok (f := frameOf d1 cr p.toNat mi m) hres hwant (patchReported_num hplaced rfl)
      refine ⟨d2, hexec ((buildStep_admitted hall hadm).trans hd2), hmem, ?_, ?_⟩
      · exact (congrArg CtxSteps.nextNum (hsteps cr)).trans hnum
      · exact (congrArg CtxSteps.cur (hsteps cr)).trans hplaced
    · obtain ⟨hplaced, hnxt, hnum⟩ := hnext st hcur
      obtain ⟨d2, hd2, hmem, hsteps, -⟩ := finishBuild_ok (f := frameOf d1 cr p.toNat mi m) hres hwant (patchReported_quiet hplaced hpatch)
      refine ⟨d2, hexec ((buildStep_admitted hall hadm).trans hd2), hmem, ?_, ?_, ?_⟩
      · exact (congrArg CtxSteps.nextNum (hsteps cr)).trans hnum
      · exact (congrArg CtxSteps.cur (hsteps cr)).trans hplaced
      · exact (congrArg CtxSteps.nxt (hsteps cr)).trans hnxt
    · obtain ⟨hmem, hmodels⟩ := stepBuild_starved b.defd s.dev
      have hd2 := buildStep_none (d0 := s.dev) hall hadm
      rw [hwant, relieve_none] at hd2
      exact ⟨_, hexec hd2, hmem, getSteps_setSteps_same _ _ _, hmodels⟩
  · exact onDev_next (f := deliveryStartD p.toNat) (deliveryStartD_ok hdelivers hst hm hdelay hres hws hne)

end Sys2Proof.Machine

/-! PROOFS. What follows a step's batch: its slots settle, and the next step becomes the running one (R276, R277, R297 to R299, R306,
R307, R334). -/

namespace Sys2Proof.Machine

/-! ## The end of a step (R276) -/

section
variable {d : Dev} {p cr : Nat} {st : Step}

theorem batchWrittenD_written (hbatch : batchCtx d p = some cr) (hcur : (getSteps d cr).cur = some st) (hphase : st.phase = .written) :
    batchWrittenD p d = closeStep d cr st := by
  have hnot : (st.phase = .recorded && alive d && !ctxDead d cr : Bool) = false := by simp [hphase]
  unfold batchWrittenD
  simp only [hbatch, hcur]
  rw [hnot, if_neg Bool.false_ne_true]
  simp only [hcur]
  exact if_pos hphase

theorem batchWrittenD_recorded {st1 : Step} (hbatch : batchCtx d p = some cr) (hcur : (getSteps d cr).cur = some st)
    (hphase : st.phase = .recorded) (halive : alive d = true) (hdead : ctxDead d cr = false)
    (hcur1 : (getSteps (writeBatch d cr st) cr).cur = some st1) (hphase1 : st1.phase = .written) :
    batchWrittenD p d = closeStep (writeBatch d cr st) cr st1 := by
  have hwrite : (st.phase = .recorded && alive d && !ctxDead d cr : Bool) = true := by simp [hphase, halive, hdead]
  unfold batchWrittenD
  simp only [hbatch, hcur]
  rw [if_pos hwrite]
  simp only [hcur1]
  exact if_pos hphase1

end

/-! ## Slots that leave ACTIVE (R276, R277, R334) -/

section
variable {d : Dev} {i : Nat}

theorem leaveActive_cancelling (h : (getSlot d i).st = .cancelling) : leaveActive d i = releaseSlot d i false := if_pos h

theorem leaveActive_retired (h : (getSlot d i).st ≠ .cancelling) (hretire : (getSlot d i).retirePend = true) :
    leaveActive d i = if insertsLeft d i then setSlot d i { getSlot d i with leaving := true } else releaseSlot d i false :=
  (if_neg h).trans (if_pos hretire)

theorem leaveActive_active (hst : (getSlot d i).st = .active) (hretire : (getSlot d i).retirePend = false)
    (hpark : (getSlot d i).parkPend = none) :
    leaveActive d i = if hasWork (getSlot d i) then readySlot d i else setSlot d i { getSlot d i with st := .idle } := by
  simp [leaveActive, hst, hretire, hpark]

/-- The slot that leaves its last step with its work done or still to do (R276). -/
theorem leaveActive_slot (hst : (getSlot d i).st = .active) (hretire : (getSlot d i).retirePend = false)
    (hpark : (getSlot d i).parkPend = none) :
    (getSlot (leaveActive d i) i).pos = (getSlot d i).pos ∧ (getSlot (leaveActive d i) i).pendTok = (getSlot d i).pendTok ∧
      (getSlot (leaveActive d i) i).st = if hasWork (getSlot d i) then .ready else .idle := by
  rw [leaveActive_active hst hretire hpark]
  split
  · rw [readySlot, getSlot_setSlot_same]
    exact ⟨rfl, rfl, rfl⟩
  · rw [getSlot_setSlot_same]
    exact ⟨rfl, rfl, rfl⟩

end

theorem queueInserts_slots (d : Dev) (i : Nat) (a : Admitted) (j : Nat) : getSlot (queueInserts d i a) j = getSlot d j := by
  unfold queueInserts
  dsimp only
  split
  · rfl
  · split <;> rfl

theorem adaptSlot_frame (s : Slot) (a : Admitted) (limit : Nat) :
    { adaptSlot s a limit with depth := s.depth, rejects := s.rejects, goods := s.goods } = s := by
  unfold adaptSlot
  split <;> rfl

section
variable {d : Dev} {cr num : Nat} {a : Admitted}

theorem settleAdmitted_gone (h : sameSlot d a.slot a.handle = false ∨ ctxDead d cr = true) : settleAdmitted cr num d a = d := by
  unfold settleAdmitted
  refine if_pos ?_
  obtain h | h := h <;> simp [h]

/-- A slot of a live context that still is the admitted one: what its entry in the step says decides (R276, R298, R299). -/
theorem settleAdmitted_here (hsame : sameSlot d a.slot a.handle = true) (hdead : ctxDead d cr = false) {d0 : Dev}
    {nx : Option (Nat × Admitted)} (hd0 : d0 = setSlot d a.slot.toNat (adaptSlot (getSlot d a.slot.toNat) a (getSteps d cr).policy.allRej))
    (hnx : nx = (stepOf d cr (num + 1)).bind (fun n => findEntry d n a.slot.toNat)) :
    (a.dropped = true → nx = none → settleAdmitted cr num d a = leaveActive (restoreSlot d0 a.slot.toNat a) a.slot.toNat) ∧
      (∀ e b, a.dropped = true → nx = some (e, b) → settleAdmitted cr num d a = handOn d0 cr (num + 1) e a b) ∧
      (a.dropped = false → a.cancelled = true → settleAdmitted cr num d a = if nx.isSome then d0 else leaveActive d0 a.slot.toNat) := by
  subst hd0 hnx
  have hgo : (!sameSlot d a.slot a.handle || ctxDead d cr) = false := by rw [hsame, hdead]; rfl
  unfold settleAdmitted
  dsimp only
  rw [hgo, if_neg Bool.false_ne_true]
  refine ⟨fun hdrop hnx => ?_, fun e b hdrop hnx => ?_, fun hdrop hcancel => ?_⟩
  · rw [if_pos hdrop, hnx]
  · rw [if_pos hdrop, hnx]
  · rw [hdrop, if_neg Bool.false_ne_true, if_pos hcancel]

theorem settleAdmitted_kept (hsame : sameSlot d a.slot a.handle = true) (hdead : ctxDead d cr = false)
    (hlast : stepOf d cr (num + 1) = none) (hdrop : a.dropped = false) (hcancel : a.cancelled = false) :
    settleAdmitted cr num d a = leaveActive (if (getSlot (pushSlot (compactTree (setSlot (setSlot d a.slot.toNat
        (adaptSlot (getSlot d a.slot.toNat) a (getSteps d cr).policy.allRej)) a.slot.toNat
          (keepSlot (adaptSlot (getSlot d a.slot.toNat) a (getSteps d cr).policy.allRej) a false)) a.slot.toNat a)
          a.slot.toNat a.c (kept a)) a.slot.toNat).st = .cancelling
      then pushSlot (compactTree (setSlot (setSlot d a.slot.toNat (adaptSlot (getSlot d a.slot.toNat) a
        (getSteps d cr).policy.allRej)) a.slot.toNat (keepSlot (adaptSlot (getSlot d a.slot.toNat) a (getSteps d cr).policy.allRej) a false))
          a.slot.toNat a) a.slot.toNat a.c (kept a)
      else queueInserts (pushSlot (compactTree (setSlot (setSlot d a.slot.toNat (adaptSlot (getSlot d a.slot.toNat) a
        (getSteps d cr).policy.allRej)) a.slot.toNat (keepSlot (adaptSlot (getSlot d a.slot.toNat) a (getSteps d cr).policy.allRej) a false))
          a.slot.toNat a) a.slot.toNat a.c (kept a)) a.slot.toNat a) a.slot.toNat := by
  have hgo : (!sameSlot d a.slot a.handle || ctxDead d cr) = false := by rw [hsame, hdead]; rfl
  unfold settleAdmitted
  dsimp only
  rw [hgo, if_neg Bool.false_ne_true, hdrop, if_neg Bool.false_ne_true, hcancel, if_neg Bool.false_ne_true, hlast, getSlot_setSlot_same]
  rfl

end

/-! ## Frames and positions given back (R298) -/

/-- The slots of a device are those of another, but for their wait for frames (R292). -/
def sameSlots (d d' : Dev) : Prop := ∀ i, { getSlot d' i with starved := (getSlot d i).starved } = getSlot d i

theorem sameSlots.trans {a b c : Dev} (hab : sameSlots a b) (hbc : sameSlots b c) : sameSlots a c := fun i => by
  have hback := congrArg (fun s : Slot => { s with starved := (getSlot a i).starved }) (hbc i)
  exact Eq.trans hback (hab i)

theorem framesReleased_sameSlots (d : Dev) (p : Nat) : sameSlots d (framesReleased d p) := fun i => by
  have hslot := tget_tmap d.cox.slots (fun _ s => if s.part.toNat = p then { s with starved := false } else s) i Slot.init
    (by split <;> rfl)
  rw [getSlot, framesReleased, hslot]
  split <;> rfl

theorem returnFrames_sameSlots (d : Dev) (p : Nat) (fs : List Nat) : sameSlots d (returnFrames d p fs) := by
  unfold returnFrames
  split
  · exact fun _ => rfl
  · exact framesReleased_sameSlots _ p

theorem freeFrames_sameSlots (d : Dev) (p : Nat) (fs : List Nat) : sameSlots d (freeFrames d p fs) := by
  have hhold := foldl_keeps (P := sameSlots d) (f := holdFrame p) (fun _ _ h => h.trans fun _ => rfl)
    (fs.filterMap (fun f => (carrier d f).map (fun h => (h, f)))) (fun _ => rfl)
  exact hhold.trans (returnFrames_sameSlots _ p _)

section
variable {d d1 : Dev} {i : Nat} {a : Admitted}

theorem restoreSlot_ok {m : Model} {l : PageList} {fs : List Nat} (hm : getModel d (getSlot d i).model = some m)
    (hdraft : m.draft.bind (getModel d) = none)
    (hcut : cutPageList d (getSlot d i).cr.toNat m (getSlot d i).list a.pages = .ok (d1, l, fs)) :
    (getSlot (restoreSlot d i a) i).pos = a.c ∧ (getSlot (restoreSlot d i a) i).pendTok = a.pendBefore ∧
      (getSlot (restoreSlot d i a) i).segs = a.taken ++ (getSlot d i).segs ∧ (getSlot (restoreSlot d i a) i).list = l := by
  have hrestore : ∃ s', restoreSlot d i a = freeFrames (setSlot d1 i s') (getSlot d i).part.toNat fs ∧ s'.pos = a.c ∧
      s'.pendTok = a.pendBefore ∧ s'.segs = a.taken ++ (getSlot d i).segs ∧ s'.list = l := by
    unfold restoreSlot
    simp only [hm, hdraft, hcut]
    exact ⟨_, rfl, rfl, rfl, rfl, rfl⟩
  obtain ⟨s', hrestore, hpos, htok, hsegs, hlist⟩ := hrestore
  have hslot := freeFrames_sameSlots (setSlot d1 i s') (getSlot d i).part.toNat fs i
  rw [← hrestore, getSlot_setSlot_same] at hslot
  exact ⟨(congrArg Slot.pos hslot :).trans hpos, (congrArg Slot.pendTok hslot :).trans htok, (congrArg Slot.segs hslot :).trans hsegs,
    (congrArg Slot.list hslot :).trans hlist⟩

end

/-! ## A passed deadline (R297, R298) -/

section
variable {d : Dev} {i cr e0 e : Nat} {st nx : Step} {a b : Admitted}

theorem deadlineD_patch (hcr : cr = (getSlot d i).cr.toNat) (hcur : (getSteps d cr).cur = some st) (hst : (getSlot d i).st = .active)
    (halive : alive d = true) (hphase : st.phase = .built ∨ st.phase = .delivering) : deadlineD i d = deadlinePatch d cr i st := by
  subst hcr
  have hgo : ((getSlot d i).st = .active && alive d && (st.phase = .built || st.phase = .delivering) : Bool) = true := by
    obtain h | h := hphase <;> simp [hst, halive, h]
  unfold deadlineD
  simp only [hcur]
  rw [if_pos hgo]

theorem deadlinePatch_early (hfind : findEntry d st i = some (e0, a)) (hnx : stepOf d cr (st.num + 1) = some nx)
    (hfind2 : findEntry d nx i = some (e, b)) (hearly : d.now.toNat ≤ a.deadline.toNat) : deadlinePatch d cr i st = d := by
  unfold deadlinePatch
  simp only [hfind, hnx, hfind2]
  exact if_pos (by simp [hearly])

theorem deadlinePatch_late (hfind : findEntry d st i = some (e0, a)) (hnx : stepOf d cr (st.num + 1) = some nx)
    (hfind2 : findEntry d nx i = some (e, b)) (hdrop : a.dropLate = true) (hdeadline : a.deadline ≠ 0)
    (hlate : a.deadline.toNat < d.now.toNat) (hcancel : b.cancelled = false) :
    deadlinePatch d cr i st = cancelEntry (putStep d cr (dropTodo nx (fun w => w.excl = some e))) cr (dropTodo nx (fun w => w.excl = some e))
      e b true := by
  unfold deadlinePatch
  simp only [hfind, hnx, hfind2]
  refine if_neg ?_
  simp only [hdrop, hdeadline, hcancel, Bool.not_true, decide_false, Bool.or_false, Bool.false_or, decide_eq_true_eq]
  omega

theorem findEntry_admitted {slot : Nat} (h : findEntry d nx slot = some (e, b)) : nx.admitted[e]? = some b := by
  unfold findEntry at h
  obtain ⟨q, hq, heq⟩ := Option.map_eq_some_iff.mp h
  have hmem := List.mem_of_find?_eq_some hq
  obtain ⟨b', e'⟩ := q
  cases heq
  simpa [List.mem_zipIdx_iff_getElem?] using hmem

end

theorem keepSlot_pendTok {s : Slot} {a : Admitted} (h : s.pendTok = none) : (keepSlot s a false).pendTok = (emitted a).getLast? := by
  unfold keepSlot
  cases hlast : (emitted a).getLast? with
  | none => simpa using h
  | some w => rfl

theorem hasWork_keepSlot {s : Slot} {a : Admitted} (h : s.pendTok = none) :
    hasWork (keepSlot s a false) = decide (s.segs ≠ [] ∨ emitted a ≠ []) := by
  have hsegs : (keepSlot s a false).segs = s.segs := rfl
  rw [hasWork, keepSlot_pendTok h, hsegs]
  cases s.segs <;> cases hemitted : emitted a <;> simp

/-- Settles O31: each outcome of a settled entry is one branch of `settleAdmitted`, and the slot's last step one of `leaveActive`. -/
theorem stepSettles : Obligations.StepSettles := by
  refine ⟨?_, ?_, ?_, fun d cr num a h => settleAdmitted_gone h, fun d d1 i a m l fs hm hdraft hcut => restoreSlot_ok hm hdraft hcut, ?_, ?_⟩
  · intro s p cr st hbatch hcur
    exact ⟨fun hphase => onDev_next (f := batchWrittenD p.toNat) (batchWrittenD_written hbatch hcur hphase),
      fun st1 hphase halive hdead hcur1 hphase1 => onDev_next (f := batchWrittenD p.toNat)
        (batchWrittenD_recorded hbatch hcur hphase halive hdead hcur1 hphase1)⟩
  · rintro d cr num a _ hsame hdead hlast hdrop hcancel rfl hpush hst htok hretire hpark
    have hframe := adaptSlot_frame (getSlot d a.slot.toNat) a (getSteps d cr).policy.allRej
    rw [settleAdmitted_kept hsame hdead hlast hdrop hcancel, hpush]
    generalize hs : adaptSlot (getSlot d a.slot.toNat) a (getSteps d cr).policy.allRej = s at hpush hframe ⊢
    have hst' : s.st = .active := (congrArg Slot.st hframe :).trans hst
    have htok' : s.pendTok = none := (congrArg Slot.pendTok hframe :).trans htok
    have hsegs : s.segs = (getSlot d a.slot.toNat).segs := (congrArg Slot.segs hframe :)
    have hnot : (keepSlot s a false).st ≠ .cancelling := fun h => by cases h.symm.trans hst'
    rw [if_neg hnot]
    have hslot := (queueInserts_slots _ a.slot.toNat a a.slot.toNat).trans hpush
    obtain ⟨hpos, hpend, hstate⟩ := leaveActive_slot (i := a.slot.toNat) (by rw [hslot]; exact hst')
      (by rw [hslot]; exact (congrArg Slot.retirePend hframe :).trans hretire)
      (by rw [hslot]; exact (congrArg Slot.parkPend hframe :).trans hpark)
    rw [hslot] at hpos hpend hstate
    rw [hasWork_keepSlot htok', hsegs] at hstate
    refine ⟨hpos, hpend.trans (keepSlot_pendTok htok'), hstate.trans ?_⟩
    simp only [decide_eq_true_eq]
  · intro d d0 cr num a nx hsame hdead hd0 hnx
    exact settleAdmitted_here hsame hdead hd0 hnx
  · intro d i
    refine ⟨leaveActive_cancelling, fun h hretire hins => ?_, fun h hretire hins => ?_⟩
    · rw [leaveActive_retired h hretire, hins, if_neg Bool.false_ne_true]
    · rw [leaveActive_retired h hretire, if_pos hins]
  · rintro s slot cr e0 e st nx _ a b _ hcr hcur hst halive hphase hfind hnx hfind2 hdrop hdeadline
    have hpatch := deadlineD_patch hcr hcur hst halive hphase
    refine ⟨fun hearly => ?_, ?_⟩
    · exact onDev_next (f := deadlineD slot.toNat) (hpatch.trans (deadlinePatch_early hfind hnx hfind2 hearly))
    · rintro hlate hcancel rfl rfl
      have hentry : (dropTodo nx (fun w => w.excl = some e)).admitted[e]? = some b := findEntry_admitted hfind2
      refine ⟨onDev_next (f := deadlineD slot.toNat) (hpatch.trans ((deadlinePatch_late hfind hnx hfind2 hdrop hdeadline hlate hcancel).trans ?_)),
        fun w hw => ?_, List.getElem?_set_self (List.getElem?_eq_some_iff.mp hentry).1⟩
      · rw [cancelEntry, Bool.or_true]
        rfl
      · obtain ⟨v, -, hv, hexcl, -⟩ := mem_dropTodo hw
        rw [hexcl]
        simpa using hv

end Sys2Proof.Machine

/-! PROOFS. O33 to O35: what a Keystone lookup gives its slot, the node that an insert commits, flushes, sweeps and the frames, links and
refreshes of pier. -/

namespace Sys2Proof.Machine

open Sys2Proof

/-! ## The operation in front of a partition -/

theorem fwRead_clean {d : Dev} {a n : Nat} {f : Dev → Dev} (h : pierPoison d a n = none) : fwRead d a n f = f d := by
  simp only [fwRead, h]

theorem getNode_setNode_same (d : Dev) (i : Nat) (x : Node) : getNode (setNode d i x) i = x := by rw [getNode_setNode, if_pos rfl]

theorem getNode_setNode_ne {d : Dev} {i j : Nat} {x : Node} (h : j ≠ i) : getNode (setNode d i x) j = getNode d j := by
  rw [getNode_setNode, if_neg h]

theorem lruRemove_node (d : Dev) (i j : Nat) :
    getNode (lruRemove d i) j = if j = i then { getNode d i with inLru := false } else getNode d j := by
  unfold lruRemove
  dsimp only
  split
  · exact getNode_setNode d i j _
  · next hin =>
    split
    · next h => subst h; rw [← Bool.eq_false_iff.mpr hin]
    · rfl

theorem lruRemove_slot (d : Dev) (i j : Nat) : getSlot (lruRemove d i) j = getSlot d j := by
  unfold lruRemove
  dsimp only
  split <;> rfl

theorem sameButMemory.node {a b : Dev} (h : sameButMemory a b) (n : Nat) : getNode b n = getNode a n := by
  obtain ⟨_, _, _, _, rfl⟩ := h; rfl

theorem sameButMemory.slot {a b : Dev} (h : sameButMemory a b) (n : Nat) : getSlot b n = getSlot a n := by
  obtain ⟨_, _, _, _, rfl⟩ := h; rfl

/-! ## KEYSTONE_LOOKUP -/

theorem matchNode_node (d : Dev) (i j : Nat) :
    getNode (matchNode d i) j =
      if j = i then { getNode d i with inLru := false, refs := (getNode d i).refs + 1, lastUse := d.now, cold := false } else getNode d j := by
  unfold matchNode
  dsimp only
  rw [getNode_setNode]
  by_cases h : j = i
  · rw [if_pos h, if_pos h, lruRemove_node, if_pos rfl]
  · rw [if_neg h, if_neg h, lruRemove_node, if_neg h]

theorem copySegment_sameButMemory {d r : Dev} {cr gen b node : Nat} {m : Model} {l : PageList}
    (hr : copySegment d cr gen m l b node = .ok r) : sameButMemory d r := by
  unfold copySegment at hr
  exact foldlM_keeps (P := fun d' => sameButMemory d d') (fun _ _ _ hd hput => hd.trans (writeVa_sameButMemory hput)) _
    (chargeCtx_sameButMemory _ _ _ _) hr

theorem copySegments_other {cr gen : Nat} {m : Model} {l : PageList} {nodes : List Nat} {b : Nat} {d r : Dev} {n : Nat}
    (hr : copySegments d cr gen m l b nodes = .ok r) (hn : n ∉ nodes) : getNode r n = getNode d n := by
  induction nodes generalizing b d with
  | nil => cases hr; rfl
  | cons i rest ih =>
    obtain ⟨hni, hnr⟩ := List.ne_and_not_mem_of_not_mem_cons hn
    simp only [copySegments] at hr
    split at hr
    · cases hr
    · next d1 hcopy => rw [ih hr hnr, (copySegment_sameButMemory hcopy).node, matchNode_node, if_neg hni]

theorem copySegments_matched {cr gen : Nat} {m : Model} {l : PageList} {nodes : List Nat} {b : Nat} {d r : Dev} {n : Nat}
    (hr : copySegments d cr gen m l b nodes = .ok r) (hone : nodes.Nodup) (hn : n ∈ nodes) :
    (getNode r n).refs = (getNode d n).refs + 1 ∧ (getNode r n).inLru = false := by
  induction nodes generalizing b d with
  | nil => cases hn
  | cons i rest ih =>
    obtain ⟨hi, hrest⟩ := List.nodup_cons.mp hone
    simp only [copySegments] at hr
    split at hr
    · cases hr
    next d1 hcopy =>
    have hnode : ∀ k, getNode d1 k = getNode (matchNode d i) k := (copySegment_sameButMemory hcopy).node
    rcases List.mem_cons.mp hn with rfl | hin
    · rw [copySegments_other hr hi, hnode, matchNode_node, if_pos rfl]
      exact ⟨rfl, rfl⟩
    · have hne : n ≠ i := fun h => hi (h ▸ hin)
      rw [← show getNode d1 n = getNode d n by rw [hnode, matchNode_node, if_neg hne]]
      exact ih hr hrest hin

/-- The slot that a lookup leaves when it starts no pull of a prefix object. -/
def slotMatched (s : Slot) (mo : Model) (l : PageList) (nodes : List Nat) : Slot :=
  { s with
    lookup := false, pos := 64 * nodes.length, segs := dropSegs s.segs (64 * nodes.length), hit := nodes.length, refs := nodes
    chainNode := nodes.getLast?, chainLen := nodes.length
    list := { l with pages := max l.pages (pagesFor mo (64 * nodes.length)) } }

theorem matchSlot_plain {d : Dev} {i : Nat} {mo : Model} {l : PageList} {nodes : List Nat} {b : Nat}
    (hpull : (getSlot d i).pullObj = none) : matchSlot d i mo l nodes b = setSlot d i (slotMatched (getSlot d i) mo l nodes) := by
  simp only [matchSlot, hpull, slotMatched]

theorem keyLookupD_front {d : Dev} {slot : SlotNo} {sl : Slot} (hsl : sl = getSlot d slot.toNat)
    (hfront : frontOp d sl.part.toNat = some (.lookup slot sl.gen)) (halive : alive d = true) (hlook : sl.lookup = true)
    (hdead : ctxDead d sl.cr.toNat = false) (hread : pierPoison (popOp d sl.part.toNat) (modelEntryAt sl.model) 1024 = none) :
    keyLookupD slot.toNat d = coxSettle (walksOf (runLookup (popOp d sl.part.toNat) slot.toNat) sl.part.toNat) := by
  subst hsl
  have hdead1 : ctxDead (popOp d (getSlot d slot.toNat).part.toNat) (getSlot d slot.toNat).cr.toNat = false := hdead
  have hslot : getSlot (popOp d (getSlot d slot.toNat).part.toNat) slot.toNat = getSlot d slot.toNat := rfl
  simp only [keyLookupD, hfront, halive, hslot, hlook, hdead1, fwRead_clean hread, ne_eq, not_true_eq_false, decide_false, decide_true,
    Bool.not_true, Bool.not_false, Bool.or_false, Bool.and_true, Bool.false_eq_true, if_false, if_true]

section
variable {d dw : Dev} {i : Nat} {sl : Slot} {mo : Model} {ts : List Word32} {nodes : List Nat}
  (hsl : sl = getSlot d i) (hm : getModel d sl.model = some mo) (hpull : sl.pullObj = none)
  (hts : lookupTokens d sl (blocksOf (promptLen sl)) = .ok ts)
  (hwalk : walkRoot (chargeTokens d sl (blocksOf (promptLen sl))) sl.cr.toNat true sl.model (blockList ts (ts.length / 64)) = (dw, nodes))
include hsl hm hpull hts hwalk

theorem runLookup_miss (hnone : nodes = []) : runLookup d i = lookupOver dw i := by
  subst hsl hnone
  simp only [runLookup, hm, hts, hwalk, hpull, List.length_nil, if_true]

theorem runLookup_hit (hsome : nodes ≠ []) {d1 d2 : Dev} {r : Nat × Nat} {l : PageList}
    (hlist : lookupList dw sl mo nodes.length = some r) (hmove : moveList dw sl.cr.toNat sl.list r.1 r.2 = .ok (d1, l))
    (hcopy : copySegments d1 sl.cr.toNat sl.gen.toNat mo l 0 nodes = .ok d2) :
    runLookup d i = matchSlot d2 i mo l nodes (blocksOf (promptLen sl)) := by
  subst hsl
  have hlen : nodes.length ≠ 0 := fun h => hsome (List.eq_nil_of_length_eq_zero h)
  simp only [runLookup, hm, hts, hwalk, hpull, hlen, if_false, hlist, hmove, hcopy]

end

/-- Settles O33: the walk's outcome is the statement's own; the references come from an induction over the matched nodes. -/
theorem keystoneLookups : Obligations.KeystoneLookups := by
  unfold Obligations.KeystoneLookups
  intro s slot d0 dw sl mo ts nodes hsl hfront halive hlook hdead hd0 hread hm hpull hts hwalk
  subst hd0
  have hrun := keyLookupD_front hsl hfront halive hlook hdead hread
  have hslot : sl = getSlot (popOp s.dev sl.part.toNat) slot.toNat := hsl
  refine ⟨fun hnone => onDev_next (f := keyLookupD slot.toNat) (hrun.trans ?_), ?_⟩
  · rw [runLookup_miss hslot hm hpull hts hwalk hnone]
  intro d1 d2 r l hsome hlist hmove hcopy hpull2
  have hexec : exec (.keystoneLookup slot) s = .next (s.settled (walksOf (runLookup (popOp s.dev sl.part.toNat) slot.toNat) sl.part.toNat)) :=
    onDev_next (f := keyLookupD slot.toNat) hrun
  rw [runLookup_hit hslot hm hpull hts hwalk hsome hlist hmove hcopy] at hexec
  refine ⟨hexec, ?_⟩
  rw [matchSlot_plain hpull2, getSlot_setSlot_same]
  exact ⟨rfl, rfl, rfl, rfl, fun hone _ hn => copySegments_matched hcopy hone hn⟩

/-! ## KEYSTONE_INSERT -/

theorem mapEntries_sameButMemory {d r : Dev} {cr : Nat} {l : PageList} {f : Word64 → Word64} {is : List Nat}
    (hr : mapEntries d cr l f is = .ok r) : sameButMemory d r := by
  unfold mapEntries at hr
  refine foldlM_keeps (P := fun d' => sameButMemory d d') (fun d' _ _ hd hput => ?_) _ (.refl d) hr
  split at hput
  · cases hput
  · exact (hd.trans (chargeRead_sameButMemory d' cr _ _)).trans (writeVa_sameButMemory hput)

/-- The last step of `takeNode`: the lowest free node, while the partition is under its QUOTA. -/
def placeNode (d : Dev) (p quota : Nat) (x : Node) : Dev × Option Nat :=
  if quota ≤ nodesHeld d p then (d, none)
  else
    match freeIndex d with
    | none => (d, none)
    | some i => (writeNode d i x, some i)

theorem takeNode_placed (d : Dev) (p : Nat) (x : Node) :
    ∃ d0, takeNode d p x = placeNode d0 p (fld (reg d (0x0600000 + 8 * p)) 0 22) x := ⟨_, rfl⟩

theorem takeNode_some {d d1 : Dev} {p n : Nat} {x : Node} (h : takeNode d p x = (d1, some n)) : getNode d1 n = x := by
  obtain ⟨d0, hplaced⟩ := takeNode_placed d p x
  rw [hplaced, placeNode] at h
  split at h
  · cases h
  · split at h
    · cases h
    · cases h; exact getNode_setNode_same _ _ _

theorem commitNode_slot {d r : Dev} {i p n parent pa : Nat} {ts : List Word32} {spot : Nat × Nat} {es : List Nat} {ws : List Word64}
    (hr : commitNode d i p n parent ts spot pa es ws = .ok r) :
    (getSlot r i).chainNode = some n ∧ (getSlot r i).chainLen = (getSlot d i).chainLen + 1 := by
  rw [(mapEntries_sameButMemory hr).slot, getSlot_setSlot_same]
  dsimp only
  rw [lruRemove_slot, chainOn, getSlot_setSlot_same]
  exact ⟨rfl, rfl⟩

theorem commitNode_node {d r : Dev} {i p n parent pa : Nat} {ts : List Word32} {spot : Nat × Nat} {es : List Nat} {ws : List Word64}
    (hr : commitNode d i p n parent ts spot pa es ws = .ok r) (hspot : spot.1 ≠ n) (hparent : n ≠ parent) :
    getNode r n = { getNode d n with segPa := BitVec.ofNat 36 pa, segN := BitVec.ofNat 12 es.length } := by
  rw [(mapEntries_sameButMemory hr).node, getNode_setSlot]
  refine (lruRemove_node _ parent n).trans ((if_neg hparent).trans ?_)
  rw [chainOn, getNode_setSlot, setChild, getNode_setNode_ne hspot.symm, getNode_setNode_same]

theorem keyInsertD_front {d : Dev} {slot : SlotNo} {sl : Slot} {b : Nat} {ts : List Word32} (hsl : sl = getSlot d slot.toNat)
    (hfront : frontOp d sl.part.toNat = some (.insert slot sl.gen b ts)) (halive : alive d = true) (hst : sl.st ≠ .cancelling)
    (hdead : ctxDead d sl.cr.toNat = false) (hread : pierPoison (popOp d sl.part.toNat) (modelEntryAt sl.model) 1024 = none) :
    keyInsertD slot.toNat d =
      coxSettle (walksOf (leaveDone (runInsert (popOp d sl.part.toNat) slot.toNat b ts) slot.toNat) sl.part.toNat) := by
  subst hsl
  have hdead1 : ctxDead (popOp d (getSlot d slot.toNat).part.toNat) (getSlot d slot.toNat).cr.toNat = false := hdead
  have hslot : getSlot (popOp d (getSlot d slot.toNat).part.toNat) slot.toNat = getSlot d slot.toNat := rfl
  simp only [keyInsertD, hfront, halive, hslot, hst, hdead1, fwRead_clean hread, ne_eq, not_true_eq_false, not_false_eq_true, decide_false,
    decide_true, Bool.not_true, Bool.not_false, Bool.or_false, Bool.and_true, Bool.false_eq_true, if_false, if_true]

theorem runInsert_late {d : Dev} {i b : Nat} {ts : List Word32} (h : (getSlot d i).chainLen ≠ b) : runInsert d i b ts = d := by
  unfold runInsert
  dsimp only
  split
  · rfl
  · rw [if_pos h]

theorem runInsert_commits {d d2 d3 d4 d5 d6 : Dev} {i b parent n pa : Nat} {ts : List Word32} {sl : Slot} {mo : Model} {spot : Nat × Nat}
    {ws : List Word64} (hsl : sl = getSlot d i) (hlen : sl.chainLen = b) (hm : getModel d sl.model = some mo)
    (hchain : sl.chainNode = some parent) (hgood : nodeBad d parent = false)
    (hfind : findChild d sl.cr.toNat true sl.model parent ts = (d2, none)) (hws : entriesOf d2 sl (blockEntries mo b) = .ok ws)
    (htake : takeNode (lruRemove d2 parent) sl.part.toNat
        { Node.init with tokens := ts, model := BitVec.ofNat 14 sl.model, part := sl.part, kind := .block, depth := BitVec.ofNat 16 b
                         parent := parent, hash := crc32c (tokenBytes ts), refs := 1, lastUse := d2.now } = (d4, some n))
    (hspot : childSpot d4 sl.part.toNat sl.model parent = (d5, some spot))
    (hseg : takeSegment d5 sl.part.toNat (blockEntries mo b).length = some (pa, d6))
    (hcommit : commitNode d6 i sl.part.toNat n parent ts spot pa (blockEntries mo b) ws = .ok d3) : runInsert d i b ts = d3 := by
  subst hsl
  simp only [runInsert, hm, hlen, ne_eq, not_true_eq_false, if_false, hchain, hgood, Bool.false_eq_true, hfind, hws, commitInsert, BitVec.ofNat_toNat, BitVec.setWidth_eq,
    htake, hspot, hseg, hcommit]

/-- Settles O34: with each resource that the insert takes given, what it commits is read off `commitNode`. -/
theorem keystoneInserts : Obligations.KeystoneInserts := by
  unfold Obligations.KeystoneInserts
  intro s slot b ts d0 sl hsl hfront halive hst hdead hd0 hread
  subst hd0
  have hrun := keyInsertD_front hsl hfront halive hst hdead hread
  have hslot : sl = getSlot (popOp s.dev sl.part.toNat) slot.toNat := hsl
  have hexec : exec (.keystoneInsert slot) s =
      .next (s.settled (walksOf (leaveDone (runInsert (popOp s.dev sl.part.toNat) slot.toNat b ts) slot.toNat) sl.part.toNat)) :=
    onDev_next (f := keyInsertD slot.toNat) hrun
  refine ⟨fun hlate => ?_, ?_⟩
  · rw [runInsert_late (hslot ▸ hlate)] at hexec
    exact hexec
  intro mo parent n pa spot d2 d3 d4 d5 d6 ws hlen hm hchain hgood hfind hws htake hspot hseg hnode hapart hnp hcommit
  rw [runInsert_commits hslot hlen hm hchain hgood hfind hws htake hspot hseg hcommit] at hexec
  obtain ⟨hlast, hcount⟩ := commitNode_slot hcommit
  refine ⟨hexec, hlast, hcount, ?_⟩
  rw [commitNode_node hcommit hapart hnp, hnode, takeNode_some htake]
  exact ⟨rfl, rfl, rfl, rfl, rfl⟩

end Sys2Proof.Machine

/-! PROOFS. O35: flushes, the time-to-live sweep and its reports, frames zeroed ahead of their use, the stack links and refresh. -/

namespace Sys2Proof.Machine

open Sys2Proof

/-! ## KEY_FLUSH and KEYSTONE_FLUSH -/

theorem keyFlushD_queued {d : Dev} {v : Word32} (hopen : pfOpen d 0x0600000 = true) (hreq : bitOf v 4 = true)
    (hidle : bitOf d.key.flushBusy (fld v 0 4) = false) :
    keyFlushD v d =
      { d with key := { d.key with
        flushBusy := setFld d.key.flushBusy (fld v 0 4) 1 1
        ops := tset d.key.ops (fld v 0 4) (tget d.key.ops (fld v 0 4) [] ++ [.flush]) } } := by
  simp only [keyFlushD, hopen, hreq, hidle, Bool.not_true, Bool.or_false, Bool.false_eq_true, if_false, queueOp]

theorem keyFlushD_busy {d : Dev} {v : Word32} (hbusy : bitOf d.key.flushBusy (fld v 0 4) = true) : keyFlushD v d = d := by
  simp only [keyFlushD, hbusy, Bool.or_true, if_true]

theorem evictWhile_empty {d : Dev} {p : Nat} {stop : Dev → Bool} (k : Nat) (h : lruList d p = []) : evictWhile d p stop k = d := by
  cases k with
  | zero => rfl
  | succ j =>
    simp only [evictWhile, evictHead, h]
    exact ite_self _

theorem keystoneFlushD_empty {d : Dev} {p : Nat} (hfront : frontOp d p = some .flush) (halive : alive d = true) (hnone : lruList d p = []) :
    keystoneFlushD p d =
      coxSettle (walksOf { popOp d p with key := { (popOp d p).key with flushBusy := setFld d.key.flushBusy p 1 0 } } p) := by
  have hempty : lruList (popOp d p) p = [] := hnone
  simp only [keystoneFlushD, hfront, halive, Bool.not_true, Bool.false_eq_true, if_false, evictWhile_empty _ hempty]
  rfl

/-! ## The sweepers -/

theorem mem_insertBy_iff {α : Type} {before : α → α → Bool} {x y : α} {l : List α} : y ∈ insertBy before x l ↔ y = x ∨ y ∈ l := by
  induction l with
  | nil => simp [insertBy]
  | cons z r ih =>
    rw [insertBy]
    split
    · exact List.mem_cons
    · rw [List.mem_cons, ih, List.mem_cons, or_left_comm]

theorem mem_sortBy {α : Type} {before : α → α → Bool} {y : α} {l : List α} : y ∈ sortBy before l ↔ y ∈ l := by
  induction l with
  | nil => rfl
  | cons x r ih => rw [List.mem_cons, ← ih]; exact mem_insertBy_iff

/-- What the sweeper of a stack has to report: the PARKED slots whose record lies there and whose time is over, except those reported
already. -/
def dueReports (d : Dev) (st : Nat) : List Nat :=
  (d.key.parked.filter (fun i => stackOf (slotRecordAt i) = st)).filter (fun i => expired d i && !d.key.reports.contains i)

theorem mem_dueReports {d : Dev} {st i : Nat} :
    i ∈ dueReports d st ↔ i ∈ d.key.parked ∧ stackOf (slotRecordAt i) = st ∧ expired d i = true ∧ i ∉ d.key.reports := by
  simp only [dueReports, List.mem_filter, decide_eq_true_eq, Bool.and_eq_true, Bool.not_eq_true', List.contains_eq_mem,
    decide_eq_false_iff_not, and_assoc]

theorem ttlSweepD_clean {d : Dev} {st : Nat} (halive : alive d = true)
    (hclean : ∀ i, i ∈ d.key.parked → stackOf (slotRecordAt i) = st → pierPoison d (slotRecordAt i) 256 = none) :
    ttlSweepD st d =
      { d with key := { d.key with reports := d.key.reports ++ sortBy (fun a b => decide (a < b)) (dueReports d st) } } := by
  have hnone : (d.key.parked.filter (fun i => stackOf (slotRecordAt i) = st)).findSome? (fun i => pierPoison d (slotRecordAt i) 256) = none := by
    refine List.findSome?_eq_none_iff.mpr fun i hi => ?_
    obtain ⟨hpark, hst⟩ := List.mem_filter.mp hi
    exact hclean i hpark (of_decide_eq_true hst)
  simp only [ttlSweepD, halive, Bool.not_true, Bool.false_eq_true, if_false, hnone, dueReports]

/-- The device once Cox has taken the report of a slot. -/
def reportTaken (d : Dev) (i : Nat) : Dev := { d with key := { d.key with reports := d.key.reports.filter (· ≠ i) } }

theorem expired_reportTaken (d : Dev) (i j : Nat) : expired (reportTaken d i) j = expired d j := rfl

section
variable {d : Dev} {i : Nat} (halive : alive d = true) (hrep : i ∈ d.key.reports)
  (hread : pierPoison (reportTaken d i) (slotRecordAt i) 256 = none)
include halive hrep hread

theorem expiryReportD_early (hexp : expired d i = false) : expiryReportD i d = reportTaken d i := by
  have hskip : ¬ ((!alive d || !d.key.reports.contains i) = true) := by simp [halive, hrep]
  rw [expiryReportD, if_neg hskip]
  refine (fwRead_clean hread).trans (if_pos ?_)
  rw [expired_reportTaken, hexp, Bool.not_false]

theorem expiryReportD_due (hexp : expired d i = true) :
    expiryReportD i d = coxSettle (releaseSlot (ctxEvent (reportTaken d i) (getSlot d i).cr.toNat 0x0102
      { unit := 3, handle := viewHandle (reportTaken d i) (getSlot d i).fn.toNat (slotHandle (reportTaken d i) i) }) i true) := by
  have hskip : ¬ ((!alive d || !d.key.reports.contains i) = true) := by simp [halive, hrep]
  rw [expiryReportD, if_neg hskip]
  refine (fwRead_clean hread).trans (if_neg ?_)
  rw [expired_reportTaken, hexp, Bool.not_true]
  exact Bool.false_ne_true

end

/-- KEY_FLUSH and KEYSTONE_FLUSH, R345. -/
theorem flushes (s : State) :
    (∀ v : Word32, pfOpen s.dev 0x0600000 = true → bitOf v 4 = true →
      (bitOf s.dev.key.flushBusy (fld v 0 4) = false →
        exec (.keyFlush v) s = .next { s with dev := { s.dev with key := { s.dev.key with
          flushBusy := setFld s.dev.key.flushBusy (fld v 0 4) 1 1
          ops := tset s.dev.key.ops (fld v 0 4) (tget s.dev.key.ops (fld v 0 4) [] ++ [.flush]) } } }) ∧
      (bitOf s.dev.key.flushBusy (fld v 0 4) = true → exec (.keyFlush v) s = .next s)) ∧
    (∀ p : PartId, frontOp s.dev p.toNat = some .flush → alive s.dev = true → lruList s.dev p.toNat = [] →
      ∃ d2, exec (.keystoneFlush p) s = .next (s.settled (walksOf d2 p.toNat)) ∧ bitOf d2.key.flushBusy p.toNat = false ∧
        d2.key.nodes = s.dev.key.nodes ∧ tget d2.key.ops p.toNat [] = (tget s.dev.key.ops p.toNat []).drop 1) := by
  refine ⟨fun v hopen hreq => ⟨fun hidle => ?_, fun hbusy => ?_⟩, fun p hfront halive hnone => ?_⟩
  · exact onDev_next (f := keyFlushD v) (keyFlushD_queued hopen hreq hidle)
  · exact onDev_next (f := keyFlushD v) (keyFlushD_busy hbusy)
  · refine ⟨_, onDev_next (f := keystoneFlushD p.toNat) (keystoneFlushD_empty hfront halive hnone), ?_, rfl, tget_tset_same _ _ _ _⟩
    have hp : p.toNat < 16 := p.isLt
    have hbit : bitOf (setFld s.dev.key.flushBusy p.toNat 1 (b2n false)) p.toNat = false := by rw [bitOf_setFld_bit hp, if_pos rfl]
    exact hbit

/-- TTL_SWEEP and EXPIRY_REPORT, R312, R338 and R339. -/
theorem sweeps (s : State) :
    (∀ st : StackId, alive s.dev = true →
      (∀ i, i ∈ s.dev.key.parked → stackOf (slotRecordAt i) = st.toNat → pierPoison s.dev (slotRecordAt i) 256 = none) →
      ∃ l, exec (.ttlSweep st) s = .next { s with dev := { s.dev with key := { s.dev.key with reports := s.dev.key.reports ++ l } } } ∧
        ∀ i, i ∈ l ↔ i ∈ s.dev.key.parked ∧ stackOf (slotRecordAt i) = st.toNat ∧ expired s.dev i = true ∧ i ∉ s.dev.key.reports) ∧
    (∀ (slot : SlotNo) (d1 : Dev), alive s.dev = true → slot.toNat ∈ s.dev.key.reports →
      d1 = { s.dev with key := { s.dev.key with reports := s.dev.key.reports.filter (· ≠ slot.toNat) } } →
      pierPoison d1 (slotRecordAt slot.toNat) 256 = none →
      (expired s.dev slot.toNat = false → exec (.expiryReport slot) s = .next { s with dev := d1 }) ∧
      (expired s.dev slot.toNat = true → exec (.expiryReport slot) s = .next (s.settled (releaseSlot
        (ctxEvent d1 (getSlot s.dev slot.toNat).cr.toNat 0x0102
          { unit := 3, handle := viewHandle d1 (getSlot s.dev slot.toNat).fn.toNat (slotHandle d1 slot.toNat) }) slot.toNat true)))) := by
  refine ⟨fun st halive hclean => ⟨_, onDev_next (f := ttlSweepD st.toNat) (ttlSweepD_clean halive hclean), fun i => ?_⟩, ?_⟩
  · exact mem_sortBy.trans mem_dueReports
  · intro slot d1 halive hrep hd1 hread
    subst hd1
    exact ⟨fun h => onDev_next (f := expiryReportD slot.toNat) (expiryReportD_early halive hrep hread h),
      fun h => onDev_next (f := expiryReportD slot.toNat) (expiryReportD_due halive hrep hread h)⟩

/-! ## Frames, links and refresh -/

theorem frameZeroD_none {d : Dev} {f : Nat} (h : ∀ p, p < 16 → partEnabled d p = false ∨ frameFree d p f = false) : frameZeroD f d = d := by
  have hnone : (List.range 16).find? (fun p => partEnabled d p && frameFree d p f) = none := by
    refine List.find?_eq_none.mpr fun p hp => ?_
    rcases h p (List.mem_range.mp hp) with h | h <;> simp [h]
  simp only [frameZeroD, hnone]

/-- The frames that are zeroed, with frame `f` among them. -/
def withZeroed (l : List Nat) (f : Nat) : List Nat := if l.contains f then l else f :: l

theorem mem_withZeroed (l : List Nat) (f : Nat) : f ∈ withZeroed l f := by
  unfold withZeroed
  split
  · next h => exact List.contains_iff_mem.mp h
  · exact List.mem_cons_self

theorem frameZeroD_free {d : Dev} {f : Nat} (h : ∃ p, p < 16 ∧ partEnabled d p = true ∧ frameFree d p f = true) :
    ∃ b, frameZeroD f d = { zeroFrame d f with
      pmg := { d.pmg with buckets := b }
      pier := { (zeroFrame d f).pier with zeroed := withZeroed d.pier.zeroed f } } := by
  obtain ⟨p, hp, hen, hfree⟩ := h
  have hsome : ((List.range 16).find? (fun p => partEnabled d p && frameFree d p f)).isSome = true :=
    List.find?_isSome.mpr ⟨p, List.mem_range.mpr hp, by rw [hen, hfree]; rfl⟩
  obtain ⟨q, hq⟩ := Option.isSome_iff_exists.mp hsome
  obtain ⟨b, hb⟩ := charge_eq (zeroFrame d f) q 0 65536 false
  refine ⟨b, ?_⟩
  simp only [frameZeroD, hq, hb]
  rfl

theorem frameZeros (s : State) (f : BitVec 20) :
    ((∃ p, p < 16 ∧ partEnabled s.dev p = true ∧ frameFree s.dev p f.toNat = true) →
      ∃ u, exec (.frameZero f) s = .next u ∧ u.pending = s.pending ∧ u.dev.host = s.dev.host ∧ u.dev.tiles = s.dev.tiles ∧
        f.toNat ∈ u.dev.pier.zeroed ∧ (∀ w, w ∈ u.dev.pier.poison ↔ w ∈ s.dev.pier.poison ∧ w / 4096 ≠ f.toNat) ∧
        ∀ a, memGet u.dev.pier.mem a = if 65536 * f.toNat ≤ a ∧ a < 65536 * f.toNat + 65536 then 0 else memGet s.dev.pier.mem a) ∧
    ((∀ p, p < 16 → partEnabled s.dev p = false ∨ frameFree s.dev p f.toNat = false) → exec (.frameZero f) s = .next s) := by
  refine ⟨fun h => ?_, fun h => onDev_next (f := frameZeroD f.toNat) (frameZeroD_none h)⟩
  obtain ⟨b, hb⟩ := frameZeroD_free h
  refine ⟨_, onDev_next (f := frameZeroD f.toNat) hb, rfl, rfl, rfl, mem_withZeroed _ _, fun w => ?_, fun a => ?_⟩
  · exact List.mem_filter.trans (and_congr_right fun _ => decide_eq_true_iff)
  · rw [Nat.mul_comm 65536 f.toNat]
    exact memGet_memZero _ _ _ _

/-- The retries and the retrain of a stack link, R319. -/
theorem stackLinks (s : State) (k : StackId) (x : Link) (hx : getLink s.dev k.toNat = x) :
    (x.held = false → exec (.pierCrcRetry k) s = .next { s with dev := setLink s.dev k.toNat { x with fails := min 8 (x.fails + 1) } }) ∧
    (x.held = true → exec (.pierCrcRetry k) s = .next s) ∧
    (8 ≤ x.fails → exec (.pierLinkRetrain k) s = .next { s with dev := setLink s.dev k.toNat { x with held := true } }) ∧
    (x.fails < 8 → exec (.pierLinkRetrain k) s = .next s) ∧
    (x.held = true → exec (.stackLinkRetrainDone k true) s =
      .next { s with dev := setLink s.dev k.toNat { fails := 0, held := false } }) ∧
    (x.held = true → exec (.stackLinkRetrainDone k false) s =
      .next { s with dev := deviceFatal (setLink s.dev k.toNat { fails := 0, held := false }) 1 k.toNat { unit := 5 } }) ∧
    (x.held = false → ∀ ok, exec (.stackLinkRetrainDone k ok) s = .next s) := by
  subst hx
  refine ⟨fun h => onDev_next (f := crcRetryD k.toNat) (if_neg (Bool.eq_false_iff.mp h)), fun h => onDev_next (f := crcRetryD k.toNat) (if_pos h),
    fun h => onDev_next (f := linkRetrainD k.toNat) (if_neg (Nat.not_lt.mpr h)),
    fun h => onDev_next (f := linkRetrainD k.toNat) (if_pos h),
    fun h => onDev_next (f := retrainDoneD k.toNat true) ?_, fun h => onDev_next (f := retrainDoneD k.toNat false) ?_,
    fun h ok => onDev_next (f := retrainDoneD k.toNat ok) ?_⟩
  · simp only [retrainDoneD, h, Bool.not_true, Bool.false_eq_true, if_false, if_true]
  · simp only [retrainDoneD, h, Bool.not_true, Bool.false_eq_true, if_false]
  · simp only [retrainDoneD, h, Bool.not_false, if_true]

theorem refreshD_hot (d : Dev) (stack die : Nat) (above : Bool) (j : Nat) :
    j ∈ (refreshD stack die above d).pier.hot ↔ (j = 16 * stack + die ∧ above = true) ∨ (j ∈ d.pier.hot ∧ j ≠ 16 * stack + die) := by
  cases above <;> simp [refreshD]

/-- Settles O35: each command's case by its own equation. -/
theorem flushSweepAndPier : Obligations.FlushSweepAndPier := by
  unfold Obligations.FlushSweepAndPier
  refine ⟨fun s => ?_, fun s => ⟨fun f => (frameZeros s f).1, fun f => (frameZeros s f).2, stackLinks s, fun k die above => ?_⟩⟩
  · obtain ⟨hkey, hflush⟩ := flushes s
    obtain ⟨hsweep, hreport⟩ := sweeps s
    exact ⟨hkey, hflush, hsweep, hreport⟩
  · exact ⟨_, rfl, rfl, refreshD_hot s.dev k.toNat die.toNat above, rfl⟩

end Sys2Proof.Machine

/-! PROOFS. O36: a flow's record, the frames that a flow sends and its request sent again. -/

namespace Sys2Proof.Machine

open Sys2Proof

theorem getFlow_setFlow_same (d : Dev) (i : Nat) (f : Flow) : getFlow (setFlow d i f) i = f := by rw [getFlow_setFlow, if_pos rfl]

theorem getXfer_setXfer_same (d : Dev) (x : Nat) (t : Transfer) : getXfer (setXfer d x t) x = some t := by
  rw [getXfer, setXfer, tfind_tset, if_pos rfl]

/-! ## FLOW_CREATE -/

/-- USE of a record that a new flow takes: one more than its last flow's, 0 for a record's first. -/
def nextUse (d : Dev) (i : Nat) : BitVec 17 :=
  match tfind d.cwy.flows i with
  | some f => f.use + 1
  | none => 0

theorem nextUse_again {d : Dev} {i : Nat} {f : Flow} (h : tfind d.cwy.flows i = some f) : nextUse d i = f.use + 1 := by
  simp only [nextUse, h]

theorem nextUse_first {d : Dev} {i : Nat} (h : tfind d.cwy.flows i = none) : nextUse d i = 0 := by
  simp only [nextUse, h]

theorem flowCreateD_free {d : Dev} {x stripe i lo n : Nat} {t : Transfer} {sp : FlowSpec} (hx : getXfer d x = some t)
    (hsp : t.toMake.find? (fun q => q.stripe = stripe) = some sp) (hlo : lo = (if ingressType t.type then 16384 else 0))
    (hn : n = (if ingressType t.type then 4096 else 16384)) (hge : lo ≤ i) (hlt : i < lo + n) (hfree : (getFlow d i).live = false)
    (hfirst : ∀ j, lo ≤ j → j < i → (getFlow d j).live = true) :
    flowCreateD x stripe d =
      setXfer (setFlow d i (newFlow d x t sp (nextUse d i))) x { t with toMake := t.toMake.erase sp, live := t.live ++ [i] } := by
  have hfind : findFrom (fun i => !(getFlow d i).live) lo n = some i :=
    findFrom_first hge hlt (by rw [hfree]; rfl) (fun j h1 h2 => by rw [hfirst j h1 h2]; rfl)
  subst hlo hn
  simp only [flowCreateD, hx, hsp, hfind]
  rfl

theorem flowCreates (s : State) {x stripe i lo n : Nat} {t : Transfer} {sp : FlowSpec} (hx : getXfer s.dev x = some t)
    (hsp : t.toMake.find? (fun q => q.stripe = stripe) = some sp) (hlo : lo = (if ingressType t.type then 16384 else 0))
    (hn : n = (if ingressType t.type then 4096 else 16384)) (hge : lo ≤ i) (hlt : i < lo + n) (hfree : (getFlow s.dev i).live = false)
    (hfirst : ∀ j, lo ≤ j → j < i → (getFlow s.dev j).live = true) :
    ∃ u use, exec (.flowCreate x stripe) s = .next u ∧ u.pending = s.pending ∧ getFlow u.dev i = newFlow s.dev x t sp use ∧
      (∀ f, tfind s.dev.cwy.flows i = some f → use = f.use + 1) ∧ (tfind s.dev.cwy.flows i = none → use = 0) ∧
      (∀ j, j ≠ i → getFlow u.dev j = getFlow s.dev j) ∧
      getXfer u.dev x = some { t with toMake := t.toMake.erase sp, live := t.live ++ [i] } := by
  refine ⟨_, nextUse s.dev i, onDev_next (f := flowCreateD x stripe) (flowCreateD_free hx hsp hlo hn hge hlt hfree hfirst), rfl,
    getFlow_setFlow_same s.dev i _, fun f => nextUse_again, nextUse_first, fun j hj => ?_, getXfer_setXfer_same _ _ _⟩
  exact (getFlow_setFlow s.dev i j _).trans (if_neg hj)

/-! ## Frames out of a port -/

/-- A logical port that sends: it exists, it is UP with a MAC address, and MACsec does not protect it. -/
def openPort (d : Dev) (l : Nat) : Prop :=
  alive d = true ∧ lportExists d l = true ∧ (getPort d l).st = .up ∧ portMac d l ≠ 0 ∧ macsecOn d l = false

theorem portOut_open {d : Dev} {l : Nat} (h : openPort d l) (fr : Frame) : portOut d l fr = emit d l fr := by
  obtain ⟨halive, hex, hup, hmac, hsec⟩ := h
  have hgo : ¬ ((!alive d || !lportExists d l || (getPort d l).st ≠ .up || portMac d l = 0) = true) := by simp [halive, hex, hup, hmac]
  rw [portOut]
  exact (if_neg hgo).trans (if_pos (by rw [hsec]; rfl))

theorem openPort_buckets {d : Dev} {l : Nat} (h : openPort d l) (b : Tbl Int) :
    openPort { d with pmg := { d.pmg with buckets := b } } l := h

/-- The fields of a built frame that the destination and the port's registers do not decide. -/
theorem buildFrame_fields (d : Dev) (l : Nat) (ws : List Word64) (be : Bool) (type flags seq off total : Nat) (flow handle : Word32)
    (body payload : List Byte) :
    let fr := buildFrame d l ws be type flags seq off total flow handle body payload
    fr.crc = frameCrc fr ∧ fr.payload = payload ∧ fr.seq = BitVec.ofNat 32 seq ∧ fr.flow = flow ∧ fr.handle = handle ∧
      fr.type = BitVec.ofNat 4 type ∧ fr.flags = BitVec.ofNat 8 flags ∧ fr.offset = BitVec.ofNat 64 off :=
  ⟨rfl, rfl, rfl, rfl, rfl, rfl, rfl, rfl⟩

theorem typeCode_toNat (t : XferType) : (BitVec.ofNat 4 (typeCode t)).toNat = typeCode t := by cases t <;> rfl

/-! ## CHUNK_SEND and REQUEST_RETRANSMIT -/

theorem openFlow_some {d : Dev} {i : Nat} {f : Flow} {t : Transfer} (h : openFlow d i = some (f, t)) :
    alive d = true ∧ f.live = true ∧ getFlow d i = f ∧ getXfer d f.xfer = some t := by
  unfold openFlow at h
  dsimp only at h
  split at h
  · cases h
  · next hgo =>
    obtain ⟨t', ht', heq⟩ := Option.map_eq_some_iff.mp h
    cases heq
    simp only [Bool.or_eq_true, Bool.not_eq_true', not_or, Bool.not_eq_false] at hgo
    exact ⟨hgo.1, hgo.2, rfl, ht'⟩

/-- The data frame of chunk `q` of an egress flow. -/
def dataFrame (d : Dev) (i : Nat) (f : Flow) (t : Transfer) (q : Nat) (retx : Bool) : Frame :=
  let c := absChunk t f q
  let bytes := (chunkRuns t c).flatMap (fun r => pierGet d r.1 r.2)
  buildFrame d f.lport (flowDest t f) f.be (typeCode t.type)
    (2 * b2n (decide (t.offset + chunkBytes * c + bytes.length = t.total)) + 4 * b2n retx) q (t.offset + chunkBytes * c)
    t.total (flowId i f) f.handle (kvBody d t) bytes

theorem dataFrame_noREQ (d : Dev) (i : Nat) (f : Flow) (t : Transfer) (q : Nat) (retx : Bool) : fREQ (dataFrame d i f t q retx) = false := by
  have hbit : ∀ a b : Bool, bitOf (BitVec.ofNat 8 (2 * b2n a + 4 * b2n b)) 0 = false := by decide
  exact hbit _ _

/-- An egress flow once chunk `q` has gone. -/
def chunkGone (f : Flow) (q : Nat) (retx : Bool) : Flow := if retx then { f with resend := f.resend.erase q } else { f with next := f.next + 1 }

theorem chunkGone_port (f : Flow) (q : Nat) (retx : Bool) : (chunkGone f q retx).lport = f.lport ∧ (chunkGone f q retx).be = f.be := by
  cases retx <;> exact ⟨rfl, rfl⟩

theorem sendData_clean {d : Dev} {i : Nat} {f : Flow} {t : Transfer} {q : Nat} {retx : Bool}
    (hclean : ∀ r, r ∈ chunkRuns t (absChunk t f q) → pierPoison d r.1 r.2 = none) (hport : openPort d f.lport) :
    ∃ b, sendData d i f t q retx =
      setFlow (emit { d with pmg := { d.pmg with buckets := b } } f.lport (dataFrame d i f t q retx)) i (chunkGone f q retx) := by
  have hnone : (chunkRuns t (absChunk t f q)).findSome? (fun r => pierPoison d r.1 r.2) = none := List.findSome?_eq_none_iff.mpr hclean
  obtain ⟨b1, hb1⟩ := chargeCtx_eq d t.cr.toNat 0 ((chunkRuns t (absChunk t f q)).flatMap (fun r => pierGet d r.1 r.2)).length
  obtain ⟨b, hb⟩ := charge_eq { d with pmg := { d.pmg with buckets := b1 } } t.part.toNat 3
    ((chunkRuns t (absChunk t f q)).flatMap (fun r => pierGet d r.1 r.2)).length t.be
  refine ⟨b, ?_⟩
  simp only [sendData, hnone, hb1, hb]
  rw [portOut_open (openPort_buckets hport b)]
  rfl

/-- The request frame of an ingress flow. -/
def requestFrame (d : Dev) (i : Nat) (f : Flow) (t : Transfer) (retx : Bool) : Frame :=
  buildFrame d f.lport (flowDest t f) f.be (typeCode t.type) (1 + 4 * b2n retx) 0 f.reqOff t.total (flowId i f) f.handle (requestBody t f) []

theorem requestFrame_flags (d : Dev) (i : Nat) (f : Flow) (t : Transfer) (retx : Bool) :
    fREQ (requestFrame d i f t retx) = true ∧ bitOf (requestFrame d i f t retx).flags 2 = retx := by
  have hbit : ∀ b : Bool, bitOf (BitVec.ofNat 8 (1 + 4 * b2n b)) 0 = true ∧ bitOf (BitVec.ofNat 8 (1 + 4 * b2n b)) 2 = b := by decide
  exact hbit retx

theorem sendRequest_open {d : Dev} {i : Nat} {f : Flow} {t : Transfer} {retx : Bool} (hport : openPort d f.lport) :
    sendRequest d i f t retx = emit d f.lport (requestFrame d i f t retx) := portOut_open hport _

section
variable {s : State} {i : Nat} {f : Flow} {t : Transfer} (hopen : openFlow s.dev i = some (f, t)) (hport : openPort s.dev f.lport)
include hopen hport

theorem chunkSendD_data {q : Nat} {retx : Bool} (hi : i < 16384) (hnext : nextChunk f = some (q, retx))
    (hclean : ∀ r, r ∈ chunkRuns t (absChunk t f q) → pierPoison s.dev r.1 r.2 = none) (hturn : portNext s.dev f.lport = some i) :
    ∃ b, chunkSendD i .ok s.dev = coxSettle (noteSent
      (setFlow (emit { s.dev with pmg := { s.dev.pmg with buckets := b } } f.lport (dataFrame s.dev i f t q retx)) i (chunkGone f q retx)) i
      (flowSize s.dev t f (chunkLen t (absChunk t f q)))) := by
  obtain ⟨b, hb⟩ := sendData_clean (i := i) (retx := retx) hclean hport
  have hegress : isIngress i = false := decide_eq_false (Nat.not_le.mpr hi)
  refine ⟨b, ?_⟩
  simp only [chunkSendD, hopen, hturn, hegress, hnext, pierEcc, hb, ne_eq, not_true_eq_false, if_false, Bool.false_eq_true]

theorem chunkSendD_request (hi : 16384 ≤ i) (hturn : portNext s.dev f.lport = some i) :
    chunkSendD i .ok s.dev = noteSent (setFlow (emit s.dev f.lport (requestFrame s.dev i f t false)) i { f with reqSent := true }) i
      (flowSize s.dev t f 0) := by
  have hingress : isIngress i = true := decide_eq_true hi
  simp only [chunkSendD, hopen, hturn, hingress, sendRequest_open hport, ne_eq, not_true_eq_false, if_false, if_true]

theorem requestAgainD_sent (hi : 16384 ≤ i) (hsent : f.reqSent = true) (hcum : f.cum = 0) (habove : f.above = [])
    (hmay : mayRepeat s.dev f = true) : requestAgainD i s.dev = emit s.dev f.lport (requestFrame s.dev i f t true) := by
  have hingress : isIngress i = true := decide_eq_true hi
  have hgo : ¬ ((!isIngress i || !f.reqSent || f.cum ≠ 0 || f.above ≠ [] || !mayRepeat s.dev f) = true) := by
    simp [hingress, hsent, hcum, habove, hmay]
  simp only [requestAgainD, hopen]
  exact (if_neg hgo).trans (sendRequest_open hport)

end

theorem getFlow_noteSent (d : Dev) (i n : Nat) : getFlow (noteSent d i n) i = paced d.now.toNat n (getFlow d i) :=
  getFlow_setFlow_same _ _ _

/-- Settles O36: the sent frame is the flow's own, put out of a port that is UP. -/
theorem flowsSend : Obligations.FlowsSend := by
  unfold Obligations.FlowsSend
  refine ⟨fun s x stripe i lo n t sp hx hsp hlo hn hge hlt hfree hfirst => flowCreates s hx hsp hlo hn hge hlt hfree hfirst,
    fun s flow f t hopen hex hup hmac hsec => ?_⟩
  obtain ⟨halive, -, -, -⟩ := openFlow_some hopen
  have hport : openPort s.dev f.lport := ⟨halive, hex, hup, hmac, hsec⟩
  refine ⟨fun q retx hi hnext hclean hturn => ?_, fun hi _ hturn => ?_, fun hi hsent hcum habove hmay => ?_⟩
  · obtain ⟨b, hb⟩ := chunkSendD_data hopen hport hi hnext hclean hturn
    refine ⟨_, dataFrame s.dev flow.toNat f t q retx, onDev_next (f := chunkSendD flow.toNat .ok) hb, ?_, rfl, rfl, rfl, rfl, rfl, rfl,
      typeCode_toNat _, dataFrame_noREQ _ _ _ _ _ _, rfl, rfl, rfl, fun _ => rfl⟩
    rw [getFlow_noteSent, getFlow_setFlow_same]
    rfl
  · obtain ⟨hreq, -⟩ := requestFrame_flags s.dev flow.toNat f t false
    refine ⟨_, requestFrame s.dev flow.toNat f t false, onDev_next (f := chunkSendD flow.toNat .ok) (chunkSendD_request hopen hport hi hturn),
      rfl, ?_, rfl, hreq, rfl, rfl, rfl, rfl, rfl, rfl, fun _ => rfl⟩
    exact (getFlow_noteSent _ _ _).trans (by rw [getFlow_setFlow_same]; rfl)
  · obtain ⟨hreq, hretx⟩ := requestFrame_flags s.dev flow.toNat f t true
    exact ⟨_, requestFrame s.dev flow.toNat f t true,
      onDev_next (f := requestAgainD flow.toNat) (requestAgainD_sent hopen hport hi hsent hcum habove hmay), rfl, rfl, rfl, hreq, hretx, rfl,
      rfl, rfl, fun _ => rfl⟩

end Sys2Proof.Machine

/-! PROOFS. O37, O38: what an accepted frame does to the flow that it names, and the timers of a flow. -/

namespace Sys2Proof.Machine

open Sys2Proof

theorem sameMem_trans {a b c : Dev} (hab : sameMem a b) (hbc : sameMem b c) : sameMem a c := by
  obtain ⟨hh, hp, ht⟩ := hab
  obtain ⟨hh2, hp2, ht2⟩ := hbc
  exact ⟨hh2.trans hh, hp2.trans hp, fun u => (ht2 u).trans (ht u)⟩

/-! ## Arrivals -/

theorem arrives_reaches {d d1 : Dev} {l i : Nat} {fr : Frame} {f : Flow} {k : Dev → Nat → Flow → Dev}
    (h : reaches d l fr = some (d1, i, f)) : arrives d l fr k = k d1 i f := by
  unfold reaches at h
  split at h
  · cases h
  next d0 hport =>
  split at h
  case isFalse => cases h
  next hok =>
  split at h
  case h_2 => cases h
  next j r hflow =>
  split at h
  case isFalse => cases h
  next hname =>
  cases h
  obtain ⟨huse, hhandle⟩ := hname
  simp only [arrives, hport, hok, hflow, huse, hhandle, Bool.not_true, Bool.false_eq_true, if_false, ne_eq, not_true_eq_false, decide_false,
    Bool.or_self]

theorem onObj_next {c : Instr} {s : State} {i n : Nat} {f : Dev → Dev} {d : Dev} (hexec : exec c s = onObj i n s f) (hi : i < n)
    (hd : f s.dev = d) : exec c s = .next { s with dev := d } := by
  rw [hexec, onObj_lt i n s f hi, ← hd]

theorem macsecIn_frame {d d1 : Dev} {l : Nat} {fr : Frame} (h : macsecIn d l fr = some d1) : d1.cwy = d.cwy ∧ sameMem d d1 := by
  unfold macsecIn at h
  dsimp only at h
  split at h
  · split at h
    · cases h; exact ⟨rfl, rfl, rfl, fun _ => rfl⟩
    · cases h
  · split at h
    · cases h
    · split at h
      · cases h
      · split at h
        · cases h
        · cases h; exact ⟨rfl, rfl, rfl, fun _ => rfl⟩

theorem portIn_frame {d d1 : Dev} {l : Nat} {fr : Frame} (h : portIn d l fr = some d1) : d1.cwy = d.cwy ∧ sameMem d d1 := by
  unfold portIn at h
  split at h
  · cases h
  · split at h
    · cases h
    · split at h
      · cases h
      · exact macsecIn_frame h

/-! ## ACK frames -/

theorem cutRate_frame (d : Dev) (f : Flow) : (cutRate d f).cum = f.cum ∧ (cutRate d f).credit = f.credit := by
  unfold cutRate
  exact ⟨(apply_ite Flow.cum _ _ _).trans (ite_self _), (apply_ite Flow.credit _ _ _).trans (ite_self _)⟩

/-- An egress flow once an ACK is taken: progress is noted when the ACK covers something new. -/
def ackTaken (d : Dev) (f h : Flow) : Flow := if newlyAcked f h = [] then h else { h with progressAt := d.now }

/-- That flow with its rate cut, when the ACK carries ECE and the device heeds it. -/
def ackHeeded (d : Dev) (fr : Frame) (g : Flow) : Flow := if fECE fr = true ∧ bitOf (reg d 0x0800010) 28 = true then cutRate d g else g

theorem ackHeeded_frame (d : Dev) (fr : Frame) (f h : Flow) :
    (ackHeeded d fr (ackTaken d f h)).cum = h.cum ∧ (ackHeeded d fr (ackTaken d f h)).credit = h.credit := by
  have htaken : (ackTaken d f h).cum = h.cum ∧ (ackTaken d f h).credit = h.credit := by
    unfold ackTaken
    split <;> exact ⟨rfl, rfl⟩
  obtain ⟨hcum, hcredit⟩ := htaken
  unfold ackHeeded
  split
  · obtain ⟨hc, hr⟩ := cutRate_frame d (ackTaken d f h)
    exact ⟨hc.trans hcum, hr.trans hcredit⟩
  · exact ⟨hcum, hcredit⟩

/-- The device once the tap of an egress transfer has counted what an ACK newly covers. -/
def ackTapped (d : Dev) (t : Transfer) (f h : Flow) : Dev :=
  if t.type = .kvPush then addTap d true t ((newlyAcked f h).map (fun q => chunkLen t (absChunk t f q))).sum else d

theorem ackFlow_ingress {d : Dev} {i : Nat} {f : Flow} {t : Transfer} {fr : Frame} (hx : getXfer d f.xfer = some t) (hi : 16384 ≤ i) :
    ackFlow fr d i f = if ackStatus fr = 0 then d else flowEnds d i (.peer (ackStatus fr)) := by
  have hingress : isIngress i = true := decide_eq_true hi
  simp only [ackFlow, hx, hingress, if_true]

theorem ackFlow_egress {d : Dev} {i : Nat} {f h : Flow} {t : Transfer} {fr : Frame} (hx : getXfer d f.xfer = some t) (hi : i < 16384)
    (hh : h = takeAck f (ackCum fr) (ackSack fr) (ackCredit fr)) :
    ackFlow fr d i f =
      if ackStatus fr ≠ 0 then flowEnds (setFlow (ackTapped d t f h) i (ackHeeded d fr (ackTaken d f h))) i (.peer (ackStatus fr))
      else if f.chunks ≤ h.cum then flowEnds (setFlow (ackTapped d t f h) i (ackHeeded d fr (ackTaken d f h))) i .done
      else setFlow (ackTapped d t f h) i (gapResend d.now.toNat (ackHeeded d fr (ackTaken d f h))) := by
  subst hh
  have hegress : isIngress i = false := decide_eq_false (Nat.not_le.mpr hi)
  simp only [ackFlow, hx, hegress, Bool.false_eq_true, if_false, ackTapped, ackHeeded, ackTaken, List.isEmpty_iff, Bool.and_eq_true]

theorem takeAck_grows (f : Flow) (cum sack credit : Nat) :
    f.cum ≤ (takeAck f cum sack credit).cum ∧ f.credit ≤ (takeAck f cum sack credit).credit ∧ credit ≤ (takeAck f cum sack credit).credit :=
  ⟨Nat.le_max_left _ _, Nat.le_max_left _ _, Nat.le_max_right _ _⟩

theorem ackArrives {s : State} {l i : Nat} {fr : Frame} {d : Dev} {f : Flow} (hl : l < 160) (hkind : isAckKind fr = true)
    (hreach : reaches s.dev l fr = some (d, i, f)) : exec (.ackFrameArrival l fr) s = .next { s with dev := ackFlow fr d i f } :=
  onObj_next (f := ackArrivalD l fr) rfl hl ((if_pos hkind).trans (arrives_reaches hreach))

/-! ## Data frames -/

theorem portOut_plain {d : Dev} {l : Nat} (hsec : macsecOn d l = false) (fr : Frame) : portOut d l fr = d ∨ portOut d l fr = emit d l fr := by
  rw [portOut]
  dsimp only
  by_cases hgo : (!alive d || !lportExists d l || (getPort d l).st ≠ .up || portMac d l = 0) = true
  · exact .inl (if_pos hgo)
  · exact .inr ((if_neg hgo).trans (if_pos (by rw [hsec]; rfl)))

theorem sendAck_frame {d : Dev} {g : Flow} (hsec : macsecOn d g.lport = false) (i : Nat) (t : Transfer) (ce : Bool) (st : Nat) :
    sameMem d (sendAck d i t g ce st) ∧ (∀ x, getXfer (sendAck d i t g ce st) x = getXfer d x) ∧
      ∀ j, getFlow (sendAck d i t g ce st) j = getFlow d j := by
  unfold sendAck
  obtain h | h := portOut_plain hsec (buildFrame d g.lport (flowDest t g) g.be 6 (8 * b2n ce + 16 * b2n (st = 4)) 0 0 0 (flowId i g) g.handle
    (ackBody g st) [])
  · rw [h]
    exact ⟨⟨rfl, rfl, fun _ => rfl⟩, fun _ => rfl, fun _ => rfl⟩
  · rw [h]
    exact ⟨⟨rfl, rfl, fun _ => rfl⟩, fun _ => rfl, fun _ => rfl⟩

theorem le_firstMissing (all : List Nat) (c k : Nat) : c ≤ firstMissing all c k := by
  induction k generalizing c with
  | zero => exact Nat.le_refl c
  | succ j ih =>
    rw [firstMissing]
    split
    · exact (Nat.le_succ c).trans (ih (c + 1))
    · exact Nat.le_refl c

theorem dataFlow_again {d : Dev} {i : Nat} {f : Flow} {t : Transfer} {fr : Frame} (hx : getXfer d f.xfer = some t) (hi : 16384 ≤ i)
    (hmatch : chunkMatches t f fr = true) (hhas : hasChunk f fr.seq.toNat = true) :
    dataFlow fr d i f =
      sendAck (setFlow d i { f with unacked := 0 }) i t f (decide (fr.encap ≠ 0) && decide (fr.ecn = 3)) 0 := by
  have hingress : isIngress i = true := decide_eq_true hi
  simp only [dataFlow, hx, hingress, hmatch, hhas, Bool.not_true, Bool.or_self, Bool.false_eq_true, if_false, if_true]

/-- The flow that has taken a new chunk. -/
def chunkTaken (d : Dev) (f : Flow) (q : Nat) : Flow := { noteChunk f q with progressAt := d.now }

/-- Whether a new chunk is acknowledged at once (R359). -/
def ackAtOnce (fr : Frame) (f : Flow) : Bool :=
  fr.seq.toNat ≠ f.cum || f.above.any (fun a => decide (fr.seq.toNat < a)) || fLAST fr || (fr.encap ≠ 0 && fr.ecn = 3) ||
    decide (f.chunks ≤ (noteChunk f fr.seq.toNat).cum) || decide (16 ≤ (noteChunk f fr.seq.toNat).unacked)

/-- The device once chunk `c` is noted on its transfer and its flow, which becomes `g`, with an ACK when one is due. -/
def chunkNoted (d : Dev) (i c : Nat) (f g : Flow) (t : Transfer) (ce ack : Bool) : Dev :=
  if ack then sendAck (setFlow (setXfer d f.xfer { t with got := c :: t.got }) i { g with unacked := 0 }) i t g ce 0
  else setFlow (setXfer d f.xfer { t with got := c :: t.got }) i g

/-- A new chunk that does not complete its flow: it is stored and noted on transfer and flow, and an ACK may go out. -/
theorem dataFlow_new {d d1 : Dev} {i c : Nat} {f : Flow} {t : Transfer} {fr : Frame} (hx : getXfer d f.xfer = some t) (hi : 16384 ≤ i)
    (hmatch : chunkMatches t f fr = true) (hc : c = absChunk t f fr.seq.toNat) (hhas : hasChunk f fr.seq.toNat = false) (hfresh : c ∉ t.got)
    (hstore : storeChunk d t c fr.payload = .ok d1) (htype : t.type ≠ .weightPull) (hmore : (noteChunk f fr.seq.toNat).cum < f.chunks) :
    dataFlow fr d i f =
      chunkNoted d1 i c f (chunkTaken d f fr.seq.toNat) t (decide (fr.encap ≠ 0) && decide (fr.ecn = 3)) (ackAtOnce fr f) := by
  subst hc
  have hingress : isIngress i = true := decide_eq_true hi
  have hnew : t.got.contains (absChunk t f fr.seq.toNat) = false := Bool.eq_false_iff.mpr fun h => hfresh (List.contains_iff_mem.mp h)
  have hfin : decide (f.chunks ≤ (noteChunk f fr.seq.toNat).cum) = false := decide_eq_false (Nat.not_le.mpr hmore)
  simp only [dataFlow, hx, hingress, hmatch, hhas, hnew, hstore, htype, hfin, Bool.not_true, Bool.not_false, Bool.or_self, decide_false,
    Bool.and_false, Bool.false_eq_true, if_false, if_true, chunkNoted, chunkTaken, ackAtOnce]

theorem dataArrives {s : State} {l i : Nat} {fr : Frame} {d : Dev} {f : Flow} (hl : l < 160) (hkind : isDataKind fr = true)
    (hreach : reaches s.dev l fr = some (d, i, f)) : exec (.dataFrameArrival l fr) s = .next { s with dev := dataFlow fr d i f } :=
  onObj_next (f := dataArrivalD l fr) rfl hl ((if_pos hkind).trans (arrives_reaches hreach))

theorem chunkNoted_frame {d1 : Dev} {i c : Nat} {f g : Flow} {t : Transfer} {ce ack : Bool} (hport : g.lport = f.lport)
    (hsec : macsecOn d1 f.lport = false) :
    sameMem d1 (chunkNoted d1 i c f g t ce ack) ∧ getXfer (chunkNoted d1 i c f g t ce ack) f.xfer = some { t with got := c :: t.got } ∧
      (getFlow (chunkNoted d1 i c f g t ce ack) i).cum = g.cum ∧ (getFlow (chunkNoted d1 i c f g t ce ack) i).above = g.above := by
  have hnoted : ∀ g', sameMem d1 (setFlow (setXfer d1 f.xfer { t with got := c :: t.got }) i g') ∧
      getXfer (setFlow (setXfer d1 f.xfer { t with got := c :: t.got }) i g') f.xfer = some { t with got := c :: t.got } :=
    fun _ => ⟨⟨rfl, rfl, fun _ => rfl⟩, getXfer_setXfer_same d1 _ _⟩
  unfold chunkNoted
  split
  · obtain ⟨hmem, hx⟩ := hnoted { g with unacked := 0 }
    have hflow := getFlow_setFlow_same (setXfer d1 f.xfer { t with got := c :: t.got }) i { g with unacked := 0 }
    obtain ⟨hsame, hxs, hflows⟩ := sendAck_frame (g := g)
      (d := setFlow (setXfer d1 f.xfer { t with got := c :: t.got }) i { g with unacked := 0 }) (hport ▸ hsec) i t ce 0
    exact ⟨sameMem_trans hmem hsame, (hxs _).trans hx, (congrArg Flow.cum ((hflows i).trans hflow) :),
      (congrArg Flow.above ((hflows i).trans hflow) :)⟩
  · obtain ⟨hmem, hx⟩ := hnoted g
    have hflow := getFlow_setFlow_same (setXfer d1 f.xfer { t with got := c :: t.got }) i g
    exact ⟨hmem, hx, congrArg Flow.cum hflow, congrArg Flow.above hflow⟩

/-! ## Frames that name no flow -/

theorem requestArrivalD_portIn {d : Dev} {l : Nat} {fr : Frame} (hkind : isRequestKind fr = true) :
    (portIn d l fr = none → requestArrivalD l fr d = d) ∧ (∀ d1, portIn d l fr = some d1 → requestArrivalD l fr d = d1) :=
  ⟨fun h => by simp only [requestArrivalD, hkind, if_true, h], fun d1 h => by simp only [requestArrivalD, hkind, if_true, h]⟩

theorem frameDiscardD_portIn {d : Dev} {l : Nat} {fr : Frame} (hreq : isRequestKind fr = false) (habort : isAbortKind fr = false)
    (hack : isAckKind fr = false) (hdata : isDataKind fr = false) :
    (portIn d l fr = none → frameDiscardD l fr d = d) ∧ (∀ d1, portIn d l fr = some d1 → frameDiscardD l fr d = d1) := by
  have hskip : ¬ ((isRequestKind fr || isAbortKind fr || isAckKind fr || isDataKind fr) = true) := by simp [hreq, habort, hack, hdata]
  exact ⟨fun h => by simp only [frameDiscardD, if_neg hskip, h], fun d1 h => by simp only [frameDiscardD, if_neg hskip, h]⟩

/-- Settles O37: the flow that a frame reaches is the statement's own; each kind of frame by what its flow does with it. -/
theorem framesArrive : Obligations.FramesArrive := by
  unfold Obligations.FramesArrive
  intro s l fr hl
  refine ⟨fun d i f hreach => ⟨fun t hkind hx hi => ?_, fun t h g0 g d1 hkind hx hi hh hg0 hg hd1 => ?_, fun hkind => ?_,
    fun t q c ce hkind hx hi hmatch hq hc hce => ?_⟩, fun hkind hnone => ?_, fun d hkind hport => ?_, fun hreq habort hack hdata => ?_⟩
  · rw [ackArrives hl hkind hreach, ackFlow_ingress hx hi]
  · have hexec := ackArrives hl hkind hreach
    rw [ackFlow_egress hx hi hh] at hexec
    obtain rfl : g = ackHeeded d fr (ackTaken d f h) := by rw [hg, hg0]; rfl
    obtain rfl : d1 = ackTapped d t f h := hd1
    obtain ⟨hcum, hcredit⟩ := ackHeeded_frame d fr f h
    rw [hcum, hcredit]
    obtain ⟨h1, h2, h3⟩ := takeAck_grows f (ackCum fr) (ackSack fr) (ackCredit fr)
    refine ⟨hh ▸ h1, hh ▸ h2, hh ▸ h3, fun hst => ?_, fun hst hless => ?_, fun hst hall => ?_⟩
    · rw [hexec, if_pos hst]
    · rw [hexec, if_neg (not_not_intro hst), if_neg (Nat.not_le.mpr hless)]
    · rw [hexec, if_neg (not_not_intro hst), if_pos hall]
  · exact onObj_next (f := abortArrivalD l fr) rfl hl ((if_pos hkind).trans (arrives_reaches hreach))
  · have hexec := dataArrives hl hkind hreach
    subst hq hce
    refine ⟨fun hhas => ?_, fun d1 hhas hfresh hsec hstore htype => ⟨le_firstMissing _ _ _, fun hmore => ?_⟩⟩
    · rw [hexec, dataFlow_again hx hi hmatch hhas]
    · rw [dataFlow_new hx hi hmatch hc hhas hfresh hstore htype hmore] at hexec
      exact ⟨_, hexec, rfl, chunkNoted_frame (g := chunkTaken d f fr.seq.toNat) rfl hsec⟩
  · exact onObj_next (f := requestArrivalD l fr) rfl hl ((requestArrivalD_portIn hkind).1 hnone)
  · exact ⟨onObj_next (f := requestArrivalD l fr) rfl hl ((requestArrivalD_portIn hkind).2 d hport), portIn_frame hport⟩
  · obtain ⟨hrefused, htaken⟩ := frameDiscardD_portIn (d := s.dev) (l := l) hreq habort hack hdata
    exact ⟨fun hnone => onObj_next (f := frameDiscardD l fr) rfl hl (hrefused hnone),
      fun d hport => ⟨onObj_next (f := frameDiscardD l fr) rfl hl (htaken d hport), portIn_frame hport⟩⟩

/-! ## Timers -/

section
variable {d : Dev} {i : Nat} {f : Flow} {t : Transfer} (hopen : openFlow d i = some (f, t))
include hopen

theorem ackTimerD_due (hi : 16384 ≤ i) (hdue : f.unacked ≠ 0) :
    ackTimerD i d = sendAck (setFlow d i { f with unacked := 0 }) i t f false 0 := by
  have hingress : isIngress i = true := decide_eq_true hi
  simp only [ackTimerD, hopen, hingress, hdue, Bool.not_true, Bool.false_or, decide_false, Bool.false_eq_true, if_false]

theorem rtoD_missing (hi : i < 16384) (hless : f.cum < f.next) :
    rtoD i d = setFlow d i { f with
      resend := (List.range f.next).filter
        (fun q => f.cum ≤ q && !f.above.contains q && (q = f.cum || q < f.above.foldl max 0))
      rtoUs := min 1024 (2 * f.rtoUs) } := by
  have hegress : isIngress i = false := decide_eq_false (Nat.not_le.mpr hi)
  have hopenWin : decide (f.next ≤ f.cum) = false := decide_eq_false (Nat.not_le.mpr hless)
  simp only [rtoD, hopen, hegress, hopenWin, Bool.or_self, Bool.false_eq_true, if_false]

theorem rtoD_whole (hle : f.next ≤ f.cum) : rtoD i d = d := by
  simp only [rtoD, hopen, hle, decide_true, Bool.or_true, if_true]

theorem flowTimeoutD_stalled : flowTimeoutD i d = if stalled d f then flowEnds d i .timedOut else d := by simp only [flowTimeoutD, hopen]

theorem rateD_egress (hi : i < 16384) :
    rateD i d = setFlow d i { f with rate := min (f.rate + (fld (reg d 0x0800010) 0 8 : Nat)) (portRate d f.lport : Nat) } := by
  have hegress : isIngress i = false := decide_eq_false (Nat.not_le.mpr hi)
  simp only [rateD, hopen, hegress, Bool.false_eq_true, if_false]

end

theorem mem_missing {f : Flow} {q : Nat}
    (h : q ∈ (List.range f.next).filter (fun q => f.cum ≤ q && !f.above.contains q && (q = f.cum || q < f.above.foldl max 0))) :
    f.cum ≤ q ∧ q < f.next ∧ q ∉ f.above := by
  simp only [List.mem_filter, List.mem_range, Bool.and_eq_true, decide_eq_true_eq, Bool.not_eq_true', List.contains_eq_mem,
    decide_eq_false_iff_not] at h
  obtain ⟨hlt, ⟨hge, hno⟩, -⟩ := h
  exact ⟨hge, hlt, hno⟩

theorem cum_mem_missing {f : Flow} (hlt : f.cum < f.next) (hno : f.cum ∉ f.above) :
    f.cum ∈ (List.range f.next).filter (fun q => f.cum ≤ q && !f.above.contains q && (q = f.cum || q < f.above.foldl max 0)) := by
  simp [hlt, hno]

theorem getXfer_delXfer_same (d : Dev) (x : Nat) : getXfer (delXfer d x) x = none := by
  rw [getXfer, delXfer, tfind_tdel, if_pos rfl]

theorem closeFlow_quiet {d : Dev} {i : Nat} {f : Flow} {t : Transfer} (hf : getFlow d i = f) (hx : getXfer d f.xfer = some t) :
    closeFlow d i false = setXfer (setFlow d i { f with live := false }) f.xfer { t with live := t.live.filter (· ≠ i) } := by
  subst hf
  simp only [closeFlow, hx, Bool.false_and, Bool.false_eq_true, if_false]

/-- The device once the last flow of a transfer is closed. -/
def lastClosed (d : Dev) (i : Nat) (f : Flow) (t : Transfer) : Dev :=
  setXfer (setFlow d i { f with live := false }) f.xfer { t with live := [] }

theorem flowDone_last {d : Dev} {i : Nat} {f : Flow} {t : Transfer} {fin : Dev → Nat → Transfer → Dev} (hf : getFlow d i = f)
    (hx : getXfer d f.xfer = some t) (hlive : t.live = [i]) (hmake : t.toMake = []) :
    flowDone d i f.xfer fin = fin (lastClosed d i f t) f.xfer { t with live := [] } := by
  have hclose : closeFlow d i false = lastClosed d i f t := by
    rw [closeFlow_quiet hf hx, hlive, List.filter_cons_of_neg (by simp), List.filter_nil]
    rfl
  have hx1 : getXfer (lastClosed d i f t) f.xfer = some { t with live := [] } := getXfer_setXfer_same _ _ _
  have hshut : xferOpen { t with live := [] } = false := by simp [xferOpen, hmake]
  simp only [flowDone, hclose, hx1, hshut, Bool.false_eq_true, if_false]

/-- The last flow of a weight pull that ends DONE makes its model resident. -/
theorem pullEnd_last {d : Dev} {i : Nat} {f : Flow} {t : Transfer} {m : Model} (hf : getFlow d i = f) (hx : getXfer d f.xfer = some t)
    (htype : t.type = .weightPull) (hlive : t.live = [i]) (hmake : t.toMake = []) (hm : getModel d t.model = some m) :
    flowEnds d i .done = coxSettle (setModel (delXfer (lastClosed d i f t) f.xfer) t.model { m with resident := true, pull := none }) := by
  have hends : flowEnds d i .done = coxSettle (flowDone d i f.xfer pullDone) := by
    subst hf
    simp only [flowEnds, hx, htype, pullEnd]
  have hm1 : getModel (lastClosed d i f t) t.model = some m := hm
  rw [hends, flowDone_last hf hx hlive hmake]
  simp only [pullDone, hm1]

/-- Settles O38: each timer's case is read off its own equation. -/
theorem flowTimers : Obligations.FlowTimers := by
  unfold Obligations.FlowTimers
  intro s flow f t hopen
  obtain ⟨-, -, hf, hx⟩ := openFlow_some hopen
  refine ⟨fun hi hdue => onDev_next (f := ackTimerD flow.toNat) (ackTimerD_due hopen hi hdue),
    fun hi hless hno => ⟨_, onDev_next (f := rtoD flow.toNat) (rtoD_missing hopen hi hless), cum_mem_missing hless hno, fun q => mem_missing⟩,
    fun _ hle => onDev_next (f := rtoD flow.toNat) (rtoD_whole hopen hle), fun hst => ?_, fun hst => ?_,
    fun hi => onDev_next (f := rateD flow.toNat) (rateD_egress hopen hi), fun m htype hlive hmake hm => ?_⟩
  · exact onDev_next (f := flowTimeoutD flow.toNat) ((flowTimeoutD_stalled hopen).trans (if_pos hst))
  · exact onDev_next (f := flowTimeoutD flow.toNat) ((flowTimeoutD_stalled hopen).trans (if_neg (Bool.eq_false_iff.mp hst)))
  · refine ⟨_, pullEnd_last hf hx htype hlive hmake hm, ?_, getXfer_delXfer_same _ _, ?_⟩
    · rw [getModel_setModel, if_pos rfl]
    · rw [getFlow_setModel]
      exact congrArg Flow.live (getFlow_setFlow_same s.dev flow.toNat { f with live := false })

end Sys2Proof.Machine

/-! PROOFS. O39: the commits of MAP and UNMAP, page by page. -/

namespace Sys2Proof.Machine

open Sys2Proof

/-! ## What a page of a commit leaves unchanged -/

/-- Two states that differ in pier, in the regulators' buckets, and in what the translation unit holds beside the other contexts' tables
and the commit registers. -/
def sameButMaps (cr : Nat) (d d' : Dev) : Prop :=
  d'.host = d.host ∧ d'.tiles = d.tiles ∧ ∀ c, c ≠ cr → getMaps d' c = getMaps d c

theorem sameButMaps.trans {cr : Nat} {a b c : Dev} (hab : sameButMaps cr a b) (hbc : sameButMaps cr b c) : sameButMaps cr a c := by
  obtain ⟨hh, ht, hm⟩ := hab
  obtain ⟨hh2, ht2, hm2⟩ := hbc
  exact ⟨hh2.trans hh, ht2.trans ht, fun k hk => (hm2 k hk).trans (hm k hk)⟩

theorem chargeCtx_sameButMaps (cr : Nat) (d : Dev) (c i n : Nat) : sameButMaps cr d (chargeCtx d c i n) := by
  obtain ⟨b, hb⟩ := chargeCtx_eq d c i n
  rw [hb]
  exact ⟨rfl, rfl, fun _ _ => rfl⟩

theorem putTabEntry_sameButMaps (k : Nat) (d : Dev) (cr : Nat) (m : Maps) (level va v : Nat) :
    sameButMaps k d (putTabEntry d cr m level va v) := by
  unfold putTabEntry
  split
  · exact ⟨rfl, rfl, fun _ _ => rfl⟩
  · next t _ =>
    have hput : sameButMaps k d (pierPut d (entryAddr (tblOf d cr) t va) (toLe 8 v)) := ⟨rfl, rfl, fun _ _ => rfl⟩
    exact hput.trans (chargeCtx_sameButMaps k _ cr 0 8)

theorem putTab_sameButMaps (k : Nat) (d : Dev) (cr : Nat) (m : Maps) (t : TabSpot) : sameButMaps k d (putTab d cr m t) := by
  have hzero := sameButMaps.trans (a := d) (b := pierPut d (tabAddr (tblOf d cr) t) (List.replicate (8 * tabEntries t.level) 0))
    ⟨rfl, rfl, fun _ _ => rfl⟩ (chargeCtx_sameButMaps k _ cr 0 (8 * tabEntries t.level))
  unfold putTab
  dsimp only
  split
  · exact hzero
  · exact hzero.trans (putTabEntry_sameButMaps k _ cr m _ _ _)

theorem setMaps_sameButMaps (d : Dev) (cr : Nat) (m : Maps) : sameButMaps cr d (setMaps d cr m) :=
  ⟨rfl, rfl, fun _ hc => (tget_tset _ _ _ _ _).trans (if_neg hc)⟩

theorem putMaps_sameButMaps (d : Dev) (cr : Nat) (m : Maps) (level va v : Nat) : sameButMaps cr d (putMaps d cr m level va v) := by
  unfold putMaps
  dsimp only
  refine sameButMaps.trans ?_ (setMaps_sameButMaps _ cr m)
  refine foldl_keeps (P := sameButMaps cr d) (fun b t hb => ?_) _ ?_
  · split
    · exact hb
    · exact hb.trans (putTabEntry_sameButMaps cr b cr _ _ _ _)
  · refine sameButMaps.trans ?_ (putTabEntry_sameButMaps cr _ cr _ _ _ _)
    exact foldl_keeps (P := sameButMaps cr d) (fun b t hb => hb.trans (putTab_sameButMaps cr b cr m t)) _ ⟨rfl, rfl, fun _ _ => rfl⟩

theorem takePage_sameButMaps (d : Dev) (q : CommitReq) (va target : Nat) (m : Maps) : sameButMaps q.cr d (takePage d q va target m) :=
  (putMaps_sameButMaps d q.cr m _ va _).trans ⟨rfl, rfl, fun _ _ => rfl⟩

theorem commitPages_sameButMaps (d : Dev) (q : CommitReq) (va target done k : Nat) :
    sameButMaps q.cr d (commitPages d q va target done k).1 := by
  induction k generalizing d va target done with
  | zero => exact ⟨rfl, rfl, fun _ _ => rfl⟩
  | succ j ih =>
    rw [commitPages]
    split
    · exact ⟨rfl, rfl, fun _ _ => rfl⟩
    · exact (takePage_sameButMaps d q va target _).trans (ih _ _ _ _)

theorem freezeMaps_sameButMaps (cr : Nat) (d : Dev) (c : Nat) : sameButMaps cr d (freezeMaps d c) := by
  unfold freezeMaps
  split <;> exact ⟨rfl, rfl, fun _ _ => rfl⟩

/-! ## RESULT -/

theorem commitPage_error {d : Dev} {q : CommitReq} {va target e : Nat} (h : commitPage d q va target = .error e) : e ≠ 0 := by
  unfold commitPage at h
  dsimp only at h
  intro he
  subst he
  repeat' split at h
  all_goals cases h

theorem commitPages_result (d : Dev) (q : CommitReq) (va target done k : Nat) :
    ((commitPages d q va target done k).2.1 = 0 ↔ (commitPages d q va target done k).2.2 = done + k) ∧
      (commitPages d q va target done k).2.2 ≤ done + k := by
  induction k generalizing d va target done with
  | zero => exact ⟨⟨fun _ => rfl, fun _ => rfl⟩, Nat.le_refl _⟩
  | succ j ih =>
    rw [commitPages]
    split
    · next e he =>
      have hne := commitPage_error he
      exact ⟨⟨fun h => absurd h hne, fun h => absurd h (by dsimp only; omega)⟩, Nat.le_add_right _ _⟩
    · obtain ⟨hiff, hle⟩ := ih (takePage d q va target _) (va + pageSize q.large) (target + pageSize q.large) (done + 1)
      rw [show done + (j + 1) = done + 1 + j by omega]
      exact ⟨hiff, hle⟩

/-! ## A page -/

theorem addLeaf_leaves {m m1 : Maps} {n : Nat} {l : Leaf} (h : addLeaf m n l = some m1) : l ∈ m1.leaves := by
  obtain ⟨m0, -, rfl⟩ := Option.map_eq_some_iff.mp h
  exact List.mem_cons_self

theorem commitPage_ok {d : Dev} {q : CommitReq} {a b : Nat} {m : Maps} (h : commitPage d q a b = .ok m) :
    (q.unmap = true ∧ m = dropLeaf (getMaps d q.cr) a) ∨
      (q.unmap = false ∧ addLeaf (getMaps d q.cr) (16 * tblFrames (tblOf d q.cr))
        { va := a, large := q.large, target := b % 2 ^ 60, read := q.read, write := q.write } = some m) := by
  unfold commitPage at h
  dsimp only at h
  split at h
  · cases h
  split at h
  · cases h
  split at h
  · cases h
  split at h
  · next hun =>
    split at h
    · cases h; exact .inl ⟨hun, rfl⟩
    · cases h
  · next hun =>
    split at h
    · cases h
    · split at h
      · cases h
      · next hadd => cases h; exact .inr ⟨Bool.eq_false_iff.mpr hun, hadd⟩

theorem dropLeaf_leaves {m : Maps} {va : Nat} {l : Leaf} (h : l ∈ (dropLeaf m va).leaves) : l.va ≠ va :=
  of_decide_eq_true (List.mem_filter.mp h).2

/-! ## The commands -/

section
variable {d : Dev} {op fn : Nat} {v va target : Word64} (hopen : fnOpen d fn 0x0B00000 = true) (hop : fld v 0 2 = op)
  (hidle : (getCommit d fn).busy = false) (hva : va = fnReg d fn 0x0B00000 0x1000)
include hopen hop hidle hva

theorem commitD_noTables (hnone : (ctxOf d fn (fld va 48 7)).filter (fun cr => tblOn (tblOf d cr)) = none) :
    commitD op fn v d = setCommit d fn { busy := true, result := 7, done := 0, cr := 0 } := by
  subst hop hva
  simp only [commitD, hopen, hidle, hnone, Bool.not_true, Bool.or_self, ne_eq, not_true_eq_false, decide_false, Bool.false_eq_true, if_false]

theorem commitD_runs {cr : Nat} {q : CommitReq} {r : Dev × Nat × Nat} (htarget : target = fnReg d fn 0x0B00008 0x1008)
    (hctx : ctxOf d fn (fld va 48 7) = some cr) (htbl : tblOn (tblOf d cr) = true)
    (hq : q = { cr := cr, unmap := op = 1, large := bitOf v 2, read := bitOf v 3, write := bitOf v 4 })
    (hr : r = commitPages (freezeMaps d cr) q (fld va 0 48) (fld target 0 60) 0 (fld v 5 8 + 1)) :
    commitD op fn v d = setCommit (squash r.1 cr) fn
      { busy := true, result := BitVec.ofNat 8 r.2.1, done := BitVec.ofNat 9 r.2.2, cr := BitVec.ofNat 12 cr } := by
  have hsome : (ctxOf d fn (fld va 48 7)).filter (fun cr => tblOn (tblOf d cr)) = some cr := by
    rw [hctx, Option.filter_some, if_pos htbl]
  subst hop hva htarget hq hr
  simp only [commitD, hopen, hidle, hsome, Bool.not_true, Bool.or_self, ne_eq, not_true_eq_false, decide_false, Bool.false_eq_true, if_false]

end

theorem commitD_busy {d : Dev} {op fn : Nat} {v : Word64} (hbusy : (getCommit d fn).busy = true) : commitD op fn v d = d := by
  simp only [commitD, hbusy, Bool.or_true, Bool.true_or, if_true]

/-- The command that a write of XLT_MAP_CMD with OP UNMAP or MAP is. -/
theorem exec_commit (s : State) (fn : Func) (v : Word64) (un : Bool) :
    exec (if un then .unmap fn v else .map fn v) s = .next { s with dev := commitD (if un then 1 else 0) fn.toNat v s.dev } := by
  cases un <;> rfl

theorem commitEndD_busy {d : Dev} {fn : Nat} (hbusy : (getCommit d fn).busy = true) :
    commitEndD fn d = setCommit d fn { getCommit d fn with busy := false } := if_pos hbusy

/-- Settles O39: the outcome of the pages by induction on their number, the other contexts' tables by what a page may write. -/
theorem commits : Obligations.Commits := by
  unfold Obligations.Commits
  intro s fn v va target un hopen hva htarget
  refine ⟨fun hbusy => ?_, fun hidle hop hnone => ?_, fun cr q r hidle hop hctx htbl hq hr => ?_, fun d q a b m hok => ⟨fun hmap => ?_,
    fun hun l hl => ?_⟩, fun hbusy => onDev_next (f := commitEndD fn.toNat) (commitEndD_busy hbusy)⟩
  · rw [exec_commit, commitD_busy hbusy]
  · rw [exec_commit, commitD_noTables hopen hop hidle hva hnone]
  · have hq1 : q = { cr := cr, unmap := (if un then 1 else 0) = 1, large := bitOf v 2, read := bitOf v 3, write := bitOf v 4 } := by
      rw [hq]; cases un <;> rfl
    obtain ⟨hiff, hle⟩ := commitPages_result (freezeMaps s.dev cr) q (fld va 0 48) (fld target 0 60) 0 (fld v 5 8 + 1)
    have hframe := (freezeMaps_sameButMaps q.cr s.dev cr).trans
      (commitPages_sameButMaps (freezeMaps s.dev cr) q (fld va 0 48) (fld target 0 60) 0 (fld v 5 8 + 1))
    rw [← hr, Nat.zero_add] at hiff hle
    rw [← hr, show q.cr = cr by rw [hq]] at hframe
    obtain ⟨hhost, htiles, hmaps⟩ := hframe
    exact ⟨by rw [exec_commit, commitD_runs hopen hop hidle hva htarget hctx htbl hq1 hr], hiff, hle, hmaps, hhost, htiles⟩
  · obtain ⟨hun, -⟩ | ⟨-, hadd⟩ := commitPage_ok hok
    · rw [hmap] at hun; cases hun
    · exact ⟨_, addLeaf_leaves hadd, rfl, rfl, rfl, rfl, rfl⟩
  · obtain ⟨-, rfl⟩ | ⟨hmap, -⟩ := commitPage_ok hok
    · exact dropLeaf_leaves hl
    · rw [hun] at hmap; cases hmap

end Sys2Proof.Machine

/-! PROOFS. What no write to a ring, no frame and no release of slots or frames changes: the contexts, the partitions, the faults, the
clocks and the boot. Then O40: errors of the device's own requests, faults and teardown. -/

namespace Sys2Proof.Machine

open Sys2Proof

/-- Two states with the same contexts, partitions, context slots, fault state, clocks and boot, and the same registers below those of pier's
frames. -/
structure SameSeats (d d' : Dev) : Prop where
  flt : d'.flt = d.flt
  clk : d'.clk = d.clk
  boot : d'.boot = d.boot
  ctxs : d'.pmg.ctxs = d.pmg.ctxs
  parts : d'.pmg.parts = d.pmg.parts
  cslots : d'.pmg.cslots = d.pmg.cslots
  regs : ∀ o, o < 0x1000000 → reg d' o = reg d o

namespace SameSeats

theorem refl (d : Dev) : SameSeats d d := ⟨rfl, rfl, rfl, rfl, rfl, rfl, fun _ _ => rfl⟩

theorem trans {a b c : Dev} (hab : SameSeats a b) (hbc : SameSeats b c) : SameSeats a c :=
  ⟨hbc.flt.trans hab.flt, hbc.clk.trans hab.clk, hbc.boot.trans hab.boot, hbc.ctxs.trans hab.ctxs, hbc.parts.trans hab.parts,
    hbc.cslots.trans hab.cslots, fun o ho => (hbc.regs o ho).trans (hab.regs o ho)⟩

theorem ctx {d d' : Dev} (h : SameSeats d d') (cr : Nat) : getCtx d' cr = getCtx d cr := by rw [getCtx, h.ctxs]; rfl

theorem part {d d' : Dev} (h : SameSeats d d') (p : Nat) : getPart d' p = getPart d p := by rw [getPart, h.parts]; rfl

theorem foldl {α : Type} {f : Dev → α → Dev} (hf : ∀ d a, SameSeats d (f d a)) (l : List α) (d : Dev) : SameSeats d (l.foldl f d) :=
  foldl_keeps (P := SameSeats d) (fun b a hb => hb.trans (hf b a)) l (refl d)

theorem of_sameButMemory {d d' : Dev} (h : sameButMemory d d') : SameSeats d d' := by
  obtain ⟨_, _, _, _, rfl⟩ := h
  exact ⟨rfl, rfl, rfl, rfl, rfl, rfl, fun _ _ => rfl⟩

end SameSeats

/-! ## Rings and records -/

theorem sendMsix_seats (d : Dev) (fn v : Nat) : SameSeats d (sendMsix d fn v) := by
  unfold sendMsix
  dsimp only
  split
  · exact .refl d
  · split <;> exact ⟨rfl, rfl, rfl, rfl, rfl, rfl, fun _ _ => rfl⟩

theorem setRing_seats (d : Dev) (k : Nat) (x : Ring) : SameSeats d (setRing d k x) := ⟨rfl, rfl, rfl, rfl, rfl, rfl, fun _ _ => rfl⟩

theorem ringNotify_seats (d : Dev) (k : Nat) : SameSeats d (ringNotify d k) := by
  unfold ringNotify
  dsimp only
  split
  · exact .refl d
  · split
    · exact (setRing_seats d k _).trans (sendMsix_seats _ _ _)
    · exact setRing_seats d k _

theorem ringPut_seats {d r : Dev} {k cr a : Nat} {bs : List Byte} (h : ringPut d k cr a bs = .ok r) : SameSeats d r := by
  unfold ringPut at h
  split at h
  · split at h
    · next d' hput =>
      cases h
      unfold hostPut at hput
      split at hput <;> cases hput
      exact ⟨rfl, rfl, rfl, rfl, rfl, rfl, fun _ _ => rfl⟩
    · cases h
  · exact .of_sameButMemory (writeVa_sameButMemory h)

theorem ringPush_seats (d : Dev) (k cr size : Nat) (es : List (List Byte)) : SameSeats d (ringPush d k cr size es).1 := by
  unfold ringPush
  extract_lets x put prod
  have hput : ∀ r, put = .ok r → SameSeats d r := by
    refine foldl_keeps (P := fun acc : Except Bad Dev => ∀ r, acc = .ok r → SameSeats d r) ?_ _ (fun r hr => by cases hr; exact .refl d)
    intro acc p hacc r hr
    cases acc with
    | error e => cases hr
    | ok d' => exact (hacc d' rfl).trans (ringPut_seats hr)
  clear_value put prod
  cases put with
  | error e => exact .refl d
  | ok d1 =>
  have hprod := (hput d1 rfl).trans (setRing_seats d1 k { getRing d1 k with prod := prod })
  dsimp only
  split
  · exact hprod.trans (ringNotify_seats _ k)
  · split
    · split
      · exact .refl d
      · exact hprod.trans (ringNotify_seats _ k)
    · next d3 hd3 => exact (hprod.trans (ringPut_seats hd3)).trans (ringNotify_seats d3 k)

theorem putRecord_seats (d : Dev) (k cr : Nat) (mk : Nat → List Byte) : SameSeats d (putRecord d k cr mk).1 := by
  unfold putRecord
  extract_lets x d1
  have hcount : SameSeats d d1 := setRing_seats d k _
  split
  · exact .refl d
  · split
    · exact hcount
    · split
      · exact hcount.trans (setRing_seats _ _ _)
      · have hpush := hcount.trans (ringPush_seats d1 k cr 64 [mk (x.count + 1).toNat])
        split
        · next d2 heq => rw [heq] at hpush; exact hpush
        · next d2 e heq => rw [heq] at hpush; exact hpush.trans (setRing_seats _ _ _)

theorem ctxRecord_seats (d : Dev) (cr code kind : Nat) (own copy : Bool) (i : Info) : SameSeats d (ctxRecord d cr code kind own copy i).1 := by
  unfold ctxRecord
  extract_lets c mk d1
  have hcopy : SameSeats d d1 := by
    show SameSeats d (if copy then _ else _)
    split
    · exact putRecord_seats _ _ _ _
    · exact .refl d
  split
  · exact hcopy.trans (putRecord_seats _ _ _ _)
  · exact hcopy

theorem devRecord_seats (d : Dev) (code kind part : Nat) (i : Info) : SameSeats d (devRecord d code kind part i) := putRecord_seats _ _ _ _

theorem ownFault_seats (r : Dev × Option Bad) (cr : Nat) : SameSeats r.1 (ownFault r cr) := by
  unfold ownFault
  split
  · exact .refl _
  · exact ctxRecord_seats _ _ _ _ _ _ _

theorem withdrawFrame_seats (d : Dev) (w : Nat) : SameSeats d (withdrawFrame d w) := by
  unfold withdrawFrame
  dsimp only
  split
  · exact .refl d
  · have hset : ∀ (e : Dev) (a : Nat) (v : Word64), 0x1000000 ≤ a → SameSeats e (setReg e a v) := fun e a v ha =>
      ⟨rfl, rfl, rfl, rfl, rfl, rfl, fun o ho => (reg_setReg e a o v).trans (if_neg (by omega))⟩
    have hlist : SameSeats d { d with pier := { d.pier with withdrawn := 16 * w / 65536 :: d.pier.withdrawn } } :=
      ⟨rfl, rfl, rfl, rfl, rfl, rfl, fun _ _ => rfl⟩
    split
    · exact hlist.trans (hset _ _ _ (by omega))
    · exact hlist.trans (hset _ _ _ (by omega))

/-- A failed access of a context that is FAULTED already only writes its record. -/
theorem accessFault_faulted {d : Dev} {cr : Nat} (h : (getCtx d cr).st = .faulted) (b : Bad) (i : Info) :
    SameSeats d (accessFault d cr b i) := by
  have hfault : ∀ d', SameSeats d d' → ∀ j : Info, SameSeats d (ctxFault d' cr b.code j) := by
    intro d' hd j
    have hst : (getCtx d' cr).st = .faulted := by rw [hd.ctx, h]
    simp only [ctxFault, hst]
    exact (hd.trans (ctxRecord_seats _ _ _ _ _ _ _)).trans (ownFault_seats _ _)
  unfold accessFault
  extract_lets d1
  have hd1 : SameSeats d d1 := by
    show SameSeats d (if b.code = fEccPier then _ else _)
    split
    · split
      · exact withdrawFrame_seats _ _
      · exact .refl d
    · exact .refl d
  split
  · exact .refl d
  · exact hfault d1 hd1 _

/-! ## Frames, transfers and slots -/

theorem portOut_seats (d : Dev) (l : Nat) (fr : Frame) : SameSeats d (portOut d l fr) := by
  unfold portOut
  extract_lets p
  split
  · exact .refl d
  split
  · exact ⟨rfl, rfl, rfl, rfl, rfl, rfl, fun _ _ => rfl⟩
  split
  · exact .refl d
  extract_lets sa t d1
  split
  · exact .refl d
  have hemit : SameSeats d d1 := ⟨rfl, rfl, rfl, rfl, rfl, rfl, fun _ _ => rfl⟩
  split
  · exact hemit.trans (devRecord_seats _ _ _ _ _)
  · exact hemit

theorem sendAbort_seats (d : Dev) (i : Nat) (t : Transfer) (f : Flow) : SameSeats d (sendAbort d i t f) := by
  unfold sendAbort
  split
  · exact portOut_seats _ _ _
  · exact portOut_seats _ _ _

theorem closeFlow_seats (d : Dev) (i : Nat) (abort : Bool) : SameSeats d (closeFlow d i abort) := by
  unfold closeFlow
  extract_lets f
  split
  · exact ⟨rfl, rfl, rfl, rfl, rfl, rfl, fun _ _ => rfl⟩
  next t _ =>
  extract_lets d1
  have hd1 : SameSeats d d1 := by
    show SameSeats d (if abort && f.live then _ else _)
    split
    · exact sendAbort_seats _ _ _ _
    · exact .refl d
  exact hd1.trans ⟨rfl, rfl, rfl, rfl, rfl, rfl, fun _ _ => rfl⟩

theorem returnFrames_seats (d : Dev) (p : Nat) (fs : List Nat) : SameSeats d (returnFrames d p fs) := by
  unfold returnFrames
  split
  · exact .refl d
  · exact ⟨rfl, rfl, rfl, rfl, rfl, rfl, fun _ _ => rfl⟩

theorem holdFrame_seats (p : Nat) (d : Dev) (q : Nat × Nat) : SameSeats d (holdFrame p d q) := ⟨rfl, rfl, rfl, rfl, rfl, rfl, fun _ _ => rfl⟩

theorem freeFrames_seats (d : Dev) (p : Nat) (fs : List Nat) : SameSeats d (freeFrames d p fs) :=
  (SameSeats.foldl (holdFrame_seats p) _ d).trans (returnFrames_seats _ _ _)

theorem releaseLimbo_seats (d : Dev) : SameSeats d (releaseLimbo d) := by
  unfold releaseLimbo
  refine SameSeats.foldl (fun d q => ?_) _ d
  have hlimbo : SameSeats d { d with pier := { d.pier with limbo := tdel d.pier.limbo q.1 } } := ⟨rfl, rfl, rfl, rfl, rfl, rfl, fun _ _ => rfl⟩
  exact hlimbo.trans (freeFrames_seats _ _ _)

theorem dropTransfer_seats (d : Dev) (x : Nat) : SameSeats d (dropTransfer d x) := by
  unfold dropTransfer
  split
  · exact .refl d
  · next t _ =>
    have hclose := SameSeats.foldl (fun d i => closeFlow_seats d i true) t.live d
    refine SameSeats.trans (hclose.trans ?_) (releaseLimbo_seats _)
    exact ⟨rfl, rfl, rfl, rfl, rfl, rfl, fun _ _ => rfl⟩

theorem dropTier_seats (d : Dev) (x : Nat) : SameSeats d (dropTier d x) := by
  unfold dropTier
  split
  · exact .refl d
  · exact (dropTransfer_seats _ _).trans (freeFrames_seats _ _ _)

theorem dropPull_seats (d : Dev) (x : Nat) : SameSeats d (dropPull d x) := by
  unfold dropPull
  split
  · exact .refl d
  · extract_lets d1
    have hdrop : SameSeats d d1 := dropTransfer_seats d x
    split
    · exact hdrop
    · exact hdrop.trans ⟨rfl, rfl, rfl, rfl, rfl, rfl, fun _ _ => rfl⟩

theorem abortXfer_seats (d : Dev) (x : Nat) : SameSeats d (abortXfer d x) := by
  unfold abortXfer
  split
  · exact .refl d
  · split
    · exact dropPull_seats _ _
    · exact dropTier_seats _ _

theorem lruRemove_seats (d : Dev) (i : Nat) : SameSeats d (lruRemove d i) := by
  unfold lruRemove
  dsimp only
  split
  · exact ⟨rfl, rfl, rfl, rfl, rfl, rfl, fun _ _ => rfl⟩
  · exact .refl d

theorem settle_seats (d : Dev) (i : Nat) (head : Bool) : SameSeats d (settle d i head) := by
  unfold settle
  dsimp only
  split
  · unfold lruEnter
    dsimp only
    split
    · exact .refl d
    · exact ⟨rfl, rfl, rfl, rfl, rfl, rfl, fun _ _ => rfl⟩
  · exact .refl d

theorem freeNode_seats (d : Dev) (i : Nat) : SameSeats d (freeNode d i) := (lruRemove_seats d i).trans ⟨rfl, rfl, rfl, rfl, rfl, rfl, fun _ _ => rfl⟩

theorem dropSegment_seats (d : Dev) (i : Nat) : SameSeats d (dropSegment d i) := by
  unfold dropSegment
  extract_lets n p pages f d1
  split
  · exact .refl d
  have hnode : SameSeats d (setNode d i { n with segN := 0, segPa := 0 }) := ⟨rfl, rfl, rfl, rfl, rfl, rfl, fun _ _ => rfl⟩
  have hfree : SameSeats d d1 := hnode.trans (freeFrames_seats _ p pages)
  split
  · refine SameSeats.trans (hfree.trans ?_) (freeFrames_seats _ _ _)
    exact ⟨rfl, rfl, rfl, rfl, rfl, rfl, fun _ _ => rfl⟩
  · exact hfree

theorem deref_seats (d : Dev) (i : Nat) (cold : Bool) : SameSeats d (deref d i cold) := by
  unfold deref
  extract_lets n n1 d1
  have hnode : SameSeats d d1 := ⟨rfl, rfl, rfl, rfl, rfl, rfl, fun _ _ => rfl⟩
  split
  · exact .refl d
  · split
    · exact (hnode.trans (dropSegment_seats _ _)).trans (freeNode_seats _ _)
    · exact hnode.trans (settle_seats _ _ _)

theorem settleSlot_seats (d : Dev) (i : Nat) : SameSeats d (settleSlot d i) := by
  unfold settleSlot
  split
  · exact ⟨rfl, rfl, rfl, rfl, rfl, rfl, fun _ _ => rfl⟩
  · exact .refl d

theorem releaseSlot_seats (d : Dev) (i : Nat) (cold : Bool) : SameSeats d (releaseSlot d i cold) := by
  unfold releaseSlot
  have hops : SameSeats d (dropKeyOps d i) := ⟨rfl, rfl, rfl, rfl, rfl, rfl, fun _ _ => rfl⟩
  have hpages := (hops.trans (SameSeats.foldl dropTier_seats (tierXfers d i) _)).trans (freeFrames_seats _ (getSlot d i).part.toNat
    (((getSlot d i).list.frames ++ (getSlot d i).draft.frames).map (fun p => p.2)))
  have hrefs := hpages.trans (SameSeats.foldl (fun d n => deref_seats d n cold) (getSlot d i).refs _)
  refine SameSeats.trans (hrefs.trans ?_) (settleSlot_seats _ _)
  exact ⟨rfl, rfl, rfl, rfl, rfl, rfl, fun _ _ => rfl⟩

theorem freeSlots_seats (d : Dev) (cr : Nat) : SameSeats d (freeSlots d cr) := by
  unfold freeSlots
  refine SameSeats.foldl (fun d i => ?_) _ d
  split
  · exact settleSlot_seats _ _
  · exact releaseSlot_seats _ _ _

theorem zeroOwed_seats (d : Dev) (cr : Nat) : SameSeats d (zeroOwed d cr) := ⟨rfl, rfl, rfl, rfl, rfl, rfl, fun _ _ => rfl⟩

theorem clearCox_seats (d : Dev) (cr : Nat) : SameSeats d (clearCox d cr) := ⟨rfl, rfl, rfl, rfl, rfl, rfl, fun _ _ => rfl⟩

theorem syncEngine_seats (d : Dev) (t : Nat) : SameSeats d (syncEngine d t) := by
  unfold syncEngine syncEngineAs
  dsimp only
  split
  · exact .refl d
  · split <;> exact ⟨rfl, rfl, rfl, rfl, rfl, rfl, fun _ _ => rfl⟩

theorem dropCtxEnts_seats (d : Dev) (cr : Nat) : SameSeats d (dropCtxEnts d cr) := ⟨rfl, rfl, rfl, rfl, rfl, rfl, fun _ _ => rfl⟩

theorem setTile_seats (d : Dev) (t : Nat) (x : Tile) : SameSeats d (setTile d t x) := ⟨rfl, rfl, rfl, rfl, rfl, rfl, fun _ _ => rfl⟩

theorem uncountOut_seats (d : Dev) (us : List (Nat × Nat)) : SameSeats d (uncountOut d us) := by
  unfold uncountOut
  exact SameSeats.foldl (fun d p => setTile_seats d p.1 _) us d

theorem dropXfer_seats (d : Dev) (i : Nat) : SameSeats d (dropXfer d i) := by
  unfold dropXfer
  split
  · exact .refl d
  · next x _ =>
    refine ((setTile_seats d x.tile.toNat (uncount (getTile d x.tile.toNat) x.counted)).trans (uncountOut_seats _ x.outCount)).trans ?_
    exact ⟨rfl, rfl, rfl, rfl, rfl, rfl, fun _ _ => rfl⟩

theorem catchDrop_seats (d : Dev) (cr : Nat) : SameSeats d (catchDrop d cr) := by
  have hgone := SameSeats.foldl dropXfer_seats ((d.xfers.filter (fun p => p.2.cr = BitVec.ofNat 12 cr)).map (fun p => p.1)) d
  refine hgone.trans ?_
  exact ⟨rfl, rfl, rfl, rfl, rfl, rfl, fun _ _ => rfl⟩

theorem dropRequest_seats (d : Dev) (p : Nat) : SameSeats d (dropRequest d p) := ⟨rfl, rfl, rfl, rfl, rfl, rfl, fun _ _ => rfl⟩

/-! ## The start of a teardown -/

theorem getCtx_setCtx_same (d : Dev) (cr : Nat) (c : Ctx) : getCtx (setCtx d cr c) cr = c := by rw [getCtx_setCtx, if_pos rfl]

theorem beginTeardown_ctx (d : Dev) (cr : Nat) :
    (getCtx (beginTeardown d cr) cr).st = .faulted ∧ (getCtx (beginTeardown d cr) cr).tearing = true := by
  unfold beginTeardown
  dsimp only
  generalize setPart _ _ _ = d2
  have hctx := getCtx_setCtx_same d2 cr { getCtx d cr with
    st := .faulted, tearing := true, tornDown := false, saved := none
    dropSlot := (getCtx d cr).st = .swappingOut || (getCtx d cr).st = .swappingIn }
  exact ⟨(congrArg Ctx.st hctx :), (congrArg Ctx.tearing hctx :)⟩

theorem beginTeardown_steps (d : Dev) (cr : Nat) :
    (getSteps (beginTeardown d cr) cr).cur = none ∧ (getSteps (beginTeardown d cr) cr).nxt = none := by
  unfold beginTeardown
  dsimp only
  generalize setCtx _ _ _ = d3
  have hsteps := getSteps_setSteps_same d3 cr { getSteps d3 cr with cur := none, nxt := none }
  exact ⟨(congrArg CtxSteps.cur hsteps :), (congrArg CtxSteps.nxt hsteps :)⟩

theorem beginTeardown_waiting (d : Dev) (cr : Nat) : (beginTeardown d cr).flt.waiting = d.flt.waiting ++ [BitVec.ofNat 12 cr] := by
  have hdrop := (catchDrop_seats d cr).flt
  have hreq : ∀ b : Prop, [Decidable b] → (if b then dropRequest (catchDrop d cr) (getCtx d cr).part.toNat else catchDrop d cr).flt = d.flt := by
    intro b _
    split
    · exact hdrop
    · exact hdrop
  exact congrArg (fun f : Flt => f.waiting ++ [BitVec.ofNat 12 cr]) (hreq _)

theorem ctxFault_begins {d : Dev} {cr code : Nat} {i : Info} (hfree : (getCtx d cr).st ≠ .free) (hfaulted : (getCtx d cr).st ≠ .faulted) :
    ctxFault d cr code i = beginTeardown (ownFault (ctxRecord d cr code 1 true true i) cr) cr := by
  unfold ctxFault
  dsimp only
  split
  · next h => exact absurd h hfree
  · next h => exact absurd h hfaulted
  · rfl

/-! ## The end of a teardown -/

theorem leaveCslot_none {d : Dev} {cr : Nat} (h : (getCtx d cr).cslot = none) : leaveCslot d cr = d := by
  simp only [leaveCslot, h]

/-- A context without its slot: its XLT_CTX_TBL value is in its record, and the slot's register is clear. -/
def unseated (d : Dev) (cr : Nat) (n : CtxNo) : Dev :=
  let d1 := setCtx (setReg d (0x0B01000 + 8 * n.toNat) 0) cr
    { getCtx d cr with tblValue := reg d (0x0B01000 + 8 * n.toNat), cslot := none }
  { d1 with pmg := { d1.pmg with cslots := tdel d.pmg.cslots n.toNat } }

theorem dropCslot_some {d : Dev} {cr : Nat} {c : Ctx} {n : CtxNo} (hc : getCtx d cr = c) (h : c.cslot = some n) :
    dropCslot d cr =
      { setCtx d cr { c with cslot := none } with
        pmg := { (setCtx d cr { c with cslot := none }).pmg with cslots := tdel d.pmg.cslots n.toNat } } := by
  subst hc
  simp only [dropCslot, h]
  rfl

theorem setCtx_setCtx (d : Dev) (cr : Nat) (a b : Ctx) : setCtx (setCtx d cr a) cr b = setCtx d cr b := by
  unfold setCtx
  dsimp only
  rw [tset_tset]

theorem leaveCslot_some {d : Dev} {cr : Nat} {n : CtxNo} (h : (getCtx d cr).cslot = some n) : leaveCslot d cr = unseated d cr n := by
  have hleave : leaveCslot d cr = dropCslot (setCtx (setReg d (0x0B01000 + 8 * n.toNat) 0) cr
      { getCtx d cr with tblValue := reg d (0x0B01000 + 8 * n.toNat) }) cr := by
    simp only [leaveCslot, h]
    rfl
  refine hleave.trans ((dropCslot_some (n := n) (getCtx_setCtx_same _ _ _) ?_).trans ?_)
  · exact h
  · rw [setCtx_setCtx]
    rfl

theorem unseated_ctx (d : Dev) (cr : Nat) (n : CtxNo) :
    getCtx (unseated d cr n) cr = { getCtx d cr with tblValue := reg d (0x0B01000 + 8 * n.toNat), cslot := none } :=
  getCtx_setCtx_same _ _ _

theorem leaveCslot_frame (d : Dev) (cr : Nat) :
    (leaveCslot d cr).flt = d.flt ∧ (leaveCslot d cr).pmg.parts = d.pmg.parts ∧ (getCtx (leaveCslot d cr) cr).st = (getCtx d cr).st ∧
      (getCtx (leaveCslot d cr) cr).part = (getCtx d cr).part := by
  cases h : (getCtx d cr).cslot with
  | none =>
    rw [leaveCslot_none h]
    exact ⟨rfl, rfl, rfl, rfl⟩
  | some n =>
    rw [leaveCslot_some h, unseated_ctx]
    exact ⟨rfl, rfl, rfl, rfl⟩

theorem giveHot_pmg (d : Dev) (k : Nat) : (giveHot d k).pmg = d.pmg := by
  induction k generalizing d with
  | zero => rfl
  | succ j ih =>
    rw [giveHot]
    split
    · rfl
    · exact ih _

theorem rehot_pmg (d : Dev) : (rehot d).pmg = d.pmg := by
  unfold rehot
  exact giveHot_pmg _ _

theorem swapIn_parts (d : Dev) (p : Nat) : (swapIn d p).pmg.parts = d.pmg.parts := by
  unfold swapIn
  dsimp only
  split
  · rfl
  · split
    · rfl
    · split
      · rfl
      · split <;> rfl

theorem coxSettle_parts (d : Dev) : (coxSettle d).pmg.parts = d.pmg.parts := by
  have hhot : (noteRunnable (rehot d)).pmg.parts = d.pmg.parts := by
    have h := congrArg Pmg.parts (rehot_pmg d)
    exact h
  unfold coxSettle swapSettle
  split
  · exact foldl_keeps (P := fun e => e.pmg.parts = d.pmg.parts) (fun e p he => (swapIn_parts e p).trans he) _ hhot
  · exact hhot

theorem settleReset_running {d : Dev} {p : Nat} (h : (getPart d p).phase ≠ .resetting) : settleReset d p = d := by
  unfold settleReset
  exact if_pos (by simp [h])

theorem lcTraffic_seats (d e : Dev) (p i n : Nat) : SameSeats e (lcTraffic d e p i n) := by
  unfold lcTraffic
  split
  · exact ⟨rfl, rfl, rfl, rfl, rfl, rfl, fun _ _ => rfl⟩
  · exact .refl e

/-- A partition that no longer waits for a context that it lost. -/
def withoutOutgoing (rc : RecNo) (p : Part) : Part := if p.outgoing = some rc then { p with outgoing := none } else p

theorem phase_ofOutgoing (t : Tbl Part) (rc : RecNo) (q : Nat) :
    (tget (tmap t (fun _ => withoutOutgoing rc)) q Part.init).phase = (tget t q Part.init).phase := by
  rw [tget_tmap t (fun _ => withoutOutgoing rc) q Part.init rfl, withoutOutgoing]
  split <;> rfl

/-- Step 4 of a teardown: the transfers of a context have ended, its slots are free, and what it left on tiles is zeroed. -/
def teardownFreed (d : Dev) (cr : Nat) : Dev := zeroOwed (clearCox (freeSlots ((ctxXfers d cr).foldl abortXfer d) cr) cr) cr

/-- No engine and no partition holds a context any more; `n` is its context number. -/
def teardownLeft (d : Dev) (cr n : Nat) : Dev :=
  { d with
    engines := tmap d.engines (fun _ e => if e.st = .draining && e.ctx.toNat = n then Engine.init else e)
    flt := { d.flt with engines := d.flt.engines.erase (BitVec.ofNat 12 cr), waiting := d.flt.waiting.erase (BitVec.ofNat 12 cr) }
    pmg := { d.pmg with parts := tmap d.pmg.parts (fun _ => withoutOutgoing (BitVec.ofNat 12 cr)) } }

/-- A context marked as torn down, without its slot if it was being swapped. -/
def teardownMarked (d : Dev) (cr : Nat) : Dev :=
  let d1 := if (getCtx d cr).dropSlot then leaveCslot d cr else d
  setCtx d1 cr { getCtx d1 cr with tearing := false, tornDown := true, dropSlot := false, runnable := false, debt := 0 }

/-- A context that is torn down, before its record. -/
def tornDownAt (d : Dev) (cr : Nat) : Dev :=
  teardownMarked (dropCtxEnts ((List.range 32).foldl syncEngine (teardownLeft (teardownFreed d cr) cr (ctxNo d cr))) cr) cr

theorem teardownFreed_seats (d : Dev) (cr : Nat) : SameSeats d (teardownFreed d cr) :=
  (((SameSeats.foldl abortXfer_seats (ctxXfers d cr) d).trans (freeSlots_seats _ cr)).trans (clearCox_seats _ cr)).trans (zeroOwed_seats _ cr)

theorem teardownMarked_frame (d : Dev) (cr : Nat) :
    (teardownMarked d cr).flt = d.flt ∧ (teardownMarked d cr).pmg.parts = d.pmg.parts ∧
      (getCtx (teardownMarked d cr) cr).st = (getCtx d cr).st ∧ (getCtx (teardownMarked d cr) cr).part = (getCtx d cr).part ∧
      (getCtx (teardownMarked d cr) cr).tornDown = true ∧ (getCtx (teardownMarked d cr) cr).tearing = false := by
  unfold teardownMarked
  dsimp only
  have hleft : ∀ b : Bool, (if b then leaveCslot d cr else d).flt = d.flt ∧ (if b then leaveCslot d cr else d).pmg.parts = d.pmg.parts ∧
      (getCtx (if b then leaveCslot d cr else d) cr).st = (getCtx d cr).st ∧
      (getCtx (if b then leaveCslot d cr else d) cr).part = (getCtx d cr).part := by
    intro b
    cases b
    · exact ⟨rfl, rfl, rfl, rfl⟩
    · exact leaveCslot_frame d cr
  obtain ⟨hflt, hparts, hst, hpart⟩ := hleft (getCtx d cr).dropSlot
  rw [getCtx_setCtx_same]
  exact ⟨hflt, hparts, hst, hpart, rfl, rfl⟩

/-- A teardown is settled once the record of its end is written, which changes no context and no partition. -/
theorem finishTeardown_noted (d : Dev) (cr : Nat) (own : Bool) (hst : (getCtx (tornDownAt d cr) cr).st = .faulted) :
    ∃ d2, finishTeardown d cr own = settleReset (coxSettle d2) (getCtx (tornDownAt d cr) cr).part.toNat ∧
      SameSeats (tornDownAt d cr) d2 := by
  unfold finishTeardown
  extract_lets rc d1 d2 flt2 pmg2 d3 d3' d4 c4 d5 p r d6
  have h5 : d5 = tornDownAt d cr := rfl
  have hp : p = (getCtx d5 cr).part.toNat := rfl
  have hr : SameSeats d5 r.1 := ctxRecord_seats d5 cr 0x0101 3 own true { unit := 6 }
  have hdone : d6 = lcTraffic d5 r.1 p 4 64 ∨ ∃ b, d6 = accessFault r.1 cr b { unit := 8 } := by
    cases hb : r.2 with
    | none => exact .inl (by simp only [d6, hb])
    | some b => exact .inr ⟨b, by simp only [d6, hb]⟩
  clear_value d6 r p d5
  rw [← h5] at hst ⊢
  refine ⟨d6, by rw [hp], ?_⟩
  obtain rfl | ⟨b, rfl⟩ := hdone
  · exact hr.trans (lcTraffic_seats _ _ _ _ _)
  · exact hr.trans (accessFault_faulted (by rw [hr.ctx]; exact hst) _ _)

theorem tornDownAt_frame (d : Dev) (cr : Nat) :
    (tornDownAt d cr).flt.engines = d.flt.engines.erase (BitVec.ofNat 12 cr) ∧
      (∀ q, (getPart (tornDownAt d cr) q).phase = (getPart d q).phase) ∧ (getCtx (tornDownAt d cr) cr).st = (getCtx d cr).st ∧
      (getCtx (tornDownAt d cr) cr).part = (getCtx d cr).part ∧ (getCtx (tornDownAt d cr) cr).tornDown = true ∧
      (getCtx (tornDownAt d cr) cr).tearing = false := by
  have hfreed := teardownFreed_seats d cr
  have hsync := (SameSeats.foldl syncEngine_seats (List.range 32) (teardownLeft (teardownFreed d cr) cr (ctxNo d cr))).trans (dropCtxEnts_seats _ cr)
  obtain ⟨hflt, hparts, hst, hpart, htorn, htearing⟩ :=
    teardownMarked_frame (dropCtxEnts ((List.range 32).foldl syncEngine (teardownLeft (teardownFreed d cr) cr (ctxNo d cr))) cr) cr
  rw [hsync.ctx] at hst hpart
  refine ⟨?_, fun q => ?_, hst.trans (congrArg Ctx.st (hfreed.ctx cr)), hpart.trans (congrArg Ctx.part (hfreed.ctx cr)), htorn, htearing⟩
  · rw [tornDownAt, hflt, hsync.flt]
    exact congrArg (fun f : Flt => f.engines.erase (BitVec.ofNat 12 cr)) hfreed.flt
  · rw [← hfreed.part q, getPart, tornDownAt, hparts, hsync.parts]
    exact phase_ofOutgoing _ _ q

/-- Steps 4 to 8 of a teardown leave the context FAULTED and torn down, and its engine free. -/
theorem finishTeardown_ends {d : Dev} {cr : Nat} (hst : (getCtx d cr).st = .faulted)
    (hphase : (getPart d (getCtx d cr).part.toNat).phase ≠ .resetting) (own : Bool) :
    ∃ d2, finishTeardown d cr own = coxSettle d2 ∧ d2.flt.engines = d.flt.engines.erase (BitVec.ofNat 12 cr) ∧
      (getCtx d2 cr).st = .faulted ∧ (getCtx d2 cr).tornDown = true ∧ (getCtx d2 cr).tearing = false := by
  obtain ⟨hengines, hphases, hst5, hpart, htorn, htearing⟩ := tornDownAt_frame d cr
  obtain ⟨d2, heq, hnoted⟩ := finishTeardown_noted d cr own (hst5.trans hst)
  have hgo : (getPart (coxSettle d2) (getCtx (tornDownAt d cr) cr).part.toNat).phase ≠ .resetting := by
    rw [getPart, coxSettle_parts, hnoted.parts, hpart]
    exact fun h => hphase ((hphases _).symm.trans h)
  refine ⟨d2, heq.trans (settleReset_running hgo), ?_, ?_, ?_, ?_⟩
  · rw [hnoted.flt, hengines]
  · rw [hnoted.ctx, hst5, hst]
  · rw [hnoted.ctx, htorn]
  · rw [hnoted.ctx, htearing]

/-! ## The commands -/

theorem teardownDoneD_runs {d : Dev} {rec : RecNo} (hin : rec ∈ d.flt.engines) (hcommit : commitRuns d rec.toNat = false)
    (hclk : d.clk.stopped = false) : teardownDoneD rec.toNat d = finishTeardown d rec.toNat true := by
  have hany : d.flt.engines.any (fun r => r.toNat = rec.toNat) = true := List.any_eq_true.mpr ⟨rec, hin, decide_eq_true rfl⟩
  simp only [teardownDoneD, hany, hcommit, hclk, Bool.not_false, Bool.and_self, if_true]

theorem teardownStartD_takes {d : Dev} {rec : RecNo} {r : List RecNo} (hwait : d.flt.waiting = rec :: r) (hfree : d.flt.engines.length < 4)
    (hclk : d.clk.stopped = false) :
    teardownStartD rec.toNat d = { d with flt := { d.flt with engines := d.flt.engines ++ [rec], waiting := r } } := by
  simp only [teardownStartD, hwait, hfree, hclk, decide_true, Bool.not_false, Bool.and_self, if_true]

theorem teardownStartD_full {d : Dev} {cr : Nat} (hfull : 4 ≤ d.flt.engines.length) : teardownStartD cr d = d := by
  have hno : decide (d.flt.engines.length < 4) = false := decide_eq_false (Nat.not_lt.mpr hfull)
  unfold teardownStartD
  split
  · rfl
  · rw [hno, Bool.and_false, Bool.false_and, if_neg Bool.false_ne_true]

/-- A failed request ends the same way by an error completion and by a timeout. -/
theorem requestFails_next {s : State} {q : HostReq} {d : Dev} (h : requestFails q s.dev = d) :
    exec (.pcieErrorCompletion q) s = .next { s with dev := d } ∧ exec (.pcieCompletionTimeout q) s = .next { s with dev := d } :=
  ⟨onDev_next (f := requestFails q) h, onDev_next (f := fun d => requestFails q d) h⟩

theorem requestFails_toll {d : Dev} {fn : Func} {op} {r} (h : d.toll.queue = (fn, op) :: r) :
    requestFails (.tollMailbox fn) d = endMbx d fn.toNat 6 0 := by
  simp only [requestFails, h, if_true]

/-- Settles O40: a teardown's end from what each of its steps leaves of the contexts and partitions. -/
theorem errorsAndTeardown : Obligations.ErrorsAndTeardown := by
  unfold Obligations.ErrorsAndTeardown
  intro s
  refine ⟨fun cr hclk => requestFails_next (q := .context cr) (if_neg (Bool.eq_false_iff.mp hclk)),
    (requestFails_next (q := .truMailbox) rfl).1, (requestFails_next (q := .truMailbox) rfl).2,
    fun fn op r hq => requestFails_next (requestFails_toll hq), fun hst => requestFails_next (q := .bootRead) (if_pos hst),
    fun hbusy hreload => requestFails_next (q := .partitionImage) (if_pos (by rw [hbusy, hreload]; rfl)), fun rec r hwait hfree hclk =>
      onDev_next (f := teardownStartD rec.toNat) (teardownStartD_takes hwait hfree hclk), fun rec hfull =>
      onDev_next (f := teardownStartD rec.toNat) (teardownStartD_full hfull), fun rec hin hcommit hclk hst hphase => ?_,
    fun cr code i hfree hfaulted _ => ?_⟩
  · obtain ⟨d2, hd2, hengines, hctx⟩ := finishTeardown_ends hst hphase true
    rw [BitVec.ofNat_toNat, BitVec.setWidth_eq] at hengines
    exact ⟨d2, onDev_next (f := teardownDoneD rec.toNat) ((teardownDoneD_runs hin hcommit hclk).trans hd2), hengines, hctx⟩
  · rw [ctxFault_begins hfree hfaulted]
    obtain ⟨hst, htearing⟩ := beginTeardown_ctx (ownFault (ctxRecord s.dev cr code 1 true true i) cr) cr
    obtain ⟨hcur, hnxt⟩ := beginTeardown_steps (ownFault (ctxRecord s.dev cr code 1 true true i) cr) cr
    have hrec := (ctxRecord_seats s.dev cr code 1 true true i).trans (ownFault_seats _ cr)
    exact ⟨hst, htearing, hcur, hnxt, by rw [beginTeardown_waiting, hrec.flt]⟩

end Sys2Proof.Machine

/-! PROOFS. O41: the ends of slices and of GRACE. -/

namespace Sys2Proof.Machine

open Sys2Proof

theorem getPart_setPart_same (d : Dev) (p : Nat) (x : Part) : getPart (setPart d p x) p = x := by rw [getPart_setPart, if_pos rfl]

/-! ## SLICE_END -/

section
variable {d : Dev} {p : Nat} {cr : RecNo} (hrun : (getPart d p).running = some cr) (halive : alive d = true)
include hrun halive

theorem sliceEndD_running (hover : (getPart d p).sliceOver = none) :
    sliceEndD p d = if sliceDue d p cr.toNat then
        if goesOn d p cr.toNat && !commitRuns d cr.toNat then renew d p cr.toNat else endSlice d p false
      else d := by
  simp only [sliceEndD, hrun, hover, halive, Bool.not_true, Bool.false_or]
  cases sliceDue d p cr.toNat <;> simp

theorem graceD_running {t : Word64} (hover : (getPart d p).sliceOver = some t) :
    graceD p d =
      if (getPart d p).noGrace || !delivering d cr.toNat || usSince d t < partGrace d p then d
      else if goesOn d p cr.toNat then
        renew (setCtx d cr.toNat { getCtx d cr.toNat with debt := (getCtx d cr.toNat).debt + usSince d t }) p cr.toNat
      else requestSave d p cr.toNat := by
  simp only [graceD, hrun, hover, halive, Bool.not_true, Bool.false_or]

end

theorem endSlice_over {d : Dev} {p : Nat} {cr : RecNo} (hrun : (getPart d p).running = some cr) (hover : (getPart d p).sliceOver = none)
    (noGrace : Bool) : endSlice d p noGrace = setPart d p { getPart d p with sliceOver := some d.now, noGrace := noGrace } := by
  simp only [endSlice, hrun, hover, Option.isNone_some, Bool.false_eq_true, if_false, Option.getD_none]

theorem renew_chosen {d d1 : Dev} {p cr c : Nat} (h : pickNext (countLc d p) p (some cr) = (d1, some c)) :
    renew d p cr = startSlice d1 p c := by
  simp only [renew, h]

theorem startSlice_ctx (d : Dev) (p c : Nat) : getCtx (startSlice d p c) c = { getCtx d c with st := .running, debt := 0 } := by
  unfold startSlice
  dsimp only
  rw [getCtx_setPart, getCtx_setCtx_same]

/-- The partition whose slice of a context begins. -/
def sliceStarted (d : Dev) (p c : Nat) : Part :=
  { getPart d p with
    running := some (BitVec.ofNat 12 c), phase := .running, sliceStart := d.now
    sliceEnd := d.now + BitVec.ofNat 64 (100 * (partSlice d p - (getCtx d c).debt)), sliceOver := none, noGrace := false, leaving := none
    ran := some (getCtx d c).be
    lastLc := if (getCtx d c).be then (getPart d p).lastLc else ctxNo d c
    lastBe := if (getCtx d c).be then ctxNo d c else (getPart d p).lastBe }

theorem startSlice_part (d : Dev) (p c : Nat) : getPart (startSlice d p c) p = sliceStarted d p c := getPart_setPart_same _ _ _

/-! ## GRACE_EXPIRY -/

/-- A tile whose sequencer is asked to stop. -/
def askStop (x : Tile) : Tile := { x with preReq := true, windowOver := false }

theorem requestSave_eq (d : Dev) (p cr : Nat) :
    ∃ d3, d3.tiles = d.tiles ∧ sameMem d d3 ∧ (getCtx d3 cr).st = .saving ∧ (getPart d3 p).saving = some (BitVec.ofNat 12 cr) ∧
      (getPart d3 p).running = none ∧ p ∈ d3.cat.stopServe ∧
      requestSave d p cr =
        if partPreTile d p then d3 else (partTiles d p).foldl (fun d t => setTile d t (askStop (getTile d t))) d3 := by
  unfold requestSave
  extract_lets x rc c d1 d2 cat d3
  have hpart : getPart d3 p = { x with running := none, saving := some rc, leaving := some rc, phase := .switching } :=
    getPart_setPart_same d1 p _
  have hctx : getCtx d3 cr = { c with st := .saving } := getCtx_setCtx_same d cr _
  refine ⟨d3, rfl, ⟨rfl, rfl, fun _ => rfl⟩, by rw [hctx], by rw [hpart], by rw [hpart], List.mem_cons_self, rfl⟩

/-- Tiles that are asked to stop change nothing but their tiles' requests. -/
theorem foldl_askStop (l : List Nat) (d : Dev) :
    sameMem d (l.foldl (fun d t => setTile d t (askStop (getTile d t))) d) ∧
      (l.foldl (fun d t => setTile d t (askStop (getTile d t))) d).pmg = d.pmg ∧
      (l.foldl (fun d t => setTile d t (askStop (getTile d t))) d).cat = d.cat := by
  refine foldl_keeps (P := fun e => sameMem d e ∧ e.pmg = d.pmg ∧ e.cat = d.cat) (fun e t he => ?_) l ⟨⟨rfl, rfl, fun _ => rfl⟩, rfl, rfl⟩
  obtain ⟨hmem, hpmg, hcat⟩ := he
  exact ⟨sameMem_trans hmem (sameMem_of_tile (t := t) (y := askStop (getTile e t)) rfl rfl rfl rfl), hpmg, hcat⟩

theorem foldl_setTile_mem {f : Tile → Tile} {Q : Tile → Prop} (hQ : ∀ x, Q (f x)) {l : List Nat} {d : Dev} {v : Nat}
    (h : v ∈ l ∨ Q (getTile d v)) : Q (getTile (l.foldl (fun d t => setTile d t (f (getTile d t))) d) v) := by
  induction l generalizing d with
  | nil => exact h.resolve_left (List.not_mem_nil)
  | cons t r ih =>
    refine ih ?_
    rw [getTile_setTile]
    by_cases hv : v = t
    · rw [if_pos hv]
      exact .inr (hQ _)
    · rw [if_neg hv]
      exact h.imp_left fun hmem => (List.mem_cons.mp hmem).resolve_left hv

/-- What a pre-emption request leaves: the context is SAVING, its partition serves no pop or steal, and under PRE_INSTR its tiles are
asked to stop. -/
theorem requestSave_frame (d : Dev) (p cr : Nat) :
    (getCtx (requestSave d p cr) cr).st = .saving ∧ (getPart (requestSave d p cr) p).saving = some (BitVec.ofNat 12 cr) ∧
      (getPart (requestSave d p cr) p).running = none ∧ p ∈ (requestSave d p cr).cat.stopServe ∧ sameMem d (requestSave d p cr) ∧
      ∀ v, v ∈ partTiles d p → (getTile (requestSave d p cr) v).preReq = (!partPreTile d p || (getTile d v).preReq) := by
  obtain ⟨d3, htiles, hmem, hctx, hsaving, hrunning, hstop, heq⟩ := requestSave_eq d p cr
  rw [heq]
  cases hpre : partPreTile d p with
  | true =>
    rw [if_pos rfl]
    refine ⟨hctx, hsaving, hrunning, hstop, hmem, fun v _ => ?_⟩
    rw [getTile, htiles]
    rfl
  | false =>
    rw [if_neg Bool.false_ne_true]
    obtain ⟨hask, hpmg, hcat⟩ := foldl_askStop (partTiles d p) d3
    rw [getCtx, getPart, hpmg, hcat]
    exact ⟨hctx, hsaving, hrunning, hstop, sameMem_trans hmem hask,
      fun v hv => foldl_setTile_mem (f := askStop) (Q := fun x => x.preReq = true) (fun _ => rfl) (.inl hv)⟩

/-- Settles O41: the cases of SLICE_END and GRACE_EXPIRY by the partition's running context and its slice. -/
theorem slicesAndGrace : Obligations.SlicesAndGrace := by
  unfold Obligations.SlicesAndGrace
  intro s p cr hrun halive
  refine ⟨fun hover hdue => ?_, fun hover hdue hgo => ?_, fun d1 c hover hdue hgo hcommit hpick => ?_, fun t hover hearly => ?_,
    fun t hover hgrace hlate hdel hgo => ?_⟩
  · have hD := sliceEndD_running hrun halive hover
    rw [hdue, if_neg Bool.false_ne_true] at hD
    exact onDev_next (f := sliceEndD p.toNat) hD
  · have hD := sliceEndD_running hrun halive hover
    rw [hdue, if_pos rfl, if_neg (by rcases hgo with h | h <;> simp [h]), endSlice_over hrun hover] at hD
    exact onDev_next (f := sliceEndD p.toNat) hD
  · have hD := sliceEndD_running hrun halive hover
    rw [hdue, if_pos rfl, if_pos (by rw [hgo, hcommit]; rfl), renew_chosen hpick] at hD
    refine ⟨onDev_next (f := sliceEndD p.toNat) hD, ?_⟩
    rw [startSlice_ctx, startSlice_part]
    exact ⟨rfl, rfl, rfl⟩
  · have hD := graceD_running hrun halive hover
    rw [if_pos (by simp [hearly])] at hD
    exact onDev_next (f := graceD p.toNat) hD
  · have hD := graceD_running hrun halive hover
    rw [if_neg (by simp [hgrace, hdel, Nat.not_lt.mpr hlate]), if_neg (Bool.eq_false_iff.mp hgo)] at hD
    obtain ⟨hst, hsaving, hrunning, hstop, hmem, hpre⟩ := requestSave_frame s.dev p.toNat cr.toNat
    rw [BitVec.ofNat_toNat, BitVec.setWidth_eq] at hsaving
    exact ⟨_, onDev_next (f := graceD p.toNat) hD, rfl, hst, hsaving, hrunning, hstop, hmem, hpre⟩

end Sys2Proof.Machine

/-! PROOFS. O42: saves, switches, overruns and swaps. -/

namespace Sys2Proof.Machine

open Sys2Proof

/-! ## Cells moved from one memory to another -/

theorem memGet_memPut_ne (m : Memory) {a i : Nat} (b : Byte) (h : i ≠ a) : memGet (memPut m a b) i = memGet m i := by
  induction m with
  | nil =>
    by_cases hb : b = 0#8
    · simp [memPut, hb]
    · simp [memPut, hb, memGet, Ne.symm h]
  | cons c r ih =>
    obtain ⟨x, y⟩ := c
    by_cases h1 : a < x
    · by_cases hb : b = 0#8
      · simp [memPut, h1, hb]
      · simp [memPut, h1, hb, memGet, Ne.symm h]
    · by_cases h2 : a = x
      · subst h2
        by_cases hb : b = 0#8
        · simp [memPut, hb, memGet, Ne.symm h]
        · simp [memPut, hb, memGet, Ne.symm h]
      · simp only [memPut, h1, h2, if_false, memGet, ih]

theorem memGet_memPut_same (m : Memory) {a : Nat} {b : Byte} (hb : b ≠ 0) : memGet (memPut m a b) a = b := by
  have hb' : b ≠ 0#8 := hb
  induction m with
  | nil => simp [memPut, hb', memGet]
  | cons c r ih =>
    obtain ⟨x, y⟩ := c
    by_cases h1 : a < x
    · simp [memPut, h1, hb', memGet]
    · by_cases h2 : a = x
      · simp [memPut, h2, hb', memGet]
      · simp only [memPut, h1, h2, if_false, memGet, Ne.symm h2, ih]

theorem memGet_memCells_else {i : Nat} {cs : List Host.Cell} {m : Memory} (h : ∀ b, (i, b) ∉ cs) : memGet (memCells m cs) i = memGet m i := by
  induction cs generalizing m with
  | nil => rfl
  | cons c cs ih =>
    have hne : i ≠ c.1 := fun heq => h c.2 (by rw [heq]; exact List.mem_cons_self)
    rw [memCells, ih fun b hb => h b (List.mem_cons_of_mem _ hb), memGet_memPut_ne m c.2 hne]

theorem memGet_memCells_cell {i : Nat} {v : Byte} {cs : List Host.Cell} {m : Memory} (hnodup : (cs.map (fun c => c.1)).Nodup)
    (hmem : (i, v) ∈ cs) (hv : v ≠ 0) : memGet (memCells m cs) i = v := by
  induction cs generalizing m with
  | nil => cases hmem
  | cons c cs ih =>
    obtain ⟨hfresh, hrest⟩ := List.nodup_cons.1 hnodup
    rw [memCells]
    rcases List.mem_cons.1 hmem with rfl | hlater
    · rw [memGet_memCells_else fun b hb => hfresh (List.mem_map_of_mem (f := fun c => c.1) hb), memGet_memPut_same m hv]
    · exact ih hrest hlater

theorem memWfFrom_cell {m : Memory} {lo : Nat} {c : Host.Cell} (h : memWfFrom lo m = true) (hc : c ∈ m) :
    lo ≤ c.1 ∧ c.2 ≠ 0 ∧ memGet m c.1 = c.2 := by
  induction m generalizing lo with
  | nil => cases hc
  | cons d r ih =>
    obtain ⟨x, y⟩ := d
    simp only [memWfFrom, Bool.and_eq_true, decide_eq_true_eq] at h
    obtain ⟨⟨hx, hy⟩, hr⟩ := h
    rcases List.mem_cons.mp hc with rfl | hin
    · exact ⟨hx, bne_iff_ne.mp hy, by simp [memGet]⟩
    · obtain ⟨hge, hnz, hget⟩ := ih hr hin
      have hne : ¬ x = c.1 := by omega
      exact ⟨by omega, hnz, by rw [memGet, if_neg hne, hget]⟩

theorem memWfFrom_nodup {m : Memory} {lo : Nat} (h : memWfFrom lo m = true) : (m.map (fun c => c.1)).Nodup := by
  induction m generalizing lo with
  | nil => exact List.nodup_nil
  | cons d r ih =>
    obtain ⟨x, y⟩ := d
    simp only [memWfFrom, Bool.and_eq_true, decide_eq_true_eq] at h
    obtain ⟨-, hr⟩ := h
    refine List.nodup_cons.mpr ⟨fun hx => ?_, ih hr⟩
    obtain ⟨c, hc, hcx⟩ := List.mem_map.mp hx
    obtain ⟨hge, -⟩ := memWfFrom_cell hr hc
    dsimp only at hcx
    omega

theorem memGet_cell {m : Memory} {a : Nat} (h : memGet m a ≠ 0) : (a, memGet m a) ∈ m := by
  induction m with
  | nil => exact absurd rfl h
  | cons c r ih =>
    by_cases hc : c.1 = a
    · subst hc
      simp [memGet]
    · rw [memGet, if_neg hc] at h ⊢
      exact List.mem_cons_of_mem _ (ih h)

/-- Cells moved into a cleared range read as they did where they came from. -/
theorem memGet_moveCells {m m' : Memory} {src n dst i : Nat} (h : Memory.wf m = true) (hi : i < n) :
    memGet (memCells (memZero m' dst n) (moveCells m src n dst)) (dst + i) = memGet m (src + i) := by
  have hslice : memWfFrom 0 (memSlice m src n) = true := filter_wfFrom _ 0 m h
  have hfrom : ∀ c, c ∈ memSlice m src n → src ≤ c.1 ∧ c ∈ m := fun c hc => by
    obtain ⟨hm, hin⟩ := List.mem_filter.mp hc
    simp only [Bool.and_eq_true, decide_eq_true_eq] at hin
    exact ⟨hin.1, hm⟩
  by_cases hz : memGet m (src + i) = 0
  · rw [memGet_memCells_else, memGet_memZero, if_pos (by omega), hz]
    intro b hb
    obtain ⟨c, hc, heq⟩ := List.mem_map.mp hb
    obtain ⟨hge, hm⟩ := hfrom c hc
    obtain ⟨-, hnz, hget⟩ := memWfFrom_cell h hm
    have hat : c.1 = src + i := by have := congrArg Prod.fst heq; dsimp only at this; omega
    exact hnz (by rw [← hget, hat, hz])
  · refine memGet_memCells_cell ?_ (List.mem_map.mpr ⟨(src + i, memGet m (src + i)), ?_, ?_⟩) hz
    · have hkeys : (moveCells m src n dst).map (fun c => c.1) = ((memSlice m src n).map (fun c => c.1)).map (fun a => a - src + dst) := by
        simp only [moveCells, List.map_map, Function.comp_def]
      rw [hkeys]
      refine List.Nodup.map_on (fun a ha b hb hab => ?_) (memWfFrom_nodup hslice)
      obtain ⟨c, hc, rfl⟩ := List.mem_map.mp ha
      obtain ⟨e, he, rfl⟩ := List.mem_map.mp hb
      obtain ⟨hc, -⟩ := hfrom c hc
      obtain ⟨he, -⟩ := hfrom e he
      omega
    · exact List.mem_filter.mpr ⟨memGet_cell hz, by simp [hi]⟩
    · simp only [Prod.mk.injEq, and_true]
      omega

/-! ## PREEMPT_SAVE_DONE -/

theorem saveContext_eq (d : Dev) (p cr : Nat) : ∃ (e : Dev) (c : Ctx) (v : Saved), saveContext d p cr = setCtx e cr { c with saved := some v } := ⟨_, _, _, rfl⟩

theorem saveContext_saved (d : Dev) (p cr : Nat) : (getCtx (saveContext d p cr) cr).saved.isSome = true := by
  obtain ⟨e, c, v, h⟩ := saveContext_eq d p cr
  rw [h, getCtx_setCtx_same]
  rfl

/-- A partition whose context is saved. -/
def saveTaken (d : Dev) (p cr : Nat) : Dev :=
  let d1 := dropRequest (saveContext d p cr) p
  let d2 := setPart d1 p { getPart d1 p with saving := none }
  setCtx d2 cr { getCtx d2 cr with st := .waiting }

theorem saveTaken_frame (d : Dev) (p cr : Nat) :
    (getCtx (saveTaken d p cr) cr).st = .waiting ∧ (getCtx (saveTaken d p cr) cr).saved.isSome = true ∧
      (getPart (saveTaken d p cr) p).saving = none := by
  unfold saveTaken
  dsimp only
  have hctx := getCtx_setCtx_same (setPart (dropRequest (saveContext d p cr) p) p
    { getPart (dropRequest (saveContext d p cr) p) p with saving := none }) cr
    { getCtx (setPart (dropRequest (saveContext d p cr) p) p { getPart (dropRequest (saveContext d p cr) p) p with saving := none }) cr with
      st := .waiting }
  have hpart := getPart_setPart_same (dropRequest (saveContext d p cr) p) p
    { getPart (dropRequest (saveContext d p cr) p) p with saving := none }
  refine ⟨(congrArg Ctx.st hctx :), (congrArg (fun c : Ctx => c.saved.isSome) hctx :).trans (saveContext_saved d p cr), ?_⟩
  exact (congrArg Part.saving hpart :)

section
variable {d : Dev} {p : Nat} {rc : RecNo} (halive : alive d = true) (hsaving : (getPart d p).saving = some rc)
  (hready : saveReady d p rc = true) (hcommit : commitRuns d rc.toNat = false)
include halive hsaving hready hcommit

theorem saveDoneD_saved (hgood : saveFault d p = none) : saveDoneD p d = coxSettle (saveTaken d p rc.toNat) := by
  simp only [saveDoneD, hsaving, halive, hready, hcommit, hgood, Bool.not_true, Bool.or_self, Bool.false_eq_true, if_false, saveTaken]

theorem saveDoneD_faults {t w : Nat} (hbad : saveFault d p = some (t, w)) :
    saveDoneD p d = ctxFault d rc.toNat fEccDeck { unit := 6, tile := t, detail := eccDetail w } := by
  simp only [saveDoneD, hsaving, halive, hready, hcommit, hbad, Bool.not_true, Bool.or_self, Bool.false_eq_true, if_false]

end

/-! ## CONTEXT_SWITCH -/

theorem contextSwitchD_enabled {d : Dev} {p : Nat} (halive : alive d = true) (hen : partEnabled d p = true)
    (hreload : (getPart d p).reload = false) (hphase : (getPart d p).phase ≠ .resetting) :
    (switchPoint d p = none → contextSwitchD p d = d) ∧
      (∀ out, switchPoint d p = some out → contextSwitchD p d = nextContext (handOver d p out) p out) := by
  have hgo : ¬ ((!alive d || !partEnabled d p || (getPart d p).reload || (getPart d p).phase = .resetting) = true) := by
    simp [halive, hen, hreload, hphase]
  refine ⟨fun h => ?_, fun out h => ?_⟩
  · simp only [contextSwitchD, if_neg hgo, h]
  · simp only [contextSwitchD, if_neg hgo, h]

theorem handOver_quiesce (d : Dev) (p : Nat) (out : Option Nat) : (handOver d p out).boot.quiesce = d.boot.quiesce := by
  cases out <;> rfl

section
variable {d : Dev} {p : Nat} {out : Option Nat}

theorem nextContext_quiesced (hq : d.boot.quiesce = true) :
    nextContext d p out = coxSettle (setPart (dropDeckModels (countLc d p) p) p
      { getPart (dropDeckModels (countLc d p) p) p with phase := .idle }) := by
  simp only [nextContext, hq, if_true]

theorem nextContext_none {d1 : Dev} (hq : d.boot.quiesce = false) (hpick : pickNext (countLc d p) p out = (d1, none)) :
    nextContext d p out = coxSettle (setPart (dropDeckModels d1 p) p { getPart (dropDeckModels d1 p) p with phase := .idle }) := by
  simp only [nextContext, hq, hpick, Bool.false_eq_true, if_false]

theorem nextContext_some {d1 d2 : Dev} {c : Nat} (hq : d.boot.quiesce = false) (hpick : pickNext (countLc d p) p out = (d1, some c))
    (hd2 : d2 = (if some c = out then d1 else dropDeckModels d1 p)) :
    nextContext d p out =
      if regulatorBad d2 p then coxSettle (ctxFault d2 c fRegulatorConfig { unit := 6 }) else restoreContext (startSlice d2 p c) c := by
  subst hd2
  simp only [nextContext, hq, hpick, Bool.false_eq_true, if_false]

end

theorem restoreContext_none {d : Dev} {c : Nat} (h : (getCtx d c).saved = none) : restoreContext d c = d := by
  simp only [restoreContext, h]

/-! ## NONPREEMPT_OVERRUN -/

/-- The device once the commits of a context have completed. -/
def commitsDone (d : Dev) (cr : Nat) : Dev :=
  { d with xlt := { d.xlt with
      commits := tmap d.xlt.commits (fun _ c => if c.cr.toNat = cr && c.result ≠ 7 then { c with busy := false } else c) } }

theorem commitRuns_commitsDone (d : Dev) (cr : Nat) : commitRuns (commitsDone d cr) cr = false := by
  unfold commitRuns commitsDone tmap
  dsimp only
  rw [List.any_eq_false]
  intro q hq
  obtain ⟨c, -, rfl⟩ := List.mem_map.mp hq
  dsimp only
  split
  · simp
  · next h =>
    intro hrun
    simp only [Bool.and_eq_true, decide_eq_true_eq] at h hrun
    exact h ⟨hrun.2, hrun.1.2⟩

theorem alive_clock {d : Dev} (h : alive d = true) : d.clk.stopped = false := by
  simp only [alive, Bool.and_eq_true, Bool.not_eq_true'] at h
  exact h.2

section
variable {d : Dev} {cr : Nat} (halive : alive d = true)
include halive

theorem overrunD_free (hst : (getCtx d cr).st = .free) : overrunD cr d = deviceFatal d 6 0 { unit := 6 } := by
  simp only [overrunD, alive_clock halive, hst, Bool.false_eq_true, if_false, if_true]

theorem overrunD_commit (hst : (getCtx d cr).st ≠ .free) (hcommit : commitRuns d cr = true) :
    overrunD cr d = ctxFault (commitsDone d cr) cr fNonpreemptOverrun { unit := 6 } := by
  simp only [overrunD, alive_clock halive, hst, hcommit, Bool.false_eq_true, if_false, if_true, commitsDone]

theorem overrunD_insert {i : Nat} (hst : (getCtx d cr).st ≠ .free) (hcommit : commitRuns d cr = false) (hins : insertRuns d cr = some i) :
    overrunD cr d = ctxFault (keyInsertD i d) cr fNonpreemptOverrun { unit := 6 } := by
  simp only [overrunD, alive_clock halive, hst, hcommit, hins, Bool.false_eq_true, if_false]

theorem overrunD_idle (hst : (getCtx d cr).st ≠ .free) (hcommit : commitRuns d cr = false) (hins : insertRuns d cr = none) :
    overrunD cr d = d := by
  simp only [overrunD, alive_clock halive, hst, hcommit, hins, Bool.false_eq_true, if_false]

end

/-! ## Swaps -/

/-- The device once a context's header and saved state are in its swap region, and the traffic is charged. -/
def swapCopied (d h : Dev) (cr : Nat) : Dev :=
  let c := getCtx d cr
  let n := saveAreaLen d cr
  let b := c.swapBa.toNat + headerBytes4K
  charge { h with
    fresh := d.fresh + headerBytes4K / 4
    host := memCells (memZero h.host b n) (moveCells d.pier.mem (saveArea d cr) n b) } c.part.toNat 4 (headerBytes4K + n) true

/-- The device once a context has left its slot for its swap region. -/
def swappedOutAt (d h : Dev) (cr : Nat) : Dev :=
  let d3 := dropCtxEnts (leaveCslot (swapCopied d h cr) cr) cr
  setCtx d3 cr { getCtx d3 cr with st := .swappedOut }

theorem swapOutD_leaves {d h : Dev} {cr : Nat} {n : CtxNo} (halive : alive d = true) (hst : (getCtx d cr).st = .swappingOut)
    (hslot : (getCtx d cr).cslot = some n) (hclean : pierPoison d (saveArea d cr) (saveAreaLen d cr) = none)
    (hput : hostPut d (getCtx d cr).fn.toNat (getCtx d cr).swapBa.toNat (freeBytes d.fresh 1024) = some h) :
    swapOutD cr d = coxSettle (swappedOutAt d h cr) := by
  have hput2 : hostPut d (getCtx d cr).fn.toNat (getCtx d cr).swapBa.toNat (freeBytes d.fresh (headerBytes4K / 4)) = some h := hput
  simp only [swapOutD, hst, hslot, halive, hclean, hput2, Bool.not_true, Bool.false_eq_true, if_false]
  rfl

theorem hostPut_seats {d h : Dev} {fn a : Nat} {bs : List Byte} (hput : hostPut d fn a bs = some h) :
    SameSeats d h ∧ h.pier = d.pier ∧ ∀ o, reg h o = reg d o := by
  unfold hostPut at hput
  split at hput
  · cases hput
    exact ⟨⟨rfl, rfl, rfl, rfl, rfl, rfl, fun _ _ => rfl⟩, rfl, fun _ => rfl⟩
  · cases hput

theorem charge_be (d : Dev) (p i n : Nat) : charge d p i n true = d := rfl

theorem swappedOutAt_frame {d h : Dev} {cr : Nat} {n : CtxNo} (hslot : (getCtx d cr).cslot = some n)
    (hput : hostPut d (getCtx d cr).fn.toNat (getCtx d cr).swapBa.toNat (freeBytes d.fresh 1024) = some h) :
    (getCtx (swappedOutAt d h cr) cr).st = .swappedOut ∧ (getCtx (swappedOutAt d h cr) cr).cslot = none ∧
      (getCtx (swappedOutAt d h cr) cr).tblValue = reg d (0x0B01000 + 8 * n.toNat) ∧ tfind (swappedOutAt d h cr).pmg.cslots n.toNat = none ∧
      (swappedOutAt d h cr).pier.mem = d.pier.mem ∧
      (Memory.wf d.pier.mem = true → ∀ i, i < saveAreaLen d cr →
        memGet (swappedOutAt d h cr).host ((getCtx d cr).swapBa.toNat + 4096 + i) = memGet d.pier.mem (saveArea d cr + i)) := by
  obtain ⟨hseats, hpier, hregs⟩ := hostPut_seats hput
  have hctx : getCtx (swapCopied d h cr) cr = getCtx d cr := hseats.ctx cr
  have hleave : leaveCslot (swapCopied d h cr) cr = unseated (swapCopied d h cr) cr n := leaveCslot_some (hctx ▸ hslot)
  have hunseated := unseated_ctx (swapCopied d h cr) cr n
  rw [hctx] at hunseated
  unfold swappedOutAt
  dsimp only
  rw [hleave, getCtx_setCtx_same]
  refine ⟨rfl, (congrArg Ctx.cslot hunseated :), (congrArg Ctx.tblValue hunseated :).trans (hregs _), ?_, ?_, fun hwf i hi => ?_⟩
  · exact (tfind_tdel _ _ _).trans (if_pos rfl)
  · exact congrArg Pier.mem hpier
  · exact memGet_moveCells hwf hi

theorem swapInD_returns {d : Dev} {cr : Nat} (halive : alive d = true) (hst : (getCtx d cr).st = .swappingIn)
    (hmaster : (getFn d (getCtx d cr).fn.toNat).master = true) :
    swapInD cr d = coxSettle (setCtx (pierImage d (saveArea d cr) (saveAreaLen d cr)
      (moveCells d.host ((getCtx d cr).swapBa.toNat + headerBytes4K) (saveAreaLen d cr) (saveArea d cr))) cr
      { getCtx d cr with st := .waiting }) := by
  simp only [swapInD, hst, halive, hmaster, Bool.not_true, Bool.false_eq_true, if_false]
  rfl

theorem swapInD_faults {d : Dev} {cr : Nat} (halive : alive d = true) (hst : (getCtx d cr).st = .swappingIn)
    (hmaster : (getFn d (getCtx d cr).fn.toNat).master = false) : swapInD cr d = ctxFault d cr fXlatePerm { unit := 6 } := by
  simp only [swapInD, hst, halive, hmaster, Bool.not_true, Bool.not_false, Bool.false_eq_true, if_false, if_true]

/-- Settles O42: each command's cases by its own equations; a swap moves the save area cell by cell. -/
theorem switchesAndSwaps : Obligations.SwitchesAndSwaps := by
  unfold Obligations.SwitchesAndSwaps
  intro s halive
  refine ⟨fun p rc hsaving hready hcommit => ⟨fun hgood => ?_, fun t w hbad => ?_⟩, fun p hen hreload hphase => ?_, fun rec => ⟨fun hst => ?_,
    fun hst hcommit => ?_, fun i hst hcommit hins => ?_, fun hst hcommit hins => ?_⟩, fun rec n h hst hslot hclean hput => ?_,
    fun rec hst => ⟨fun hmaster => ?_, fun hmaster => ?_⟩⟩
  · exact ⟨_, onDev_next (f := saveDoneD p.toNat) (saveDoneD_saved halive hsaving hready hcommit hgood), saveTaken_frame _ _ _⟩
  · exact onDev_next (f := saveDoneD p.toNat) (saveDoneD_faults halive hsaving hready hcommit hbad)
  · obtain ⟨hstay, hpass⟩ := contextSwitchD_enabled halive hen hreload hphase
    refine ⟨fun hnone => onDev_next (f := contextSwitchD p.toNat) (hstay hnone), fun out hsome hq => ?_, fun out d1 hsome hq hpick => ?_,
      fun out d1 d2 c hsome hq hpick hd2 => ?_⟩
    · rw [← handOver_quiesce s.dev p.toNat out] at hq
      exact onDev_next (f := contextSwitchD p.toNat) ((hpass out hsome).trans (nextContext_quiesced hq))
    · rw [← handOver_quiesce s.dev p.toNat out] at hq
      exact onDev_next (f := contextSwitchD p.toNat) ((hpass out hsome).trans (nextContext_none hq hpick))
    · rw [← handOver_quiesce s.dev p.toNat out] at hq
      have hD := (hpass out hsome).trans (nextContext_some hq hpick hd2)
      refine ⟨fun hbad => ?_, fun hgood => ?_⟩
      · rw [if_pos hbad] at hD
        exact onDev_next (f := contextSwitchD p.toNat) hD
      · rw [if_neg (Bool.eq_false_iff.mp hgood)] at hD
        refine ⟨onDev_next (f := contextSwitchD p.toNat) hD, ?_⟩
        rw [startSlice_part, startSlice_ctx]
        exact ⟨rfl, rfl, rfl, rfl, fun hsaved => restoreContext_none (by rw [startSlice_ctx]; exact hsaved)⟩
  · exact onDev_next (f := overrunD rec.toNat) (overrunD_free halive hst)
  · exact ⟨commitsDone s.dev rec.toNat, onDev_next (f := overrunD rec.toNat) (overrunD_commit halive hst hcommit), rfl,
      ⟨rfl, rfl, fun _ => rfl⟩, commitRuns_commitsDone _ _⟩
  · exact onDev_next (f := overrunD rec.toNat) (overrunD_insert halive hst hcommit hins)
  · exact onDev_next (f := overrunD rec.toNat) (overrunD_idle halive hst hcommit hins)
  · exact ⟨_, onDev_next (f := swapOutD rec.toNat) (swapOutD_leaves halive hst hslot hclean hput), swappedOutAt_frame hslot hput⟩
  · refine ⟨_, onDev_next (f := swapInD rec.toNat) (swapInD_returns halive hst hmaster), ?_, rfl, rfl, fun hwf i hi => ?_⟩
    · rw [getCtx_setCtx_same]
    · exact memGet_moveCells hwf hi
  · exact onDev_next (f := swapInD rec.toNat) (swapInD_faults halive hst hmaster)

end Sys2Proof.Machine

/-! PROOFS. O43: the commands on contexts, the reset of a partition and the regulators' periods. -/

namespace Sys2Proof.Machine

open Sys2Proof

/-! ## CREATE -/

theorem findFrom_holds {p : Nat → Bool} {lo n i : Nat} (h : findFrom p lo n = some i) : p i = true := by
  induction n generalizing lo with
  | zero => cases h
  | succ k ih =>
    rw [findFrom] at h
    split at h
    · next hp => cases h; exact hp
    · exact ih h

theorem createCheck_free {d : Dev} {fn vctx p swap r : Nat} (h : createCheck d fn vctx p swap = .ok r) : (getCtx d r).st = .free := by
  unfold createCheck at h
  split at h
  · cases h
  split at h
  · cases h
  next r' hfind =>
  have hfree := of_decide_eq_true (findFrom_holds hfind)
  split at h
  · cases h
  split at h
  · cases h
  split at h
  · cases h
  · cases h; exact hfree

/-- The record of a context that CREATE makes, but for its slot. -/
def newCtx (d : Dev) (fn vctx p : Nat) (be : Bool) (swap : Word64) : Ctx :=
  { Ctx.init with
    fn := BitVec.ofNat 6 fn, vctx := BitVec.ofNat 7 vctx, part := BitVec.ofNat 4 p, be := be, swapBa := swap
    blockedAt := d.now, runnableAt := d.now, st := .waiting }

theorem createCtx_seated {d : Dev} {r fn vctx p n : Nat} {be : Bool} {swap : Word64} (h : freeCslot d p = some n) :
    getCtx (createCtx d r fn vctx p be swap) r = { newCtx d fn vctx p be swap with cslot := some (BitVec.ofNat 7 n) } := by
  have hctx := getCtx_setCtx_same d r (newCtx d fn vctx p be swap)
  simp only [createCtx, h, giveCslot]
  refine (getCtx_setCtx_same _ r _).trans ?_
  rw [getCtx_setSteps]
  exact congrArg (fun c : Ctx => { c with st := .waiting, cslot := some (BitVec.ofNat 7 n) }) hctx

theorem createCtx_unseated {d : Dev} {r fn vctx p : Nat} {be : Bool} {swap : Word64} (h : freeCslot d p = none) :
    getCtx (createCtx d r fn vctx p be swap) r = { newCtx d fn vctx p be swap with st := .swappedOut } := by
  simp only [createCtx, h]
  exact getCtx_setCtx_same _ r _

theorem createCtx_other {d : Dev} {r c fn vctx p : Nat} {be : Bool} {swap : Word64} (h : c ≠ r) :
    getCtx (createCtx d r fn vctx p be swap) c = getCtx d c := by
  have hset : ∀ x, getCtx (setSteps (setCtx d r x) r CtxSteps.init) c = getCtx d c := fun x => (getCtx_setCtx d r c x).trans (if_neg h)
  unfold createCtx
  dsimp only
  split
  · exact (getCtx_setCtx _ r c _).trans ((if_neg h).trans (hset _))
  · exact (getCtx_setCtx _ r c _).trans ((if_neg h).trans (hset _))

/-- What a created context's record holds. -/
theorem createCtx_frame {d : Dev} {r fn vctx p : Nat} {be : Bool} {swap : Word64} :
    (getCtx (createCtx d r fn vctx p be swap) r).vctx = BitVec.ofNat 7 vctx ∧ (getCtx (createCtx d r fn vctx p be swap) r).part = BitVec.ofNat 4 p ∧
      (getCtx (createCtx d r fn vctx p be swap) r).be = be ∧ (getCtx (createCtx d r fn vctx p be swap) r).swapBa = swap := by
  cases h : freeCslot d p with
  | none => rw [createCtx_unseated h]; exact ⟨rfl, rfl, rfl, rfl⟩
  | some n => rw [createCtx_seated h]; exact ⟨rfl, rfl, rfl, rfl⟩

section
variable {d : Dev} {fn : Nat} (hopen : fnOpen d fn 0x0201000 = true)
include hopen

theorem createD_vf (hfn : fn ≠ 0) : createD fn d = setCtxStatus d fn 8 0 := by
  simp only [createD, hopen, hfn, Bool.not_true, Bool.false_eq_true, if_false, ne_eq, not_false_eq_true, if_true]

theorem destroyD_vf (hfn : fn ≠ 0) : destroyD fn d = setCtxStatus d fn 8 ((argCtx d fn).getD 0) := by
  simp only [destroyD, hopen, hfn, Bool.not_true, Bool.false_eq_true, if_false, ne_eq, not_false_eq_true, if_true]

theorem setClassD_vf (hfn : fn ≠ 0) : setClassD fn d = setCtxStatus d fn 8 ((argCtx d fn).getD 0) := by
  simp only [setClassD, hopen, hfn, Bool.not_true, Bool.false_eq_true, if_false, ne_eq, not_false_eq_true, if_true]

theorem armD_torn {cr : Nat} (harg : argCtx d fn = some cr) (hst : (getCtx d cr).st = .faulted) (htorn : (getCtx d cr).tornDown = true) :
    armD fn d = coxSettle (setCtxStatus
      (seatCtx (thawMaps (setCtx d cr { getCtx d cr with tornDown := false, blockedAt := d.now }) cr) cr) fn 0 cr) := by
  simp only [armD, hopen, harg, hst, htorn, Bool.not_true, Bool.false_eq_true, if_false, decide_true, Bool.and_self, if_true]

theorem armD_not {cr : Nat} (harg : argCtx d fn = some cr) (hno : (getCtx d cr).st ≠ .faulted ∨ (getCtx d cr).tornDown = false) :
    armD fn d = setCtxStatus d fn 4 cr := by
  have hskip : ¬ ((decide ((getCtx d cr).st = .faulted) && (getCtx d cr).tornDown) = true) := by rcases hno with h | h <;> simp [h]
  simp only [armD, hopen, harg, Bool.not_true, Bool.false_eq_true, if_false, if_neg hskip]

end

section
variable {d : Dev} (hopen : fnOpen d 0 0x0201000 = true)
include hopen

theorem createD_pf {r : Except Nat Nat}
    (hr : r = createCheck d (argFn d 0) (fld (ctxArg d 0) 6 7) (fld (ctxArg d 0) 13 4) (ctxSwap d 0).toNat) :
    (∀ e, r = .error e → createD 0 d = setCtxStatus d 0 e 0) ∧
      (∀ e, r = .ok e → createD 0 d = coxSettle (setCtxStatus (createCtx d e (argFn d 0) (fld (ctxArg d 0) 6 7) (fld (ctxArg d 0) 13 4)
        (bitOf (ctxArg d 0) 17) (ctxSwap d 0)) 0 0 e)) := by
  refine ⟨fun e he => ?_, fun e he => ?_⟩
  · rw [he] at hr
    simp only [createD, hopen, ← hr, Bool.not_true, Bool.false_eq_true, if_false, ne_eq, not_true_eq_false]
  · rw [he] at hr
    simp only [createD, hopen, ← hr, Bool.not_true, Bool.false_eq_true, if_false, ne_eq, not_true_eq_false]

theorem destroyD_pf {cr : Nat} (harg : argCtx d 0 = some cr) :
    destroyD 0 d = if mayDestroy d cr then coxSettle (setCtxStatus (destroyCtx d cr) 0 0 cr) else setCtxStatus d 0 4 cr := by
  simp only [destroyD, hopen, harg, Bool.not_true, Bool.false_eq_true, if_false, ne_eq, not_true_eq_false]

theorem setClassD_pf {cr : Nat} (harg : argCtx d 0 = some cr) :
    setClassD 0 d = setCtxStatus (setCtx d cr { getCtx d cr with be := bitOf (ctxArg d 0) 17 }) 0 0 cr := by
  simp only [setClassD, hopen, harg, Bool.not_true, Bool.false_eq_true, if_false, ne_eq, not_true_eq_false]

end

theorem tget_tdel_same {α : Type} (t : Tbl α) (k : Nat) (v : α) : tget (tdel t k) k v = v := by
  induction t with
  | nil => rfl
  | cons p r ih =>
    by_cases h : p.1 = k
    · rw [tdel, List.filter_cons_of_neg (by simp [h])]
      exact ih
    · rw [tdel, List.filter_cons_of_pos (by simp [h]), tget, if_neg h]
      exact ih

theorem destroyCtx_free (d : Dev) (cr : Nat) : (getCtx (destroyCtx d cr) cr).st = .free := by
  obtain ⟨t, ht⟩ : ∃ t : Tbl Ctx, (destroyCtx d cr).pmg.ctxs = tdel t cr := ⟨_, rfl⟩
  rw [getCtx, ht, tget_tdel_same]
  rfl

theorem seatCtx_ctx (d : Dev) (cr : Nat) :
    ((getCtx (seatCtx d cr) cr).st = .waiting ∨ (getCtx (seatCtx d cr) cr).st = .swappedOut) ∧
      (getCtx (seatCtx d cr) cr).tornDown = (getCtx d cr).tornDown := by
  unfold seatCtx
  dsimp only
  split
  · rw [getCtx_setCtx_same]
    exact ⟨.inl rfl, rfl⟩
  · split
    · next n _ =>
      have hctx := getCtx_setCtx_same d cr { getCtx d cr with st := .waiting, cslot := some (BitVec.ofNat 7 n) }
      rw [getCtx_setReg]
      exact ⟨.inl (congrArg Ctx.st hctx :), (congrArg Ctx.tornDown hctx :)⟩
    · rw [getCtx_setCtx_same]
      exact ⟨.inr rfl, rfl⟩

theorem seatCtx_other {d : Dev} {cr c : Nat} (h : c ≠ cr) : getCtx (seatCtx d cr) c = getCtx d c := by
  unfold seatCtx
  dsimp only
  split
  · exact (getCtx_setCtx _ cr c _).trans (if_neg h)
  · split
    · exact (getCtx_setCtx d cr c _).trans (if_neg h)
    · exact (getCtx_setCtx _ cr c _).trans (if_neg h)

theorem getCtx_setCtxStatus (d : Dev) (fn r cr c : Nat) : getCtx (setCtxStatus d fn r cr) c = getCtx d c := rfl

/-- CREATE from the PF (R466, R467). -/
theorem creates {s : State} (hopen : fnOpen s.dev 0 0x0201000 = true) {w : Word64} {r : Except Nat Nat} (e : Nat) (hw : w = ctxArg s.dev 0)
    (hr : r = createCheck s.dev (argFn s.dev 0) (fld w 6 7) (fld w 13 4) (ctxSwap s.dev 0).toNat) :
    (r = .error e → exec (.create 0) s = .next { s with dev := setCtxStatus s.dev 0 e 0 }) ∧
      (r = .ok e → ∃ d2, exec (.create 0) s = .next (s.settled d2) ∧ (getCtx d2 e).vctx.toNat = fld w 6 7 ∧
        (getCtx d2 e).part.toNat = fld w 13 4 ∧ (getCtx d2 e).be = bitOf w 17 ∧ (getCtx d2 e).swapBa = ctxSwap s.dev 0 ∧
        (getCtx s.dev e).st = .free ∧
        (freeCslot s.dev (fld w 13 4) = none → (getCtx d2 e).st = .swappedOut) ∧
        (∀ n, freeCslot s.dev (fld w 13 4) = some n → (getCtx d2 e).st = .waiting ∧ (getCtx d2 e).cslot = some (BitVec.ofNat 7 n)) ∧
        (∀ c, c ≠ e → getCtx d2 c = getCtx s.dev c) ∧ tget d2.pmg.status 0 { result := 0, record := 0 } =
          { result := 0, record := BitVec.ofNat 12 e }) := by
  subst hw
  obtain ⟨herr, hok⟩ := createD_pf hopen hr
  refine ⟨fun he => onDev_next (f := createD 0) (herr e he), fun he => ⟨_, onDev_next (f := createD 0) (hok e he), ?_⟩⟩
  obtain ⟨hvctx, hpart, hbe, hswap⟩ := createCtx_frame (d := s.dev) (r := e) (fn := argFn s.dev 0) (vctx := fld (ctxArg s.dev 0) 6 7)
    (p := fld (ctxArg s.dev 0) 13 4) (be := bitOf (ctxArg s.dev 0) 17) (swap := ctxSwap s.dev 0)
  simp only [getCtx_setCtxStatus]
  refine ⟨?_, ?_, hbe, hswap, createCheck_free (hr.symm.trans he), fun hnone => ?_, fun n hsome => ?_, fun c hc => createCtx_other hc,
    tget_tset_same _ _ _ _⟩
  · rw [hvctx, BitVec.toNat_ofNat, Nat.mod_eq_of_lt (fld_lt _ 6 7)]
  · rw [hpart, BitVec.toNat_ofNat, Nat.mod_eq_of_lt (fld_lt _ 13 4)]
  · rw [createCtx_unseated hnone]
  · rw [createCtx_seated hsome]
    exact ⟨rfl, rfl⟩

theorem destroys {s : State} {cr : Nat} (hopen : fnOpen s.dev 0 0x0201000 = true) (harg : argCtx s.dev 0 = some cr) :
    (mayDestroy s.dev cr = true → ∃ d2, exec (.destroy 0) s = .next (s.settled d2) ∧ (getCtx d2 cr).st = .free) ∧
      (mayDestroy s.dev cr = false → exec (.destroy 0) s = .next { s with dev := setCtxStatus s.dev 0 4 cr }) := by
  have hD := destroyD_pf hopen harg
  refine ⟨fun hmay => ?_, fun hmay => ?_⟩
  · rw [if_pos hmay] at hD
    refine ⟨_, onDev_next (f := destroyD 0) hD, ?_⟩
    rw [getCtx_setCtxStatus]
    exact destroyCtx_free s.dev cr
  · rw [if_neg (Bool.eq_false_iff.mp hmay)] at hD
    exact onDev_next (f := destroyD 0) hD

theorem arms {s : State} {fn : Func} {cr : Nat} (hopen : fnOpen s.dev fn.toNat 0x0201000 = true) (harg : argCtx s.dev fn.toNat = some cr)
    (hst : (getCtx s.dev cr).st = .faulted) (htorn : (getCtx s.dev cr).tornDown = true) :
    ∃ d2, exec (.arm fn) s = .next (s.settled d2) ∧ ((getCtx d2 cr).st = .waiting ∨ (getCtx d2 cr).st = .swappedOut) ∧
      (getCtx d2 cr).tornDown = false := by
  obtain ⟨hseat, hkept⟩ := seatCtx_ctx (thawMaps (setCtx s.dev cr { getCtx s.dev cr with tornDown := false, blockedAt := s.dev.now }) cr) cr
  have hctx := getCtx_setCtx_same s.dev cr { getCtx s.dev cr with tornDown := false, blockedAt := s.dev.now }
  refine ⟨_, onDev_next (f := armD fn.toNat) (armD_torn hopen harg hst htorn), ?_⟩
  rw [getCtx_setCtxStatus]
  exact ⟨hseat, hkept.trans (congrArg Ctx.tornDown hctx :)⟩

theorem setsClass {s : State} {cr : Nat} (hopen : fnOpen s.dev 0 0x0201000 = true) (harg : argCtx s.dev 0 = some cr) :
    ∃ u, exec (.setClass 0) s = .next u ∧ u.pending = s.pending ∧ getCtx u.dev cr = { getCtx s.dev cr with be := bitOf (ctxArg s.dev 0) 17 } ∧
      (∀ c, c ≠ cr → getCtx u.dev c = getCtx s.dev c) := by
  refine ⟨_, onDev_next (f := setClassD 0) (setClassD_pf hopen harg), rfl, ?_, fun c hc => ?_⟩
  · rw [getCtx_setCtxStatus, getCtx_setCtx_same]
  · rw [getCtx_setCtxStatus, getCtx_setCtx, if_neg hc]

/-! ## PARTITION_RESET -/

theorem foldl_reaches {α β : Type} {f : β → α → β} {Q : β → Prop} {a : α} (hset : ∀ b, Q (f b a)) (hkeep : ∀ b x, Q b → Q (f b x))
    {l : List α} {b : β} (h : a ∈ l ∨ Q b) : Q (l.foldl f b) := by
  induction l generalizing b with
  | nil => exact h.resolve_left List.not_mem_nil
  | cons x r ih =>
    refine ih ?_
    rcases h with hmem | hq
    · rcases List.mem_cons.mp hmem with rfl | hr
      · exact .inr (hset b)
      · exact .inl hr
    · exact .inr (hkeep b x hq)

theorem beginTeardown_other {d : Dev} {cr c : Nat} (h : c ≠ cr) : getCtx (beginTeardown d cr) c = getCtx d c := by
  have hdrop := (catchDrop_seats d cr).ctx c
  have hreq : ∀ b : Bool, getCtx (if b then dropRequest (catchDrop d cr) (getCtx d cr).part.toNat else catchDrop d cr) c = getCtx d c := by
    intro b
    cases b
    · exact hdrop
    · exact ((dropRequest_seats _ _).ctx c).trans hdrop
  unfold beginTeardown
  dsimp only
  refine (getCtx_setCtx _ cr c _).trans ((if_neg h).trans ?_)
  rw [getCtx_setPart]
  split
  · exact hreq true
  · exact hreq false

theorem beginTeardown_part (d : Dev) (cr : Nat) : (getCtx (beginTeardown d cr) cr).part = (getCtx d cr).part := by
  unfold beginTeardown
  dsimp only
  generalize setPart _ _ _ = d2
  have hctx := getCtx_setCtx_same d2 cr { getCtx d cr with
    st := .faulted, tearing := true, tornDown := false, saved := none
    dropSlot := (getCtx d cr).st = .swappingOut || (getCtx d cr).st = .swappingIn }
  exact (congrArg Ctx.part hctx :)

/-- The records of a partition whose teardown a reset begins. -/
def resetCtxs (d : Dev) (p : Nat) : List Nat := ((ctxsIn d p).filter (fun q => !q.2.tearing)).map (fun q => q.1)

/-- A partition whose contexts a reset tears down. -/
def resetBegun (d : Dev) (p : Nat) : Dev :=
  let d1 := (resetCtxs d p).foldl beginTeardown (dropRequest d p)
  setPart d1 p { getPart d1 p with
    running := none, phase := .resetting, sliceOver := none, saving := none, leaving := none, outgoing := none, resetWait := false }

theorem resetPartition_eq (d : Dev) (p : Nat) : resetPartition d p = settleReset (resetBegun d p) p := rfl

theorem resetBegun_part (d : Dev) (p : Nat) :
    (getPart (resetBegun d p) p).phase = .resetting ∧ (getPart (resetBegun d p) p).running = none ∧
      (getPart (resetBegun d p) p).saving = none := by
  unfold resetBegun
  dsimp only
  rw [getPart_setPart_same]
  exact ⟨rfl, rfl, rfl⟩

theorem ctx_mem {d : Dev} {cr : Nat} (h : (getCtx d cr).st ≠ .free) : (cr, getCtx d cr) ∈ d.pmg.ctxs := by
  rcases tget_mem d.pmg.ctxs cr Ctx.init with hinit | hmem
  · exact absurd (show (getCtx d cr).st = .free by rw [getCtx, hinit]; rfl) h
  · exact hmem

theorem mem_ctxsIn {d : Dev} {cr p : Nat} (hst : (getCtx d cr).st ≠ .free) (hp : (getCtx d cr).part.toNat = p) :
    (cr, getCtx d cr) ∈ ctxsIn d p :=
  List.mem_filter.mpr ⟨ctx_mem hst, by simp [hst, hp]⟩

section
variable {d : Dev} {cr p : Nat} (hp : (getCtx d cr).part.toNat = p) (hst : (getCtx d cr).st ≠ .free)
include hp hst

theorem resetBegun_faults (htearing : (getCtx d cr).tearing = false) :
    (getCtx (resetBegun d p) cr).st = .faulted ∧ (getCtx (resetBegun d p) cr).tearing = true := by
  have hmem : cr ∈ resetCtxs d p :=
    List.mem_map.mpr ⟨(cr, getCtx d cr), List.mem_filter.mpr ⟨mem_ctxsIn hst hp, by simp [htearing]⟩, rfl⟩
  refine foldl_reaches (Q := fun e : Dev => (getCtx e cr).st = .faulted ∧ (getCtx e cr).tearing = true) (a := cr)
    (fun e => beginTeardown_ctx e cr) (fun e c he => ?_) (.inl hmem)
  by_cases hc : cr = c
  · subst hc; exact beginTeardown_ctx e cr
  · rw [beginTeardown_other hc]; exact he

theorem resetBegun_tearing :
    (getCtx (resetBegun d p) cr).tearing = true ∧ (getCtx (resetBegun d p) cr).st ≠ .free ∧ (getCtx (resetBegun d p) cr).part.toNat = p := by
  have hpart : (getCtx (resetBegun d p) cr).part.toNat = p := by
    refine foldl_keeps (P := fun e : Dev => (getCtx e cr).part.toNat = p) (fun e c he => ?_) (resetCtxs d p) hp
    by_cases hc : cr = c
    · subst hc; rw [beginTeardown_part]; exact he
    · rw [beginTeardown_other hc]; exact he
  cases htearing : (getCtx d cr).tearing with
  | false =>
    obtain ⟨hfaulted, htorn⟩ := resetBegun_faults hp hst htearing
    exact ⟨htorn, by rw [hfaulted]; decide, hpart⟩
  | true =>
    have hkept : (getCtx (resetBegun d p) cr).tearing = true ∧ (getCtx (resetBegun d p) cr).st ≠ .free := by
      refine foldl_keeps (P := fun e : Dev => (getCtx e cr).tearing = true ∧ (getCtx e cr).st ≠ .free) (fun e c he => ?_) (resetCtxs d p)
        ⟨htearing, hst⟩
      by_cases hc : cr = c
      · subst hc
        obtain ⟨hfaulted, htorn⟩ := beginTeardown_ctx e cr
        exact ⟨htorn, by rw [hfaulted]; decide⟩
      · rw [beginTeardown_other hc]; exact he
    exact ⟨hkept.1, hkept.2, hpart⟩

theorem resetPartition_waits : resetPartition d p = resetBegun d p := by
  obtain ⟨htorn, hstill, hpart⟩ := resetBegun_tearing hp hst
  have hany : (ctxsIn (resetBegun d p) p).any (fun q => q.2.tearing) = true := List.any_eq_true.mpr ⟨_, mem_ctxsIn hstill hpart, htorn⟩
  rw [resetPartition_eq]
  exact if_pos (by rw [hany, Bool.or_true])

end

/-! ## The end of a partition reset -/

/-- Two states that differ in contexts, context slots, caches and the registers of page tables only. -/
structure SameHouse (d d' : Dev) : Prop where
  parts : d'.pmg.parts = d.pmg.parts
  tiles : d'.tiles = d.tiles
  regs : ∀ o, o < 0x0B01000 → reg d' o = reg d o

theorem seatCtx_house (d : Dev) (cr : Nat) : SameHouse d (seatCtx d cr) := by
  unfold seatCtx
  dsimp only
  split
  · exact ⟨rfl, rfl, fun _ _ => rfl⟩
  · split
    · exact ⟨rfl, rfl, fun o ho => (reg_setReg _ _ o _).trans (if_neg (by omega))⟩
    · exact ⟨rfl, rfl, fun _ _ => rfl⟩

/-- A FAULTED context of a partition that a reset has torn down is ready for a choice again. -/
def reseat (d : Dev) (cr : Nat) : Dev :=
  seatCtx (thawMaps (setCtx d cr { getCtx d cr with tornDown := false, blockedAt := d.now }) cr) cr

theorem reseat_house (d : Dev) (cr : Nat) : SameHouse d (reseat d cr) := by
  obtain ⟨hparts, htiles, hregs⟩ := seatCtx_house (thawMaps (setCtx d cr { getCtx d cr with tornDown := false, blockedAt := d.now }) cr) cr
  exact ⟨hparts, htiles, hregs⟩

theorem foldl_reseat_house (l : List Nat) (d : Dev) : SameHouse d (l.foldl reseat d) :=
  foldl_keeps (P := SameHouse d) (fun e c he => by
    obtain ⟨hparts, htiles, hregs⟩ := reseat_house e c
    exact ⟨hparts.trans he.parts, htiles.trans he.tiles, fun o ho => (hregs o ho).trans (he.regs o ho)⟩) l ⟨rfl, rfl, fun _ _ => rfl⟩

theorem reseat_other {d : Dev} {cr c : Nat} (h : c ≠ cr) : getCtx (reseat d cr) c = getCtx d c :=
  (seatCtx_other h).trans ((getCtx_setCtx d cr c _).trans (if_neg h))

/-- The tiles of a partition zeroed, without a task, as a reset leaves them. -/
def tilesFresh (d : Dev) (p : Nat) : Dev := (partTiles d p).foldl (fun d t => setTile d t (freshTile (getTile d t))) d

/-- The records of a partition that are FAULTED. -/
def faultedIn (d : Dev) (p : Nat) : List Nat := ((ctxsIn d p).filter (fun q => q.2.st = .faulted)).map (fun q => q.1)

/-- A partition whose reset ends: its tiles are fresh and its contexts ready for a choice. -/
def resetEnded (d : Dev) (p : Nat) : Dev := (faultedIn d p).foldl reseat (tilesFresh (dropDeckModels d p) p)

theorem settleReset_ends {d : Dev} {p : Nat} (hphase : (getPart d p).phase = .resetting) (hnone : ∀ q, q ∈ ctxsIn d p → q.2.tearing = false) :
    settleReset d p =
      coxSettle (setPart (refillBuckets (resetEnded d p) p) p { getPart (resetEnded d p) p with phase := .idle }) := by
  have hany : (ctxsIn d p).any (fun q => q.2.tearing) = false := List.any_eq_false.mpr fun q hq => by rw [hnone q hq]; exact Bool.false_ne_true
  have hgo : ¬ ((decide ((getPart d p).phase ≠ .resetting) || (ctxsIn d p).any (fun q => q.2.tearing)) = true) := by simp [hphase, hany]
  unfold settleReset
  exact if_neg hgo

theorem evictModel_seats (d : Dev) (i : Nat) : SameSeats d (evictModel d i) := by
  unfold evictModel
  split
  · exact .refl d
  next m _ =>
  extract_lets d1
  have hpull : SameSeats d d1 := by
    show SameSeats d (match m.pull with | some x => dropPull d x | none => d)
    split
    · exact dropPull_seats _ _
    · exact .refl d
  clear_value d1
  split
  · exact hpull
  · refine hpull.trans ?_
    exact ⟨rfl, rfl, rfl, rfl, rfl, rfl, fun _ _ => rfl⟩

theorem dropDeckModels_seats (d : Dev) (p : Nat) : SameSeats d (dropDeckModels d p) := SameSeats.foldl evictModel_seats _ d

theorem dropDeckModels_none {d : Dev} {p : Nat} (hp : 16 ≤ p) : dropDeckModels d p = d := by
  have hnone : d.cox.models.filter (fun m => m.2.part.toNat = p && m.2.deck ≠ [] && (m.2.resident || m.2.pull.isSome)) = [] := by
    refine List.filter_eq_nil_iff.mpr fun m _ => ?_
    have hne : decide (m.2.part.toNat = p) = false := decide_eq_false (by have := m.2.part.isLt; omega)
    rw [hne, Bool.false_and, Bool.false_and]
    exact Bool.false_ne_true
  rw [dropDeckModels, hnone]
  rfl

theorem faultedIn_none {d : Dev} {p : Nat} (hp : 16 ≤ p) : faultedIn d p = [] := by
  have hnone : ctxsIn d p = [] := by
    refine List.filter_eq_nil_iff.mpr fun q _ => ?_
    have hne : decide (q.2.part.toNat = p) = false := decide_eq_false (by have := q.2.part.isLt; omega)
    rw [hne, Bool.and_false]
    exact Bool.false_ne_true
  rw [faultedIn, hnone]
  rfl

theorem partTiles_dropDeckModels (d : Dev) (p : Nat) : partTiles (dropDeckModels d p) p = partTiles d p := by
  by_cases hp : 16 ≤ p
  · rw [dropDeckModels_none hp]
  · have hseats := dropDeckModels_seats d p
    refine List.filter_congr fun t ht => ?_
    have ht := List.mem_range.mp ht
    rw [tileIn, hseats.regs _ (by omega), mappedOut, hseats.boot]
    rfl

theorem tilesFresh_keeps (d : Dev) (p : Nat) :
    (tilesFresh d p).pmg = d.pmg ∧ ∀ o, reg (tilesFresh d p) o = reg d o := by
  unfold tilesFresh
  refine foldl_keeps (P := fun e : Dev => e.pmg = d.pmg ∧ ∀ o, reg e o = reg d o) (fun e t he => ?_) (partTiles d p) ⟨rfl, fun _ => rfl⟩
  exact he

theorem tilesFresh_tile {d : Dev} {p t : Nat} (h : t ∈ partTiles d p) :
    (getTile (tilesFresh d p) t).mem = [] ∧ (getTile (tilesFresh d p) t).run = none :=
  foldl_setTile_mem (f := freshTile) (Q := fun x => x.mem = [] ∧ x.run = none) (fun _ => ⟨rfl, rfl⟩) (.inl h)

/-- What the end of a reset leaves of a partition's record, its tiles and its regulators' registers. -/
theorem resetEnded_frame (d : Dev) (p : Nat) :
    getPart (resetEnded d p) p = getPart d p ∧
      (∀ t, t ∈ partTiles d p → (getTile (resetEnded d p) t).mem = [] ∧ (getTile (resetEnded d p) t).run = none) ∧
      (∀ i, bucketDepth (resetEnded d p) p i = bucketDepth d p i) := by
  have hseats := dropDeckModels_seats d p
  obtain ⟨hpmg, hregs⟩ := tilesFresh_keeps (dropDeckModels d p) p
  have hhouse := foldl_reseat_house (faultedIn d p) (tilesFresh (dropDeckModels d p) p)
  refine ⟨?_, fun t ht => ?_, fun i => ?_⟩
  · rw [getPart, resetEnded, hhouse.parts, hpmg, hseats.parts]
    rfl
  · rw [getTile, resetEnded, hhouse.tiles]
    exact tilesFresh_tile (by rw [partTiles_dropDeckModels]; exact ht)
  · have hreg : reg (resetEnded d p) (0x0200400 + 32 * p + 8 * bucketRes i) = reg d (0x0200400 + 32 * p + 8 * bucketRes i) := by
      by_cases hp : 16 ≤ p
      · rw [resetEnded, faultedIn_none hp, List.foldl_nil, hregs, dropDeckModels_none hp]
      · have hres : bucketRes i ≤ 3 := by unfold bucketRes; split_ifs <;> omega
        rw [resetEnded, hhouse.regs _ (by omega), hregs, hseats.regs _ (by omega)]
    rw [bucketDepth, bucketRate, partReg, hreg]
    rfl

theorem resetEnded_ready {d : Dev} {cr p : Nat} (hp : (getCtx d cr).part.toNat = p) (hst : (getCtx d cr).st = .faulted) :
    (getCtx (resetEnded d p) cr).st = .waiting ∨ (getCtx (resetEnded d p) cr).st = .swappedOut := by
  have hmem : cr ∈ faultedIn d p :=
    List.mem_map.mpr ⟨(cr, getCtx d cr), List.mem_filter.mpr ⟨mem_ctxsIn (by rw [hst]; decide) hp, by simp [hst]⟩, rfl⟩
  unfold resetEnded
  refine foldl_reaches (f := reseat) (Q := fun e : Dev => (getCtx e cr).st = .waiting ∨ (getCtx e cr).st = .swappedOut) (a := cr)
    (fun e => (seatCtx_ctx _ cr).1) (fun e c he => ?_) (.inl hmem)
  by_cases hc : cr = c
  · subst hc; exact (seatCtx_ctx _ cr).1
  · rw [reseat_other hc]; exact he

/-! ## Buckets -/

theorem foldl_tset_buckets (f : Nat → Int → Int) (p n : Nat) (b : Tbl Int) (q i : Nat) (hn : n ≤ 8) (hi : i < 8) :
    tget ((List.range n).foldl (fun b i => tset b (8 * p + i) (f i (tget b (8 * p + i) 0))) b) (8 * q + i) 0 =
      if q = p ∧ i < n then f i (tget b (8 * q + i) 0) else tget b (8 * q + i) 0 := by
  induction n with
  | zero => rw [List.range_zero, List.foldl_nil, if_neg (by omega)]
  | succ n ih =>
    have ihn := ih (by omega)
    rw [List.range_succ, List.foldl_append, List.foldl_cons, List.foldl_nil, tget_tset]
    by_cases hat : 8 * q + i = 8 * p + n
    · obtain ⟨rfl, rfl⟩ : q = p ∧ i = n := by omega
      rw [if_pos rfl, if_pos ⟨rfl, by omega⟩, ihn, if_neg (by omega)]
    · rw [if_neg hat, ihn]
      by_cases hin : q = p ∧ i < n
      · rw [if_pos hin, if_pos (by omega)]
      · rw [if_neg hin, if_neg (by omega)]

theorem mapBuckets_bucket (d : Dev) (p : Nat) (f : Nat → Int → Int) (q : Nat) {i : Nat} (hi : i < 6) :
    tget (mapBuckets d p f).pmg.buckets (8 * q + i) 0 =
      if q = p then f i (tget d.pmg.buckets (8 * q + i) 0) else tget d.pmg.buckets (8 * q + i) 0 := by
  refine (foldl_tset_buckets f p 6 d.pmg.buckets q i (by omega) (by omega)).trans ?_
  by_cases hq : q = p
  · rw [if_pos ⟨hq, hi⟩, if_pos hq]
  · rw [if_neg (by omega), if_neg hq]

theorem refillBuckets_frame (d : Dev) (p : Nat) :
    (refillBuckets d p).tiles = d.tiles ∧ (refillBuckets d p).pmg.ctxs = d.pmg.ctxs ∧ (refillBuckets d p).pmg.parts = d.pmg.parts :=
  ⟨rfl, rfl, rfl⟩

theorem refillBuckets_bucket (d : Dev) (p : Nat) {i : Nat} (hi : i < 6) :
    tget (refillBuckets d p).pmg.buckets (8 * p + i) 0 = (bucketDepth d p i : Int) :=
  (mapBuckets_bucket d p (fun i _ => (bucketDepth d p i : Int)) p hi).trans (if_pos rfl)

/-- What a settled reset is made of. -/
theorem settleReset_idle {d : Dev} {p : Nat} (hphase : (getPart d p).phase = .resetting) (hnone : ∀ q, q ∈ ctxsIn d p → q.2.tearing = false) :
    ∃ d2, settleReset d p = coxSettle d2 ∧ getPart d2 p = { getPart d p with phase := .idle } ∧
      (∀ t, t ∈ partTiles d p → (getTile d2 t).mem = [] ∧ (getTile d2 t).run = none) ∧
      (∀ i, i < 6 → tget d2.pmg.buckets (8 * p + i) 0 = (bucketDepth d p i : Int)) ∧
      (∀ cr, (getCtx d cr).part.toNat = p → (getCtx d cr).st = .faulted →
        (getCtx d2 cr).st = .waiting ∨ (getCtx d2 cr).st = .swappedOut) := by
  obtain ⟨hpart, htiles, hdepth⟩ := resetEnded_frame d p
  obtain ⟨htiles2, hctxs2, -⟩ := refillBuckets_frame (resetEnded d p) p
  refine ⟨_, settleReset_ends hphase hnone, ?_, fun t ht => ?_, fun i hi => ?_, fun cr hp hst => ?_⟩
  · rw [getPart_setPart_same, hpart]
  · rw [getTile_setPart, getTile, htiles2]
    exact htiles t ht
  · rw [← hdepth i]
    exact refillBuckets_bucket (resetEnded d p) p hi
  · rw [getCtx_setPart, getCtx, hctxs2]
    exact resetEnded_ready hp hst

theorem resetBegun_none {d : Dev} {p : Nat} (hnone : ctxsIn d p = []) :
    ctxsIn (resetBegun d p) p = [] ∧ partTiles (resetBegun d p) p = partTiles d p ∧
      ∀ i, bucketDepth (resetBegun d p) p i = bucketDepth d p i := by
  have hcrs : resetCtxs d p = [] := by rw [resetCtxs, hnone]; rfl
  unfold resetBegun
  rw [hcrs]
  exact ⟨hnone, rfl, fun _ => rfl⟩

/-- One partition's buckets gain their rate, up to their depth. -/
def regulate (d : Dev) (p : Nat) : Dev :=
  mapBuckets d p (fun i b => min (b + (bucketRate d p i : Int)) (bucketDepth d p i : Int))

theorem regulate_frame (l : List Nat) (d : Dev) : sameButBuckets d (l.foldl regulate d) :=
  foldl_keeps (P := sameButBuckets d) (fun _ _ he => he.trans ⟨_, rfl⟩) l ⟨_, rfl⟩

theorem regulate_bucket {l : List Nat} (hl : l.Nodup) (d : Dev) (p : Nat) {i : Nat} (hi : i < 6) :
    tget (l.foldl regulate d).pmg.buckets (8 * p + i) 0 =
      if p ∈ l then min (tget d.pmg.buckets (8 * p + i) 0 + (bucketRate d p i : Int)) (bucketDepth d p i : Int)
      else tget d.pmg.buckets (8 * p + i) 0 := by
  induction l generalizing d with
  | nil => rfl
  | cons q r ih =>
    obtain ⟨hq, hr⟩ := List.nodup_cons.mp hl
    have hstep := mapBuckets_bucket d q (fun i b => min (b + (bucketRate d q i : Int)) (bucketDepth d q i : Int)) p hi
    refine (ih hr (regulate d q)).trans ?_
    by_cases hpq : p = q
    · subst hpq
      rw [if_neg hq, if_pos List.mem_cons_self]
      exact hstep.trans (if_pos rfl)
    · have hsame : tget (regulate d q).pmg.buckets (8 * p + i) 0 = tget d.pmg.buckets (8 * p + i) 0 := hstep.trans (if_neg hpq)
      rw [hsame]
      by_cases hpr : p ∈ r
      · rw [if_pos hpr, if_pos (List.mem_cons_of_mem _ hpr)]
        rfl
      · rw [if_neg hpr, if_neg (by simp [hpq, hpr])]

theorem regulatorD_alive {d : Dev} (halive : alive d = true) :
    regulatorD d = ((List.range 16).filter (partEnabled d)).foldl regulate d := by
  have hgo : ¬ ((!alive d) = true) := by simp [halive]
  exact if_neg hgo

theorem regulates (s : State) (halive : alive s.dev = true) :
    ∃ u, exec .regulatorPeriod s = .next u ∧ { u.dev with pmg := { u.dev.pmg with buckets := s.dev.pmg.buckets } } = s.dev ∧
      (∀ p i, p < 16 → i < 6 → tget u.dev.pmg.buckets (8 * p + i) 0 =
        if partEnabled s.dev p then min (tget s.dev.pmg.buckets (8 * p + i) 0 + (bucketRate s.dev p i : Int)) (bucketDepth s.dev p i : Int)
        else tget s.dev.pmg.buckets (8 * p + i) 0) := by
  refine ⟨_, onDev_next (f := regulatorD) (regulatorD_alive halive), ?_, fun p i hp hi => ?_⟩
  · obtain ⟨b, hb⟩ := regulate_frame ((List.range 16).filter (partEnabled s.dev)) s.dev
    dsimp only
    rw [hb]
  · refine (regulate_bucket (List.nodup_range.filter _) s.dev p hi).trans ?_
    have hmem : p ∈ (List.range 16).filter (partEnabled s.dev) ↔ partEnabled s.dev p = true := by
      rw [List.mem_filter, List.mem_range]
      exact and_iff_right hp
    simp only [hmem]

section
variable {d : Dev} {v : Word32} {p : Nat} (halive : alive d = true) (hp : p = fld v 0 4) (hopen : pfOpen d 0x0201030 = true)
  (hgo : bitOf v 4 = true) (hen : partEnabled d p = true)
include halive hp hopen hgo hen

theorem partResetD_enabled :
    partResetD v d =
      if (getPart d p).phase = .resetting then d
      else if d.boot.piBusy = true ∧ d.boot.piPart.toNat = p then setPart d p { getPart d p with resetWait := true }
      else resetPartition d p := by
  subst hp
  simp only [partResetD, hopen, halive, hgo, hen, Bool.not_true, Bool.false_or, decide_eq_true_eq, Bool.and_eq_true]

end

/-- Settles O43: a reset that waits keeps its FAULTED contexts, and one that ends is read off its last step. -/
theorem contextsAndResets : Obligations.ContextsAndResets := by
  unfold Obligations.ContextsAndResets
  refine ⟨fun s fn hopen => ?_, fun s halive => ⟨fun v p hp hopen hgo hen => ?_, fun d p hphase hnone => ?_, regulates s halive⟩⟩
  · refine ⟨fun hvf => ?_, fun w r e hpf hw hr => ?_, fun cr harg => ⟨fun hpf => ?_, fun hpf => ?_, arms hopen harg,
      fun hno => onDev_next (f := armD fn.toNat) (armD_not hopen harg hno), fun hpf => ?_⟩⟩
    · have hne : fn.toNat ≠ 0 := fun h => hvf (BitVec.eq_of_toNat_eq h)
      exact ⟨onDev_next (f := createD fn.toNat) (createD_vf hopen hne), onDev_next (f := destroyD fn.toNat) (destroyD_vf hopen hne),
        onDev_next (f := setClassD fn.toNat) (setClassD_vf hopen hne)⟩
    · subst hpf; exact creates hopen e hw hr
    · subst hpf; exact (destroys hopen harg).1
    · subst hpf; exact (destroys hopen harg).2
    · subst hpf; exact setsClass hopen harg
  · have hD := partResetD_enabled halive hp hopen hgo hen
    refine ⟨fun hphase => ?_, fun hphase hfree => ⟨fun cr hpart hst => ?_, fun hnone => ?_⟩, fun hphase hbusy hpi => ?_⟩
    · rw [if_pos hphase] at hD
      exact onDev_next (f := partResetD v) hD
    · rw [if_neg hphase, if_neg (by rcases hfree with h | h <;> simp [h]), resetPartition_waits hpart hst] at hD
      obtain ⟨hresetting, hrunning, hsaving⟩ := resetBegun_part s.dev p
      exact ⟨_, onDev_next (f := partResetD v) hD, rfl, hresetting, hrunning, hsaving, resetBegun_faults hpart hst⟩
    · rw [if_neg hphase, if_neg (by rcases hfree with h | h <;> simp [h]), resetPartition_eq] at hD
      obtain ⟨hresetting, hrunning, hsaving⟩ := resetBegun_part s.dev p
      obtain ⟨hempty, htiles0, hdepth0⟩ := resetBegun_none hnone
      obtain ⟨d2, hd2, hpart, htiles, hbuckets, -⟩ := settleReset_idle hresetting (by rw [hempty]; exact fun q hq => absurd hq List.not_mem_nil)
      refine ⟨d2, onDev_next (f := partResetD v) (hD.trans hd2), by rw [hpart]; exact hrunning, by rw [hpart], by rw [hpart]; exact hsaving,
        htiles0 ▸ htiles, fun i hi => ?_⟩
      rw [hbuckets i hi, hdepth0]
    · rw [if_neg hphase, if_pos ⟨hbusy, hpi⟩] at hD
      exact onDev_next (f := partResetD v) hD
  · obtain ⟨d2, hd2, hpart, htiles, hbuckets, hctxs⟩ := settleReset_idle hphase hnone
    exact ⟨d2, hd2, by rw [hpart], htiles, hbuckets, hctxs⟩

end Sys2Proof.Machine

/-! PROOFS. O44: doorbells, CONS writes, ring enables and moderated messages. -/

namespace Sys2Proof.Machine

open Sys2Proof

theorem writeProd_taken {x : Ring} {n : Word32} (hback : ringUsed x ≤ (n - x.cons).toNat) (hsize : (n - x.cons).toNat ≤ ringSize x) :
    writeProd x n = { x with prod := n } :=
  if_neg (by simp only [Bool.or_eq_true, decide_eq_true_eq]; omega)

theorem writeProd_refused {x : Ring} {n : Word32} (h : (n - x.cons).toNat < ringUsed x ∨ ringSize x < (n - x.cons).toNat) :
    writeProd x n = refuseIndex x :=
  if_pos (by simp only [Bool.or_eq_true, decide_eq_true_eq]; omega)

theorem writeCons_taken {x : Ring} {n : Word32} (hback : (x.prod - n).toNat ≤ ringUsed x) (hsize : (x.prod - n).toNat ≤ ringSize x) :
    writeCons x n = { x with cons := n } :=
  if_neg (by simp only [Bool.or_eq_true, decide_eq_true_eq]; omega)

theorem writeCons_refused {x : Ring} {n : Word32} (h : ringUsed x < (x.prod - n).toNat ∨ ringSize x < (x.prod - n).toNat) :
    writeCons x n = refuseIndex x :=
  if_pos (by simp only [Bool.or_eq_true, decide_eq_true_eq]; omega)

theorem doorbellD_open {d : Dev} {fn vctx : Nat} (v : Word64) (h : pageOpen d fn = true) :
    doorbellD fn vctx v d = setRing d (ringKey fn vctx 0) (writeProd (getRing d (ringKey fn vctx 0)) (v.setWidth 32)) := by
  simp [doorbellD, h]

/-- Only a completion ring holds completions back for a free entry. -/
theorem ringFreed_other (d : Dev) {r : RingId} (h : ∀ fn vctx, r ≠ .ctx fn vctx 1) : ringFreed d r = d := by
  unfold ringFreed
  split
  · next fn vctx => exact absurd rfl (h fn vctx)
  · rfl

theorem ringConsD_written {d : Dev} {r : RingId} (v : Word64) (hopen : ringIdOpen d r = true)
    (h0 : ∀ fn vctx, r ≠ .ctx fn vctx 0) (h1 : ∀ fn vctx, r ≠ .ctx fn vctx 1) :
    ringConsD r v d = setRing d (ringIdKey r) (writeCons (getRing d (ringIdKey r)) (v.setWidth 32)) := by
  unfold ringConsD
  rw [hopen, if_neg (by decide)]
  split
  · next fn vctx => exact absurd rfl (h0 fn vctx)
  · exact ringFreed_other _ h1

theorem ringEnableD_enables {d : Dev} {r : RingId} {v : Word64} (hopen : ringIdOpen d r = true)
    (hoff : ringEnabled (getRing d (ringIdKey r)) = false) (hon : bitOf v 5 = true) (h1 : ∀ fn vctx, r ≠ .ctx fn vctx 1) :
    ringEnableD r v d = setRing d (ringIdKey r)
      { getRing d (ringIdKey r) with cfg := v &&& ringCfgMask, prod := 0, cons := 0, broken := false } := by
  simp [ringEnableD, hopen, hoff, hon, ringFreed_other _ h1]

/-! ## Messages held back -/

theorem moderationD_waits {d : Dev} {r : RingId} (h : modDue d (getRing d (ringIdKey r)) = false) : moderationD r d = d := by
  simp [moderationD, h]

/-- A ring whose message is sent now. -/
def messageSent (d : Dev) (r : RingId) : Dev :=
  setRing d (ringIdKey r) { getRing d (ringIdKey r) with owed := false, sentAt := some d.now }

theorem moderationD_sends {d : Dev} {r : RingId} (hgo : d.clk.stopped = false) (howed : (getRing d (ringIdKey r)).owed = true)
    (hirq : bitOf (getRing d (ringIdKey r)).cfg 27 = true) (hdue : modDue d (getRing d (ringIdKey r)) = true) :
    moderationD r d = sendMsix (messageSent d r) (ringFn (ringIdKey r)) (fld (getRing d (ringIdKey r)).cfg 8 11) := by
  simp [moderationD, hgo, howed, hirq, hdue, messageSent]

theorem getRing_sendMsix (d : Dev) (fn v k : Nat) : getRing (sendMsix d fn v) k = getRing d k := by
  unfold sendMsix
  dsimp only
  split
  · rfl
  split <;> rfl

theorem sendMsix_out {d : Dev} {fn v : Nat} (hv : v < msixCount fn) (hen : (getFn d fn).msixEn = true)
    (hbus : (getFn d fn).master = true) (hfn : (getFn d fn).msixMask = false) (hvec : bitOf (msixCtl d fn v) 32 = false) :
    (sendMsix d fn v).hif.out.msix = d.hif.out.msix ++ [(fn, v)] := by
  simp [sendMsix, Nat.not_le.mpr hv, hen, hbus, hfn, hvec]

/-- Settles O44: each write by the equation of its index rule, the message by that of MSI-X. -/
theorem ringCommands : Obligations.RingCommands := by
  unfold Obligations.RingCommands
  intro s
  refine ⟨?_, ?_, ?_, ?_, ?_⟩
  · intro fn vctx v x n hopen hx hn
    have hexec : exec (.commandDoorbell fn vctx v) s = .next { s with dev := setRing s.dev (ringKey fn.toNat vctx.toNat 0) (writeProd x n) } := by
      subst hx hn
      exact onDev_next (f := doorbellD fn.toNat vctx.toNat v) (doorbellD_open v hopen)
    rw [hexec]
    exact ⟨fun hback hsize => by rw [writeProd_taken hback hsize], fun h => by rw [writeProd_refused h]; rfl⟩
  · intro r v x n hopen hx hn h0 h1
    have hexec : exec (.ringConsWrite r v) s = .next { s with dev := setRing s.dev (ringIdKey r) (writeCons x n) } := by
      subst hx hn
      exact onDev_next (f := ringConsD r v) (ringConsD_written v hopen h0 h1)
    rw [hexec]
    exact ⟨fun hback hsize => by rw [writeCons_taken hback hsize], fun h => by rw [writeCons_refused h]; rfl⟩
  · intro r v hopen hoff hon h1
    exact onDev_next (f := ringEnableD r v) (ringEnableD_enables hopen hoff hon h1)
  · intro r hwait
    exact onDev_next (f := moderationD r) (moderationD_waits hwait)
  · intro r x hx hgo howed hirq hdue
    subst hx
    have hring : getRing (messageSent s.dev r) (ringIdKey r) = { getRing s.dev (ringIdKey r) with owed := false, sentAt := some s.dev.now } :=
      getRing_setRing_same s.dev (ringIdKey r) _
    refine ⟨_, onDev_next (f := moderationD r) (moderationD_sends hgo howed hirq hdue), rfl, ?_, ?_, ?_⟩
    · exact congrArg Ring.owed ((getRing_sendMsix _ _ _ _).trans hring)
    · exact congrArg Ring.sentAt ((getRing_sendMsix _ _ _ _).trans hring)
    · exact fun hv hen hbus hfn hvec => sendMsix_out (d := messageSent s.dev r) hv hen hbus hfn hvec

end Sys2Proof.Machine

/-! PROOFS. O45: register writes and configuration writes. -/

namespace Sys2Proof.Machine

open Sys2Proof

/-! ## Plain registers -/

/-- An offset of PF BAR0 whose write has an effect of its own. -/
def actsOnWrite (off : Nat) : Prop :=
  off = 0x0E00010 ∨ off = 0x0E00008 ∨ off = 0x0F00010 ∨ (0x0C02000 ≤ off ∧ off < 0x0C02000 + 8 * 160) ∨
    (0x1000 ≤ off ∧ off < 0x1040) ∨ (0x3000000 ≤ off ∧ off < 0x3080000)

theorem not_actsOnWrite_of_pfMask {off : Nat} {m : Word64} (h : pfMask off = some m) : ¬ actsOnWrite off := by
  intro hacts
  have hnone : pfMask off = none := by
    unfold actsOnWrite at hacts
    unfold pfMask
    simp only [Bool.or_eq_true, decide_eq_true_eq]
    repeat rw [if_neg (by omega)]
  exact absurd (hnone.symm.trans h) (by simp)

theorem pfWrite_plain {d : Dev} {off : Nat} {m : Word64} (v : Word64) (hopen : pfOpen d off = true) (htimers : off ≠ 0x0800008)
    (hm : pfMask off = some m) : pfWrite d off v = setReg d off (v &&& m) := by
  have hplain := not_actsOnWrite_of_pfMask hm
  unfold actsOnWrite at hplain
  unfold pfWrite
  rw [hopen, if_neg (by decide)]
  repeat rw [if_neg (by omega)]
  rw [hm]

theorem pfWrite_timers {d : Dev} (v : Word64) (hopen : pfOpen d 0x0800008 = true) :
    pfWrite d 0x0800008 v = setReg d 0x0800008 (timersOf v) := by
  simp [pfWrite, hopen]

theorem vfMask_low {off : Nat} {m : Word64} (h : vfMask off = some m) : off < 0x3008 := by
  by_contra hfar
  have hnone : vfMask off = none := by
    unfold vfMask
    repeat rw [if_neg (by omega)]
  exact absurd (hnone.symm.trans h) (by simp)

theorem vfWrite_plain {d : Dev} {fn off : Nat} {m : Word64} (v : Word64) (hfn : fn ≠ 0) (hopen : vfOpen d fn = true)
    (hm : vfMask off = some m) :
    vfWrite d fn off v = { d with vfRegs := tset d.vfRegs (fn * 0x100000 + off) (v &&& m) } := by
  have hlow := vfMask_low hm
  unfold vfWrite
  rw [hopen, if_neg (by decide), if_neg (by omega), if_neg (by omega), hm]
  exact if_neg hfn

/-! ## Accesses -/

theorem accessOk_full {off : Nat} (h : off % 8 = 0) : accessOk off .w64 0xFF = true := by
  simp [accessOk, h]

theorem registerWriteD_partial {fn off : Nat} {w : AccWidth} {be : BitVec 8} (v : Word64) (d : Dev) (h : accessOk off w be = false) :
    registerWriteD fn off w v be d = d := by
  simp [registerWriteD, h]

theorem registerWriteD_narrow {fn off : Nat} (v : Word64) (be : BitVec 8) (d : Dev) (h : msixOff fn off = none) :
    registerWriteD fn off .w32 v be d = d := by
  unfold registerWriteD
  split
  · rfl
  · rw [h]

theorem registerWriteD_pf {off : Nat} (v : Word64) (d : Dev) (halign : off % 8 = 0) (hmsix : ¬ (0x8000 ≤ off ∧ off < 0x10000)) :
    registerWriteD 0 off .w64 v 0xFF d = pfWrite d off v := by
  have hno : msixOff 0 off = none := if_neg hmsix
  unfold registerWriteD
  rw [accessOk_full halign, if_neg (by decide), hno]
  rfl

theorem registerWriteD_vf {fn off : Nat} (v : Word64) (d : Dev) (hfn : fn ≠ 0) (halign : off % 8 = 0) (hlow : off < 0x4000) :
    registerWriteD fn off .w64 v 0xFF d = vfWrite d fn off v := by
  have hno : msixOff fn off = none := by
    rw [msixOff, if_neg hfn]
    exact if_neg (by omega)
  unfold registerWriteD
  rw [accessOk_full halign, if_neg (by decide), hno]
  exact (if_neg hfn).trans (if_pos (by omega))

/-! ## Configuration space -/

/-- What a configuration write of a field does once it is taken. -/
theorem configD_present {d : Dev} {fn : Nat} (hgo : d.clk.stopped = false) (hboot : d.boot.stage ≠ 0)
    (hthere : fnPresent d fn = true) :
    (∀ on, configD fn (.busMaster on) d = setFn d fn { getFn d fn with bme := on }) ∧
    (∀ on, configD fn (.memorySpace on) d = setFn d fn { getFn d fn with mse := on }) ∧
    (∀ on, configD fn (.msixEnable on) d = setFn d fn { getFn d fn with msixEn := on }) ∧
    (∀ on, configD fn (.powerState on) d = setFn d fn { getFn d fn with d3hot := on }) ∧
    (fn = 0 → configD fn (.vfEnable true) d = { d with hif := { d.hif with vfEnable := true } }) ∧
    (fn ≠ 0 → ∀ on, configD fn (.vfEnable on) d = d) := by
  have hrun : ¬ (d.clk.stopped || decide (d.boot.stage = 0) || !fnPresent d fn) = true := by
    rw [hgo, hthere, decide_eq_false hboot]
    decide
  refine ⟨fun on => if_neg hrun, fun on => if_neg hrun, fun on => if_neg hrun, fun on => if_neg hrun, fun hpf => ?_, fun hvf on => ?_⟩
  · exact (if_neg hrun).trans (if_neg (fun h => h hpf))
  · exact (if_neg hrun).trans (if_pos hvf)

/-- Settles O45: a write reaches its register by its offset, a configuration write its field by its name. -/
theorem registerWrites : Obligations.RegisterWrites := by
  unfold Obligations.RegisterWrites
  intro s
  refine ⟨?_, ?_, ?_, ?_, ?_, ?_⟩
  · intro off v m hopen halign hmsix htimers hm
    exact onDev_next (f := registerWriteD 0 off.toNat .w64 v 0xFF)
      ((registerWriteD_pf v s.dev halign hmsix).trans (pfWrite_plain v hopen htimers hm))
  · intro v hopen
    exact onDev_next (f := registerWriteD 0 0x0800008 .w64 v 0xFF)
      ((registerWriteD_pf v s.dev (by decide) (by decide)).trans (pfWrite_timers v hopen))
  · intro fn off v m hfn hopen halign hm
    have hvf : fn.toNat ≠ 0 := fun h => hfn (BitVec.eq_of_toNat_eq h)
    have hlow : off.toNat < 0x4000 := (vfMask_low hm).trans (by decide)
    exact onDev_next (f := registerWriteD fn.toNat off.toNat .w64 v 0xFF)
      ((registerWriteD_vf v s.dev hvf halign hlow).trans (vfWrite_plain v hvf hopen hm))
  · intro fn off w v be h
    exact onDev_next (f := registerWriteD fn.toNat off.toNat w v be) (registerWriteD_partial v s.dev h)
  · intro fn off v be h
    exact onDev_next (f := registerWriteD fn.toNat off.toNat .w32 v be) (registerWriteD_narrow v be s.dev h)
  · intro fn hgo hboot hthere
    obtain ⟨hbme, hmse, hmsix, hpower, hon, hvf⟩ := configD_present hgo hboot hthere
    refine ⟨fun on => ?_, fun on => ?_, fun on => ?_, fun on => ?_, fun hpf => ?_, fun hne on => ?_⟩
    · exact onDev_next (f := configD fn.toNat (.busMaster on)) (hbme on)
    · exact onDev_next (f := configD fn.toNat (.memorySpace on)) (hmse on)
    · exact onDev_next (f := configD fn.toNat (.msixEnable on)) (hmsix on)
    · exact onDev_next (f := configD fn.toNat (.powerState on)) (hpower on)
    · exact onDev_next (f := configD fn.toNat (.vfEnable true)) (hon (congrArg BitVec.toNat hpf))
    · exact onDev_next (f := configD fn.toNat (.vfEnable on)) (hvf (fun h => hne (BitVec.eq_of_toNat_eq h)) on)

end Sys2Proof.Machine

/-! PROOFS. O46: a VF's reset can bring a context back whose record stands twice in the table. -/

namespace Sys2Proof.Machine

open Sys2Proof

/-! ## What the settling of Cox leaves -/

theorem giveHot_boot (d : Dev) (k : Nat) : (giveHot d k).boot = d.boot := by
  induction k generalizing d with
  | zero => rfl
  | succ j ih =>
    rw [giveHot]
    split
    · rfl
    · exact ih _

theorem swapIn_boot (d : Dev) (p : Nat) : (swapIn d p).boot = d.boot := by
  unfold swapIn
  dsimp only
  split
  · rfl
  split
  · rfl
  split
  · rfl
  split <;> rfl

theorem coxSettle_boot (d : Dev) : (coxSettle d).boot = d.boot := by
  have hhot : (noteRunnable (rehot d)).boot = d.boot := giveHot_boot _ _
  unfold coxSettle swapSettle
  split
  · exact foldl_keeps (P := fun e => e.boot = d.boot) (fun e p he => (swapIn_boot e p).trans he) _ hhot
  · exact hhot

/-- The record of a context with what the settling notes of it: whether it is runnable, and since when. -/
def notedCtx (d : Dev) (cr : Nat) (c : Ctx) : Ctx :=
  if c.st = .free || c.runnable = ctxRunnable d cr then c
  else if ctxRunnable d cr then { c with runnable := true, runnableAt := d.now } else { c with runnable := false, blockedAt := d.now }

theorem getCtx_noteRunnable (d : Dev) (c : Nat) : getCtx (noteRunnable d) c = notedCtx d c (getCtx d c) :=
  tget_tmap d.pmg.ctxs (notedCtx d) c Ctx.init rfl

theorem notedCtx_seat (d : Dev) (cr : Nat) (c : Ctx) : (notedCtx d cr c).st = c.st ∧ (notedCtx d cr c).fn = c.fn := by
  unfold notedCtx
  split
  · exact ⟨rfl, rfl⟩
  split <;> exact ⟨rfl, rfl⟩

/-- A quiesced device swaps no context in. -/
theorem coxSettle_quiesced {d : Dev} (hq : d.boot.quiesce = true) (c : Nat) :
    (getCtx (coxSettle d) c).st = (getCtx d c).st ∧ (getCtx (coxSettle d) c).fn = (getCtx d c).fn := by
  have hboot : (noteRunnable (rehot d)).boot = d.boot := giveHot_boot _ _
  have hstay : coxSettle d = noteRunnable (rehot d) := if_neg (by rw [hboot, hq]; simp)
  have hrehot : getCtx (rehot d) c = getCtx d c := by rw [getCtx, rehot_pmg]; rfl
  rw [hstay, getCtx_noteRunnable, hrehot]
  exact notedCtx_seat _ c _

/-! ## The counterexample -/

/-- A quiesced device that resets partition 0 and tears down context 3 of VF 1. The table holds record 5 twice: a free context that was
VF 1's, and behind it a faulted one of the partition. -/
def twiceHeld : Dev :=
  { Dev.init with
    hif := { HostIf.init with vfEnable := true, numVFs := 1 }
    boot := { Boot.init with quiesce := true }
    pmg := { Dev.init.pmg with
      ctxs := [(3, { Ctx.init with st := .faulted, fn := 1, tearing := true }), (5, { Ctx.init with fn := 1 }),
        (5, { Ctx.init with st := .faulted })]
      parts := [(0, { Part.init with phase := .resetting })] } }

/-- The partition's reset ends with the teardown of context 3, and readies record 5 for the faulted entry behind the free one. -/
theorem vfFlrD_twiceHeld : (getCtx (vfFlrD 1 twiceHeld) 5).st = .swappedOut ∧ (getCtx (vfFlrD 1 twiceHeld) 5).fn = 1 ∧
    (vfFlrD 1 twiceHeld).boot.quiesce = true := by
  decide +kernel

theorem vfFlr_settled {s : State} {fn : Func} {n : Nat} {d d2 : Dev} (hd : s.dev = d) (hn : fn.toNat = n)
    (h : exec (.vfFlr fn) s = .next (s.settled d2)) : coxSettle d2 = vfFlrD n d := by
  have hexec : exec (.vfFlr fn) s = .next { s with dev := vfFlrD n d } := by
    subst hd hn
    rfl
  rw [hexec] at h
  injection h with hstates
  exact (congrArg State.dev hstates).symm

/-- Refutes O46: over every state the table of contexts may hold a record twice, and then the reset of the VF, which ends its
partition's reset, makes a context of the VF that was free SWAPPED_OUT. The state is not one that the device reaches. -/
theorem not_deviceResets : ¬ Obligations.DeviceResets := by
  unfold Obligations.DeviceResets
  intro h
  obtain ⟨hvf, -⟩ := h ⟨[], twiceHeld⟩
  obtain ⟨d2, hexec, -, -, -, hgone⟩ := hvf 1 (by decide) (by decide) rfl
  have hsettled : coxSettle d2 = vfFlrD 1 twiceHeld := vfFlr_settled rfl rfl hexec
  obtain ⟨hst, hfn, hq⟩ := vfFlrD_twiceHeld
  rw [← hsettled] at hst hfn hq
  obtain ⟨hst2, hfn2⟩ := coxSettle_quiesced (by rw [← coxSettle_boot]; exact hq) 5
  exact hgone 5 (by rw [← hst2, hst]; decide) (by rw [← hfn2, hfn])

end Sys2Proof.Machine

/-! PROOFS. O47: the power sequence. -/

namespace Sys2Proof.Machine

open Sys2Proof

theorem railsRise_eq (d : Dev) :
    railsRise d = { d with clk := { d.clk with railsUp := d.clk.railsUp || (d.clk.pwrEn && d.clk.charged) } } := by
  unfold railsRise
  cases hup : d.clk.pwrEn && d.clk.charged with
  | true => rw [if_pos rfl, Bool.or_true]
  | false => rw [if_neg (by decide), Bool.or_false]

theorem pwrGoodD_begins {d : Dev} (hrails : d.clk.railsUp = true) (hgood : d.clk.pwrGood = false) :
    pwrGoodD d = { d with clk := { d.clk with pwrGood := true }, boot := { d.boot with cause := 1 } } :=
  if_pos (by rw [hrails, hgood]; decide)

theorem pwrGoodD_stays {d : Dev} (h : d.clk.railsUp = false ∨ d.clk.pwrGood = true) : pwrGoodD d = d :=
  if_neg (by
    rw [Bool.and_eq_true, Bool.not_eq_true']
    rintro ⟨hrails, hgood⟩
    rcases h with h | h
    · exact absurd (h.symm.trans hrails) (by decide)
    · exact absurd (h.symm.trans hgood) (by decide))

/-- Settles O47: the rails by their equation, each other event by its condition. -/
theorem powerSequence : Obligations.PowerSequence := by
  unfold Obligations.PowerSequence
  intro s
  refine ⟨?_, ?_, fun hrails hgood => ?_, fun h => ?_, fun cause => ?_, fun hrails => ?_, fun hgood hrst => ?_, fun level => ?_, fun hon => ?_⟩
  · have hrise := railsRise_eq { s.dev with clk := { s.dev.clk with pwrEn := true } }
    rw [Bool.true_and] at hrise
    exact onDev_next (f := fun d => railsRise { d with clk := { d.clk with pwrEn := true } }) hrise
  · have hrise := railsRise_eq { s.dev with clk := { s.dev.clk with charged := true } }
    rw [Bool.and_true] at hrise
    exact onDev_next (f := fun d => railsRise { d with clk := { d.clk with charged := true } }) hrise
  · exact onDev_next (f := pwrGoodD) (pwrGoodD_begins hrails hgood)
  · exact onDev_next (f := pwrGoodD) (pwrGoodD_stays h)
  · exact ⟨_, rfl, rfl, rfl, rfl, rfl, rfl, rfl, rfl, rfl, rfl, rfl, rfl⟩
  · exact onDev_next (f := fun d => if d.clk.railsUp then { d with clk := { d.clk with tripped := true, stopped := true } } else d)
      (if_pos hrails)
  · exact onDev_next (f := fun d => if d.clk.pwrGood && d.clk.resetN then
      { d with clk := { d.clk with sysRef := false, stopped := true } } else d) (if_pos (by rw [hgood, hrst]; rfl))
  · rfl
  · exact onDev_next (f := fun d => if powered d then { d with clk := { d.clk with capForce := d.clk.capPins } } else d) (if_pos hon)

end Sys2Proof.Machine

/-! PROOFS. O48: power samples and the control loop. -/

namespace Sys2Proof.Machine

open Sys2Proof

theorem powerSampleD_takes {d : Dev} (hon : powered d = true) (w : Nat) :
    powerSampleD w d = setDelay { d with clk := { d.clk with
      samples := (d.clk.samples ++ [w]).drop ((d.clk.samples.length + 1) - 10)
      aboveFor := if averageOver ((d.clk.samples ++ [w]).drop ((d.clk.samples.length + 1) - 10)) (capWatts d.clk.capForce)
        then d.clk.aboveFor + 1 else 0
      belowFor := if averageOver ((d.clk.samples ++ [w]).drop ((d.clk.samples.length + 1) - 10)) (capWatts d.clk.capForce - 30)
        then 0 else d.clk.belowFor + 1 } } :=
  if_neg (by rw [hon]; decide)

theorem lastTen_length {α : Type} (l : List α) (a : α) : ((l ++ [a]).drop ((l.length + 1) - 10)).length ≤ 10 := by
  rw [List.length_drop, List.length_append, List.length_singleton]
  omega

/-! ## The reach that steps -/

/-- The faster of two reaches, the first one at a tie. -/
def fasterReach (d : Dev) (b : Option Nat) (r : Nat) : Option Nat :=
  match b with
  | none => some r
  | some q => if reachStep d r < reachStep d q then some r else some q

theorem foldl_fasterReach {d : Dev} {l : List Nat} {b r : Nat} (h : l.foldl (fasterReach d) (some b) = some r) :
    reachStep d r ≤ reachStep d b ∧ ∀ q, q ∈ l → reachStep d r ≤ reachStep d q := by
  induction l generalizing b with
  | nil =>
    cases h
    exact ⟨Nat.le_refl _, fun q hq => absurd hq List.not_mem_nil⟩
  | cons x xs ih =>
    rw [List.foldl_cons] at h
    by_cases hlt : reachStep d x < reachStep d b
    · obtain ⟨hx, hxs⟩ := ih (h := by simpa only [fasterReach, if_pos hlt] using h)
      exact ⟨hx.trans (Nat.le_of_lt hlt), List.forall_mem_cons.mpr ⟨hx, hxs⟩⟩
    · obtain ⟨hb, hxs⟩ := ih (h := by simpa only [fasterReach, if_neg hlt] using h)
      exact ⟨hb, List.forall_mem_cons.mpr ⟨hb.trans (Nat.le_of_not_lt hlt), hxs⟩⟩

theorem downReach_fastest {d : Dev} {r : Nat} (h : downReach d = some r) :
    reachStep d r < 16 ∧ ∀ q, q < 4 → reachStep d r ≤ reachStep d q := by
  obtain ⟨hfold, hlow⟩ := Option.filter_eq_some_iff.mp h
  obtain ⟨h0, hrest⟩ := foldl_fasterReach (d := d) (l := [1, 2, 3]) (b := 0) hfold
  refine ⟨of_decide_eq_true hlow, fun q hq => ?_⟩
  by_cases hq0 : q = 0
  · rw [hq0]
    exact h0
  · exact hrest q (by simp only [List.mem_cons, List.not_mem_nil, or_false]; omega)

theorem reachStep_setReach_same (d : Dev) (r : Nat) {n : Nat} (hn : n < 32) : reachStep (setReach d r n) r = n := by
  have hget : tget (setReach d r n).clk.steps r 16 = BitVec.ofNat 5 n := tget_tset_same _ _ _ _
  rw [reachStep, hget, BitVec.toNat_ofNat, Nat.mod_eq_of_lt hn]

theorem reachStep_setReach_ne (d : Dev) {r q n : Nat} (h : q ≠ r) : reachStep (setReach d r n) q = reachStep d q := by
  have hget : tget (setReach d r n).clk.steps q 16 = tget d.clk.steps q 16 := (tget_tset _ _ _ _ _).trans (if_neg h)
  rw [reachStep, hget]
  rfl

/-! ## The loop -/

theorem powerLoopD_powered {d : Dev} (hon : powered d = true) (hsamples : d.clk.samples ≠ []) :
    (averageOver d.clk.samples (capWatts d.clk.capForce) = true → ∀ r, downReach d = some r →
      powerLoopD d = setDelay (setReach d r (reachStep d r + 1))) ∧
    (averageOver d.clk.samples (capWatts d.clk.capForce) = false → 200 ≤ d.clk.belowFor → ∀ r, upReach d = some r →
      tfind d.clk.raising r = none →
      powerLoopD d = { d with clk := { d.clk with raising := tset d.clk.raising r (BitVec.ofNat 5 (reachStep d r - 1)) } }) ∧
    (averageOver d.clk.samples (capWatts d.clk.capForce) = false → d.clk.belowFor < 200 → powerLoopD d = d) := by
  have hrun : ¬ (!powered d || d.clk.samples.isEmpty) = true := by simp [hon, hsamples]
  refine ⟨fun hover r hr => ?_, fun hunder hlong r hr hraise => ?_, fun hunder hshort => ?_⟩
  · refine (if_neg hrun).trans ((if_pos hover).trans ?_)
    rw [hr]
  · refine (if_neg hrun).trans ((if_neg (by rw [hunder]; decide)).trans ((if_pos hlong).trans ?_))
    rw [hr]
    exact if_neg (by rw [hraise]; decide)
  · exact (if_neg hrun).trans ((if_neg (by rw [hunder]; decide)).trans (if_neg (Nat.not_le.mpr hshort)))

theorem rampDoneD_takes {d : Dev} {r : Nat} {n : BitVec 5} (hon : powered d = true) (h : tfind d.clk.raising r = some n) :
    rampDoneD r d = setReach d r n.toNat := by
  rw [rampDoneD, h]
  exact if_pos hon

theorem rampDoneD_none {d : Dev} {r : Nat} (h : tfind d.clk.raising r = none) : rampDoneD r d = d := by
  rw [rampDoneD, h]

/-- Settles O48: the samples by their equation, a step by `setReach`, which moves no reach but its own. -/
theorem powerLoop : Obligations.PowerLoop := by
  unfold Obligations.PowerLoop
  intro s hon
  refine ⟨fun w => ?_, fun hsamples => ?_, fun r n hraise => ?_, fun r hnone => ?_⟩
  · exact ⟨_, onDev_next (f := powerSampleD w) (powerSampleD_takes hon w), rfl, rfl, lastTen_length _ w, rfl, rfl, fun _ => rfl⟩
  · obtain ⟨hdown, hup, hwait⟩ := powerLoopD_powered hon hsamples
    refine ⟨fun r hover hr => ?_, fun r hunder hlong hr hraise => ?_, fun hunder hshort => ?_⟩
    · obtain ⟨hlow, hfastest⟩ := downReach_fastest hr
      refine ⟨_, onDev_next (f := powerLoopD) (hdown hover r hr), rfl, ?_, hfastest, fun q hq => ?_⟩
      · exact reachStep_setReach_same s.dev r (by omega)
      · exact reachStep_setReach_ne s.dev hq
    · exact onDev_next (f := powerLoopD) (hup hunder hlong r hr hraise)
    · exact onDev_next (f := powerLoopD) (hwait hunder hshort)
  · refine ⟨_, onDev_next (f := rampDoneD r.toNat) (rampDoneD_takes hon hraise), rfl, ?_, ?_, fun q hq => ?_⟩
    · exact reachStep_setReach_same s.dev r.toNat n.isLt
    · exact (tfind_tdel s.dev.clk.raising r.toNat r.toNat).trans (if_pos rfl)
    · exact reachStep_setReach_ne s.dev hq
  · exact onDev_next (f := rampDoneD r.toNat) (rampDoneD_none hnone)

end Sys2Proof.Machine

/-! PROOFS. O49: the bring-up of the logical ports, the port reference and the MACsec registers. -/

namespace Sys2Proof.Machine

open Sys2Proof

/-! ## What a record leaves -/

/-- A device that differs from another at most in its memories, the regulators' buckets and the host interface. -/
def sameButRecords (d d' : Dev) : Prop :=
  ∃ h p ts b i, d' = { d with host := h, pier := p, tiles := ts, pmg := { d.pmg with buckets := b }, hif := i }

theorem sameButRecords.refl (d : Dev) : sameButRecords d d := ⟨_, _, _, _, _, rfl⟩

theorem sameButRecords.trans {a b c : Dev} (hab : sameButRecords a b) (hbc : sameButRecords b c) : sameButRecords a c := by
  obtain ⟨_, _, _, _, _, rfl⟩ := hab
  obtain ⟨_, _, _, _, _, rfl⟩ := hbc
  exact ⟨_, _, _, _, _, rfl⟩

theorem sameButMemory.toRecords {d d' : Dev} (h : sameButMemory d d') : sameButRecords d d' := by
  obtain ⟨_, _, _, _, rfl⟩ := h
  exact ⟨_, _, _, _, _, rfl⟩

theorem setRing_records (d : Dev) (k : Nat) (x : Ring) : sameButRecords d (setRing d k x) := ⟨_, _, _, _, _, rfl⟩

theorem sendMsix_records (d : Dev) (fn v : Nat) : sameButRecords d (sendMsix d fn v) := by
  unfold sendMsix
  dsimp only
  split
  · exact .refl d
  split <;> exact ⟨_, _, _, _, _, rfl⟩

theorem ringNotify_records (d : Dev) (k : Nat) : sameButRecords d (ringNotify d k) := by
  unfold ringNotify
  dsimp only
  split
  · exact .refl d
  split
  · exact (setRing_records d k _).trans (sendMsix_records _ _ _)
  · exact setRing_records d k _

theorem ringPut_records {d r : Dev} {k cr a : Nat} {bs : List Byte} (h : ringPut d k cr a bs = .ok r) : sameButRecords d r := by
  unfold ringPut at h
  split at h
  · split at h
    · next d' hput =>
      cases h
      unfold hostPut at hput
      split at hput <;> cases hput
      exact ⟨_, _, _, _, _, rfl⟩
    · cases h
  · exact (writeVa_sameButMemory h).toRecords

theorem ringPush_records (d : Dev) (k cr size : Nat) (es : List (List Byte)) : sameButRecords d (ringPush d k cr size es).1 := by
  unfold ringPush
  extract_lets x put prod
  have hput : ∀ r, put = .ok r → sameButRecords d r := by
    refine foldl_keeps (P := fun acc : Except Bad Dev => ∀ r, acc = .ok r → sameButRecords d r) ?_ _ (fun r hr => by cases hr; exact .refl d)
    intro acc p hacc r hr
    cases acc with
    | error e => cases hr
    | ok d' => exact (hacc d' rfl).trans (ringPut_records hr)
  clear_value put prod
  cases put with
  | error e => exact .refl d
  | ok d1 =>
  have hprod := (hput d1 rfl).trans (setRing_records d1 k { getRing d1 k with prod := prod })
  dsimp only
  split
  · exact hprod.trans (ringNotify_records _ k)
  split
  · split
    · exact .refl d
    · exact hprod.trans (ringNotify_records _ k)
  · next d3 hd3 => exact (hprod.trans (ringPut_records hd3)).trans (ringNotify_records d3 k)

theorem putRecord_records (d : Dev) (k cr : Nat) (mk : Nat → List Byte) : sameButRecords d (putRecord d k cr mk).1 := by
  unfold putRecord
  extract_lets x d1
  have hcount : sameButRecords d d1 := setRing_records d k _
  have hpush := hcount.trans (ringPush_records d1 k cr 64 [mk (x.count + 1).toNat])
  split
  · exact .refl d
  split
  · exact hcount
  split
  · exact hcount.trans (setRing_records _ _ _)
  split
  · next d2 heq => rw [heq] at hpush; exact hpush
  · next d2 e heq => rw [heq] at hpush; exact hpush.trans (setRing_records _ _ _)

theorem devRecord_records (d : Dev) (code kind part : Nat) (i : Info) : sameButRecords d (devRecord d code kind part i) :=
  putRecord_records _ _ _ _

theorem sameButRecords.port {d d' : Dev} (h : sameButRecords d d') (l : Nat) : getPort d' l = getPort d l := by
  obtain ⟨_, _, _, _, _, rfl⟩ := h
  rfl

/-! ## A port changes state -/

/-- A logical port that has gone to a state. -/
def portAt (p : LPort) (st : PortState) : LPort :=
  { p with st := st, lost := p.lost || (p.st = .up && st ≠ .up), tried := p.tried || st = .failed }

theorem portGo_records (d : Dev) (l : Nat) (st : PortState) : sameButRecords (setPort d l (portAt (getPort d l) st)) (portGo d l st) := by
  unfold portGo
  dsimp only
  split
  · exact devRecord_records _ _ _ _ _
  split
  · exact devRecord_records _ _ _ _ _
  · exact .refl _

theorem getPort_portGo_same (d : Dev) (l : Nat) (st : PortState) : getPort (portGo d l st) l = portAt (getPort d l) st :=
  ((portGo_records d l st).port l).trans (tget_tset_same _ _ _ _)

theorem getPort_portGo_ne (d : Dev) {l k : Nat} (st : PortState) (h : k ≠ l) : getPort (portGo d l st) k = getPort d k :=
  ((portGo_records d l st).port k).trans ((tget_tset _ _ _ _ _).trans (if_neg h))

theorem portGo_setup (d : Dev) (l : Nat) (st : PortState) : (portGo d l st).regs = d.regs ∧ (portGo d l st).clk = d.clk := by
  obtain ⟨_, _, _, _, _, h⟩ := portGo_records d l st
  rw [h]
  exact ⟨rfl, rfl⟩

/-- What an event does to the port in the state that it belongs to, and in another. -/
theorem portEvent_takes {d : Dev} {l : Nat} {st : PortState} (st2 : Dev → PortState) (hon : alive d = true) (h : (getPort d l).st = st) :
    portEvent l st st2 d = portGo d l (st2 d) :=
  if_pos (by rw [hon, h]; simp)

theorem portEvent_stays {d : Dev} {l : Nat} {st : PortState} (st2 : Dev → PortState) (h : (getPort d l).st ≠ st) :
    portEvent l st st2 d = d :=
  if_neg (by rw [Bool.and_eq_true, decide_eq_true_eq]; exact fun hst => h hst.2)

theorem portTimeoutD_takes {d : Dev} {l : Nat} {st : PortState} (hon : alive d = true) (h : (getPort d l).st = st)
    (hrun : st = .an ∨ st = .training ∨ st = .aligning) : portTimeoutD l d = portGo d l .failed := by
  unfold portTimeoutD
  rw [h]
  rcases hrun with rfl | rfl | rfl <;> exact portEvent_takes _ hon h

/-! ## The port reference -/

theorem mem_allPorts {d : Dev} {l : Nat} (h : lportExists d l = true) : l ∈ allPorts d := by
  have hlt : l < 160 := by
    rw [lportExists, Bool.and_eq_true] at h
    exact of_decide_eq_true h.1
  exact List.mem_filter.mpr ⟨List.mem_range.mpr hlt, h⟩

theorem portsDisable_clk (d : Dev) : (portsDisable d).clk = d.clk := by
  unfold portsDisable
  refine foldl_keeps (P := fun e : Dev => e.clk = d.clk) (fun e x he => ?_) _ rfl
  split
  · exact he
  · exact (portGo_setup e x _).2.trans he

theorem portsStart_clk (d : Dev) : (portsStart d).clk = d.clk := by
  unfold portsStart
  refine foldl_keeps (P := fun e : Dev => e.clk = d.clk) (fun e x he => ?_) _ rfl
  split
  · exact (portGo_setup e x _).2.trans he
  · exact he

theorem portsDisable_disabled {d : Dev} {l : Nat} (h : lportExists d l = true) : (getPort (portsDisable d) l).st = .disabled := by
  unfold portsDisable
  refine foldl_reaches (Q := fun e => (getPort e l).st = .disabled) (a := l) (fun e => ?_) (fun e x he => ?_) (.inl (mem_allPorts h))
  · split
    · next hoff => exact hoff
    · rw [getPort_portGo_same]
      rfl
  · split
    · exact he
    · by_cases hx : l = x
      · subst hx
        rw [getPort_portGo_same]
        rfl
      · rw [getPort_portGo_ne _ _ hx]
        exact he

theorem foldl_invariant {α β : Type} {f : β → α → β} {J Q : β → Prop} {a : α} (hJ : ∀ b x, J b → J (f b x)) (hset : ∀ b, J b → Q (f b a))
    (hkeep : ∀ b x, Q b → Q (f b x)) {l : List α} {b : β} (ha : a ∈ l) (hb : J b) : Q (l.foldl f b) := by
  induction l generalizing b with
  | nil => exact absurd ha List.not_mem_nil
  | cons x r ih =>
    rcases List.mem_cons.mp ha with rfl | hr
    · exact foldl_keeps hkeep r (hset b hb)
    · exact ih hr (hJ b x hb)

/-- Every enabled logical port in DISABLED starts, or stays as it is. -/
def startPort (e : Dev) (x : Nat) : Dev :=
  if (getPort e x).st = .disabled && portWanted e x then portGo e x (portStart e x) else e

/-- While the ports start: the registers and clocks are as at first, and port `l` waits or has started. -/
structure StartsPort (d : Dev) (l : Nat) (e : Dev) : Prop where
  regs : e.regs = d.regs
  clk : e.clk = d.clk
  st : (getPort e l).st = .disabled ∨ (getPort e l).st = portStart d l

theorem portStart_regs {d e : Dev} (h : e.regs = d.regs) (l : Nat) : portStart e l = portStart d l := by
  rw [portStart, portCfg, reg, h]
  rfl

theorem portWanted_regs {d e : Dev} (h : e.regs = d.regs) (hclk : e.clk = d.clk) (l : Nat) : portWanted e l = portWanted d l := by
  rw [portWanted, lportExists, subPorts, portCfg, reg, h, hclk]
  rfl

theorem portStart_on (d : Dev) (l : Nat) : portStart d l ≠ .disabled := by
  unfold portStart
  split <;> decide

theorem startPort_keeps {d e : Dev} {l : Nat} (x : Nat) (h : StartsPort d l e) : StartsPort d l (startPort e x) := by
  unfold startPort
  split
  · obtain ⟨hregs, hclk⟩ := portGo_setup e x (portStart e x)
    refine ⟨hregs.trans h.regs, hclk.trans h.clk, ?_⟩
    by_cases hx : l = x
    · subst hx
      rw [getPort_portGo_same]
      exact .inr (portStart_regs h.regs l)
    · rw [getPort_portGo_ne _ _ hx]
      exact h.st
  · exact h

theorem startPort_starts {d e : Dev} {l : Nat} (hwant : portWanted d l = true) (h : StartsPort d l e) :
    (getPort (startPort e l) l).st = portStart d l := by
  have hon : portWanted e l = true := (portWanted_regs h.regs h.clk l).trans hwant
  unfold startPort
  rcases h.st with hst | hst
  · rw [if_pos (by rw [hst, hon]; rfl), getPort_portGo_same]
    exact portStart_regs h.regs l
  · rw [if_neg (by rw [hst, decide_eq_false (portStart_on d l)]; exact Bool.false_ne_true)]
    exact hst

theorem startPort_stays {d e : Dev} {l : Nat} (x : Nat) (h : (getPort e l).st = portStart d l) :
    (getPort (startPort e x) l).st = portStart d l := by
  unfold startPort
  split
  · next hoff =>
    have hne : l ≠ x := by
      rintro rfl
      rw [Bool.and_eq_true, decide_eq_true_eq] at hoff
      exact portStart_on d l (h.symm.trans hoff.1)
    rw [getPort_portGo_ne _ _ hne]
    exact h
  · exact h

theorem portsStart_starts {d : Dev} {l : Nat} (hwant : portWanted d l = true) (hexists : lportExists d l = true)
    (hst : (getPort d l).st = .disabled) : (getPort (portsStart d) l).st = portStart d l :=
  foldl_invariant (f := startPort) (J := StartsPort d l) (Q := fun e => (getPort e l).st = portStart d l) (fun _ x h => startPort_keeps x h)
    (fun _ h => startPort_starts hwant h) (fun _ x h => startPort_stays x h) (mem_allPorts hexists) ⟨rfl, rfl, .inl hst⟩

theorem portRefReturnD_starts {d : Dev} (hon : alive d = true) (hstage : 7 ≤ d.boot.stage.toNat) :
    portRefReturnD d = portsStart { d with clk := { d.clk with portRef := true } } :=
  if_pos (by rw [hon, decide_eq_true (show (7 : BitVec 4) ≤ d.boot.stage from hstage)]; rfl)

/-! ## MACsec registers -/

theorem msecCtrlD_open {d : Dev} (hopen : pfOpen d 0x0C10000 = true) (l : Nat) (v : Word64) :
    msecCtrlD l v d = setPort d l { getPort d l with ctrl := v &&& 0x7FFFFFFFFFFFF } := if_pos hopen

/-- A logical port with an SA slot written. -/
def saWritten (d : Dev) (l k r : Nat) (v : Word64) : Dev :=
  setPort d l { getPort d l with sa := tset (getPort d l).sa k (saWrite (getSa (getPort d l) k) r v) }

theorem saSlotD_open {d : Dev} (hopen : pfOpen d 0x0C10000 = true) (l k r : Nat) (v : Word64) : saSlotD l k r v d = saWritten d l k r v :=
  if_pos hopen

theorem getSa_saWritten (d : Dev) (l k r : Nat) (v : Word64) (j : Nat) :
    getSa (getPort (saWritten d l k r v) l) j = if j = k then saWrite (getSa (getPort d l) k) r v else getSa (getPort d l) j := by
  have hport : getPort (saWritten d l k r v) l = _ := tget_tset_same d.ports l _ _
  rw [hport, getSa, tget_tset]
  rfl

theorem saWrite_valid {a : SaSlot} {r : Nat} (hvalid : a.valid = true) (hr : r < 6) (v : Word64) : saWrite a r v = a :=
  if_pos (by rw [hvalid, decide_eq_true hr]; rfl)

theorem saWrite_key0 {a : SaSlot} (hvalid : a.valid = false) (v : Word64) : (saWrite a 0 v).key0 = v := by
  simp [saWrite, hvalid]

theorem saWrite_nextPn (a : SaSlot) (v : Word64) : (saWrite a 6 v).nextPn = v := rfl

theorem saWrite_control (a : SaSlot) (v : Word64) : (saWrite a 7 v).valid = bitOf v 2 := rfl

/-! ## The statement -/

theorem portEvents {s : State} {l : Nat} {st : PortState} (hl : l < 160) (hon : alive s.dev = true) (hst : (getPort s.dev l).st = st) :
    (st = .an → ∀ ok, exec (.portAnDone l ok) s = .next { s with dev := portGo s.dev l (if ok then .training else .failed) }) ∧
    (st ≠ .an → ∀ ok, exec (.portAnDone l ok) s = .next s) ∧
    (st = .training → exec (.portTrainingDone l) s = .next { s with dev := portGo s.dev l .aligning }) ∧
    (st ≠ .training → exec (.portTrainingDone l) s = .next s) ∧
    (st = .aligning → exec (.portAligned l) s = .next { s with dev := portGo s.dev l .up }) ∧
    (st ≠ .aligning → exec (.portAligned l) s = .next s) ∧
    (st = .an ∨ st = .training ∨ st = .aligning → exec (.portStateTimeout l) s = .next { s with dev := portGo s.dev l .failed }) ∧
    (st = .failed → exec (.portFailedHoldEnd l) s = .next { s with dev := portGo s.dev l (portStart s.dev l) }) ∧
    (st = .up → exec (.portLinkDown l) s = .next { s with dev := portGo s.dev l (portStart s.dev l) }) ∧
    (st ≠ .up → exec (.portLinkDown l) s = .next s) := by
  refine ⟨fun h ok => ?_, fun h ok => ?_, fun h => ?_, fun h => ?_, fun h => ?_, fun h => ?_, fun h => ?_, fun h => ?_, fun h => ?_, fun h => ?_⟩
  · exact onObj_next rfl hl (portEvent_takes (fun _ => if ok then .training else .failed) hon (hst.trans h))
  · exact onObj_next rfl hl (portEvent_stays (fun _ => if ok then .training else .failed) (hst ▸ h))
  · exact onObj_next rfl hl (portEvent_takes (fun _ => .aligning) hon (hst.trans h))
  · exact onObj_next rfl hl (portEvent_stays (fun _ => .aligning) (hst ▸ h))
  · exact onObj_next rfl hl (portEvent_takes (fun _ => .up) hon (hst.trans h))
  · exact onObj_next rfl hl (portEvent_stays (fun _ => .up) (hst ▸ h))
  · exact onObj_next rfl hl (portTimeoutD_takes hon hst h)
  · exact onObj_next rfl hl (portEvent_takes (fun d => portStart d l) hon (hst.trans h))
  · exact onObj_next rfl hl (portEvent_takes (fun d => portStart d l) hon (hst.trans h))
  · exact onObj_next rfl hl (portEvent_stays (fun d => portStart d l) (hst ▸ h))

/-- Settles O49: the bring-up by `portEvent`, the port reference by the loops over the ports, an SA slot by `saWrite`. -/
theorem portCommands : Obligations.PortCommands := by
  unfold Obligations.PortCommands
  intro s
  refine ⟨fun l st hl hon hst => portEvents hl hon hst, fun d l st => ?_, ⟨?_, fun hon hstage => ?_⟩, fun l v hl hopen => ⟨?_, fun sa r => ?_⟩⟩
  · rw [getPort_portGo_same]
    exact ⟨rfl, rfl, rfl, fun k hk => getPort_portGo_ne d st hk⟩
  · refine ⟨_, rfl, rfl, ?_, fun l hexists => portsDisable_disabled hexists⟩
    exact congrArg Clk.portRef (portsDisable_clk { s.dev with clk := { s.dev.clk with portRef := false } })
  · refine ⟨_, onDev_next (f := portRefReturnD) (portRefReturnD_starts hon hstage), rfl, ?_, fun l hexists hen hst => ?_⟩
    · exact congrArg Clk.portRef (portsStart_clk { s.dev with clk := { s.dev.clk with portRef := true } })
    · refine portsStart_starts (d := { s.dev with clk := { s.dev.clk with portRef := true } }) ?_ hexists hst
      show (lportExists s.dev l && bitOf (portCfg s.dev l) 12 && true) = true
      rw [hexists, hen]
      rfl
  · exact onObj_next rfl hl (msecCtrlD_open hopen l v)
  · refine ⟨_, onObj_next (f := saSlotD l sa.toNat r.toNat v) rfl hl (saSlotD_open hopen l sa.toNat r.toNat v), rfl, fun k hk => ?_, ?_⟩
    · exact (getSa_saWritten s.dev l sa.toNat r.toNat v k).trans (if_neg hk)
    · have hslot := (getSa_saWritten s.dev l sa.toNat r.toNat v sa.toNat).trans (if_pos rfl)
      dsimp only
      rw [hslot]
      refine ⟨fun hvalid hr => saWrite_valid hvalid hr v, fun hr => ?_, fun hr => ?_, fun hvalid hr => ?_⟩
      · rw [hr]
        exact saWrite_nextPn _ v
      · rw [hr]
        exact saWrite_control _ v
      · rw [hr]
        exact saWrite_key0 hvalid v

end Sys2Proof.Machine

/-! PROOFS. O50: the stages of the boot, and QUIESCE. -/

namespace Sys2Proof.Machine

open Sys2Proof

/-! ## ROM_INIT -/

theorem retireOlder_setup (d : Dev) (r : Nat) : (retireOlder d r).boot = d.boot ∧ (retireOlder d r).clk = d.clk := by
  unfold retireOlder
  split
  · exact ⟨rfl, rfl⟩
  · refine foldl_keeps (P := fun e : Dev => e.boot = d.boot ∧ e.clk = d.clk) (fun e i he => ?_) _ ⟨rfl, rfl⟩
    split
    · exact he
    · exact he

/-- OTP with every generation below the active one retired, for some records. -/
@[irreducible] def retireAll (l : List Nat) (d : Dev) : Dev := l.foldl retireOlder d

theorem retireAll_eq (l : List Nat) (d : Dev) : l.foldl retireOlder d = retireAll l d := by rw [retireAll]

theorem retireAll_boot (l : List Nat) (d : Dev) : (retireAll l d).boot = d.boot := by
  rw [retireAll]
  exact foldl_keeps (P := fun e : Dev => e.boot = d.boot) (fun e r he => (retireOlder_setup e r).1.trans he) _ rfl

/-- OTP as ROM_INIT leaves it. -/
def romOtp (d : Dev) : Dev := retireAll (List.range 7) d

theorem romOtp_boot (d : Dev) : (romOtp d).boot = d.boot := retireAll_boot _ d

/-- The device once the ROM has measured itself and derived its identity from a seed. -/
def romKeyed (d : Dev) (seed : List Byte) : Dev :=
  { romOtp d with
    boot := { (romOtp d).boot with mapOut := BitVec.ofNat 256 (leAt ((otpData (romOtp d) 3).getD []) 0 32) }
    tru := { (romOtp d).tru with
      m := tset (romOtp d).tru.m 0 Config.romDigest, dik := seedOf (Config.sha3 (seed ++ dikLabel)),
      deviceId := Config.sha3 (pubKey (seedOf (Config.sha3 (seed ++ dikLabel)))) } }

theorem romKeyed_boot (d : Dev) (seed : List Byte) :
    (romKeyed d seed).boot.stage = d.boot.stage ∧ (romKeyed d seed).boot.fruTries = d.boot.fruTries :=
  ⟨(congrArg Boot.stage (romOtp_boot d) : (romOtp d).boot.stage = d.boot.stage),
    (congrArg Boot.fruTries (romOtp_boot d) : (romOtp d).boot.fruTries = d.boot.fruTries)⟩

theorem romInitD_seeded {d : Dev} {seed : List Byte} (hrun : romRuns d = true) (hfirst : d.boot.fruTries = 0)
    (hseed : otpData ((List.range 7).foldl retireOlder d) 2 = some seed) (f : FruRead) :
    romInitD false f d = bootFail d 15 0x20 ∧ romInitD true f d = fruRead (romKeyed d seed) f := by
  have hgo : ¬ (!romRuns d || d.boot.fruTries ≠ 0) = true := by simp [hrun, hfirst]
  unfold romInitD
  dsimp only
  rw [retireAll_eq] at hseed
  rw [if_neg hgo, if_neg hgo, retireAll_eq]
  rw [hseed]
  exact ⟨rfl, rfl⟩

theorem romRuns_stage {d : Dev} (h : romRuns d = true) : d.boot.stage = 0 := by
  simp only [romRuns, Bool.and_eq_true, decide_eq_true_eq] at h
  exact h.1.2

theorem fruRead_again {d : Dev} (h : d.boot.fruTries < 20) :
    fruRead d .busy = { d with boot := { d.boot with fruTries := d.boot.fruTries + 1 } } :=
  if_neg (by omega)

theorem fruRead_gaveUp {d : Dev} (h : d.boot.fruTries = 20) :
    fruRead d .busy = romDone { d with boot := { d.boot with fruTries := 21 } } 0x1EE9 0 := by
  rw [fruRead, h]
  exact if_pos (by decide)

theorem fruRead_data (d : Dev) (bs : List Byte) :
    ∃ vid sid, fruRead d (.data bs) = romDone d vid sid ∧
      BitVec.ofNat 16 vid = (if leAt bs 0 4 = 0x55524657 ∧ crc32c (sub bs 0 0xFC) = BitVec.ofNat 32 (leAt bs 0xFC 4)
        then BitVec.ofNat 16 (leAt bs 6 2) else 0x1EE9) := by
  by_cases hgood : leAt bs 0 4 = 0x55524657 ∧ crc32c (sub bs 0 0xFC) = BitVec.ofNat 32 (leAt bs 0xFC 4)
  · exact ⟨_, _, if_pos (by rw [decide_eq_true hgood.1, decide_eq_true hgood.2]; rfl), (if_pos hgood).symm⟩
  · exact ⟨_, _, if_neg (by simpa only [Bool.and_eq_true, decide_eq_true_eq] using hgood), (if_neg hgood).symm⟩

/-! ## LOAD and LOAD_SI -/

theorem bootLoadD_open {d : Dev} (hopen : pfOpen d 0x0100000 = true) (hstage : d.boot.stage = 1) :
    bootLoadD d = if imageArgsOk (reg d 0x0100008).toNat (reg d 0x0100010).toNat 0x1000000 then setStage d 2 else bootFail d 1 6 := by
  refine (if_neg (by simp [hopen, hstage])).trans ?_
  cases imageArgsOk (reg d 0x0100008).toNat (reg d 0x0100010).toNat 0x1000000 <;> rfl

theorem loadSiD_again {d : Dev} (hopen : pfOpen d 0x0100000 = true) (hstage : d.boot.stage = 6) (href : d.boot.siRefused = true)
    (hargs : imageArgsOk (reg d 0x0100018).toNat (reg d 0x0100020).toNat 0x100000 = true) :
    loadSiD d = { d with boot := { d.boot with siRefused := false } } :=
  (if_neg (by simp [hopen, hstage, href])).trans (if_neg (by rw [hargs]; decide))

/-! ## Quiesce -/

theorem endSlice_running (d : Dev) (p : Nat) (g : Bool) (q : Nat) : (getPart (endSlice d p g) q).running = (getPart d q).running := by
  unfold endSlice
  dsimp only
  split
  · rfl
  · rw [getPart_setPart]
    split
    · next hq => rw [hq]
    · rfl

theorem endSlice_ends {d : Dev} {p : Nat} (h : (getPart d p).running.isSome = true) (g : Bool) :
    (getPart (endSlice d p g) p).sliceOver.isSome = true := by
  unfold endSlice
  dsimp only
  rw [if_neg (by rw [Option.isNone_iff_eq_none]; exact Option.isSome_iff_ne_none.mp h), getPart_setPart_same]
  rfl

theorem endSlice_over_stays {d : Dev} {p q : Nat} (h : (getPart d q).sliceOver.isSome = true) (g : Bool) :
    (getPart (endSlice d p g) q).sliceOver.isSome = true := by
  unfold endSlice
  dsimp only
  split
  · exact h
  · rw [getPart_setPart]
    split
    · rfl
    · exact h

theorem endSlice_boot (d : Dev) (p : Nat) (g : Bool) : (endSlice d p g).boot = d.boot := by
  unfold endSlice
  dsimp only
  split <;> rfl

/-- The slice of a partition's running context ends. -/
def sliceEnded (d : Dev) (p : Nat) : Dev := endSlice d p (getPart d p).noGrace

theorem quiesceSetD_open {d : Dev} (hopen : pfOpen d 0x0100000 = true) :
    quiesceSetD d = (List.range 16).foldl sliceEnded { d with boot := { d.boot with quiesce := true } } :=
  if_neg (by rw [hopen]; decide)

theorem foldl_sliceEnded_boot (l : List Nat) (d : Dev) : (l.foldl sliceEnded d).boot = d.boot :=
  foldl_keeps (P := fun e : Dev => e.boot = d.boot) (fun e p he => (endSlice_boot e p _).trans he) l rfl

theorem foldl_sliceEnded_running (l : List Nat) (d : Dev) (q : Nat) :
    (getPart (l.foldl sliceEnded d) q).running = (getPart d q).running :=
  foldl_keeps (P := fun e => (getPart e q).running = (getPart d q).running) (fun e p he => (endSlice_running e p _ q).trans he) l rfl

theorem foldl_sliceEnded_over {l : List Nat} {d : Dev} {p : Nat} (hp : p ∈ l) (hrun : (getPart d p).running.isSome = true) :
    (getPart (l.foldl sliceEnded d) p).sliceOver.isSome = true := by
  refine foldl_invariant (f := sliceEnded) (J := fun e => (getPart e p).running.isSome = true)
    (Q := fun e => (getPart e p).sliceOver.isSome = true) (fun e x he => ?_) (fun e he => endSlice_ends he _)
    (fun e x he => endSlice_over_stays he _) hp hrun
  rw [sliceEnded, endSlice_running]
  exact he

theorem quiesces {s : State} (hopen : pfOpen s.dev 0x0100000 = true) :
    ∃ u, exec .quiesceSet s = .next u ∧ u.pending = s.pending ∧ u.dev.boot.quiesce = true ∧
      (∀ p, p < 16 → (getPart s.dev p).running.isSome = true → (getPart u.dev p).sliceOver.isSome = true) ∧
      (∀ p, (getPart u.dev p).running = (getPart s.dev p).running) := by
  have hquiet := quiesceSetD_open hopen
  have hboot : (quiesceSetD s.dev).boot.quiesce = true := by
    rw [hquiet, foldl_sliceEnded_boot]
  have hover : ∀ p, p < 16 → (getPart s.dev p).running.isSome = true → (getPart (quiesceSetD s.dev) p).sliceOver.isSome = true := by
    intro p hp hrun
    have hmem : p ∈ List.range 16 := List.mem_range.mpr hp
    rw [hquiet]
    exact foldl_sliceEnded_over hmem hrun
  have hrunning : ∀ p, (getPart (quiesceSetD s.dev) p).running = (getPart s.dev p).running := by
    intro p
    rw [hquiet, foldl_sliceEnded_running]
    rfl
  exact ⟨{ s with dev := quiesceSetD s.dev }, rfl, rfl, hboot, hover, hrunning⟩

/-! ## Pier -/

theorem pierDoneD_done {d : Dev} {codes : BitVec 16} (hstage : d.boot.stage = 5) (hgo : d.clk.stopped = false)
    (hdone : ∀ i, i < 4 → 2 ≤ fld codes (4 * i) 4) :
    ((∀ i, i < 4 → fld codes (4 * i) 4 ≤ 3) → pierDoneD codes d =
      setReg (setStage { d with pier := { d.pier with mem := [], poison := [] } } 6) 0x1000100 (codes.setWidth 64 ||| 0x10000)) ∧
    ((∃ i, i < 4 ∧ fld codes (4 * i) 4 = 4) → (∀ i, i < 4 → fld codes (4 * i) 4 ≤ 4) →
      pierDoneD codes d = bootFail (setReg d 0x1000100 (codes.setWidth 64)) 15 0x21) := by
  have hends : (∀ i, i < 4 → fld codes (4 * i) 4 ≤ 4) → ¬ (d.boot.stage ≠ 5 || d.clk.stopped ||
      ((List.range 4).map (fun i => fld codes (4 * i) 4)).any (fun c => decide (c < 2) || decide (4 < c))) = true := by
    intro hmost hany
    simp only [hstage, hgo, ne_eq, not_true_eq_false, decide_false, Bool.or_self, Bool.false_or, List.any_map, List.any_eq_true,
      List.mem_range, Function.comp, Bool.or_eq_true, decide_eq_true_eq] at hany
    obtain ⟨i, hi, hlow | hhigh⟩ := hany
    · exact absurd hlow (Nat.not_lt.mpr (hdone i hi))
    · exact absurd hhigh (Nat.not_lt.mpr (hmost i hi))
  constructor
  · intro hgood
    refine (if_neg (hends (fun i hi => (hgood i hi).trans (by decide)))).trans (if_neg ?_)
    simp only [List.any_map, List.any_eq_true, List.mem_range, Function.comp, decide_eq_true_eq]
    rintro ⟨i, hi, hbad⟩
    exact absurd (hgood i hi) (by omega)
  · rintro ⟨i, hi, hbad⟩ hmost
    refine (if_neg (hends hmost)).trans (if_pos ?_)
    simp only [List.any_map, List.any_eq_true, List.mem_range, Function.comp, decide_eq_true_eq]
    exact ⟨i, hi, hbad⟩

theorem bootReadyD_waits {d : Dev} (h : portsTried d = false) : bootReadyD d = d := if_neg (by simp [h])

/-- Settles O50: each stage by the equation of its command. -/
theorem bootStages : Obligations.BootStages := by
  unfold Obligations.BootStages
  intro s
  refine ⟨fun hrun hfirst seed hseed => ?_, fun hrun hlater => ?_, fun hopen => ?_, fun codes hstage hgo hdone => ?_, fun hstage hon => ?_⟩
  · obtain ⟨hstage, htries⟩ := romKeyed_boot s.dev seed
    refine ⟨fun fru => ?_, ?_, fun bs => ?_⟩
    · exact ⟨_, onDev_next (f := romInitD false fru) (romInitD_seeded hrun hfirst hseed fru).1, rfl, rfl, rfl⟩
    · have hbusy := (romInitD_seeded hrun hfirst hseed .busy).2.trans (fruRead_again (by rw [htries, hfirst]; decide))
      refine ⟨_, onDev_next (f := romInitD true .busy) hbusy, rfl, hstage.trans (romRuns_stage hrun), ?_⟩
      exact congrArg (· + 1) (htries.trans hfirst)
    · obtain ⟨vid, sid, hread, hvid⟩ := fruRead_data (romKeyed s.dev seed) bs
      refine ⟨_, onDev_next (f := romInitD true (.data bs)) ((romInitD_seeded hrun hfirst hseed (.data bs)).2.trans hread), rfl, rfl, ?_,
        rfl, rfl, hvid⟩
      exact tget_tset_same (romOtp s.dev).tru.m 0 _ 0
  · have hgo : (romRuns s.dev && decide (s.dev.boot.fruTries ≠ 0)) = true := by rw [hrun, decide_eq_true hlater]; rfl
    have hretry : exec (.fruEepromRetry .busy) s = .next { s with dev := fruRead s.dev .busy } :=
      onDev_next (f := fun d => if romRuns d && decide (d.boot.fruTries ≠ 0) then fruRead d .busy else d) (if_pos hgo)
    rw [hretry]
    refine ⟨fun hmore => by rw [fruRead_again hmore], fun hlast => ?_⟩
    rw [fruRead_gaveUp hlast]
    exact ⟨_, rfl, rfl, rfl, rfl⟩
  · refine ⟨fun hstage hargs => ?_, fun hstage hargs => ?_, fun hstage href hargs => ?_, quiesces hopen, ?_⟩
    · exact onDev_next (f := bootLoadD) ((bootLoadD_open hopen hstage).trans (if_pos hargs))
    · exact onDev_next (f := bootLoadD) ((bootLoadD_open hopen hstage).trans (if_neg (by rw [hargs]; decide)))
    · exact onDev_next (f := loadSiD) (loadSiD_again hopen hstage href hargs)
    · exact onDev_next (f := quiesceClearD) (if_neg (by rw [hopen]; decide))
  · obtain ⟨hgood, hbad⟩ := pierDoneD_done hstage hgo hdone
    refine ⟨fun hmost => ?_, fun hany hmost => ?_⟩
    · refine ⟨_, onDev_next (f := pierDoneD codes) (hgood hmost), rfl, rfl, rfl, rfl, ?_⟩
      exact (reg_setReg _ _ _ _).trans (if_pos rfl)
    · exact ⟨_, onDev_next (f := pierDoneD codes) (hbad hany hmost), rfl, rfl, rfl⟩
  · refine ⟨fun htried => ?_, fun htried => ?_⟩
    · exact onDev_next (f := bootReadyD) (if_pos (by rw [hstage, htried, hon]; rfl))
    · exact onDev_next (f := bootReadyD) (bootReadyD_waits htried)

end Sys2Proof.Machine

/-! PROOFS. O51: firmware, structure and partition images. -/

namespace Sys2Proof.Machine

open Sys2Proof

/-! ## Firmware and structure images -/

theorem fwLoadedD_read {d : Dev} {bs : List Byte} (readBack : Bool) (hstage : d.boot.stage = 2) (hgo : d.clk.stopped = false)
    (hget : hostGet d 0 (reg d 0x0100008).toNat (reg d 0x0100010).toNat = some bs) :
    (∀ c, fwCode d bs = some c → fwLoadedD readBack d = bootFail d 1 c) ∧
    (fwCode d bs = none → fwLoadedD readBack d = startFw (extendM d 1 (imgDigest bs)) bs readBack) := by
  have hrun : ¬ (d.boot.stage ≠ 2 || d.clk.stopped) = true := by simp [hstage, hgo]
  refine ⟨fun c hc => ?_, fun hc => ?_⟩
  · rw [fwLoadedD, if_neg hrun, hget]
    dsimp only
    rw [hc]
  · rw [fwLoadedD, if_neg hrun, hget]
    dsimp only
    rw [hc]

theorem siApplyD_read {d : Dev} {bs : List Byte} (hstage : d.boot.stage = 6) (href : d.boot.siRefused = false) (hgo : d.clk.stopped = false)
    (hargs : imageArgsOk (reg d 0x0100018).toNat (reg d 0x0100020).toNat 0x100000 = true)
    (hget : hostGet d 0 (reg d 0x0100018).toNat (reg d 0x0100020).toNat = some bs) :
    (∀ c, readSi d bs = .error c → siApplyD d = siRefuse d c) ∧
    (∀ i, readSi d bs = .ok i → siApplyD d = portsStart (extendM (applySi d i) 2 (imgDigest bs))) := by
  have hrun : ¬ (d.boot.stage ≠ 6 || d.boot.siRefused || d.clk.stopped) = true := by simp [hstage, href, hgo]
  refine ⟨fun c hc => ?_, fun i hi => ?_⟩
  · rw [siApplyD, if_neg hrun, if_neg (by rw [hargs]; decide), hget]
    dsimp only
    rw [hc]
  · rw [siApplyD, if_neg hrun, if_neg (by rw [hargs]; decide), hget]
    dsimp only
    rw [hi]

/-! ## PARTITION_RELOAD -/

/-- A reload of partition `p` has begun. -/
def reloadBegun (d : Dev) (p : Nat) : Dev := { d with boot := { d.boot with piBusy := true, piPart := BitVec.ofNat 4 p } }

/-- An accepted image of partition `p` waits for its switch point. -/
def reloadTaken (d : Dev) (p : Nat) (bs : List Byte) : Dev :=
  setPart { reloadBegun d p with boot := { (reloadBegun d p).boot with piImage := bs } } p { getPart d p with reload := true }

theorem reloadD_read {d : Dev} {v : Word32} {p : Nat} {bs : List Byte} (hp : p = fld v 0 4) (hopen : pfOpen d 0x0100040 = true)
    (hon : alive d = true) (hready : isReady d = true) (hgo : bitOf v 4 = true) (hbusy : d.boot.piBusy = false)
    (hargs : imageArgsOk (reg d 0x0100030).toNat (reg d 0x0100038).toNat 0x10000 = true)
    (hget : hostGet d 0 (reg d 0x0100030).toNat (reg d 0x0100038).toNat = some bs) :
    (∀ c, readPi d p bs = .error c → reloadD v d = endReload (reloadBegun d p) c) ∧
    (∀ x, readPi d p bs = .ok x → reloadD v d = endSlice (reloadTaken d p bs) p (x.tiles ≠ tilesOf d p || (getPart d p).noGrace)) := by
  have hrun : ¬ (!pfOpen d 0x0100040 || !alive d || !isReady d || !bitOf v 4 || d.boot.piBusy) = true := by
    rw [hopen, hon, hready, hgo, hbusy]
    decide
  subst hp
  refine ⟨fun c hc => ?_, fun x hx => ?_⟩
  · rw [reloadD]
    dsimp only
    rw [if_neg hrun, if_neg (by rw [hargs]; decide), hget]
    dsimp only
    rw [hc]
    rfl
  · rw [reloadD]
    dsimp only
    rw [if_neg hrun, if_neg (by rw [hargs]; decide), hget]
    dsimp only
    rw [hx]
    rfl

theorem endSlice_reload (d : Dev) (p : Nat) (g : Bool) : (getPart (endSlice d p g) p).reload = (getPart d p).reload := by
  unfold endSlice
  dsimp only
  split
  · rfl
  · rw [getPart_setPart_same]

theorem reloadTaken_part (d : Dev) (p : Nat) (bs : List Byte) : getPart (reloadTaken d p bs) p = { getPart d p with reload := true } :=
  getPart_setPart_same _ p _

/-! ## PARTITION_RELOAD_APPLY -/

theorem writePart_cfg {d : Dev} {x : PartSec} (hp : x.p < 16) : partCfg (writePart d x) x.p = x.cfg := by
  unfold writePart
  dsimp only
  refine foldl_keeps (P := fun e => partCfg e x.p = x.cfg) (fun e w he => ?_) _ ?_
  · exact (reg_setReg _ _ _ _).trans ((if_neg (by omega)).trans he)
  refine foldl_keeps (P := fun e => partCfg e x.p = x.cfg) (fun e w he => ?_) _ ?_
  · exact (reg_setReg _ _ _ _).trans ((if_neg (by omega)).trans he)
  refine foldl_keeps (P := fun e => partCfg e x.p = x.cfg) (fun e q he => ?_) _ ?_
  · exact (reg_setReg _ _ _ _).trans ((if_neg (by omega)).trans he)
  · exact (reg_setReg _ _ _ _).trans (if_pos rfl)

theorem applyPi_cfg {d : Dev} {x : PartSec} (hp : x.p < 16) (p : Nat) (bs : List Byte) : partCfg (applyPi d p x bs) x.p = x.cfg := by
  unfold applyPi
  extract_lets gone old d1 d2 d3 d4 d5
  have h1 : partCfg d1 x.p = x.cfg := writePart_cfg hp
  have h2 : partCfg d2 x.p = x.cfg := by
    refine foldl_keeps (P := fun e => partCfg e x.p = x.cfg) (fun e t he => ?_) _ h1
    exact he
  have h3 : partCfg d3 x.p = x.cfg := by
    refine foldl_keeps (P := fun e => partCfg e x.p = x.cfg) (fun e t he => ?_) _ h2
    exact he
  have h4 : partCfg d4 x.p = x.cfg := by
    refine foldl_keeps (P := fun e => partCfg e x.p = x.cfg) (fun e q he => ?_) _ h3
    exact ((dropCtxEnts_seats e q.1).regs _ (by omega)).trans he
  exact h4

theorem reloadApplyD_at {d : Dev} {p : Nat} {out : Option Nat} {x : PartSec} {d1 : Dev} (hp : p = d.boot.piPart.toNat) (hon : alive d = true)
    (hbusy : d.boot.piBusy = true) (hreload : (getPart d p).reload = true) (hswitch : switchPoint d p = some out)
    (himage : piOf d.boot.piImage = some x) (hd1 : d1 = handOver (setPart d p { getPart d p with reload := false }) p out) :
    (x.tiles = tilesOf d p → reloadApplyD d = afterReload (endReload { applyPi d1 p x d.boot.piImage with
      boot := { (applyPi d1 p x d.boot.piImage).boot with
        piCount := (applyPi d1 p x d.boot.piImage).boot.piCount + 1, piImage := [] } } 0) p out) ∧
    (x.tiles ≠ tilesOf d p → (ctxsIn d p).any (fun q => q.2.saved.isSome) = true →
      reloadApplyD d = afterReload (endReload d1 18) p out) := by
  subst hp
  have hrun : ¬ (!alive d || !d.boot.piBusy || !(getPart d d.boot.piPart.toNat).reload) = true := by
    rw [hon, hbusy, hreload]
    decide
  refine ⟨fun hsame => ?_, fun hchanged hsaved => ?_⟩
  · rw [reloadApplyD]
    dsimp only
    rw [if_neg hrun, hswitch, himage]
    dsimp only
    rw [if_neg (by simp [hsame]), if_neg (by simp [hsame]), hd1]
  · rw [reloadApplyD]
    dsimp only
    rw [if_neg hrun, hswitch, himage]
    dsimp only
    rw [if_pos (by rw [hsaved, decide_eq_true hchanged]; rfl), hd1]

/-- Settles O51: each image by the outcome of its check. -/
theorem images : Obligations.Images := by
  unfold Obligations.Images
  intro s bs
  refine ⟨fun readBack hstage hgo hget => ?_, fun hstage href hgo hargs hget => ?_,
    fun v p hp hopen hon hready hgo hbusy hargs hget => ?_, fun p out x d1 hp hon hbusy hreload hswitch himage hd1 => ?_⟩
  · obtain ⟨hbad, hgood⟩ := fwLoadedD_read readBack hstage hgo hget
    cases hcode : fwCode s.dev bs with
    | some c => exact onDev_next (f := fwLoadedD readBack) (hbad c hcode)
    | none => exact onDev_next (f := fwLoadedD readBack) (hgood hcode)
  · obtain ⟨hbad, hgood⟩ := siApplyD_read hstage href hgo hargs hget
    cases hread : readSi s.dev bs with
    | error c => exact onDev_next (f := siApplyD) (hbad c hread)
    | ok i => exact onDev_next (f := siApplyD) (hgood i hread)
  · obtain ⟨hbad, hgood⟩ := reloadD_read hp hopen hon hready hgo hbusy hargs hget
    cases hread : readPi s.dev p bs with
    | error c => exact ⟨_, onDev_next (f := reloadD v) (hbad c hread), rfl, rfl, rfl, rfl⟩
    | ok x =>
      have hpart := reloadTaken_part s.dev p bs
      have hboot := endSlice_boot (reloadTaken s.dev p bs) p (x.tiles ≠ tilesOf s.dev p || (getPart s.dev p).noGrace)
      refine ⟨_, onDev_next (f := reloadD v) (hgood x hread), rfl, congrArg Boot.piBusy hboot, congrArg Boot.piImage hboot, ?_, fun hrun => ?_⟩
      · exact (endSlice_reload _ p _).trans (congrArg Part.reload hpart)
      · exact endSlice_ends (by rw [hpart]; exact hrun) _
  · obtain ⟨hsame, hchanged⟩ := reloadApplyD_at hp hon hbusy hreload hswitch himage hd1
    refine ⟨fun htiles => ⟨?_, fun hx => applyPi_cfg hx p _⟩, fun htiles hsaved => ?_⟩
    · exact onDev_next (f := reloadApplyD) (hsame htiles)
    · exact onDev_next (f := reloadApplyD) (hchanged htiles hsaved)

end Sys2Proof.Machine

/-! PROOFS. O52: GET_IDENTITY, ATTEST and CHALLENGE. -/

namespace Sys2Proof.Machine

open Sys2Proof

/-! ## Byte strings -/

@[simp] theorem sub_length (bs : List Byte) (off n : Nat) : (sub bs off n).length = n := by
  simp only [sub, List.length_append, List.length_take, List.length_drop, List.length_replicate]
  omega

@[simp] theorem digestBytes_length (h : BitVec 512) : (digestBytes h).length = 64 := toLe_length 64 _

@[simp] theorem pubKey_length (k : BitVec 256) : (pubKey k).length = 2592 := sub_length _ _ _

@[simp] theorem signed_length (k : BitVec 256) (m : List Byte) : (signed k m).length = 4627 := sub_length _ _ _

/-- The part of a byte string behind `x` and before `z`. -/
theorem sub_middle {x y z : List Byte} {i n : Nat} (hx : x.length = i) (hy : y.length = n) : sub (x ++ (y ++ z)) i n = y := by
  have hpart : ((x ++ (y ++ z)).drop i).take n = y := by rw [← hx, ← hy, List.drop_left, List.take_left]
  rw [sub, hpart, hy, Nat.sub_self, List.replicate_zero, List.append_nil]

/-! ## Responses -/

/-- The device once it has written a response and ended the command. -/
def truResponded (d : Dev) (bs : List Byte) (n : Nat) : Dev :=
  truDone { d with host := memPuts d.host (truBa d + 0x4000) bs } 0 n

theorem truResponded_fields (d : Dev) (bs : List Byte) (n : Nat) :
    (truResponded d bs n).host = memPuts d.host (truBa d + 0x4000) bs ∧
    (truResponded d bs n).tru = { d.tru with result := 0, respLen := BitVec.ofNat 16 n } := ⟨rfl, rfl⟩

theorem truRespond_written {d : Dev} (hbus : (getFn d 0).master = true) (bs : List Byte) : truRespond d bs = truResponded d bs bs.length := by
  rw [truRespond, hostPut, hbus]
  rfl

theorem truRequest_read {d : Dev} (hbus : (getFn d 0).master = true) (n : Nat) (act : List Byte → Dev) :
    truRequest d n act = act (memGets d.host (truBa d) n) := by
  rw [truRequest, hostGet, hbus]
  rfl

/-! ## GET_IDENTITY -/

/-- The state that GET_IDENTITY signs: the measurements of ROM and firmware, the version and the lifecycle. -/
def identityState (d : Dev) : List Byte :=
  digestBytes (tget d.tru.m 0 0) ++ digestBytes (tget d.tru.m 1 0) ++ toLe 1 (svn d) ++ lifecycle d ++ List.replicate 6 0

@[simp] theorem lifecycle_length (d : Dev) : (lifecycle d).length = 1 := toLe_length 1 _

@[simp] theorem identityState_length (d : Dev) : (identityState d).length = 136 := by
  simp [identityState]

/-- The response of GET_IDENTITY. -/
def identityBytes (d : Dev) : List Byte :=
  pubKey d.tru.dik ++ (pubKey d.tru.ak ++ (identityState d ++ signed d.tru.dik (pubKey d.tru.ak ++ identityState d)))

theorem identityBytes_length (d : Dev) : (identityBytes d).length = 9947 := by
  simp [identityBytes]

theorem getIdentityD_erased {d : Dev} (hopen : truOpen d = true) (herased : d.tru.keysErased = true) : getIdentityD d = truDone d 8 0 :=
  (if_neg (by rw [hopen]; decide)).trans (if_pos herased)

theorem getIdentityD_answers {d : Dev} (hopen : truOpen d = true) (hkeys : d.tru.keysErased = false) (hbus : (getFn d 0).master = true) :
    getIdentityD d = truResponded d (identityBytes d) 9947 := by
  have hbytes : pubKey d.tru.dik ++ pubKey d.tru.ak ++ identityState d ++ signed d.tru.dik (pubKey d.tru.ak ++ identityState d) =
      identityBytes d := by
    simp only [identityBytes, List.append_assoc]
  rw [getIdentityD, if_neg (by rw [hopen]; decide), if_neg (by rw [hkeys]; decide), ← identityBytes_length d, ← hbytes]
  exact truRespond_written hbus _

theorem identityBytes_parts (d : Dev) :
    sub (identityBytes d) 0 2592 = pubKey d.tru.dik ∧ sub (identityBytes d) 2592 2592 = pubKey d.tru.ak ∧
    (identityBytes d).drop 5320 = signed d.tru.dik (sub (identityBytes d) 2592 2728) := by
  have hsigned : sub (identityBytes d) 2592 2728 = pubKey d.tru.ak ++ identityState d := by
    have hassoc : identityBytes d = pubKey d.tru.dik ++ ((pubKey d.tru.ak ++ identityState d) ++
        signed d.tru.dik (pubKey d.tru.ak ++ identityState d)) := by
      simp only [identityBytes, List.append_assoc]
    rw [hassoc]
    exact sub_middle (pubKey_length _) (by simp)
  refine ⟨sub_middle (x := []) rfl (pubKey_length _), sub_middle (pubKey_length _) (pubKey_length _), ?_⟩
  have hassoc : identityBytes d = (pubKey d.tru.dik ++ (pubKey d.tru.ak ++ identityState d)) ++
      signed d.tru.dik (pubKey d.tru.ak ++ identityState d) := by
    simp only [identityBytes, List.append_assoc]
  rw [hsigned, hassoc]
  exact List.drop_left' (by simp)

/-! ## ATTEST -/

theorem attestBody_length {d : Dev} {nonce : List Byte} (h : nonce.length = 64) : (attestBody d nonce).length = 1440 := by
  simp [attestBody, h, List.length_flatMap]

/-- The response of ATTEST. -/
def attestation (d : Dev) : List Byte :=
  attestBody d (memGets d.host (truBa d) 64) ++ signed d.tru.ak (attestBody d (memGets d.host (truBa d) 64))

theorem attestation_length (d : Dev) : (attestation d).length = 6067 := by
  simp [attestation, attestBody_length]

theorem attestD_erased {d : Dev} (hopen : truOpen d = true) (herased : d.tru.keysErased = true) : attestD d = truDone d 8 0 :=
  (if_neg (by rw [hopen]; decide)).trans (if_pos herased)

theorem attestD_answers {d : Dev} (hopen : truOpen d = true) (hkeys : d.tru.keysErased = false) (hbus : (getFn d 0).master = true) :
    attestD d = truResponded d (attestation d) 6067 := by
  rw [attestD, if_neg (by rw [hopen]; decide), if_neg (by rw [hkeys]; decide), truRequest_read hbus, ← attestation_length d]
  exact truRespond_written hbus _

theorem attestation_parts (d : Dev) :
    sub (attestation d) 0 1440 = attestBody d (memGets d.host (truBa d) 64) ∧
    (attestation d).drop 1440 = signed d.tru.ak (sub (attestation d) 0 1440) := by
  have hlen : (attestBody d (memGets d.host (truBa d) 64)).length = 1440 := attestBody_length (memGets_length _ _ _)
  have hbody : sub (attestation d) 0 1440 = attestBody d (memGets d.host (truBa d) 64) := sub_middle (x := []) rfl hlen
  refine ⟨hbody, ?_⟩
  rw [hbody]
  exact List.drop_left' hlen

/-! ## CHALLENGE -/

/-- The device once CHALLENGE has written its response. -/
def challenged (d : Dev) : Dev :=
  { d with
    host := memPuts d.host (truBa d + 0x4000)
      (digestBytes (Config.trng d.tru.trng) ++ digestBytes d.tru.deviceId ++ toLe 8 d.now.toNat)
    tru := { d.tru with challenge := some (Config.trng d.tru.trng), trng := d.tru.trng + 1, result := 0, respLen := 136 } }

theorem challenged_fields (d : Dev) :
    (challenged d).tru =
      { d.tru with challenge := some (Config.trng d.tru.trng), trng := d.tru.trng + 1, result := 0, respLen := 136 } ∧
    (challenged d).host = memPuts d.host (truBa d + 0x4000)
      (digestBytes (Config.trng d.tru.trng) ++ digestBytes d.tru.deviceId ++ toLe 8 d.now.toNat) := by
  simp only [challenged, and_self]

theorem challengeD_answers {d : Dev} (hopen : truOpen d = true) (hbus : (getFn d 0).master = true) : challengeD d = challenged d := by
  unfold challengeD
  rw [if_neg (by rw [hopen]; decide)]
  extract_lets c src d1
  have hput : ∀ bs, hostPut d1 0 (truBa d + 0x4000) bs = some { d1 with host := memPuts d.host (truBa d + 0x4000) bs } :=
    fun bs => if_pos hbus
  rw [hput]
  dsimp only [truDone, challenged]
  rfl

/-- Settles O52: each response by its parts, of known lengths. -/
theorem identityAndChallenge : Obligations.IdentityAndChallenge := by
  unfold Obligations.IdentityAndChallenge
  intro s
  refine ⟨fun hopen herased => ⟨?_, ?_⟩, fun hopen hkeys hbus => ⟨?_, ?_⟩, fun hopen hbus => ?_, rfl⟩
  · exact onDev_next (f := getIdentityD) (getIdentityD_erased hopen herased)
  · exact onDev_next (f := attestD) (attestD_erased hopen herased)
  · obtain ⟨hdik, hak, hsig⟩ := identityBytes_parts s.dev
    obtain ⟨hhost, htru⟩ := truResponded_fields s.dev (identityBytes s.dev) 9947
    exact ⟨_, identityBytes s.dev, onDev_next (f := getIdentityD) (getIdentityD_answers hopen hkeys hbus), rfl, hhost,
      identityBytes_length _, hdik, hak, htru, hsig⟩
  · obtain ⟨hbody, hsig⟩ := attestation_parts s.dev
    obtain ⟨hhost, htru⟩ := truResponded_fields s.dev (attestation s.dev) 6067
    exact ⟨_, attestation s.dev, onDev_next (f := attestD) (attestD_answers hopen hkeys hbus), rfl, hhost, attestation_length _, hbody, hsig, htru⟩
  · obtain ⟨htru, hhost⟩ := challenged_fields s.dev
    exact ⟨_, onDev_next (f := challengeD) (challengeD_answers hopen hbus), rfl, htru, hhost⟩

end Sys2Proof.Machine

/-! PROOFS. O53: signed commands, the OTP records, and the erasure of a debug unlock. -/

namespace Sys2Proof.Machine

open Sys2Proof

/-! ## OTP records -/

theorem otpGen_setGen (d : Dev) (r i : Nat) (g : Gen) {j : Nat} (hj : j < 4) : otpGen (setGen d r i g) r j = if j = i then g else otpGen d r j := by
  have hrow : tget (setGen d r i g).tru.otp r [] = (List.range 4).map (fun j => if j = i then g else otpGen d r j) := tget_tset_same _ _ _ _
  rw [otpGen, hrow, List.getD_eq_getElem?_getD, List.getElem?_map, List.getElem?_range hj]
  rfl

/-- The active generation is the live one that no live one follows. -/
theorem otpActive_of {d : Dev} {r i : Nat} (hi : i < 4) (hlive : genLive r (otpGen d r i) = true)
    (hlater : ∀ j, i < j → j < 4 → genLive r (otpGen d r j) = false) : otpActive d r = some i := by
  have hstep : ∀ (j : Nat) (l : List Nat), i < j → j < 4 →
      (j :: l).find? (fun i => genLive r (otpGen d r i)) = l.find? (fun i => genLive r (otpGen d r i)) :=
    fun j l hij hj => List.find?_cons_of_neg (by rw [hlater j hij hj]; exact Bool.false_ne_true)
  have hends : ∀ l : List Nat, (i :: l).find? (fun i => genLive r (otpGen d r i)) = some i := fun l => List.find?_cons_of_pos hlive
  unfold otpActive
  obtain rfl | rfl | rfl | rfl : i = 3 ∨ i = 2 ∨ i = 1 ∨ i = 0 := by omega
  · exact hends _
  · rw [hstep 3 _ (by decide) (by decide)]
    exact hends _
  · rw [hstep 3 _ (by decide) (by decide), hstep 2 _ (by decide) (by decide)]
    exact hends _
  · rw [hstep 3 _ (by decide) (by decide), hstep 2 _ (by decide) (by decide), hstep 1 _ (by decide) (by decide)]
    exact hends _

theorem otpActive_lt {d : Dev} {r i : Nat} (h : otpActive d r = some i) : i < 4 := by
  have hmem : i ∈ [3, 2, 1, 0] := List.mem_of_find?_eq_some h
  simp only [List.mem_cons, List.not_mem_nil, or_false] at hmem
  omega

theorem otpActive_live {d : Dev} {r i : Nat} (h : otpActive d r = some i) : genLive r (otpGen d r i) = true :=
  List.find?_some (p := fun i => genLive r (otpGen d r i)) h

/-- Records whose generations are live alike have the same active one. -/
theorem otpActive_congr {d e : Dev} {r : Nat} (h : ∀ j, j < 4 → genLive r (otpGen e r j) = genLive r (otpGen d r j)) :
    otpActive e r = otpActive d r := by
  simp only [otpActive, List.find?_cons, List.find?_nil, h 3 (by decide), h 2 (by decide), h 1 (by decide), h 0 (by decide)]

theorem incOf_incBytes (v : Word64) : incOf (incBytes v) = v := by
  have hcopy : BitVec.ofNat 64 (leNat (toLe 8 v.toNat)) = v := by
    have hlt : v.toNat < 256 ^ 8 := v.isLt
    rw [leNat_toLe, Nat.mod_eq_of_lt hlt]
    exact BitVec.eq_of_toNat_eq (Nat.mod_eq_of_lt v.isLt)
  have hfirst : sub (incBytes v) 0 8 = toLe 8 v.toNat := sub_middle (x := []) rfl (toLe_length _ _)
  have hsecond : sub (incBytes v) 8 8 = toLe 8 v.toNat := by
    have happend : incBytes v = toLe 8 v.toNat ++ (toLe 8 v.toNat ++ []) := by rw [List.append_nil]; rfl
    rw [happend]
    exact sub_middle (toLe_length _ _) (toLe_length _ _)
  rw [incOf, leAt, leAt, hfirst, hsecond, hcopy, BitVec.or_self]

theorem setBits_inPlace {d : Dev} {r i : Nat} (v : Word64) (h : otpActive d r = some i) :
    setBits d r v true = (setGen d r i { otpGen d r i with data := incBytes (incValue d r ||| v) }, 0) ∧ setBits d r v false = (d, 7) := by
  simp only [setBits, h, if_true, Bool.false_eq_true, if_false, and_self]

theorem incValue_setBits {d : Dev} {r i : Nat} (v : Word64) (h : otpActive d r = some i) :
    incValue (setBits d r v true).1 r = incValue d r ||| v := by
  have hgen : ∀ j, j < 4 → otpGen (setBits d r v true).1 r j =
      if j = i then { otpGen d r i with data := incBytes (incValue d r ||| v) } else otpGen d r j := by
    rw [(setBits_inPlace v h).1]
    exact fun j hj => otpGen_setGen _ _ _ _ hj
  have hactive : otpActive (setBits d r v true).1 r = some i := by
    refine (otpActive_congr fun j hj => ?_).trans h
    rw [hgen j hj]
    split
    · next hji => rw [hji]; rfl
    · rfl
  rw [incValue, otpData, hactive, Option.map_some, hgen i (otpActive_lt h), if_pos rfl]
  exact incOf_incBytes _

/-! ## Rollovers -/

/-- A generation that a rollover has written. -/
def freshGen (data : List Byte) : Gen := { written := true, retired := false, data := data, crcOk := true }

theorem genLive_unwritten {r : Nat} {g : Gen} (h : g.written = false) : genLive r g = false := by
  rw [genLive, h]
  rfl

theorem rollover_next {d : Dev} {r i : Nat} {data : List Byte} (hi : i < 4) (hfree : (otpGen d r i).written = false)
    (hfirst : ∀ j, j < i → (otpGen d r j).written = true) :
    (rollover d r data true).2 = 0 ∧ otpGen (rollover d r data true).1 r i = freshGen data ∧
      ∀ j, i < j → j < 4 → otpGen (rollover d r data true).1 r j = otpGen d r j ∨ (otpGen d r j).written = true := by
  have hfind : findFrom (fun i => !(otpGen d r i).written) 0 4 = some i :=
    findFrom_first (Nat.zero_le i) (by omega) (by rw [hfree]; rfl) fun j _ hj => by rw [hfirst j hj]; rfl
  have hroll : rollover d r data true = (match otpActive d r with
      | some a => (retireGen (setGen d r i (freshGen data)) r a, 0)
      | none => (setGen d r i (freshGen data), 0)) := by
    rw [rollover, hfind]
    rfl
  rw [hroll]
  cases hactive : otpActive d r with
  | none =>
    refine ⟨rfl, (otpGen_setGen d r i _ hi).trans (if_pos rfl), fun j hij hj => .inl ?_⟩
    exact (otpGen_setGen d r i _ hj).trans (if_neg (by omega))
  | some a =>
    have hlive := otpActive_live hactive
    have hwritten : (otpGen d r a).written = true := by
      by_contra hno
      rw [genLive_unwritten (Bool.eq_false_iff.mpr hno)] at hlive
      exact Bool.false_ne_true hlive
    have hne : i ≠ a := by
      rintro rfl
      exact Bool.false_ne_true (hfree.symm.trans hwritten)
    refine ⟨rfl, ?_, fun j hij hj => ?_⟩
    · exact (otpGen_setGen _ r a _ hi).trans ((if_neg hne).trans ((otpGen_setGen d r i _ hi).trans (if_pos rfl)))
    · by_cases hja : j = a
      · exact .inr (hja ▸ hwritten)
      · exact .inl ((otpGen_setGen _ r a _ hj).trans ((if_neg hja).trans ((otpGen_setGen d r i _ hj).trans (if_neg (by omega)))))

theorem rollover_active {d : Dev} {r i : Nat} (data : List Byte) (hi : i < 4) (hfree : (otpGen d r i).written = false)
    (hfirst : ∀ j, j < i → (otpGen d r j).written = true) (hrest : ∀ j, i < j → j < 4 → (otpGen d r j).written = false) :
    (rollover d r data true).2 = 0 ∧ otpData (rollover d r data true).1 r = some data ∧ otpActive (rollover d r data true).1 r = some i := by
  obtain ⟨hcode, hgen, hothers⟩ := rollover_next (data := data) hi hfree hfirst
  have hactive : otpActive (rollover d r data true).1 r = some i := by
    refine otpActive_of hi (by rw [hgen]; rfl) fun j hij hj => ?_
    rcases hothers j hij hj with hsame | hwritten
    · rw [hsame]
      exact genLive_unwritten (hrest j hij hj)
    · exact absurd (hwritten.symm.trans (hrest j hij hj)) (by decide)
  refine ⟨hcode, ?_, hactive⟩
  rw [otpData, hactive, Option.map_some, hgen]
  rfl

/-! ## Signed commands -/

theorem truSigned_read {d : Dev} {n : Nat} {bs : List Byte} (act : SignedReq → Dev) (hopen : pfOpen d 0x0F00010 = true) (hready : isReady d = true)
    (hget : hostGet d 0 (truBa d) (n + 2592 + 4627) = some bs) : truSigned d n act = act (splitReq n bs) := by
  rw [truSigned, if_neg (by rw [hopen, hready]; decide), truRequest, hget]

theorem signedCmd_outcome {d : Dev} {op : Nat} {q : SignedReq} {hash : Option (List Byte)} {act : Dev → List Byte → Dev} :
    (quiesced d = false → signedCmd d op q true false hash act = truDone d 4 0) ∧
    (quiesced d = true → d.tru.challenge = none → signedCmd d op q true false hash act = truDone d 9 0) ∧
    (∀ ch, quiesced d = true → d.tru.challenge = some ch → signedCmd d op q true false hash act =
      if hash ≠ some (digestBytes (Config.sha3 q.key)) then truDone d 3 0
      else if Config.mldsaVerify q.key (digestBytes (Config.sha3 (signedBytes d op ch q.arg))) q.sig = false then truDone d 2 0
      else act { d with tru := { d.tru with challenge := none } } (signedBytes d op ch q.arg)) := by
  refine ⟨fun hq => ?_, fun hq hnone => ?_, fun ch hq hch => ?_⟩
  · simp only [signedCmd, hq, Bool.not_true, Bool.not_false, Bool.false_eq_true, if_false, if_true]
  · simp only [signedCmd, hq, hnone, Bool.not_true, Bool.false_eq_true, if_false]
  · simp only [signedCmd, hq, hch, Bool.not_true, Bool.false_eq_true, if_false, Bool.not_eq_true']

theorem otpOwnerD_signed {d : Dev} {bs : List Byte} {q : SignedReq} (readBack : Bool) (hopen : pfOpen d 0x0F00010 = true)
    (hready : isReady d = true) (hget : hostGet d 0 (truBa d) (72 + 2592 + 4627) = some bs) (hq : q = splitReq 72 bs)
    (hsel : leAt q.arg 0 1 ≤ 1) (hzero : allZero (sub q.arg 1 7) = true) :
    otpOwnerD readBack d = signedCmd d 0x11 q true false
      (if leAt q.arg 0 1 = 0 ∧ (otpActive d 1).isSome then none else keyHash d (leAt q.arg 0 1))
      (fun d m => otpDone m (rollover d 1 (sub q.arg 8 64) readBack)) := by
  rw [otpOwnerD, truSigned_read _ hopen hready hget, ← hq]
  simp only [hsel, hzero, decide_true, Bool.and_true, Bool.and_eq_true, decide_eq_true_eq]

theorem otpSvnD_signed {d : Dev} {bs : List Byte} {q : SignedReq} (readBack : Bool) (hopen : pfOpen d 0x0F00010 = true)
    (hready : isReady d = true) (hget : hostGet d 0 (truBa d) (8 + 2592 + 4627) = some bs) (hq : q = splitReq 8 bs)
    (hver : leAt q.arg 0 1 ≤ 64) (hzero : allZero (sub q.arg 1 7) = true) :
    otpSvnD readBack d = signedCmd d 0x12 q true false (otpData d 0)
      (fun d m => if leAt q.arg 0 1 ≤ svn d then truDone d 11 0 else otpDone m (setBits d 6 (svnBits (leAt q.arg 0 1)) readBack)) := by
  rw [otpSvnD, truSigned_read _ hopen hready hget, ← hq]
  simp only [hver, hzero, decide_true, Bool.and_true]

/-- What OTP_LIFECYCLE does once its checks pass. -/
def lifecycleAct (op : Nat) (readBack : Bool) (d : Dev) (m : List Byte) : Dev :=
  if op = 1 && bitOf (incValue d 5) 0 then truDone d 11 0
  else otpDone m (if op = 1 then setBits d 5 1 readBack else if op = 2 then setBits d 5 2 readBack else refurbish d readBack)

theorem lifecycleAct_eq (readBack : Bool) :
    lifecycleAct 1 readBack = (fun d m => if bitOf (incValue d 5) 0 then truDone d 11 0 else otpDone m (setBits d 5 1 readBack)) ∧
    lifecycleAct 2 readBack = (fun d m => otpDone m (setBits d 5 2 readBack)) ∧
    lifecycleAct 3 readBack = (fun d m => otpDone m (refurbish d readBack)) := ⟨rfl, rfl, rfl⟩

theorem otpLifecycleD_signed {d : Dev} {bs : List Byte} {q : SignedReq} {op : Nat} (readBack : Bool) (hopen : pfOpen d 0x0F00010 = true)
    (hready : isReady d = true) (hget : hostGet d 0 (truBa d) (8 + 2592 + 4627) = some bs) (hq : q = splitReq 8 bs)
    (hop : leAt q.arg 0 1 = op) (hlow : 1 ≤ op) (hhigh : op ≤ 3) (hzero : allZero (sub q.arg 1 7) = true) :
    otpLifecycleD readBack d = signedCmd d 0x13 q true false (otpData d 0) (lifecycleAct op readBack) := by
  rw [otpLifecycleD, truSigned_read _ hopen hready hget, ← hq, hop]
  simp only [hlow, hhigh, hzero, decide_true, Bool.and_true]
  rfl

theorem debugUnlockD_signed {d : Dev} {bs : List Byte} {q : SignedReq} (readBack roll : Bool) (hopen : pfOpen d 0x0F00010 = true)
    (hready : isReady d = true) (hget : hostGet d 0 (truBa d) (8 + 2592 + 4627) = some bs) (hq : q = splitReq 8 bs)
    (hscope : 1 ≤ leAt q.arg 0 1 ∧ leAt q.arg 0 1 ≤ 3) (hsel : leAt q.arg 1 1 ≤ 1) (hzero : allZero (sub q.arg 2 6) = true)
    (hidle : (d.pmg.ctxs.any (fun p => p.2.st ≠ .free) || !d.cox.models.isEmpty) = false) :
    debugUnlockD readBack roll d = signedCmd d 0x10 q true false (keyHash d (leAt q.arg 1 1))
      (fun d m => openDebug d m (leAt q.arg 0 1) readBack roll) := by
  rw [debugUnlockD, truSigned_read _ hopen hready hget, ← hq]
  dsimp only
  rw [hidle]
  simp only [hscope, hsel, hzero, decide_true, Bool.and_true]

/-- A signed command ends by its checks, or has its effect. -/
theorem signed_ends {s : State} {c : Instr} {f : Dev → Dev} {op : Nat} {q : SignedReq} {hash : Option (List Byte)}
    {act : Dev → List Byte → Dev} (hc : exec c s = onDev s f) (hf : f s.dev = signedCmd s.dev op q true false hash act) :
    (quiesced s.dev = false → exec c s = .next { s with dev := truDone s.dev 4 0 }) ∧
    (quiesced s.dev = true → s.dev.tru.challenge = none → exec c s = .next { s with dev := truDone s.dev 9 0 }) ∧
    (∀ ch, quiesced s.dev = true → s.dev.tru.challenge = some ch →
      exec c s = .next { s with
        dev := if hash ≠ some (digestBytes (Config.sha3 q.key)) then truDone s.dev 3 0
          else if Config.mldsaVerify q.key (digestBytes (Config.sha3 (signedBytes s.dev op ch q.arg))) q.sig = false then truDone s.dev 2 0
          else act { s.dev with tru := { s.dev.tru with challenge := none } } (signedBytes s.dev op ch q.arg) }) := by
  obtain ⟨hbusy, hnone, hruns⟩ := signedCmd_outcome (d := s.dev) (op := op) (q := q) (hash := hash) (act := act)
  rw [hc]
  refine ⟨fun hq => onDev_next (hf.trans (hbusy hq)), fun hq h => onDev_next (hf.trans (hnone hq h)), fun ch hq h => ?_⟩
  exact onDev_next (hf.trans (hruns ch hq h))

/-! ## The erasure -/

theorem memGet_filter {p : Nat → Bool} {m : Memory} {a : Nat} (h : p a = false) : memGet (m.filter (fun c => p c.1)) a = 0 := by
  induction m with
  | nil => rfl
  | cons c r ih =>
    rw [List.filter_cons]
    split
    · next hc =>
      have hne : c.1 ≠ a := by
        rintro rfl
        exact Bool.false_ne_true (h.symm.trans hc)
      exact (if_neg hne).trans ih
    · exact ih

theorem eraseAll_erases (d : Dev) : (eraseAll d).tru.keysErased = true ∧ (eraseAll d).tru.dik = 0 ∧ (eraseAll d).tru.ak = 0 ∧
    (∀ t, (getTile (eraseAll d) t).mem = []) ∧ (∀ a, 0x8000000 ≤ a → memGet (eraseAll d).pier.mem a = 0) := by
  refine ⟨rfl, rfl, rfl, fun t => ?_, fun a ha => ?_⟩
  · have htile := tget_tmap d.tiles (fun _ x => { x with mem := [], bad := [], fixups := [] }) t Tile.init rfl
    exact congrArg Tile.mem htile
  · exact memGet_filter (p := fun a => decide (a < 0x8000000)) (decide_eq_false (Nat.not_lt.mpr ha))

/-- Settles O53: each signed command by `signedCmd`, the records by the generation that is active after a write. -/
theorem signedCommands : Obligations.SignedCommands := by
  unfold Obligations.SignedCommands
  refine ⟨?_, fun d r i v _ hactive => ?_, fun d r i data hi hfree hfirst hrest => rollover_active data hi hfree hfirst hrest, eraseAll_erases⟩
  · intro s n bs q readBack c op hash act hopen hready hget hq hcmd
    obtain ⟨h1, h2, h3⟩ := lifecycleAct_eq readBack
    rcases hcmd with ⟨rfl, rfl, rfl, hsel, hzero, rfl, rfl⟩ | ⟨rfl, rfl, rfl, hver, hzero, rfl, rfl⟩ | ⟨rfl, rfl, rfl, hop, hzero, rfl, rfl⟩ |
      ⟨rfl, rfl, rfl, hop, hzero, rfl, rfl⟩ | ⟨rfl, rfl, rfl, hop, hzero, rfl, rfl⟩ | ⟨roll, rfl, rfl, rfl, hscope, hsel, hzero, rfl, hidle, rfl⟩
    · exact signed_ends (f := otpOwnerD readBack) rfl (otpOwnerD_signed readBack hopen hready hget hq hsel hzero)
    · exact signed_ends (f := otpSvnD readBack) rfl (otpSvnD_signed readBack hopen hready hget hq hver hzero)
    · rw [← h1]
      exact signed_ends (f := otpLifecycleD readBack) rfl
        (otpLifecycleD_signed readBack hopen hready hget hq hop (by decide) (by decide) hzero)
    · rw [← h2]
      exact signed_ends (f := otpLifecycleD readBack) rfl
        (otpLifecycleD_signed readBack hopen hready hget hq hop (by decide) (by decide) hzero)
    · rw [← h3]
      exact signed_ends (f := otpLifecycleD readBack) rfl
        (otpLifecycleD_signed readBack hopen hready hget hq hop (by decide) (by decide) hzero)
    · exact signed_ends (f := debugUnlockD readBack roll) rfl
        (debugUnlockD_signed readBack roll hopen hready hget hq (by omega) hsel hzero hidle)
  · obtain ⟨hin, hout⟩ := setBits_inPlace v hactive
    exact ⟨by rw [hin], incValue_setBits v hactive, hout⟩

end Sys2Proof.Machine

/-! PROOFS. O54: the events that the tollhouse counts, its power-on and its ledger. -/

namespace Sys2Proof.Machine

open Sys2Proof

/-! ## Taking an event -/

theorem dropBad_none {d : Dev} (h : ∀ r, d.toll.taps ≠ .bad :: r) (k : Nat) : dropBad d k = d := by
  cases k with
  | zero => rfl
  | succ j =>
    rw [dropBad]
    split
    · next r hr => exact absurd hr (h r)
    · rfl

/-- Dropping events that fail their CRC changes the tap link and the count of errors alone. -/
def sameButTaps (d d' : Dev) : Prop :=
  ∃ t n e, d' = { d with toll := { d.toll with taps := t, tapSeqIn := n, tapErrors := e } }

theorem dropBad_frame (d : Dev) (k : Nat) : sameButTaps d (dropBad d k) := by
  induction k generalizing d with
  | zero => exact ⟨_, _, _, rfl⟩
  | succ j ih =>
    rw [dropBad]
    split
    · obtain ⟨t, n, e, h⟩ := ih { popTap d with toll := { (popTap d).toll with tapErrors := (popTap d).toll.tapErrors + 1 } }
      exact ⟨t, n, e, h⟩
    · exact ⟨_, _, _, rfl⟩

theorem takeTap_taken {d : Dev} {e : TapEvent} {rest : List TapEvent} {f : TapEvent → Option (Dev → Dev)} {g : Dev → Dev}
    (htaps : d.toll.taps = e :: rest) (hready : d.toll.ready = true) (hrest : ∀ r, rest ≠ .bad :: r) (hf : f e = some g)
    (hg : (g (popTap d)).toll.taps = rest) : takeTap d f = g (popTap d) := by
  rw [takeTap, htaps]
  dsimp only
  rw [hf]
  dsimp only
  rw [if_neg (by rw [hready]; decide)]
  exact dropBad_none (by rw [hg]; exact hrest) _

theorem popTap_taps {d : Dev} {e : TapEvent} {rest : List TapEvent} (htaps : d.toll.taps = e :: rest) : (popTap d).toll.taps = rest :=
  (congrArg List.tail htaps : d.toll.taps.tail = rest)

/-! ## Counters -/

theorem addCtr_eq (c : BitVec 96) (n : Nat) :
    (addCtr c n).1.toNat = min (c.toNat + n) (2 ^ 96 - 1) ∧ ((addCtr c n).2 = true ↔ 2 ^ 96 ≤ c.toNat + n) := by
  by_cases h : 2 ^ 96 ≤ c.toNat + n
  · have hctr : addCtr c n = (BitVec.allOnes 96, true) := if_pos h
    rw [hctr, BitVec.toNat_allOnes]
    exact ⟨by omega, iff_of_true rfl h⟩
  · have hctr : addCtr c n = (c + BitVec.ofNat 96 n, false) := if_neg h
    have hn : n < 2 ^ 96 := by omega
    rw [hctr, BitVec.toNat_add, BitVec.toNat_ofNat, Nat.mod_eq_of_lt hn, Nat.mod_eq_of_lt (Nat.lt_of_not_le h)]
    exact ⟨by omega, iff_of_false Bool.false_ne_true h⟩

theorem noteSat_toll (d : Dev) (b a : CSet) : ∃ e, (noteSat d b a).toll = { d.toll with event := e } := by
  unfold noteSat
  split
  · dsimp only
    split
    · exact ⟨true, rfl⟩
    · obtain ⟨_, _, _, _, _, h⟩ := devRecord_records { d with toll := { d.toll with event := true } } 0x0401 0 0 { unit := 8 }
      rw [h]
      exact ⟨true, rfl⟩
  · exact ⟨d.toll.event, rfl⟩

theorem addTo_toll (d : Dev) (a : Adds) (k : Nat) :
    ∃ e, (addTo d a k).toll = { d.toll with sets := tset d.toll.sets k (addSet (getSet d k) a), event := e } :=
  noteSat_toll _ _ _

theorem addTo_frame (d : Dev) (a : Adds) (k : Nat) : (addTo d a k).toll.models = d.toll.models ∧ (addTo d a k).toll.taps = d.toll.taps := by
  obtain ⟨e, h⟩ := addTo_toll d a k
  rw [h]
  exact ⟨rfl, rfl⟩

theorem getSet_addTo (d : Dev) (a : Adds) (j k : Nat) :
    getSet (addTo d a j) k = if k = j then addSet (getSet d k) a else getSet d k := by
  obtain ⟨e, h⟩ := addTo_toll d a j
  rw [getSet, h, tget_tset]
  split
  · next hk => rw [hk]
  · rfl

/-- The device once an event is in the sets of the device, its partition and its function. -/
def setsCounted (d : Dev) (p : PartId) (fn : Func) (a : Adds) : Dev := addTo (addTo (addTo d a 0) a (1 + p.toNat)) a (32 + fn.toNat)

theorem setsCounted_toll (d : Dev) (p : PartId) (fn : Func) (a : Adds) :
    (setsCounted d p fn a).toll.models = d.toll.models ∧ (setsCounted d p fn a).toll.taps = d.toll.taps := by
  obtain ⟨hm0, ht0⟩ := addTo_frame d a 0
  obtain ⟨hm1, ht1⟩ := addTo_frame (addTo d a 0) a (1 + p.toNat)
  obtain ⟨hm2, ht2⟩ := addTo_frame (addTo (addTo d a 0) a (1 + p.toNat)) a (32 + fn.toNat)
  exact ⟨hm2.trans (hm1.trans hm0), ht2.trans (ht1.trans ht0)⟩

theorem getSet_setsCounted (d : Dev) (p : PartId) (fn : Func) (a : Adds) (k : Nat) :
    getSet (setsCounted d p fn a) k = if k = 0 ∨ k = 1 + p.toNat ∨ k = 32 + fn.toNat then addSet (getSet d k) a else getSet d k := by
  have hp := p.isLt
  rw [setsCounted, getSet_addTo, getSet_addTo, getSet_addTo]
  by_cases hfn : k = 32 + fn.toNat
  · rw [if_pos hfn, if_neg (by omega), if_neg (by omega), if_pos (.inr (.inr hfn))]
  by_cases hpart : k = 1 + p.toNat
  · rw [if_neg hfn, if_pos hpart, if_neg (by omega), if_pos (.inr (.inl hpart))]
  by_cases hdev : k = 0
  · rw [if_neg hfn, if_neg hpart, if_pos hdev, if_pos (.inl hdev)]
  · rw [if_neg hfn, if_neg hpart, if_neg hdev, if_neg (by omega)]

/-- The device with a model's entry replaced. -/
def entryCounted (d : Dev) (m : Nat) (e : MEntry) : Dev := { d with toll := { d.toll with models := tset d.toll.models m e } }

theorem entryCounted_toll (d : Dev) (m : Nat) (e : MEntry) :
    (entryCounted d m e).toll = { d.toll with models := tset d.toll.models m e } := rfl

/-- A model's entry after an event. -/
def addedTo (e : MEntry) (a : Adds) : MEntry := { e with set := addSet e.set a }

theorem count_eq (d : Dev) (p : PartId) (fn : Func) (m vid : BitVec 14) (a : Adds) :
    count d p fn m vid a = noteSat (entryCounted (setsCounted d p fn a) m.toNat (addedTo (getEntry (setsCounted d p fn a) p fn m vid) a))
      (getEntry (setsCounted d p fn a) p fn m vid).set (addSet (getEntry (setsCounted d p fn a) p fn m vid).set a) := by
  unfold count
  extract_lets d1 e
  have hd1 : d1 = setsCounted d p fn a := by simp only [d1, List.foldl_cons, List.foldl_nil, setsCounted]
  clear_value d1
  subst hd1
  rfl

theorem count_toll (d : Dev) (p : PartId) (fn : Func) (m vid : BitVec 14) (a : Adds) :
    ∃ b, (count d p fn m vid a).toll = { (setsCounted d p fn a).toll with
      models := tset d.toll.models m.toNat (addedTo (getEntry d p fn m vid) a), event := b } := by
  have hmodels := (setsCounted_toll d p fn a).1
  have hentry : getEntry (setsCounted d p fn a) p fn m vid = getEntry d p fn m vid := by
    rw [getEntry, hmodels]
    rfl
  obtain ⟨b, hb⟩ := noteSat_toll (entryCounted (setsCounted d p fn a) m.toNat (addedTo (getEntry d p fn m vid) a)) (getEntry d p fn m vid).set
    (addSet (getEntry d p fn m vid).set a)
  rw [entryCounted_toll, hmodels] at hb
  rw [count_eq, hentry]
  refine ⟨b, ?_⟩
  rw [hb]

theorem count_taps (d : Dev) (p : PartId) (fn : Func) (m vid : BitVec 14) (a : Adds) : (count d p fn m vid a).toll.taps = d.toll.taps := by
  obtain ⟨b, h⟩ := count_toll d p fn m vid a
  rw [h]
  exact (setsCounted_toll d p fn a).2

/-- What counting an event does to the sets and to the models' entries. -/
theorem count_counts (d : Dev) (p : PartId) (fn : Func) (m vid : BitVec 14) (a : Adds) :
    (∀ k, getSet (count d p fn m vid a) k =
      if k = 0 ∨ k = 1 + p.toNat ∨ k = 32 + fn.toNat then addSet (getSet d k) a else getSet d k) ∧
    (getEntry (count d p fn m vid a) p fn m vid).set = addSet (getEntry d p fn m vid).set a ∧
    (∀ k, k ≠ m.toNat → tfind (count d p fn m vid a).toll.models k = tfind d.toll.models k) := by
  obtain ⟨b, h⟩ := count_toll d p fn m vid a
  refine ⟨fun k => ?_, ?_, fun k hk => ?_⟩
  · rw [getSet, h]
    exact getSet_setsCounted d p fn a k
  · rw [getEntry, h]
    exact congrArg MEntry.set (tget_tset_same _ _ _ _)
  · rw [h]
    exact (tfind_tset _ _ _ _).trans (if_neg hk)

/-! ## The five events -/

theorem tapStepD_counts {d : Dev} {p : PartId} {fn : Func} {m vid : BitVec 14} {x y z t : Nat} {rest : List TapEvent}
    (htaps : d.toll.taps = .step p fn m vid x y z t :: rest) (hready : d.toll.ready = true) (hrest : ∀ r, rest ≠ .bad :: r) :
    tapStepD p.toNat d = count (popTap d) p fn m vid { prompt := x, verify := y, generated := z, tileTime := t } :=
  takeTap_taken (g := fun d => count d p fn m vid { prompt := x, verify := y, generated := z, tileTime := t }) htaps hready hrest (if_pos rfl)
    ((count_taps _ _ _ _ _ _).trans (popTap_taps htaps))

theorem tapEgressD_counts {d : Dev} {p : PartId} {fn : Func} {m vid : BitVec 14} {n : Nat} {rest : List TapEvent}
    (htaps : d.toll.taps = .egress p fn m vid n :: rest) (hready : d.toll.ready = true) (hrest : ∀ r, rest ≠ .bad :: r) :
    tapEgressD d = count (popTap d) p fn m vid { kvBytes := n } :=
  takeTap_taken (g := fun d => count d p fn m vid { kvBytes := n }) htaps hready hrest rfl
    ((count_taps _ _ _ _ _ _).trans (popTap_taps htaps))

theorem tapIngressD_counts {d : Dev} {p : PartId} {fn : Func} {m vid : BitVec 14} {n : Nat} {rest : List TapEvent}
    (htaps : d.toll.taps = .ingress p fn m vid n :: rest) (hready : d.toll.ready = true) (hrest : ∀ r, rest ≠ .bad :: r) :
    tapIngressD d = count (popTap d) p fn m vid { wBytes := n } :=
  takeTap_taken (g := fun d => count d p fn m vid { wBytes := n }) htaps hready hrest rfl
    ((count_taps _ _ _ _ _ _).trans (popTap_taps htaps))

theorem getSet_popTap (d : Dev) (k : Nat) : getSet (popTap d) k = getSet d k := rfl

theorem getEntry_popTap (d : Dev) (p : PartId) (fn : Func) (m vid : BitVec 14) : getEntry (popTap d) p fn m vid = getEntry d p fn m vid := rfl

/-- A command that counts the front event answers its statement. -/
theorem counted {s : State} {c : Instr} {f : Dev → Dev} {e : TapEvent} {rest : List TapEvent} {p : PartId} {fn : Func} {m vid : BitVec 14}
    {a : Adds} (hc : exec c s = onDev s f) (htaps : s.dev.toll.taps = e :: rest) (hf : f s.dev = count (popTap s.dev) p fn m vid a) :
    ∃ u, exec c s = .next u ∧ u.pending = s.pending ∧ u.dev.toll.taps = rest ∧
      (∀ k, getSet u.dev k = if k = 0 ∨ k = 1 + p.toNat ∨ k = 32 + fn.toNat then addSet (getSet s.dev k) a else getSet s.dev k) ∧
      (getEntry u.dev p fn m vid).set = addSet (getEntry s.dev p fn m vid).set a ∧
      (∀ k, k ≠ m.toNat → tfind u.dev.toll.models k = tfind s.dev.toll.models k) := by
  obtain ⟨hsets, hentry, hmodels⟩ := count_counts (popTap s.dev) p fn m vid a
  have htaken := (count_taps (popTap s.dev) p fn m vid a).trans (popTap_taps htaps)
  simp only [getSet_popTap] at hsets
  rw [getEntry_popTap] at hentry
  have hexec : exec c s = .next { s with dev := count (popTap s.dev) p fn m vid a } := hc.trans (onDev_next hf)
  clear hc hf
  generalize count (popTap s.dev) p fn m vid a = d at hexec htaken hsets hentry hmodels
  exact ⟨_, hexec, rfl, htaken, hsets, hentry, hmodels⟩

theorem tapRegisterD_registers {d : Dev} {p : PartId} {fn : Func} {m vid : BitVec 14} {rest : List TapEvent}
    (htaps : d.toll.taps = .register p fn m vid :: rest) (hready : d.toll.ready = true) (hrest : ∀ r, rest ≠ .bad :: r) :
    tapRegisterD m.toNat d = register (popTap d) p fn m vid :=
  takeTap_taken (g := fun d => register d p fn m vid) htaps hready hrest (if_pos rfl) (popTap_taps htaps)

theorem register_closes {d : Dev} {p : PartId} {fn : Func} {m vid : BitVec 14} {e : MEntry} (he : tfind d.toll.models m.toNat = some e)
    (hcounts : holdsCounts e.set = true) (hroom : d.toll.closed.length < 4096) :
    (register d p fn m vid).toll.closed = d.toll.closed ++ [e] := by
  have hlost : (d.toll.closed ++ [e]).length - 4096 = 0 := by
    rw [List.length_append, List.length_singleton]
    omega
  simp only [register, he, hcounts, if_true, hlost, List.drop_zero]

/-- The device with the OTP's generations in the ledger. -/
def otpNoted (g : Tbl Word32) (d : Dev) : Dev := { d with toll := { d.toll with ledger := { d.toll.ledger with otpGens := g } } }

theorem tapOtpD_notes {d : Dev} {g : Tbl Word32} {rest : List TapEvent} (htaps : d.toll.taps = .otpState g :: rest)
    (hready : d.toll.ready = true) (hrest : ∀ r, rest ≠ .bad :: r) : tapOtpD d = otpNoted g (popTap d) :=
  takeTap_taken (g := otpNoted g) htaps hready hrest rfl (popTap_taps htaps)

theorem accSendD_sends {d : Dev} {k : Nat} {a : TapAcc} (hgo : d.clk.stopped = false) (ha : tfind d.cwy.acc k = some a) :
    accSendD k true d = pushTap { d with cwy := { d.cwy with acc := tdel d.cwy.acc k } }
      (if a.egress then .egress a.part a.fn a.model a.vid a.bytes else .ingress a.part a.fn a.model a.vid a.bytes) := by
  rw [accSendD, if_neg (by rw [hgo, ha]; exact Bool.false_ne_true), if_pos rfl, sendAcc, ha]

/-! ## The ledger -/

/-- The ledger as the record that is written: with the device's and the partitions' sets. -/
def checkpointed (d : Dev) : Ledger := { d.toll.ledger with checkpoint := (List.range 17).map (fun k => (k, getSet d k)) }

theorem writeLedger_eq (d : Dev) :
    writeLedger d = { d with toll := { d.toll with ledger := checkpointed d, nvm := (checkpointed d :: d.toll.nvm).take 128 } } := rfl

theorem tget_map_of_mem {α : Type} {f : Nat → α} {l : List Nat} {k : Nat} {v : α} (h : k ∈ l) : tget (l.map (fun k => (k, f k))) k v = f k := by
  induction l with
  | nil => exact absurd h List.not_mem_nil
  | cons x r ih =>
    rw [List.map_cons, tget]
    split
    · next hx => rw [hx]
    · next hx => exact ih ((List.mem_cons.mp h).resolve_left fun hk => hx hk.symm)

theorem checkpointed_set (d : Dev) {k : Nat} (hk : k < 17) : tget (checkpointed d).checkpoint k CSet.init = getSet d k :=
  tget_map_of_mem (List.mem_range.mpr hk)

/-- The ledger with which a power-on begins. -/
def bootLedger (selfTest : Bool) (nvm : List Ledger) : Ledger :=
  { nvm.headD Ledger.init with
    bootCount := (nvm.headD Ledger.init).bootCount + 1,
    sealBroken := (nvm.headD Ledger.init).sealBroken || nvm.isEmpty || !selfTest }

/-- The tollhouse at the start of an epoch. -/
def epochBegun (selfTest : Bool) (d : Dev) : Dev :=
  { d with toll := { d.toll with
    ready := true, epoch := (bootLedger selfTest d.toll.nvm).bootCount, ledger := bootLedger selfTest d.toll.nvm,
    carry := (d.toll.nvm.headD Ledger.init).checkpoint, carryS := (d.toll.nvm.headD Ledger.init).poweredS,
    timeState := if (bootLedger selfTest d.toll.nvm).timeSet then 2 else 0,
    sets := [], models := [], closed := [], closedLost := 0, tapErrors := 0, regSeq := 0, reportSeq := 0 } }

theorem tollOnD_begins {d : Dev} (selfTest : Bool) (hrails : d.clk.railsUp = true) (hoff : d.toll.ready = false) :
    sameButTaps (writeLedger (epochBegun selfTest d)) (tollOnD selfTest d) := by
  have hrun : ¬ (!d.clk.railsUp || d.toll.ready) = true := by
    rw [hrails, hoff]
    decide
  have hon : tollOnD selfTest d = dropBad (writeLedger (epochBegun selfTest d)) (writeLedger (epochBegun selfTest d)).toll.taps.length :=
    if_neg hrun
  rw [hon]
  exact dropBad_frame _ _

theorem powersOn {s : State} (selfTest : Bool) (hrails : s.dev.clk.railsUp = true) (hoff : s.dev.toll.ready = false) :
    ∃ u l, exec (.tollPowerOn selfTest) s = .next u ∧ u.pending = s.pending ∧ u.dev.toll.ready = true ∧
      u.dev.toll.nvm = (l :: s.dev.toll.nvm).take 128 ∧
      u.dev.toll.ledger = l ∧ l.bootCount = (s.dev.toll.nvm.headD Ledger.init).bootCount + 1 ∧ u.dev.toll.epoch = l.bootCount ∧
      l.sealBroken = ((s.dev.toll.nvm.headD Ledger.init).sealBroken || s.dev.toll.nvm.isEmpty || !selfTest) ∧
      u.dev.toll.carry = (s.dev.toll.nvm.headD Ledger.init).checkpoint ∧ u.dev.toll.sets = [] ∧ u.dev.toll.closed = [] := by
  obtain ⟨_, _, _, hon⟩ := tollOnD_begins (d := s.dev) selfTest hrails hoff
  exact ⟨_, checkpointed (epochBegun selfTest s.dev), onDev_next (f := tollOnD selfTest) hon, rfl, rfl, rfl, rfl, rfl, rfl, rfl, rfl, rfl, rfl⟩

/-- Settles O54: each event by the equation of its counts, the ledger by what is written. -/
theorem tollCounting : Obligations.TollCounting := by
  unfold Obligations.TollCounting
  intro s
  refine ⟨fun e rest c p fn m vid a htaps hready hrest hevent => ?_, addCtr_eq, fun p fn m vid rest htaps hready hrest => ?_,
    fun g rest htaps hready hrest => ?_, fun k a hgo ha => ?_, fun selfTest hrails hoff => powersOn selfTest hrails hoff, fun hready => ⟨?_, ?_⟩⟩
  · rcases hevent with ⟨x, y, z, t, rfl, rfl, rfl⟩ | ⟨n, rfl, rfl, rfl⟩ | ⟨n, rfl, rfl, rfl⟩
    · exact counted (f := tapStepD p.toNat) rfl htaps (tapStepD_counts htaps hready hrest)
    · exact counted (f := tapEgressD) rfl htaps (tapEgressD_counts htaps hready hrest)
    · exact counted (f := tapIngressD) rfl htaps (tapIngressD_counts htaps hready hrest)
  · refine ⟨_, onDev_next (f := tapRegisterD m.toNat) (tapRegisterD_registers htaps hready hrest), rfl, popTap_taps htaps, rfl, ?_,
      fun e he hcounts hroom => register_closes he hcounts hroom⟩
    exact (tfind_tset _ _ _ _).trans (if_pos rfl)
  · exact ⟨_, onDev_next (f := tapOtpD) (tapOtpD_notes htaps hready hrest), rfl, popTap_taps htaps, rfl, rfl⟩
  · refine ⟨_, onDev_next (f := accSendD k.toNat true) (accSendD_sends hgo ha), rfl, ?_, rfl, rfl⟩
    exact (tfind_tdel s.dev.cwy.acc k.toNat k.toNat).trans (if_pos rfl)
  · refine ⟨_, checkpointed s.dev, onDev_next (f := fun d => if d.toll.ready then writeLedger d else d)
      ((if_pos hready).trans (writeLedger_eq s.dev)), rfl, rfl, fun k hk => checkpointed_set s.dev hk, rfl, rfl⟩
  · exact onDev_next (f := fun d => if d.toll.ready then
      { d with toll := { d.toll with ledger := { d.toll.ledger with poweredS := d.toll.ledger.poweredS + 1 } } } else d) (if_pos hready)

end Sys2Proof.Machine

/-! PROOFS. O55: the commands of the tollhouse's mailbox. -/

namespace Sys2Proof.Machine

open Sys2Proof

/-! ## Turns and ends -/

theorem tollDone_last {d : Dev} (fn code n : Nat) (h : d.toll.queue.tail = []) : tollDone d fn code n = endMbx d fn code n := by
  have hempty : (endMbx d fn code n).toll.queue.length = 0 := congrArg List.length h
  unfold tollDone
  dsimp only
  rw [hempty]
  rfl

theorem getMbx_endMbx (d : Dev) (fn code n : Nat) :
    getMbx (endMbx d fn code n) fn = { busy := false, result := BitVec.ofNat 8 code, respLen := BitVec.ofNat 16 n } :=
  tget_tset_same _ _ _ _

/-- The end of a command changes the mailbox and the queue alone. -/
theorem endMbx_frame (d : Dev) (fn code n : Nat) :
    (endMbx d fn code n).toll.queue = d.toll.queue.tail ∧ (endMbx d fn code n).host = d.host ∧ (endMbx d fn code n).tru = d.tru ∧
    (endMbx d fn code n).toll.ledger = d.toll.ledger ∧ (endMbx d fn code n).toll.nvm = d.toll.nvm ∧
    (endMbx d fn code n).toll.sets = d.toll.sets ∧ (endMbx d fn code n).toll.closed = d.toll.closed ∧
    (endMbx d fn code n).toll.timeState = d.toll.timeState ∧ (endMbx d fn code n).toll.reportSeq = d.toll.reportSeq ∧
    (endMbx d fn code n).toll.challenge = d.toll.challenge := ⟨rfl, rfl, rfl, rfl, rfl, rfl, rfl, rfl, rfl, rfl⟩

theorem tollTurn_front {d : Dev} {fn : Func} {op : BitVec 8} {r : List (Func × BitVec 8)} (hready : d.toll.ready = true)
    (hgo : d.clk.stopped = false) (hq : d.toll.queue = (fn, op) :: r) : tollTurn d fn.toNat op.toNat = true := by
  simp only [tollTurn, hready, hgo, hq, decide_true, Bool.not_false, Bool.and_self]

/-- The device once a response is written. -/
def tollWritten (d : Dev) (fn : Nat) (bs : List Byte) : Dev := { d with host := memPuts d.host (tollBa d fn + 0x4000) bs }

theorem tollRespond_last {d : Dev} {fn : Nat} (hbus : (getFn d fn).master = true) (h : d.toll.queue.tail = []) (bs : List Byte) :
    tollRespond d fn bs = endMbx (tollWritten d fn bs) fn 0 bs.length := by
  have hput : hostPut d fn (tollBa d fn + 0x4000) bs = some (tollWritten d fn bs) := if_pos hbus
  rw [tollRespond, hput]
  exact tollDone_last (d := tollWritten d fn bs) fn 0 bs.length h

theorem tollRequest_read {d : Dev} {fn n : Nat} {q : List Byte} (act : List Byte → Dev)
    (hget : hostGet d fn (tollBa d fn) n = some q) : tollRequest d fn n act = act q := by
  rw [tollRequest, hget]

/-! ## GET_KEY, reports and challenges -/

/-- The response of GET_KEY. -/
def keyBytes : List Byte := pubKey Config.tollSeed ++ tollId

theorem keyBytes_length : keyBytes.length = 2656 := by
  simp only [keyBytes, tollId, List.length_append, pubKey_length, digestBytes_length]

theorem getKeyD_answers {d : Dev} {fn : Nat} (hturn : tollTurn d fn 1 = true) (hbus : (getFn d fn).master = true)
    (hlast : d.toll.queue.tail = []) : getKeyD fn d = endMbx (tollWritten d fn keyBytes) fn 0 2656 := by
  rw [getKeyD, if_pos hturn, ← keyBytes_length]
  exact tollRespond_last hbus hlast _

/-- The device with the number of its next report. -/
def reportNumbered (d : Dev) : Dev := { d with toll := { d.toll with reportSeq := d.toll.reportSeq + 1 } }

/-- What a report answers, by its scope. -/
theorem tollReportD_read {d : Dev} {fn scope n : Nat} {q : List Byte} (hturn : tollTurn d fn 2 = true)
    (hget : hostGet d fn (tollBa d fn) 44 = some q) (hscope : scope = leAt q 0 1) (hn : n = leAt q 42 2)
    (hzero : allZero (sub q 1 7) = true) :
    (4 < scope → tollReportD fn d = tollDone d fn 1 0) ∧
    (fn ≠ 0 → scope = 0 → tollReportD fn d = tollDone d fn 5 0) ∧
    (scope ≤ 4 → fn = 0 ∨ scope = 1 ∨ scope = 2 → scope ≠ 2 ∧ scope ≠ 3 ∨ 1 ≤ n ∧ n ≤ 128 → ∀ b,
      b = reportBytes (reportNumbered d) fn scope (sub q 8 32) (leAt q 40 2) n →
      tollReportD fn d = tollRespond (reportNumbered d) fn (b ++ signed Config.tollSeed b)) := by
  have hread := fun act => tollRequest_read (d := d) (fn := fn) (n := 44) act hget
  subst hscope hn
  refine ⟨fun hbig => ?_, fun hfn h0 => ?_, fun hsmall hreach hcount b hb => ?_⟩
  · rw [tollReportD, if_neg (by rw [hturn]; decide), hread]
    exact if_pos (by simp only [Bool.or_eq_true, decide_eq_true_eq]; exact .inl (.inl hbig))
  · rw [tollReportD, if_neg (by rw [hturn]; decide), hread]
    dsimp only
    rw [if_neg (by simp [h0, hzero]), if_pos (by simp [h0, hfn])]
  · rw [tollReportD, if_neg (by rw [hturn]; decide), hread]
    dsimp only
    rw [if_neg (by simp only [Bool.or_eq_true, Bool.and_eq_true, decide_eq_true_eq, Bool.not_eq_true', hzero,
        Bool.true_eq_false, or_false]; omega),
      if_neg (by simp only [Bool.and_eq_true, decide_eq_true_eq]; omega), hb]
    rfl

theorem reports {s : State} {fn : Func} {b : List Byte} (hbus : (getFn s.dev fn.toNat).master = true) (hlast : s.dev.toll.queue.tail = [])
    (hrun : tollReportD fn.toNat s.dev = tollRespond (reportNumbered s.dev) fn.toNat (b ++ signed Config.tollSeed b)) :
    ∃ u, exec (.tollReport fn) s = .next u ∧ u.pending = s.pending ∧
      u.dev.host = memPuts s.dev.host (tollBa s.dev fn.toNat + 0x4000) (b ++ signed Config.tollSeed b) ∧
      u.dev.toll.reportSeq = s.dev.toll.reportSeq + 1 ∧ (getMbx u.dev fn.toNat).result = 0 ∧ (getMbx u.dev fn.toNat).busy = false ∧
      u.dev.toll.sets = s.dev.toll.sets := by
  have hanswer := hrun.trans (tollRespond_last (d := reportNumbered s.dev) hbus hlast _)
  generalize b ++ signed Config.tollSeed b = bs at hanswer
  have hmbx := getMbx_endMbx (tollWritten (reportNumbered s.dev) fn.toNat bs) fn.toNat 0 bs.length
  exact ⟨_, onDev_next (f := tollReportD fn.toNat) hanswer, rfl, rfl, rfl, congrArg TollMbx.result hmbx, congrArg TollMbx.busy hmbx, rfl⟩

/-- The device with a fresh challenge of the tollhouse. -/
def tollChallenged (d : Dev) (fn : Nat) (bs : List Byte) (c : BitVec 256) : Dev :=
  { d with
    tru := { d.tru with trng := d.tru.trng + 1 }
    host := memPuts d.host (tollBa d fn + 0x4000) bs
    toll := { d.toll with challenge := some c } }

theorem tollChallengeD_answers {d : Dev} {fn : Nat} {c : BitVec 256} (hc : c = (Config.trng d.tru.trng).setWidth 256)
    (hturn : tollTurn d fn 3 = true) (hbus : (getFn d fn).master = true) (hlast : d.toll.queue.tail = []) :
    ∃ bs, tollChallengeD fn d = endMbx (tollChallenged d fn bs c) fn 0 32 := by
  refine ⟨toLe 32 c.toNat, ?_⟩
  unfold tollChallengeD
  rw [if_neg (by rw [hturn]; decide)]
  extract_lets c1 src d1
  have hput : ∀ bs, hostPut d1 fn (tollBa d fn + 0x4000) bs = some { d1 with host := memPuts d.host (tollBa d fn + 0x4000) bs } :=
    fun bs => if_pos hbus
  have hsame : c1 = c := hc.symm
  clear_value c1
  subst hsame
  rw [hput]
  generalize toLe 32 c1.toNat = bs
  exact tollDone_last (d := tollChallenged d fn bs c1) fn 0 32 hlast

/-! ## Signed commands -/

theorem timeTokenD_vf {d : Dev} {fn : Nat} (hturn : tollTurn d fn 0x10 = true) (hfn : fn ≠ 0) : timeTokenD fn d = tollDone d fn 5 0 :=
  (if_neg (by rw [hturn]; decide)).trans (if_pos hfn)

theorem refurbD_vf {d : Dev} {fn : Nat} (hturn : tollTurn d fn 0x11 = true) (hfn : fn ≠ 0) : refurbD fn d = tollDone d fn 5 0 :=
  (if_neg (by rw [hturn]; decide)).trans (if_pos hfn)

/-- The check of a time token. -/
def tokenCheck (d : Dev) (q : List Byte) : Option Nat :=
  tollSigned d Config.timeHash (sub q 104 2592) (sub q 0 104) (sub q 2696 4627) (sub q 8 64) (sub q 72 32)

/-- The device with a token's time as its trusted time. -/
def timeTrusted (d : Dev) (t : Nat) : Dev :=
  { d with toll := { d.toll with
    ledger := { d.toll.ledger with trustedTime := BitVec.ofNat 64 t, trustedAt := d.toll.ledger.poweredS, timeSet := true }
    timeState := 1 } }

theorem timeTokenD_read {d : Dev} {q : List Byte} (hturn : tollTurn d 0 0x10 = true) (hget : hostGet d 0 (tollBa d 0) 7323 = some q) :
    (∀ c, tokenCheck d q = some c → timeTokenD 0 d = tollDone d 0 c 0) ∧
    (tokenCheck d q = none → timeTokenD 0 d = if leAt q 0 8 < d.toll.ledger.trustedTime.toNat then tollDone d 0 4 0
      else tollDone (writeLedger (timeTrusted d (leAt q 0 8))) 0 0 0) := by
  unfold tokenCheck
  have hstart : timeTokenD 0 d = _ := (if_neg (by rw [hturn]; decide)).trans (if_neg (fun h => h rfl))
  rw [tollRequest_read _ hget] at hstart
  refine ⟨fun c hc => ?_, fun hnone => ?_⟩
  · rw [hstart, hc]
  · rw [hstart, hnone]
    rfl

/-- The check of a refurbishment. -/
def refurbCheck (d : Dev) (q : List Byte) : Option Nat :=
  tollSigned d Config.vendorHash (sub q 96 2592) (toLe 1 0x11 ++ sub q 0 96) (sub q 2688 4627) (sub q 32 64) (sub q 0 32)

/-- The tollhouse with its counters cleared and its seal whole. -/
def refurbished (d : Dev) : Dev :=
  { d with toll := { d.toll with
    ledger := { d.toll.ledger with trustedTime := 0, trustedAt := 0, timeSet := false, sealBroken := false, refurbs := d.toll.ledger.refurbs + 1 }
    timeState := 0, sets := [], closed := [], carry := []
    models := tmap d.toll.models (fun _ e => { e with set := CSet.init }) } }

theorem refurbD_read {d : Dev} {q : List Byte} (hturn : tollTurn d 0 0x11 = true) (hget : hostGet d 0 (tollBa d 0) 7315 = some q) :
    (∀ c, refurbCheck d q = some c → refurbD 0 d = tollDone d 0 c 0) ∧
    (refurbCheck d q = none → refurbD 0 d = tollDone (writeLedger (refurbished d)) 0 0 0) := by
  unfold refurbCheck
  have hstart : refurbD 0 d = _ := (if_neg (by rw [hturn]; decide)).trans (if_neg (fun h => h rfl))
  rw [tollRequest_read _ hget] at hstart
  refine ⟨fun c hc => ?_, fun hnone => ?_⟩
  · rw [hstart, hc]
  · rw [hstart, hnone]
    rfl

theorem tokens {s : State} {q : List Byte} (hturn : tollTurn s.dev 0 0x10 = true) (hlast : s.dev.toll.queue.tail = [])
    (hget : hostGet s.dev 0 (tollBa s.dev 0) 7323 = some q) :
    ∃ u, exec (.timeToken 0) s = .next u ∧ u.pending = s.pending ∧ u.dev.toll.queue = [] ∧
      (∀ c, tokenCheck s.dev q = some c → (getMbx u.dev 0).result = BitVec.ofNat 8 c ∧ u.dev.toll.ledger = s.dev.toll.ledger) ∧
      (tokenCheck s.dev q = none → if leAt q 0 8 < s.dev.toll.ledger.trustedTime.toNat then
          (getMbx u.dev 0).result = 4 ∧ u.dev.toll.ledger = s.dev.toll.ledger
        else (getMbx u.dev 0).result = 0 ∧ u.dev.toll.ledger.trustedTime = BitVec.ofNat 64 (leAt q 0 8) ∧
          u.dev.toll.ledger.trustedAt = s.dev.toll.ledger.poweredS ∧ u.dev.toll.timeState = 1 ∧
          u.dev.toll.nvm.head? = some u.dev.toll.ledger) := by
  obtain ⟨hbad, hgood⟩ := timeTokenD_read hturn hget
  have hend : ∀ c, tollDone s.dev 0 c 0 = endMbx s.dev 0 c 0 := fun c => tollDone_last 0 c 0 hlast
  have hresult : ∀ d c, (getMbx (endMbx d 0 c 0) 0).result = BitVec.ofNat 8 c := fun d c => congrArg TollMbx.result (getMbx_endMbx d 0 c 0)
  cases hcheck : tokenCheck s.dev q with
  | some c =>
    refine ⟨_, onDev_next (f := timeTokenD 0) ((hbad c hcheck).trans (hend c)), rfl, hlast, fun c' hc' => ?_, fun hnone => by cases hnone⟩
    cases hc'
    exact ⟨hresult _ _, rfl⟩
  | none =>
    have hrun := hgood hcheck
    by_cases hback : leAt q 0 8 < s.dev.toll.ledger.trustedTime.toNat
    · rw [if_pos hback, hend] at hrun
      refine ⟨_, onDev_next (f := timeTokenD 0) hrun, rfl, hlast, (fun c hc => by cases hc), fun _ => ?_⟩
      rw [if_pos hback]
      exact ⟨hresult _ _, rfl⟩
    · rw [if_neg hback, tollDone_last (d := writeLedger (timeTrusted s.dev (leAt q 0 8))) 0 0 0 hlast] at hrun
      refine ⟨_, onDev_next (f := timeTokenD 0) hrun, rfl, hlast, (fun c hc => by cases hc), fun _ => ?_⟩
      rw [if_neg hback]
      exact ⟨hresult _ _, rfl, rfl, rfl, rfl⟩

theorem refurbs {s : State} {q : List Byte} (hturn : tollTurn s.dev 0 0x11 = true) (hlast : s.dev.toll.queue.tail = [])
    (hget : hostGet s.dev 0 (tollBa s.dev 0) 7315 = some q) :
    ∃ u, exec (.refurbReset 0) s = .next u ∧ u.pending = s.pending ∧ u.dev.toll.queue = [] ∧
      (∀ c, refurbCheck s.dev q = some c → (getMbx u.dev 0).result = BitVec.ofNat 8 c ∧ u.dev.toll.ledger = s.dev.toll.ledger) ∧
      (refurbCheck s.dev q = none → (getMbx u.dev 0).result = 0 ∧ u.dev.toll.sets = [] ∧ u.dev.toll.closed = [] ∧ u.dev.toll.timeState = 0 ∧
        u.dev.toll.ledger.sealBroken = false ∧ u.dev.toll.ledger.refurbs = s.dev.toll.ledger.refurbs + 1) := by
  obtain ⟨hbad, hgood⟩ := refurbD_read hturn hget
  have hresult : ∀ d c, (getMbx (endMbx d 0 c 0) 0).result = BitVec.ofNat 8 c := fun d c => congrArg TollMbx.result (getMbx_endMbx d 0 c 0)
  cases hcheck : refurbCheck s.dev q with
  | some c =>
    refine ⟨_, onDev_next (f := refurbD 0) ((hbad c hcheck).trans (tollDone_last 0 c 0 hlast)), rfl, hlast, fun c' hc' => ?_,
      fun hnone => by cases hnone⟩
    cases hc'
    exact ⟨hresult _ _, rfl⟩
  | none =>
    refine ⟨_, onDev_next (f := refurbD 0) ((hgood hcheck).trans (tollDone_last (d := writeLedger (refurbished s.dev)) 0 0 0 hlast)), rfl, hlast,
      (fun c hc => by cases hc), fun _ => ⟨hresult _ _, rfl, rfl, rfl, rfl, rfl⟩⟩

/-- Settles O55: the turn by the queue's front, each response by what it writes, the signed commands by their checks. -/
theorem tollMailbox : Obligations.TollMailbox := by
  unfold Obligations.TollMailbox
  intro s fn hready hgo hbus
  have hturn : ∀ op : BitVec 8, s.dev.toll.queue = [(fn, op)] → tollTurn s.dev fn.toNat op.toNat = true :=
    fun op h => tollTurn_front hready hgo h
  have htail : ∀ op : BitVec 8, s.dev.toll.queue = [(fn, op)] → s.dev.toll.queue.tail = [] := fun op h => congrArg List.tail h
  have hvf : fn ≠ 0 → fn.toNat ≠ 0 := fun h h0 => h (BitVec.eq_of_toNat_eq h0)
  refine ⟨fun hq => ?_, fun q scope n hq hget hscope hn hzero => ⟨fun hsmall hreach hcount => ?_, fun hfn h0 => ?_, fun hbig => ?_⟩,
    fun hq => ?_, rfl, fun hfn hq => ?_, fun hfn hq => ?_, fun q hpf hq hget => ?_, fun q hpf hq hget => ?_⟩
  · have hmbx := getMbx_endMbx (tollWritten s.dev fn.toNat keyBytes) fn.toNat 0 2656
    exact ⟨_, onDev_next (f := getKeyD fn.toNat) (getKeyD_answers (hturn 1 hq) hbus (htail 1 hq)), rfl, htail 1 hq, hmbx, rfl⟩
  · obtain ⟨-, -, hruns⟩ := tollReportD_read (hturn 2 hq) hget hscope hn hzero
    have hreach' : fn.toNat = 0 ∨ scope = 1 ∨ scope = 2 := hreach.imp_left (congrArg BitVec.toNat)
    obtain ⟨u, hexec, hpending, hrest⟩ := reports hbus (htail 2 hq) (hruns hsmall hreach' hcount _ rfl)
    exact ⟨u, _, hexec, hpending, rfl, hrest⟩
  · obtain ⟨-, hreach, -⟩ := tollReportD_read (hturn 2 hq) hget hscope hn hzero
    exact onDev_next (f := tollReportD fn.toNat) (hreach (hvf hfn) h0)
  · obtain ⟨hbad, -, -⟩ := tollReportD_read (hturn 2 hq) hget hscope hn hzero
    exact onDev_next (f := tollReportD fn.toNat) (hbad hbig)
  · obtain ⟨bs, hruns⟩ := tollChallengeD_answers rfl (hturn 3 hq) hbus (htail 3 hq)
    have hmbx := getMbx_endMbx (tollChallenged s.dev fn.toNat bs ((Config.trng s.dev.tru.trng).setWidth 256)) fn.toNat 0 32
    exact ⟨_, onDev_next (f := tollChallengeD fn.toNat) hruns, rfl, rfl, rfl, hmbx⟩
  · exact onDev_next (f := timeTokenD fn.toNat) (timeTokenD_vf (hturn 0x10 hq) (hvf hfn))
  · exact onDev_next (f := refurbD fn.toNat) (refurbD_vf (hturn 0x11 hq) (hvf hfn))
  · subst hpf
    obtain ⟨u, hexec, hpending, hqueue, hbad, hgood⟩ := tokens (hturn 0x10 hq) (htail 0x10 hq) hget
    refine ⟨u, hexec, hpending, hqueue, ?_⟩
    cases hcheck : tokenCheck s.dev q with
    | some c =>
      unfold tokenCheck at hcheck
      rw [hcheck]
      exact hbad c hcheck
    | none =>
      unfold tokenCheck at hcheck
      rw [hcheck]
      exact hgood hcheck
  · subst hpf
    obtain ⟨u, hexec, hpending, hqueue, hbad, hgood⟩ := refurbs (hturn 0x11 hq) (htail 0x11 hq) hget
    refine ⟨u, hexec, hpending, hqueue, ?_⟩
    cases hcheck : refurbCheck s.dev q with
    | some c =>
      unfold refurbCheck at hcheck
      rw [hcheck]
      exact hbad c hcheck
    | none =>
      unfold refurbCheck at hcheck
      rw [hcheck]
      exact hgood hcheck

end Sys2Proof.Machine

/-! PROOFS. O59: commands that complete with their own effect. -/

namespace Sys2Proof.Machine

open Sys2Proof

/-! ## Conversions -/

theorem foldl_sbAdd_length (rs : List Rng) (write : Bool) (o : SbOwner) (x : Tile) :
    (rs.foldl (fun x r => sbAdd x r.phys (rngSpan r) write o) x).sb.length = x.sb.length + rs.length := by
  induction rs generalizing x with
  | nil => rfl
  | cons r rs ih =>
    rw [List.foldl_cons, ih, sbAdd, List.length_append, List.length_singleton, List.length_cons]
    omega

theorem claimRanges_free {x : Tile} {rs : List Rng} (i : Nat) (hfree : ∀ r, r ∈ rs → deckWritable x r.phys (rngSpan r) = true)
    (hroom : x.sb.length + rs.length ≤ 16) :
    ∃ x1, claimRanges x rs i = .ok x1 ∧ x1.sb.length = x.sb.length + rs.length := by
  have hclear : ∀ r, r ∈ rs → writeHeld x r.phys (rngSpan r) = false ∧ anyGate x (4 * r.phys) (4 * rngSpan r) .waking = false ∧
      anyGate x (4 * r.phys) (4 * rngSpan r) .off = false ∧ anyGate x (4 * r.phys) (4 * rngSpan r) .draining = false := by
    intro r hr
    have h := hfree r hr
    simp only [deckWritable, Bool.and_eq_true, Bool.not_eq_true'] at h
    obtain ⟨⟨⟨hheld, hwaking⟩, hoff⟩, hdraining⟩ := h
    exact ⟨hheld, hwaking, hoff, hdraining⟩
  have hheld : rs.any (fun r => writeHeld x r.phys (rngSpan r)) = false :=
    List.any_eq_false.mpr fun r hr => Bool.eq_false_iff.mp (hclear r hr).1
  have hwaking : rs.any (fun r => anyGate x (4 * r.phys) (4 * rngSpan r) .waking) = false :=
    List.any_eq_false.mpr fun r hr => Bool.eq_false_iff.mp (hclear r hr).2.1
  have hgone : rs.any (fun r => anyGate x (4 * r.phys) (4 * rngSpan r) .off || anyGate x (4 * r.phys) (4 * rngSpan r) .draining) = false :=
    List.any_eq_false.mpr fun r hr => by rw [(hclear r hr).2.2.1, (hclear r hr).2.2.2]; decide
  have hspace : sbRoom x rs.length = .ok () := by
    rw [sbRoom, decide_eq_false (by omega)]
    rfl
  refine ⟨_, ?_, foldl_sbAdd_length rs true (.conv i) x⟩
  rw [claimRanges, hheld, hspace, hwaking, hgone]
  rfl

/-- Values that need neither scales nor bias are there once the slots can be read and no word of the tile is bad. -/
theorem cvtValues_plain {x : Tile} {k : Task} {w : Word64} (p : Word64) (hint : bitOf w 5 = false) (hbias : bitOf w 13 = false)
    (hslots : ∀ j, j ∈ cvtSlots w → winReadable x (elemOff k j 0) 65536 = true) (hbad : x.bad = []) : ∃ zs, cvtValues x k w p = .ok zs := by
  have hopen : (cvtSlots w).mapM (fun j => do
      holdIf (anyGate x (elemOff k j 0) 65536 .waking)
      faultIf (anyGate x (elemOff k j 0) 65536 .off) fDmaTargetOff) = .ok ((cvtSlots w).map (fun _ => ())) := by
    refine mapM_ok fun j hj => ?_
    have h := hslots j hj
    simp only [winReadable, Bool.and_eq_true, Bool.not_eq_true'] at h
    obtain ⟨⟨hwaking, hoff⟩, -⟩ := h
    rw [hwaking, hoff]
    rfl
  simp only [cvtValues, hint, hbias, hopen, hbad, Bool.false_eq_true, if_false, eff_ok_bind, List.find?_nil]
  exact ⟨_, rfl⟩

theorem withTask_run (s : State) (t : TileId) (y : Tile) (k : Task) :
    (getTile (s.withTask t y k).dev t.toNat).run = some k ∧ (getTile (s.withTask t y k).dev t.toNat).sb = y.sb := by
  have htile : getTile (s.withTask t y k).dev t.toNat = { y with run := some k } := (getTile_setTile _ _ _ _).trans (if_pos rfl)
  rw [htile]
  exact ⟨rfl, rfl⟩

section
variable {s : State} {f : Fetch} {x : Tile} {k : Task} {w p : Word64}

theorem cvt_completes {e : Rng} (h : atInstr s.dev f 0x50 (some 0x56) = some (x, k, w, p)) (hfree : passHeld k (cvtSlots w) = false)
    (hscale : smFmt (fld w 19 8) = 0) (hesc : fld w 16 2 = 0) (hint : bitOf w 5 = false) (hbias : bitOf w 13 = false)
    (hslots : ∀ j, j ∈ cvtSlots w → winReadable x (elemOff k j 0) 65536 = true) (hbad : x.bad = [])
    (he : mkRng k 0 (getR k (4 * fld w 6 3)) 0 (fld w 47 9 + 1) k.oc.eStride.toNat (rowBytes (fld w 27 4) (fld w 36 11 + 1) / 4) true = .ok e)
    (hdest : deckWritable x e.phys (rngSpan e) = true) (hroom : x.sb.length < 16) :
    ∃ u k', exec (.cvt f) s = .next u ∧ (getTile u.dev f.tile.toNat).run = some k' ∧ k'.convs.length = k.convs.length + 1 ∧
      (getTile u.dev f.tile.toNat).sb.length = x.sb.length + 1 := by
  obtain ⟨zs, hzs⟩ := cvtValues_plain p hint hbias hslots hbad
  obtain ⟨x1, hclaim, hlen⟩ := claimRanges_free (x := x) (rs := [e]) k.nextId (List.forall_mem_singleton.mpr hdest) hroom
  have hexec := exec_cvt (sr := []) (xr := []) h hfree rfl rfl rfl rfl he (by rw [if_pos hscale]) (by rw [if_pos hesc]) hzs hclaim rfl
  obtain ⟨hrun, hsb⟩ := withTask_run s f.tile (cvtCount x1 k w zs).1 _
  refine ⟨_, _, hexec, hrun, ?_, (congrArg List.length hsb).trans hlen⟩
  rw [List.length_append, List.length_singleton]

theorem cvts_completes {rs : List Rng} (h : atInstr s.dev f 0x51 (some 0x56) = some (x, k, w, p)) (hfree : passHeld k (cvtSlots w) = false)
    (hint : bitOf w 5 = false) (hbias : bitOf w 13 = false)
    (hslots : ∀ j, j ∈ cvtSlots w → winReadable x (elemOff k j 0) 65536 = true) (hbad : x.bad = [])
    (hrs : (List.range (if bitOf w 4 then 2 else 3)).mapM (fun i => mkRng k i (getR k (4 * fld w 6 3 + i)) 0 (fld w 47 9 + 1)
        k.oc.eStride.toNat (alignUp (cdiv ((fld w 36 11 + 1) * (if bitOf w 4 then 8 else 16)) 8) 4 / 4) true) = .ok rs)
    (hdest : ∀ r, r ∈ rs → deckWritable x r.phys (rngSpan r) = true) (hroom : x.sb.length + rs.length ≤ 16) :
    ∃ u k', exec (.cvts f) s = .next u ∧ (getTile u.dev f.tile.toNat).run = some k' ∧ k'.convs.length = k.convs.length + 1 ∧
      (getTile u.dev f.tile.toNat).sb.length = x.sb.length + rs.length := by
  obtain ⟨zs, hzs⟩ := cvtValues_plain p hint hbias hslots hbad
  obtain ⟨x1, hclaim, hlen⟩ := claimRanges_free (x := x) (rs := rs) k.nextId hdest hroom
  obtain ⟨c, hexec, -⟩ := exec_cvts h hfree hrs hzs hclaim
  obtain ⟨hrun, hsb⟩ := withTask_run s f.tile (cvtCount x1 k w zs).1 { k with convs := k.convs ++ [c], nextId := k.nextId + 1 }
  refine ⟨_, _, hexec, hrun, ?_, (congrArg List.length hsb).trans hlen⟩
  rw [List.length_append, List.length_singleton]

/-! ## Reports -/

theorem seqEntry_admitted {st : Step} {seq e : Nat} {adm : Admitted} (h : seqEntry st seq = some (e, adm)) : st.admitted[e]? = some adm := by
  unfold seqEntry at h
  split at h
  · obtain ⟨a, ha, hpair⟩ := Option.map_eq_some_iff.mp h
    cases hpair
    exact ha
  · cases h

theorem setEntry_entry {st : Step} {e : Nat} {a : Admitted} (adm : Admitted) (h : st.admitted[e]? = some a) :
    (setEntry st e adm).admitted[e]? = some adm := by
  obtain ⟨hlt, -⟩ := List.getElem?_eq_some_iff.mp h
  exact List.getElem?_set_self hlt

theorem report_completes {a e : Nat} {st : Step} {adm : Admitted} {h bs : List Byte} {o : Option Outcome}
    (hinstr : atInstr s.dev f 0xF1 none = some (x, k, w, p)) (ha : deckOperand k (fld w 51 5) (offOf w) 68 false = .ok a)
    (hheld : readHeld x a 68 = false) (hhead : deckReadable x a 4 = true) (hh : h = memGets x.mem (4 * a) 16)
    (htoks : deckReadable x (a + 4) (min 64 (leAt h 8 1)) = true) (hbs : bs = memGets x.mem (4 * a + 16) (4 * min 64 (leAt h 8 1)))
    (hst : stepOf s.dev k.work.cr.toNat k.work.step = some st) (hadm : seqEntry st (leAt h 4 3) = some (e, adm)) (hkind : adm.kind ≠ 2)
    (hcheck : reportCheck adm k.work.withdrawn h (bytesWords (min 64 (leAt h 8 1)) bs) = .ok o) :
    ∃ u, exec (.report f) s = .next u ∧ (getTile u.dev f.tile.toNat).run = some k ∧
      ∃ st1, stepOf u.dev k.work.cr.toNat k.work.step = some st1 ∧ st1.admitted[e]? = some { adm with reported := true, outcome := o } := by
  subst hh hbs
  have hnum := stepOf_num hst
  have hset : stepOf (putStep (s.withTask f.tile x k).dev k.work.cr.toNat (setEntry st e { adm with reported := true, outcome := o }))
      k.work.cr.toNat k.work.step = some (setEntry st e { adm with reported := true, outcome := o }) := by
    rw [← hnum]
    refine stepOf_putStep_same (st' := setEntry st e { adm with reported := true, outcome := o }) (st := st) ?_
    exact (congrArg (stepOf s.dev k.work.cr.toNat) hnum).trans hst
  have hentry := setEntry_entry { adm with reported := true, outcome := o } (seqEntry_admitted hadm)
  have hpatch : patchVerify (putStep (s.withTask f.tile x k).dev k.work.cr.toNat (setEntry st e { adm with reported := true, outcome := o }))
      k.work.cr.toNat k.work.step e =
      putStep (s.withTask f.tile x k).dev k.work.cr.toNat (setEntry st e { adm with reported := true, outcome := o }) := by
    refine patchVerify_kind fun st2 b hst2 hb => ?_
    cases hset.symm.trans hst2
    cases hentry.symm.trans hb
    exact hkind
  have hexec := (reportD_ok hinstr ha hheld hhead htoks hst hadm hcheck).1 o rfl
  rw [hpatch] at hexec
  exact ⟨_, hexec, (withTask_run s f.tile x k).1, _, hset, hentry⟩

end

/-! ## Commits and overruns -/

/-- A commit that starts is shown busy, for its context. -/
theorem commit_starts {d : Dev} {fn cr op : Nat} {v : Word64} (hopen : fnOpen d fn 0x0B00000 = true) (hidle : (getCommit d fn).busy = false)
    (hctx : ctxOf d fn (fld (fnReg d fn 0x0B00000 0x1000) 48 7) = some cr) (htbl : tblOn (tblOf d cr) = true) (hop : fld v 0 2 = op) :
    (getCommit (commitD op fn v d) fn).busy = true ∧ (getCommit (commitD op fn v d) fn).cr = BitVec.ofNat 12 cr := by
  rw [commitD_runs hopen hop hidle rfl rfl hctx htbl rfl rfl]
  have hcommit : ∀ (e : Dev) (c : Commit), getCommit (setCommit e fn c) fn = c := fun e c => tget_tset_same _ _ _ _
  rw [hcommit]
  exact ⟨rfl, rfl⟩

theorem overrunD_runs {d : Dev} {cr : Nat} (hgo : d.clk.stopped = false) (hst : (getCtx d cr).st = .running)
    (hcommit : commitRuns d cr = true) : overrunD cr d = ctxFault (commitsDone d cr) cr fNonpreemptOverrun { unit := 6 } := by
  have hhere : (getCtx d cr).st ≠ .free := by
    rw [hst]
    decide
  simp only [overrunD, hgo, hhere, hcommit, Bool.false_eq_true, if_false, if_true, commitsDone]

/-- Settles O59: each command by the equation of its own part. -/
theorem ownEffectsComplete : Obligations.OwnEffectsComplete := by
  unfold Obligations.OwnEffectsComplete
  intro s
  refine ⟨fun t k hrun hending hqueue hpasses hconvs hdma htr hsb => ?_,
    fun f x k w p e h hfree hscale hesc hint hbias hslots hbad he hdest hroom => cvt_completes h hfree hscale hesc hint hbias hslots hbad he hdest hroom,
    fun f x k w p rs h hfree hint hbias hslots hbad hrs hdest hroom => cvts_completes h hfree hint hbias hslots hbad hrs hdest hroom,
    fun f x k w p a e st adm h bs o hinstr ha hheld hhead hh htoks hbs hst hadm hkind hcheck =>
      report_completes hinstr ha hheld hhead hh htoks hbs hst hadm hkind hcheck,
    fun fn vctx d t i hslot hst => ⟨fun htakes => ?_, fun htakes => ?_⟩, fun p cr st hbatch hcur hphase => ?_,
    fun slot cr e0 e st nx nx1 a b hcr hcur hst hon hphase hfind hnx hfind2 hdrop hdeadline hlate hcancel hnx1 => ?_,
    fun fn v cr hopen hidle hctx htbl => ⟨fun hop => ?_, fun hop => ?_⟩, fun fn hbusy => ?_,
    fun cr hgo => requestFails_next (q := .context cr) (if_neg (Bool.eq_false_iff.mp hgo)), fun p rc hon hsaving hready hcommit hgood => ?_,
    fun p out hon hen hreload hphase hswitch => ?_, fun rec hgo hst hcommit => ?_, fun rec n hon hst hslot hbus hclean => ?_,
    fun rec hon hst hbus => ?_⟩
  · obtain ⟨u, hexec, -, -, hgone, hended, -⟩ := taskEnd_done hrun (endDone_iff.mpr ⟨hending, hqueue, hpasses, hconvs, hdma, htr, hsb⟩)
    exact ⟨u, hexec, hgone, by rw [hended]; rfl⟩
  · exact onDev_takes htakes (seqCancelT_release hslot (hst.imp_right (Or.imp_right .inl)))
  · exact onDev_takes htakes (seqRetireT_release hslot hst)
  · exact onDev_next (f := batchWrittenD p.toNat) (batchWrittenD_written hbatch hcur hphase)
  · subst hnx1
    exact onDev_next (f := deadlineD slot.toNat) ((deadlineD_patch hcr hcur hst hon (.inr hphase)).trans
      (deadlinePatch_late hfind hnx hfind2 hdrop hdeadline hlate hcancel))
  · exact ⟨_, exec_commit s fn v false, commit_starts hopen hidle hctx htbl hop⟩
  · exact ⟨_, exec_commit s fn v true, commit_starts hopen hidle hctx htbl hop⟩
  · exact onDev_next (f := commitEndD fn.toNat) (commitEndD_busy hbusy)
  · obtain ⟨hst, hsaved, -⟩ := saveTaken_frame s.dev p.toNat rc.toNat
    exact ⟨_, onDev_next (f := saveDoneD p.toNat) (saveDoneD_saved hon hsaving hready hcommit hgood), hst, hsaved⟩
  · exact onDev_next (f := contextSwitchD p.toNat) ((contextSwitchD_enabled hon hen hreload hphase).2 out hswitch)
  · exact ⟨_, onDev_next (f := overrunD rec.toNat) (overrunD_runs hgo hst hcommit), commitRuns_commitsDone s.dev rec.toNat⟩
  · have hput : hostPut s.dev (getCtx s.dev rec.toNat).fn.toNat (getCtx s.dev rec.toNat).swapBa.toNat (freeBytes s.dev.fresh 1024) = some _ :=
      if_pos hbus
    obtain ⟨hout, -⟩ := swappedOutAt_frame hslot hput
    exact ⟨_, onDev_next (f := swapOutD rec.toNat) (swapOutD_leaves hon hst hslot hclean hput), hout⟩
  · refine ⟨_, onDev_next (f := swapInD rec.toNat) (swapInD_returns hon hst hbus), ?_⟩
    exact congrArg Ctx.st (getCtx_setCtx_same _ _ _)

end Sys2Proof.Machine
